-- ==== Sys2Proof/Word.lean ====
section
/-! DEFINITION. The machine's words and the sparse map that every register file and table of the model uses. -/

namespace Sys2Proof

/-- A word is 64 bits (R4). -/
abbrev Word := BitVec 64

/-- A byte is 8 bits (R4). -/
abbrev Byte := BitVec 8

/-- One 512-bit vector register (R9). -/
abbrev VReg := BitVec 512

/-- The 1,024 bits of a 128-byte cache line (R164). -/
abbrev LineBits := BitVec 1024

/-- A table of values by number: plain data, in rising order of key; a key that is not listed has the default its reader names. -/
abbrev SMap (α : Type) := List (Nat × α)

namespace SMap

/-- The value listed under `k`, or `d`. -/
def getD {α : Type} (m : SMap α) (k : Nat) (d : α) : α :=
  match m with
  | [] => d
  | (j, x) :: rest => if j = k then x else SMap.getD rest k d

/-- List `x` under `k`, in its place. -/
def put {α : Type} (m : SMap α) (k : Nat) (x : α) : SMap α :=
  m.filter (fun e => e.1 < k) ++ (k, x) :: m.filter (fun e => k < e.1)

/-- Drop the entry of `k`. -/
def erase {α : Type} (m : SMap α) (k : Nat) : SMap α :=
  m.filter (fun e => e.1 < k) ++ m.filter (fun e => k < e.1)

/-- The value listed under `k`, if there is one. -/
def get? {α : Type} (m : SMap α) (k : Nat) : Option α :=
  match m with
  | [] => none
  | (j, x) :: rest => if j = k then some x else SMap.get? rest k

/-- List `x` under `k`, or drop the entry where `x` is what an unlisted key reads as. -/
def putD {α : Type} [DecidableEq α] (m : SMap α) (k : Nat) (d x : α) : SMap α :=
  if x = d then m.erase k else m.put k x

end SMap

end Sys2Proof
end

