-- ==== Sys2Proof/Format.lean ====
section
/-! DEFINITION. The fields of the 96-bit instruction word (R37 to R50): the header, the operands and the X formats. -/

namespace Sys2Proof

/-- The guard, the switch marker and the hints of a word (R37 to R39). -/
structure Hdr where
  /-- GRD[87]: the guard predicate is inverted. -/
  neg : Bool
  /-- GRD[86:84]: the guard predicate. -/
  gp : BitVec 3
  /-- Bit 83: the switch marker. -/
  sw : Bool
  /-- Bit 82: the Y hint. -/
  hintY : Bool
  /-- Bit 81: the K hint. -/
  hintK : Bool
  /-- Bit 80: the L hint, with no architectural effect (R21). -/
  hintL : Bool
  deriving DecidableEq, Repr

/-- An operand field: a class and an index inside that class's range (R40). -/
inductive Opnd where
  | none
  | w (n : BitVec 4)
  | v (n : BitVec 5)
  | p (n : BitVec 3)
  | l (n : BitVec 3)
  | y (n : BitVec 7)
  /-- An engine name: a slot `k`, a tile `a` or a barrier, as the opcode dictates. -/
  | e (n : BitVec 7)
  /-- A short immediate of 7 bits. -/
  | imm (n : BitVec 7)
  deriving DecidableEq, Repr

/-- The extension field in the layout of the opcode's X format (R44 to R48). -/
inductive XFld where
  /-- X is zero. -/
  | none
  /-- Format R: element type, rounding mode, lane mask. -/
  | r (ty : BitVec 4) (rm : BitVec 3) (mkEn : Bool) (mkP : BitVec 3)
  /-- Format I: one 40-bit immediate. -/
  | i (imm : BitVec 40)
  /-- Format M: element type, scope, cache policy, ordered, byte offset. -/
  | m (ty : BitVec 4) (sc : BitVec 3) (cp : BitVec 2) (ord : Bool) (ofs : BitVec 30)
  /-- Format B: an offset in units of 4 bytes. -/
  | b (off : BitVec 40)
  /-- Format E: a type or engine format and 36 bits defined per opcode. -/
  | e (fmt : BitVec 4) (rest : BitVec 36)
  deriving DecidableEq, Repr

/-- The operand, SUB and X fields of a word. -/
structure Fields where
  d : Opnd
  a : Opnd
  b : Opnd
  sub : BitVec 10
  x : XFld
  deriving DecidableEq, Repr

/-- Which X format an opcode uses (R53). -/
inductive XFormat where
  | none | r | i | m | b | e
  deriving DecidableEq, Repr

end Sys2Proof
end

