-- ==== Sys2Proof/Syntax.lean ====
section
/-! DEFINITION. The instructions and steps of the device: one constructor per row of the opcode table. A word
instruction carries its header and its fields; a step of the machine carries the numbers that say WHICH pending thing
moves (a context, a core, a place in a queue), so that the schedule in the state can name it. -/

namespace Sys2Proof

/-- One constructor per row of the opcode table. -/
inductive Instr where
  /-- R78. Illegal opcode 0x00: always raises trap 0x01, whatever its other bits and its guard hold. -/
  | ill (raw : BitVec 88)
  /-- R78. Takes its issue slot and honours its guard, marker and hints, with no other effect. -/
  | nop (h : Hdr) (f : Fields)
  /-- R79. Raises breakpoint trap 0x09 before execution, whatever its guard, with the immediate placed in y.finfo. -/
  | brk (h : Hdr) (f : Fields)
  /-- R81. Raises supervisor-call trap 0x11 after execution when its guard passes. -/
  | trap (h : Hdr) (f : Fields)
  /-- R82. Context 7 resumes a Stopped target context at its y.epc, after writing outstanding long results and taking pending causes. -/
  | rte (h : Hdr) (f : Fields)
  /-- R82. Context 7 ends a Stopped target thread as a non-inline EXIT, including the completion release. -/
  | rteEnd (h : Hdr) (f : Fields)
  /-- R82. Context 7 ends a Stopped target thread with no completion release; the context is freed once the engine completions still due to it have arrived. -/
  | rteDrop (h : Hdr) (f : Fields)
  /-- R83. Reads a system register, or in the .t, .stk and .prd forms another context's register, stack entry or predicate, into a w register. -/
  | mfsr (h : Hdr) (f : Fields)
  /-- R83. Writes a system register, or in the .t, .stk and .prd forms another context's register, stack entry or predicate. -/
  | mtsr (h : Hdr) (f : Fields)
  /-- R85. Builds a kind-0 record and places it by the placement walk, or runs the child inline, then writes the outcome predicate. -/
  | spawn (h : Hdr) (f : Fields)
  /-- R87. Pushes a kind-0 record onto the bottom of the local deque, or runs the child inline when the deque holds 32 records. -/
  | fork (h : Hdr) (f : Fields)
  /-- R88. Waits at the home until a join counter reads 0, then acquires at its scope. -/
  | join (h : Hdr) (f : Fields)
  /-- R27. Moves the thread to a named core: drains, writes back, spills, writes the departure frame and sends the thread packet. -/
  | migr (h : Hdr) (f : Fields)
  /-- R19. Waits for long results, then either returns from an inline frame or makes the completion release and atomic decrement and frees the context. -/
  | exit (h : Hdr) (f : Fields)
  /-- R91. Leaves the context Ready but deselected while other user contexts are Ready, until one of them issues or 16 slots pass. -/
  | yield (h : Hdr) (f : Fields)
  /-- R84. Writes back overlapping dirty L1 lines, invalidates the instruction-cache line or all lines, and empties the loop buffer. -/
  | iflush (h : Hdr) (f : Fields)
  /-- R63. Scalar add of width N, with the result extended by TY. -/
  | add (h : Hdr) (f : Fields)
  /-- R63. Scalar subtract of width N. -/
  | sub (h : Hdr) (f : Fields)
  /-- R63. Scalar multiply, keeping the low N bits. -/
  | mul (h : Hdr) (f : Fields)
  /-- R63. Signed high half of a scalar product. -/
  | mulh (h : Hdr) (f : Fields)
  /-- R63. Unsigned high half of a scalar product. -/
  | mulhn (h : Hdr) (f : Fields)
  /-- R63. Signed division truncated toward zero; division by zero gives all ones. -/
  | div (h : Hdr) (f : Fields)
  /-- R63. Unsigned division; division by zero gives all ones. -/
  | divn (h : Hdr) (f : Fields)
  /-- R63. Signed remainder with the sign of the dividend; division by zero gives the dividend. -/
  | rem (h : Hdr) (f : Fields)
  /-- R63. Unsigned remainder; division by zero gives the dividend. -/
  | remn (h : Hdr) (f : Fields)
  /-- R63. Scalar bitwise and. -/
  | and (h : Hdr) (f : Fields)
  /-- R63. Scalar bitwise or. -/
  | or (h : Hdr) (f : Fields)
  /-- R63. Scalar bitwise exclusive-or. -/
  | xor (h : Hdr) (f : Fields)
  /-- R63. Scalar a and not b. -/
  | andn (h : Hdr) (f : Fields)
  /-- R64. Logical shift left by the full 64-bit count. -/
  | shl (h : Hdr) (f : Fields)
  /-- R64. Logical shift right by the full 64-bit count. -/
  | shr (h : Hdr) (f : Fields)
  /-- R64. Arithmetic shift right by the full 64-bit count. -/
  | sra (h : Hdr) (f : Fields)
  /-- R64. Rotate left within N bits by the count mod N. -/
  | rol (h : Hdr) (f : Fields)
  /-- R63. Counts the leading zeros of a. -/
  | clz (h : Hdr) (f : Fields)
  /-- R63. Counts the trailing zeros of a. -/
  | ctz (h : Hdr) (f : Fields)
  /-- R63. Counts the 1 bits of a. -/
  | popc (h : Hdr) (f : Fields)
  /-- R63. Signed minimum. -/
  | min (h : Hdr) (f : Fields)
  /-- R63. Signed maximum. -/
  | max (h : Hdr) (f : Fields)
  /-- R63. Unsigned minimum. -/
  | minn (h : Hdr) (f : Fields)
  /-- R63. Unsigned maximum. -/
  | maxn (h : Hdr) (f : Fields)
  /-- R63. Sign-extends the low N bits to 64 bits. -/
  | sext (h : Hdr) (f : Fields)
  /-- R63. Zero-extends the low N bits to 64 bits. -/
  | zext (h : Hdr) (f : Fields)
  /-- R65. Extracts a bit field of length SUB + 1 at a position, sign- or zero-extended. -/
  | bfx (h : Hdr) (f : Fields)
  /-- R65. Inserts the low bits of A into a bit field of D. -/
  | bfi (h : Hdr) (f : Fields)
  /-- R66. Writes a sign-extended 40-bit immediate to a w register. -/
  | movi (h : Hdr) (f : Fields)
  /-- R66. Writes a 24-bit immediate into bits [63:40] of D and keeps bits [39:0]. -/
  | moviHi (h : Hdr) (f : Fields)
  /-- R67. Writes the M-format effective address with no memory access. -/
  | lea (h : Hdr) (f : Fields)
  /-- R68. Selects A or B by a predicate. -/
  | sel (h : Hdr) (f : Fields)
  /-- R69. Compares a and b under the SUB condition and writes 64 equal bits to a predicate. -/
  | cmp (h : Hdr) (f : Fields)
  /-- R70. Predicate and, or and-not. -/
  | pand (h : Hdr) (f : Fields)
  /-- R70. Predicate or, or or-not. -/
  | por (h : Hdr) (f : Fields)
  /-- R70. Predicate exclusive-or, or its complement. -/
  | pxor (h : Hdr) (f : Fields)
  /-- R70. Predicate complement. -/
  | pnot (h : Hdr) (f : Fields)
  /-- R70. Moves between predicates, w registers and immediates. -/
  | pmov (h : Hdr) (f : Fields)
  /-- R71. Branches to a PC-relative target when the guard passes. -/
  | br (h : Hdr) (f : Fields)
  /-- R71. Branches to the address in W[A]. -/
  | brx (h : Hdr) (f : Fields)
  /-- R72. Moves the register window up one frame, records the link and jumps to a PC-relative target. -/
  | call (h : Hdr) (f : Fields)
  /-- R72. Calls the address in W[A]. -/
  | callx (h : Hdr) (f : Fields)
  /-- R73. Moves the register window down one frame and jumps to the link in w7. -/
  | ret (h : Hdr) (f : Fields)
  /-- R75. Starts a counted loop over the next k instructions, or skips the body when the count is 0. -/
  | loop (h : Hdr) (f : Fields)
  /-- R77. Loads a 64-bit literal through the instruction path as a long result. -/
  | ldl (h : Hdr) (f : Fields)
  /-- R170. Loads s bytes from device memory or scratchpad under a cache policy, as a long result. -/
  | ld (h : Hdr) (f : Fields)
  /-- R170. Stores s bytes under a cache policy, leaving tags unchanged. -/
  | st (h : Hdr) (f : Fields)
  /-- R171. Waits for a tagged scratchpad word to be full, reads it, empties it and acquires. -/
  | ldf (h : Hdr) (f : Fields)
  /-- R171. Waits for a tagged scratchpad word to be full, reads it, leaves it full and acquires. -/
  | ldff (h : Hdr) (f : Fields)
  /-- R171. Releases, waits for a tagged word to be empty, then writes it and sets it full. -/
  | ste (h : Hdr) (f : Fields)
  /-- R171. Releases, then writes a tagged word and sets it full. -/
  | stf (h : Hdr) (f : Fields)
  /-- R171. Reads the full/empty tag of a scratchpad word. -/
  | tagr (h : Hdr) (f : Fields)
  /-- R171. Writes the full/empty tag of a scratchpad word. -/
  | tagw (h : Hdr) (f : Fields)
  /-- R174. Registers at the home and waits for a word to meet a condition or for a timeout, then writes the word and a predicate. -/
  | waita (h : Hdr) (f : Fields)
  /-- R180. Reads a sync object at its scope's point of coherence and acquires. -/
  | acq (h : Hdr) (f : Fields)
  /-- R181. Writes back the bound regions, drains the thread's writes and performs the release write. -/
  | rel (h : Hdr) (f : Fields)
  /-- R178. Binds a range to a sync object in the process region table and writes a status. -/
  | bind (h : Hdr) (f : Fields)
  /-- R178. Removes one binding of a sync object, or all of them. -/
  | unbind (h : Hdr) (f : Fields)
  /-- R182. A release, acquire or both over every address at a scope. -/
  | fence (h : Hdr) (f : Fields)
  /-- R184. Atomic add performed at the home. -/
  | aadd (h : Hdr) (f : Fields)
  /-- R184. Atomic FP32 add performed at the home. -/
  | afadd (h : Hdr) (f : Fields)
  /-- R184. Atomic minimum. -/
  | amin (h : Hdr) (f : Fields)
  /-- R184. Atomic maximum. -/
  | amax (h : Hdr) (f : Fields)
  /-- R184. Atomic and. -/
  | aand (h : Hdr) (f : Fields)
  /-- R184. Atomic or. -/
  | aor (h : Hdr) (f : Fields)
  /-- R184. Atomic exclusive-or. -/
  | axor (h : Hdr) (f : Fields)
  /-- R184. Atomic swap. -/
  | aswp (h : Hdr) (f : Fields)
  /-- R185. Atomic compare-and-swap that returns the old word. -/
  | acas (h : Hdr) (f : Fields)
  /-- R188. Prefetch hint into the L1 or the LLC, with no architectural effect. -/
  | pref (h : Hdr) (f : Fields)
  /-- R189. Writes back a dirty line, or all L1 lines, to the scope's point of coherence. -/
  | cflush (h : Hdr) (f : Fields)
  /-- R189. Writes back, then drops every copy of a line, or of all L1 lines, up to the point of coherence. -/
  | cinv (h : Hdr) (f : Fields)
  /-- R190. Sends a 64-bit value to a receive register of a neighbouring core. -/
  | nsend (h : Hdr) (f : Fields)
  /-- R134. Lane-wise float add. -/
  | vadd (h : Hdr) (f : Fields)
  /-- R134. Lane-wise float subtract. -/
  | vsub (h : Hdr) (f : Fields)
  /-- R134. Lane-wise float multiply. -/
  | vmul (h : Hdr) (f : Fields)
  /-- R134. Lane-wise fused multiply-add into D. -/
  | vfma (h : Hdr) (f : Fields)
  /-- R134. Lane-wise fused a times b minus d. -/
  | vfms (h : Hdr) (f : Fields)
  /-- R134. Lane-wise fused d minus a times b. -/
  | vfnma (h : Hdr) (f : Fields)
  /-- R135. Lane-wise minimum. -/
  | vmin (h : Hdr) (f : Fields)
  /-- R135. Lane-wise maximum. -/
  | vmax (h : Hdr) (f : Fields)
  /-- R136. Lane-wise absolute value. -/
  | vabs (h : Hdr) (f : Fields)
  /-- R136. Lane-wise negation. -/
  | vneg (h : Hdr) (f : Fields)
  /-- R134. Lane-wise float division, as a long result. -/
  | vdiv (h : Hdr) (f : Fields)
  /-- R134. Lane-wise square root, as a long result. -/
  | vsqrt (h : Hdr) (f : Fields)
  /-- R127. Lane-wise reciprocal by the table algorithm. -/
  | vrcp (h : Hdr) (f : Fields)
  /-- R128. Lane-wise reciprocal square root by the table algorithm. -/
  | vrsq (h : Hdr) (f : Fields)
  /-- R125. Lane-wise 2 to the power x by the table algorithm. -/
  | vexp2 (h : Hdr) (f : Fields)
  /-- R126. Lane-wise base-2 logarithm by the table algorithm. -/
  | vlog2 (h : Hdr) (f : Fields)
  /-- R138. Lane-wise integer add, wrapping or saturating. -/
  | viadd (h : Hdr) (f : Fields)
  /-- R138. Lane-wise integer subtract, wrapping or saturating. -/
  | visub (h : Hdr) (f : Fields)
  /-- R138. Lane-wise integer multiply, low bits. -/
  | vimul (h : Hdr) (f : Fields)
  /-- R138. Lane-wise integer multiply, high bits. -/
  | vimulh (h : Hdr) (f : Fields)
  /-- R138. Lane-wise integer multiply-add into D. -/
  | vimad (h : Hdr) (f : Fields)
  /-- R139. Lane-wise shift left. -/
  | vshl (h : Hdr) (f : Fields)
  /-- R139. Lane-wise logical shift right. -/
  | vshr (h : Hdr) (f : Fields)
  /-- R139. Lane-wise arithmetic shift right. -/
  | vsra (h : Hdr) (f : Fields)
  /-- R138. Lane-wise and. -/
  | vand (h : Hdr) (f : Fields)
  /-- R138. Lane-wise or. -/
  | vor (h : Hdr) (f : Fields)
  /-- R138. Lane-wise exclusive-or. -/
  | vxor (h : Hdr) (f : Fields)
  /-- R138. Lane-wise a and not b. -/
  | vandn (h : Hdr) (f : Fields)
  /-- R138. Lane-wise population count. -/
  | vpopc (h : Hdr) (f : Fields)
  /-- R138. Lane-wise count of leading zeros. -/
  | vclz (h : Hdr) (f : Fields)
  /-- R140. Lane-wise float compare into predicate bits. -/
  | vfcmp (h : Hdr) (f : Fields)
  /-- R141. Lane-wise integer compare into predicate bits. -/
  | vicmp (h : Hdr) (f : Fields)
  /-- R142. Lane-wise copy of a vector register. -/
  | vmov (h : Hdr) (f : Fields)
  /-- R142. Waits as a marker, then makes every v register read as zero and clears VL. -/
  | vmovClr (h : Hdr) (f : Fields)
  /-- R143. Broadcasts a scalar to every enabled lane. -/
  | vbcst (h : Hdr) (f : Fields)
  /-- R143. Inserts a scalar into one lane. -/
  | vins (h : Hdr) (f : Fields)
  /-- R143. Extracts one lane into a w register. -/
  | vext (h : Hdr) (f : Fields)
  /-- R144. Permutes the lanes of A by the indices in B. -/
  | vperm (h : Hdr) (f : Fields)
  /-- R145. Zips, takes even or odd lanes, or slides over the concatenation of A and B. -/
  | vshuf (h : Hdr) (f : Fields)
  /-- R146. Compresses the selected lanes to the bottom and zeroes the rest. -/
  | vcomp (h : Hdr) (f : Fields)
  /-- R146. Expands consecutive lanes into the selected lanes. -/
  | vexpd (h : Hdr) (f : Fields)
  /-- R147. Selects lanes from A or B by a predicate. -/
  | vsel (h : Hdr) (f : Fields)
  /-- R147. Writes lane indices, or counts of the set predicate bits below each lane. -/
  | viota (h : Hdr) (f : Fields)
  /-- R148. Reduces the lanes by a fixed pairwise tree. -/
  | vred (h : Hdr) (f : Fields)
  /-- R150. Converts elements between formats, part by part. -/
  | vcvt (h : Hdr) (f : Fields)
  /-- R151. Accumulates short dot products into 32-bit lanes. -/
  | vdot (h : Hdr) (f : Fields)
  /-- R152. Scales FP32 lanes by the product of two block-scale codes, optionally accumulating. -/
  | vsca (h : Hdr) (f : Fields)
  /-- R154. Vector load: unit-stride, strided or indexed, element by element. -/
  | vld (h : Hdr) (f : Fields)
  /-- R156. Vector store: unit-stride, strided or indexed, element by element. -/
  | vst (h : Hdr) (f : Fields)
  /-- R255. Orders memory access paths: accesses on FROM paths against later accesses on TO paths, at a scope. -/
  | xfence (h : Hdr) (f : Fields)
  /-- R251. Seals the open BTE batch and returns its number, waiting if 16 sealed batches are unfinished. -/
  | xseal (h : Hdr) (f : Fields)
  /-- R251. Waits until a sealed batch and every earlier one have finished. -/
  | xwait (h : Hdr) (f : Fields)
  /-- R257. Initialises a local barrier's count and scope. -/
  | bari (h : Hdr) (f : Fields)
  /-- R258. A barrier arrival, optionally a release; returns the phase token. -/
  | bara (h : Hdr) (f : Fields)
  /-- R258. A barrier arrival that also drops the arriver from later phases. -/
  | bard (h : Hdr) (f : Fields)
  /-- R260. Waits for a barrier phase to complete, then acquires. -/
  | barw (h : Hdr) (f : Fields)
  /-- R273. Sends a matrix command that sets the TCSB and clears every accumulator. -/
  | tcfg (h : Hdr) (f : Fields)
  /-- R274. Sends a command that claims a range of operand slots and returns a status. -/
  | kclm (h : Hdr) (f : Fields)
  /-- R274. Sends a command that releases a range of operand slots. -/
  | krel (h : Hdr) (f : Fields)
  /-- R275. Sends a command that loads rows from memory into an operand slot over path M. -/
  | kld (h : Hdr) (f : Fields)
  /-- R277. Sends a command that loads an accumulator tile from memory. -/
  | ald (h : Hdr) (f : Fields)
  /-- R277. Sends a command that stores an accumulator tile to memory. -/
  | ast (h : Hdr) (f : Fields)
  /-- R276. Sends a command that zeroes an accumulator tile. -/
  | azero (h : Hdr) (f : Fields)
  /-- R278. Sends a dense matrix multiply-accumulate command. -/
  | mma (h : Hdr) (f : Fields)
  /-- R279. Sends an N-of-32 sparse matrix multiply-accumulate command. -/
  | mmas (h : Hdr) (f : Fields)
  /-- R281. Sends a command that applies row and column block scales to a tile. -/
  | asca (h : Hdr) (f : Fields)
  /-- R282. Sends a command that converts a tile into an operand slot in a chosen format. -/
  | acvt (h : Hdr) (f : Fields)
  /-- R291. Waits until the context's unfinished matrix commands are at most n. -/
  | mwait (h : Hdr) (f : Fields)
  /-- R301. Sends an SPE command that loads q registers from memory. -/
  | spld (h : Hdr) (f : Fields)
  /-- R301. Sends an SPE command that stores q registers to memory. -/
  | spst (h : Hdr) (f : Fields)
  /-- R302. Sends an SPE command that loads and checks a shape-table entry. -/
  | spshp (h : Hdr) (f : Fields)
  /-- R304. Sends an upward pass over up to four trees. -/
  | spup (h : Hdr) (f : Fields)
  /-- R306. Sends a downward pass that accumulates leaf derivatives. -/
  | spdn (h : Hdr) (f : Fields)
  /-- R303. Sends a command that sets the SPE mode and returns, and optionally clears, the flags. -/
  | spmode (h : Hdr) (f : Fields)
  /-- R307. Sends a command that aligns a set of PS registers to a common exponent. -/
  | spnorm (h : Hdr) (f : Fields)
  /-- R308. Waits until the context's unfinished SPE commands are at most n. -/
  | spwait (h : Hdr) (f : Fields)
  /-- R324. Discards a channel's buffers, reads and installs a weaver channel descriptor, and arms the channel. -/
  | wvcfg (h : Hdr) (f : Fields)
  /-- R324. Sets ARM on a weaver channel, optionally replacing its TARGET. -/
  | wvarm (h : Hdr) (f : Fields)
  /-- R324. Closes a weaver channel's open buffer. -/
  | wvflsh (h : Hdr) (f : Fields)
  /-- R324. Returns a weaver channel's status word, optionally clearing DROP and OUT. -/
  | wvstat (h : Hdr) (f : Fields)
  /-- R330. Sets or clears a BVH root of the RQU. -/
  | rqset (h : Hdr) (f : Fields)
  /-- R330. Sends up to 16 ray queries against a BVH. -/
  | rqray (h : Hdr) (f : Fields)
  /-- R330. Sends a radius or k-nearest point query against a BVH. -/
  | rqnear (h : Hdr) (f : Fields)
  /-- R331. Waits until the context's unfinished RQU commands are at most n. -/
  | rqwait (h : Hdr) (f : Fields)
  /-- R210. Marks the creating event handled and ends the thread as a non-inline EXIT. -/
  | evnext (h : Hdr) (f : Fields)
  /-- R212. Parks context 7 until a supervisor item is pending or a timer expires. -/
  | sleep (h : Hdr) (f : Fields)
  /-- R213. Takes the bottom record of the local deque into registers unless it is dual-dispatched. -/
  | popr (h : Hdr) (f : Fields)
  /-- R381. Reads a node descriptor and submits a plain graph node to the die's TGU. -/
  | gnode (h : Hdr) (f : Fields)
  /-- R382. Releases, then reports completion of a node or of a range chunk to the TGU. -/
  | gdone (h : Hdr) (f : Fields)
  /-- R383. Waits until a stream holds at most n undone nodes, then acquires. -/
  | gwait (h : Hdr) (f : Fields)
  /-- R378. Submits a range launch over N indices in chunks of CH. -/
  | grange (h : Hdr) (f : Fields)
  /-- R413. Loads and checks an ISQ coefficient table into a slot and derives its constants. -/
  | sqtab (h : Hdr) (f : Fields)
  /-- R414. Starts a sample set on an ISQ, or resumes a stopped one. -/
  | sqgo (h : Hdr) (f : Fields)
  /-- R415. Returns an ISQ status word, optionally waiting until the set is no longer active. -/
  | sqstat (h : Hdr) (f : Fields)
  /-- R416. Requests that an ISQ stop at the start of its next round. -/
  | sqstop (h : Hdr) (f : Fields)
  /-- R446. Requests a boost lease for the context at middle or top step. -/
  | blease (h : Hdr) (f : Fields)
  /-- R446. Ends the context's boost lease at once. -/
  | brel (h : Hdr) (f : Fields)
  /-- R24. A reply writes a long result into its destination register, and a parked context may become Ready. -/
  | longResultArrival (x : Nat) (i : Nat)
  /-- R33. A pending trap is taken at a boundary: the context stops, the trap registers are set and context 7 is woken. -/
  | trapTaken (x : Nat)
  /-- R191. A value sent by NSEND reaches a receive register and sets presence, goes to the holding slot, or is refused. -/
  | linkValueArrival (i : Nat)
  /-- R27. The destination core takes a free context, loads the departure frame and window, and acknowledges. -/
  | migrationArrival (x : Nat) (c : Nat)
  /-- R27. The origin receives the acknowledgement, takes the destination's area pair, frees its context and drops its copy. -/
  | migrationAcknowledge (x : Nat)
  /-- R31. The origin restores the refused thread from its copy and raises trap 0x14. -/
  | migrationRefused (x : Nat)
  /-- R198. An event reaches a core's inbox, or is refused when the inbox is full. -/
  | eventArrival (i : Nat)
  /-- R202. A record arrives at an accepting core, is checked and enters the deque or notice queue. -/
  | recordArrival (i : Nat)
  /-- R206. The wake unit binds the highest-level candidate to a free context. -/
  | wakeBinding (k : Nat) (c : Nat)
  /-- R206. A record that has been first of its level for 64 core cycles is raised one level, once. -/
  | recordRaise (k : Nat) (lvl : Nat)
  /-- R208. At each balancing interval the unit ships unpinned records from the top of its deque to the least-loaded neighbour. -/
  | loadLevelling (k : Nat)
  /-- R212. A SLEEP timer expires and queues a TYPE 4 item. -/
  | sleepTimerExpiry (k : Nat)
  /-- R220. A read of y.supq returns the oldest supervisor item and removes it. -/
  | supqRead (k : Nat) (n : BitVec 4)
  /-- R204. A write to y.hbase sets the handler table and drops the cached handler entries. -/
  | hbaseWrite (k : Nat) (v : BitVec 64)
  /-- R487. A write of y.pairs while no user context holds a thread assigns pairs 0-6 to the contexts and pairs 7-14 to the spare list. -/
  | pairsWrite (k : Nat) (v : BitVec 64)
  /-- R222. y.ctxop save writes a Stopped context's image below its y.wsp and frees the context. -/
  | ctxopSave (k : Nat)
  /-- R222. y.ctxop restore loads an image into a free context and leaves it Stopped. -/
  | ctxopRestore (k : Nat)
  /-- R224. A core receives a pre-emption broadcast: binding stops, contexts trap 0x0F, engines stop and a TYPE 2 item is queued. -/
  | preEmptionRequest (k : Nat) (lid : Nat)
  /-- R448. A supply falls below -6 %: the clock pauses with no architectural effect. -/
  | softDroop (k : Nat)
  /-- R227. A supply stays below -12 % for 200 ns: the core stops at a boundary and engines pause between steps. -/
  | hardDroop (kind : Nat) (n : Nat)
  /-- R227. On recovery, held replies are written, contexts take trap 0x0E and a TYPE 7 item is queued. -/
  | droopRecovery (k : Nat)
  /-- R448. A hard droop that lasts 1 ms is treated as a brownout of the die. -/
  | hardDroopLimit (k : Nat)
  /-- R448. The die supply falls below -25 %: the die is reset without write-back and a dump follows. -/
  | brownout (d : Nat)
  /-- R229. A core is killed: it goes offline, its queues are sealed, its home answers with errors and the postmaster is told. -/
  | coreKill (k : Nat)
  /-- R230. The postmaster resends restartable records as kind 8, or sends a machine-check record. -/
  | postmasterRestart (k : Nat)
  /-- R160. A remote scratchpad request is performed at the home port, or held while its slot is not resident. -/
  | remoteScratchpadAccess (i : Nat)
  /-- R173. A refused request is retried by the mesh stop after a doubling back-off. -/
  | waiterRetry (i : Nat)
  /-- R174. A WAITA timeout removes the registration, writes the word and predicate, and may raise 0x12. -/
  | waitaTimeout (x : Nat)
  /-- R175. The longest waiter is cancelled and saved to memory so that a deque record can run. -/
  | forwardProgressHold (k : Nat)
  /-- R176. A held thread's word changes and the thread enters the held list. -/
  | heldThreadWake (k : Nat) (i : Nat)
  /-- R183. An atomic is performed indivisibly in its home's write queue and replies when fetching. -/
  | atomicAtHome (i : Nat)
  /-- R164. An L1 line leaves by replacement and writes only its dirty bytes to the LLC. -/
  | l1Replacement (k : Nat) (pid : Nat) (vln : Nat) (bad : Bool)
  /-- R240. The parcel engine copies a residency entry into y.pent0 and y.pent1. -/
  | pceReadEntry (q : Nat)
  /-- R240. The parcel engine sets DT, PN, BACK and TAGA of an entry. -/
  | pceWriteEntry (q : Nat)
  /-- R163. The parcel engine fills a slot from BACK and TAGA, sets V and serves the held accesses. -/
  | pceFill (q : Nat)
  /-- R163. The parcel engine clears V, waits for accepted accesses and writes the slot back. -/
  | pceEvict (q : Nat)
  /-- R245. MFSR of y.xgo samples the shadow set and starts a transfer, or refuses it. -/
  | bteStart (x : Nat) (n : BitVec 4)
  /-- R248. A BTE transfer ends: a clip record may be posted, the completion word is written and batches may finish. -/
  | bteTransferComplete (q : Nat) (i : Nat)
  /-- R259. The barrier unit applies one mesh cycle's arrivals and completes the phase when ARR reaches CNT. -/
  | barrierUpdate (q : Nat) (b : Nat) (n : Nat)
  /-- R260. A BARW timeout writes a zero predicate with no acquire. -/
  | barwTimeout (x : Nat)
  /-- R267. A matrix command reaches its engine and is checked for capability and queued, or refused. -/
  | mxeCommandArrival (i : Nat)
  /-- R283. The macro-operation sequencer performs one indivisible step of the command in progress. -/
  | mxeStep (q : Nat)
  /-- R269. A command completion reply reaches its context, lowers UNF and records any failure. -/
  | mxeCompletionReply (i : Nat)
  /-- R288. y.msave save writes the engine image and puts the engine in the launch-start state. -/
  | msaveSave (q : Nat)
  /-- R288. y.msave restore loads an engine image and leaves the engine stopped. -/
  | msaveRestore (q : Nat)
  /-- R296. The SPE executes its next queued command in full and sends a completion reply. -/
  | speCommandExecute (q : Nat)
  /-- R297. An SPE completion reply reaches its context and lowers UNF. -/
  | speCompletionReply (i : Nat)
  /-- R314. y.spsave save writes the SPE image and puts the engine in the launch-start state. -/
  | spsaveSave (q : Nat)
  /-- R314. y.spsave restore loads an SPE image and leaves the engine stopped. -/
  | spsaveRestore (q : Nat)
  /-- R319. An event reaches a weaver channel and is filtered, mapped and woven, or counted. -/
  | weaverEvent (i : Nat)
  /-- R320. TMO microseconds after the first event, the open buffer closes. -/
  | bufferTimeout (q : Nat) (ch : Nat)
  /-- R321. A pending, armed buffer is written to its target and a kind-3 record is posted. -/
  | writeOut (q : Nat) (ch : Nat)
  /-- R321. Once the kind-3 record is accepted, the buffer becomes free and its cells empty. -/
  | bufferFree (q : Nat) (ch : Nat) (b : Nat)
  /-- R203. A unit retries a notice refused by a full notice queue. -/
  | noticeRetry (i : Nat)
  /-- R330. The RQU resolves a query command, writes its results and sends a completion reply. -/
  | rquCommandExecute (q : Nat)
  /-- R331. An RQU completion reply reaches its context and lowers UNF. -/
  | rquCompletionReply (i : Nat)
  /-- R268. A mesh stop resends a request that a full queue refused. -/
  | meshRetry (i : Nat)
  /-- R346. A mesh flit that fails its CRC is replayed and counted; 16 failures make the die fatal. -/
  | flitReplay (d : Nat) (link : Nat) (ok : Bool)
  /-- R353. A translation station walks the page table for a miss, and caches the result or returns a failure. -/
  | translationWalk (d : Nat) (pid : Nat) (va : Nat) (acc : Nat)
  /-- R356. A TINV write runs a translation shootdown on both dies. -/
  | tinvWrite (d : Nat) (v : BitVec 64)
  /-- R361. A record reaching an error bank is kept, replaces a lower one or sets OVF, and uncorrected records queue a machine check. -/
  | errorRecordApply (d : Nat) (b : Nat) (w0 : BitVec 64) (w1 : BitVec 64) (w2 : BitVec 64) (w3 : BitVec 64) (w5 : BitVec 64)
  /-- R362. A write of y.epost posts a firmware error record to the core's bank. -/
  | errorPost (k : Nat) (v : BitVec 64)
  /-- R364. The accepting core chooses a secondary core for a dual-dispatched record, retrying every 1 us. -/
  | secondaryChoice (k : Nat) (i : Nat)
  /-- R365. The pairing stop hashes each copy's n-th packet and forwards it once when the hashes match. -/
  | pairingCompare (d : Nat) (id : Nat)
  /-- R366. A hash mismatch, a 100 us gap or a killed copy ends both copies and places the record again or gives up. -/
  | dualMismatch (d : Nat) (id : Nat)
  /-- R368. A write of NEW in CMAP[n] sets PND. -/
  | cmapWrite (d : Nat) (n : Nat) (v : BitVec 64)
  /-- R368. Pending map entries are applied together once no frozen cluster is affected, or ERR is set. -/
  | mapApply (d : Nat)
  /-- R370. A refused kind-1, kind-2 or kind-8 record is offered again after its delay. -/
  | placementReoffer (i : Nat)
  /-- R375. The TGU dispatches a ready plain node as a kind-1 record. -/
  | tguDispatch (d : Nat)
  /-- R378. The TGU hands out the next chunk of a ready range to a core of the class set. -/
  | rangeChunkDispatch (d : Nat) (slot : Nat)
  /-- R379. A TGU whose share is used up takes half of a large share from the other die. -/
  | rangeSteal (d : Nat) (slot : Nat)
  /-- R386. A sensor port receives a packet, checks it and turns its wire events into postmarked events in the source FIFOs. -/
  | wirePacketReceive (p : Nat) (chan : Nat) (good : Bool) (bytes : List (BitVec 8))
  /-- R388. When a FIFO has room again after drops, a drop marker is inserted ahead of later events. -/
  | dropMarker (d : Nat) (src : Nat)
  /-- R389. An event leaves its source FIFO toward its destination's mesh stop. -/
  | eventSend (d : Nat) (src : Nat)
  /-- R391. After HBI ns without traffic, the EIU sends a heartbeat of a source to a destination. -/
  | heartbeat (d : Nat) (g : Nat) (e : Nat) (src : Nat)
  /-- R391. A destination stop receives an event or heartbeat, updates LP and closes windows that every source has passed. -/
  | destinationReceive (i : Nat)
  /-- R391. At B_k_open+1 plus GRACE, the window closes by force. -/
  | forcedClose (d : Nat) (g : Nat) (e : Nat)
  /-- R393. Once closed windows' events are all handled, the core delivers a kind-4 record. -/
  | windowBarrier (d : Nat) (g : Nat) (e : Nat)
  /-- R403. The ISQ starts a round: builds a stage batch, writes BD and YIN, and submits the stage node. -/
  | isqRound (d : Nat) (n : Nat)
  /-- R404. A stage node refused by the TGU is submitted again every 1 us. -/
  | stageSubmitRetry (d : Nat) (n : Nat)
  /-- R405. A kind-7 record ends the stage wait; the ISQ copies KOUT and runs the next stage or decides each sample. -/
  | stageComplete (d : Nat) (n : Nat)
  /-- R405. TMO microseconds without the stage completion fails the set with CAUSE 6. -/
  | stageTimeout (d : Nat) (n : Nat)
  /-- R419. On pre-emption, the ISQ runs to a stage boundary, writes PROG with STATE 4 and stops. -/
  | isqPreemptStop (d : Nat) (n : Nat)
  /-- R431. A UCIe flit that fails CRC is replayed; repeated failure disables the module or is fatal. -/
  | ucieReplay (d : Nat) (m : Nat) (res : Nat)
  /-- R437. A PMIG write holds the page's requests, shoots down, copies the page, swaps the leaf and releases the requests. -/
  | pageMigration (d : Nat) (v : BitVec 64)
  /-- R437. A request translated before a migration that reaches the old home is refused and retranslated. -/
  | staleRequestRefusal (i : Nat)
  /-- R438. A die reset runs the quiesce handshake, resets the die and boots it. -/
  | dieReset 
  /-- R435. Patrol scrubbing reads each line once a day and rewrites corrected lines. -/
  | patrolScrub (ln : Nat) (found : Nat)
  /-- R440. Every 10 us the power tree divides the budget, sets duties and clock steps, and accumulates energy. -/
  | budgetInterval (demand : List (Nat × Nat)) (allowance : Nat) (charges : List (Nat × Nat)) (mw : List (Nat × Nat)) (slack : Option Int)
  /-- R445. A boost lease ends at expiry. -/
  | leaseExpiry (x : Nat)
  /-- R445. The die's arbiter revokes a lease and sets RVK. -/
  | leaseRevocation (x : Nat)
  /-- R445. 20 us after revocation, the lease ends. -/
  | revokedLeaseEnd (x : Nat)
  /-- R447. A busy lender sets RCL and its borrower falls to nominal within 5 us. -/
  | lenderRecall (d : Nat) (n : Nat)
  /-- R450. Always-on firmware writes a dump of error banks, cluster and core state. -/
  | dumpWrite 
  /-- R451. At power-on or die reset the boot ROM trains links, loads and verifies images and releases the die. -/
  | boot (d : Nat) (host : List (List (BitVec 8)))
  /-- R462. A host BAR2 write is performed at the home slice as a streaming write, in link order. -/
  | bar2Write (pa : Nat) (bytes : List (BitVec 8))
  /-- R462. A host BAR2 read returns the values at the home slice after earlier posted writes. -/
  | bar2Read (pa : Nat) (n : Nat)
  /-- R460. An access to an unassigned BAR offset completes with Unsupported Request. -/
  | unsupportedRequest (bar : Nat) (off : Nat)
  /-- R465. A write of a queue's notify register sets WRIX and queues a TYPE 6 item at the queue service core. -/
  | notifyWrite (n : Nat) (v : BitVec 64)
  /-- R466. The queue service checks and dispatches the queue's packets and advances RDIX. -/
  | queueService (n : Nat)
  /-- R466. A packet with V = 0 is read again after 1 us, and after 100 us raises queue error 3. -/
  | packetValidPoll (n : Nat)
  /-- R468. A nop packet completes at dispatch. -/
  | nopPacket (n : Nat)
  /-- R468. A launch packet checks the launch descriptor and offers its initial kind-2 records. -/
  | launchPacket (n : Nat) (regions : List (Nat × Nat × Nat × Bool))
  /-- R468. A node packet submits a GNODE descriptor to the TGU. -/
  | nodePacket (n : Nat)
  /-- R468. A copy packet moves bytes through the host DMA unit. -/
  | copyPacket (n : Nat)
  /-- R476. A collective packet exchanges headers with the members and runs the collective. -/
  | collectivePacket (n : Nat)
  /-- R468. A signal packet sets or adds a value at the target's home slice. -/
  | signalPacket (n : Nat)
  /-- R468. A wait packet holds later packets until a word meets a condition or times out. -/
  | waitPacket (n : Nat)
  /-- R468. A lease packet requests a boost lease for a named context and writes the code to word 7. -/
  | leasePacket (n : Nat)
  /-- R467. A packet completes: FENCE.rel at RSC, the signal is decremented and the vector may be sent. -/
  | packetCompletion (n : Nat) (idx : Nat)
  /-- R477. A collective's writes are performed and its completion releases at system scope, or it fails. -/
  | collectiveComplete (i : Nat) (hdrs : List (Nat × BitVec 64 × BitVec 64)) (data : List (Nat × List Nat)) (down : Bool) (written : List Nat)
  /-- R477. TMO expiry fails a collective with ECODE 6. -/
  | collectiveTimeout (i : Nat) (hdrs : List (Nat × BitVec 64 × BitVec 64)) (data : List (Nat × List Nat)) (written : List Nat)
  /-- R464. A pending MSI-X vector is sent once MSI-X is enabled and unmasked. -/
  | msixPendingSend (v : Nat)
  /-- R470. LCTL pre-empt broadcasts a pre-emption request for a launch. -/
  | lctlPreempt (lid : Nat)
  /-- R470. LCTL resume restores a pre-empted launch. -/
  | lctlResume (lid : Nat)
  /-- R470. LCTL end ends every thread of a launch and frees its resources. -/
  | lctlEnd (lid : Nat)
  /-- R471. DCTL dump writes a dump of the named dies with cause 4. -/
  | dctlDump (mask : Nat)
  /-- R471. DCTL reset resets the named dies. -/
  | dctlReset (mask : Nat)
  /-- R473. A peer frame that fails CRC is replayed; 16 failures take the port down. -/
  | peerFrameReplay (port : Nat) (ok : Bool)
  /-- R480. Courier command that returns the device identity, RINGCFG, die states and image digests. -/
  | ident (tag : Nat) (good : Bool)
  /-- R480. Courier command that reads die control space. -/
  | rdreg (tag : Nat) (die : Nat) (off : Nat) (n : Nat) (good : Bool)
  /-- R480. Courier command that writes one die control register. -/
  | wrreg (tag : Nat) (die : Nat) (off : Nat) (v : BitVec 64) (good : Bool)
  /-- R480. Courier command that reads device memory at the home slices. -/
  | rdmem (tag : Nat) (pa : Nat) (len : Nat) (good : Bool)
  /-- R480. Courier command that writes a dump with cause 3. -/
  | dump (tag : Nat) (mask : Nat) (good : Bool)
  /-- R480. Courier command that resets the named dies. -/
  | reset (tag : Nat) (mask : Nat) (good : Bool)
  /-- R480. Courier command that stages an image chunk in the always-on buffer. -/
  | fwload (tag : Nat) (off : Nat) (bytes : List (BitVec 8)) (good : Bool)
  /-- R480. Courier command that verifies the staged image, writes it to flash and raises the fused minimum. -/
  | fwinst (tag : Nat) (kind : Nat) (good : Bool)
  /-- R453. Courier command that returns an XMSS-signed attestation report. -/
  | attest (tag : Nat) (nonce : List (BitVec 8))
  /-- R480. Courier command that returns, and optionally clears, an energy counter. -/
  | energy (tag : Nat) (die : Nat) (ctx : Nat) (clear : Bool) (good : Bool)
  /-- R480. Courier command that sets the package power for the next boot. -/
  | power (tag : Nat) (w : Nat) (good : Bool)
  /-- R6. A write to a register with no row of its own, following its access codes. -/
  | registerWrite (space : Nat) (off : Nat) (v : BitVec 64)
  /-- R383. The timeout in W[A+1] of a waiting GWAIT expires: P[D] = 0 and no acquire is made. -/
  | gwaitTimeout (x : Nat)
  /-- R415. The timeout of a waiting sqstat.wait expires: the status is written, P[B] = 0 and no acquire is made. -/
  | sqstatWaitTimeout (x : Nat)
  /-- R468. The timeout of a wait packet expires, so the packet completes and later packets of the queue may dispatch. -/
  | waitPacketTimeout (n : Nat)
  /-- R286. An engine supply recovers from a hard droop, and the paused MXE, SPE, RQU or ISQ resumes at its step boundary. -/
  | engineSupplyRecovery (kind : Nat) (n : Nat)
  /-- R291. An uncorrectable error is found in the state of a unit (MXE claim map, TCSB or queue; SPE queue, MODE or flags; RQU queue or roots; BTE state; barrier state; weaver tile buffer; TGU pool; ISQ state), and the unit fails its work, resets and writes an uncorrected record. -/
  | uncorrectableUnitStateError (kind : Nat) (n : Nat) (a : Nat)
  /-- R348. An LLC line leaves by replacement, writing a dirty copy of an other-die line, or of a die-private page, back to its home slice. -/
  | llcReplacement (d : Nat) (ln : Nat) (bad : Bool)
  /-- R474. A peer port's link comes up and its LNK bit in RINGCFG is set. -/
  | peerPortLinkUp (port : Nat)
  /-- R480. A courier message whose CMD is not defined is answered with status 0x0101. -/
  | unknownCommand (cmd : Nat) (tag : Nat)
  deriving DecidableEq, Repr

end Sys2Proof
end

