-- ==== Sys2Proof/WellFormed.lean ====
section
/-! DEFINITION. Which words of each opcode are instructions: the operand, SUB and X checks of R51, opcode by opcode, from
the encoding tables of R61, R133, R168, R209, R253, R271, R299, R324, R329, R380, R411 and R446. -/

namespace Sys2Proof

/-- The check of R51 that an encoding fails. -/
inductive EncodingError where
  /-- Check 1: OPC is 0x00. -/
  | ill
  /-- Check 2: OPC is not assigned in R52. -/
  | unassigned
  /-- Check 3: an operand class, an index or an unassigned `y` number. -/
  | operand
  /-- Check 3: both vector sources in one bank (R50). -/
  | bank
  /-- Check 4: a SUB code the opcode does not list. -/
  | sub
  /-- Check 5: a reserved code, a TY not accepted, or bits that must be zero. -/
  | field
  deriving DecidableEq, Repr

/-- One kind of operand that an operand field may hold. -/
inductive Slot where
  | none
  /-- A `w` register of index at most `hi`. -/
  | w (hi : Nat)
  | v
  /-- A `v` register whose index is a multiple of 8 (R329). -/
  | v8
  | p
  | l
  /-- A `y` number that is assigned to a register. -/
  | y
  /-- An engine name of index at most `hi`. -/
  | e (hi : Nat)
  | imm
  /-- An immediate from 0 to 7. -/
  | imm8
  deriving DecidableEq, Repr

/-- The `y` numbers that name a register (R92, R236 to R241, R266, R287, R297, R331, R379, R362, R446). -/
def yAssigned (n : Nat) : Bool :=
  n ≤ 23 || (32 ≤ n && n ≤ 42) || (48 ≤ n && n ≤ 52) || (56 ≤ n && n ≤ 60) || (64 ≤ n && n ≤ 67)
    || n == 72 || (80 ≤ n && n ≤ 87) || (96 ≤ n && n ≤ 102) || (112 ≤ n && n ≤ 114)

/-- Does the operand lie in the slot. -/
def Slot.accepts : Slot → Opnd → Bool
  | .none, .none => true
  | .w hi, .w n => n.toNat ≤ hi
  | .v, .v _ => true
  | .v8, .v n => n.toNat % 8 == 0
  | .p, .p _ => true
  | .l, .l _ => true
  | .y, .y n => yAssigned n.toNat
  | .e hi, .e n => n.toNat ≤ hi
  | .imm, .imm _ => true
  | .imm8, .imm n => n.toNat ≤ 7
  | _, _ => false

/-- Does the operand lie in one of the slots. -/
def Opnd.oneOf (o : Opnd) (ss : List Slot) : Bool := ss.any (fun s => s.accepts o)

/-- The lanes of a vector register under an element type (R129). -/
def laneCount (ty : Nat) : Nat :=
  match ty with
  | 0 | 1 | 12 | 13 | 14 => 64
  | 2 | 3 | 9 | 10 => 32
  | 6 | 7 | 15 => 8
  | _ => 16

/-- The elements of a register under a format code of VCVT (R149). -/
def codeLanes (code : Nat) : Nat := if 18 ≤ code then 128 else if 16 ≤ code then 64 else laneCount code

/-- Do VCVT's part and its format codes `dst` and `src` fit: a part is below the ratio of the two element counts (R150). -/
def partOk (dst src : Nat) : Opnd → Bool
  | .imm p => p.toNat < max (codeLanes dst) (codeLanes src) / min (codeLanes dst) (codeLanes src)
  | _ => false

/-- X is absent (R51, check 5). -/
def XFld.isNone : XFld → Bool
  | .none => true
  | _ => false

/-- Format R with TY in the list; `rnd` lets RM be 000 to 101, `mask` lets the mask field be used (R44). -/
def XFld.okR (tys : List Nat) (rnd mask : Bool) : XFld → Bool
  | .r ty rm en p => tys.contains ty.toNat && (rm == 0 || (rnd && rm.toNat ≤ 5)) && (!en || mask) && (en || p == 0)
  | _ => false

/-- Format M with TY, SC and CP in the lists; `ord` lets OR be 1 (R46). -/
def XFld.okM (tys scs cps : List Nat) (ord : Bool) : XFld → Bool
  | .m ty sc cp o _ => tys.contains ty.toNat && scs.contains sc.toNat && cps.contains cp.toNat && (!o || ord)
  | _ => false

/-- Format M with offset 0. -/
def XFld.ofsZero : XFld → Bool
  | .m _ _ _ _ ofs => ofs == 0
  | _ => false

/-- Format I. -/
def XFld.okI (good : BitVec 40 → Bool) : XFld → Bool
  | .i v => good v
  | _ => false

/-- Format B. -/
def XFld.okB (good : BitVec 40 → Bool) : XFld → Bool
  | .b v => good v
  | _ => false

/-- Format E with the format code in the list, no bit outside the mask, and a further condition on the 36 bits (R48). -/
def XFld.okE (fmts : List Nat) (mask : Nat) (good : Nat → Bool) : XFld → Bool
  | .e f rest => fmts.contains f.toNat && (rest.toNat ||| mask) == mask && good rest.toNat
  | _ => false

/-- The element type in formats R and M, the format in E, else 0. -/
def XFld.ty : XFld → Nat
  | .r ty _ _ _ => ty.toNat
  | .m ty _ _ _ _ => ty.toNat
  | .e f _ => f.toNat
  | _ => 0

/-- The rounding mode in format R. -/
def XFld.rm : XFld → Nat
  | .r _ rm _ _ => rm.toNat
  | _ => 0

/-- Are lanes masked (format R). -/
def XFld.mkEn : XFld → Bool
  | .r _ _ en _ => en
  | _ => false

/-- The mask predicate (format R). -/
def XFld.mkP : XFld → Nat
  | .r _ _ _ p => p.toNat
  | _ => 0

/-- The scope in format M. -/
def XFld.sc : XFld → Nat
  | .m _ sc _ _ _ => sc.toNat
  | _ => 0

/-- The cache policy in format M. -/
def XFld.cp : XFld → Nat
  | .m _ _ cp _ _ => cp.toNat
  | _ => 0

/-- OR in format M. -/
def XFld.ord : XFld → Bool
  | .m _ _ _ o _ => o
  | _ => false

/-- The signed byte offset in format M. -/
def XFld.ofs : XFld → Word
  | .m _ _ _ _ ofs => ofs.signExtend 64
  | _ => 0

/-- The immediate of format I or the offset of format B, 40 bits. -/
def XFld.imm40 : XFld → BitVec 40
  | .i v => v
  | .b v => v
  | _ => 0

/-- The 36 bits of format E. -/
def XFld.rest : XFld → Nat
  | .e _ bits36 => bits36.toNat
  | _ => 0

/-- Bits `lo` to `lo + len - 1` of a number. -/
def natBits (n lo len : Nat) : Nat := (n >>> lo) % 2 ^ len

/-- What the table of an opcode accepts. -/
structure Row where
  /-- Slots of operand D. -/
  d : List Slot
  /-- Slots of operand A. -/
  a : List Slot
  /-- Slots of operand B. -/
  b : List Slot
  /-- Is the SUB code listed. -/
  subOk : Bool
  /-- Is X as the table says. -/
  xOk : Bool
  deriving Repr

/-- TY codes from `lo` to `hi`. -/
def tyRange (lo hi : Nat) : List Nat := (List.range (hi + 1)).filter (fun t => lo ≤ t)


/-- The row of a word instruction's opcode in the encoding tables, for the fields it holds; a machine step has none. -/
def Instr.row (i : Instr) : Option Row :=
  match i with
  | .ill _ => none
  | .nop _ f => some ⟨[.none], [.none], [.none], f.sub == 0, f.x.isNone⟩
  | .brk _ f => some ⟨[.none], [.none], [.none], f.sub == 0, f.x.okI (fun _ => true)⟩
  | .trap _ f => some ⟨[.none], [.none], [.none], f.sub == 0, f.x.okI (fun _ => true)⟩
  | .rte _ f => some ⟨[.p, .none], [.w 15, .imm], [.none], f.sub == 0, f.x.isNone⟩
  | .rteEnd _ f => some ⟨[.p, .none], [.w 15, .imm], [.none], f.sub == 1, f.x.isNone⟩
  | .rteDrop _ f => some ⟨[.p, .none], [.w 15, .imm], [.none], f.sub == 2, f.x.isNone⟩
  | .mfsr _ f => some ⟨[.w 15], if f.sub.toNat ≤ 1 then [.y] else [.none],
      if f.sub.toNat ≤ 1 then [.none] else if f.sub = 2 then [.w 15, .imm] else [.imm8], f.sub.toNat ≤ 3, f.x.isNone⟩
  | .mtsr _ f => some ⟨if f.sub.toNat ≤ 1 then [.y] else [.none], [.w 15, .imm],
      if f.sub.toNat ≤ 1 then [.none] else if f.sub = 2 then [.w 15, .imm] else [.imm8], f.sub.toNat ≤ 3, f.x.isNone⟩
  | .spawn _ f => some ⟨[.p], [.w 15], [.w 12], natBits f.sub.toNat 4 6 == 0, f.x.okB (fun _ => true)⟩
  | .fork _ f => some ⟨[.p], [.none], [.w 12], natBits f.sub.toNat 3 7 == 0, f.x.okB (fun _ => true)⟩
  | .join _ f => some ⟨[.none], [.w 15, .none], [.w 15, .none], f.sub.toNat ≤ 7, f.x.okM [6, 7] (tyRange 1 5) [0] false⟩
  | .migr _ f => some ⟨[.none], [.w 15], [.none], f.sub == 0, f.x.isNone⟩
  | .exit _ f => some ⟨[.none], [.none], [.none], f.sub == 0, f.x.isNone⟩
  | .yield _ f => some ⟨[.none], [.none], [.none], f.sub == 0, f.x.isNone⟩
  | .iflush _ f => some
      ⟨[.none], [.w 15, .none], [.w 15, .none], f.sub.toNat ≤ 7 || (f.sub == 8 && f.a == .none && f.b == .none && f.x.ofsZero), f.x.okM [0] [0] [0] false⟩
  | .add _ f => some ⟨[.w 15], [.w 15, .l], [.w 15, .l, .imm], f.sub == 0, f.x.okR (tyRange 0 7) false false⟩
  | .sub _ f => some ⟨[.w 15], [.w 15, .l], [.w 15, .l, .imm], f.sub == 0, f.x.okR (tyRange 0 7) false false⟩
  | .mul _ f => some ⟨[.w 15], [.w 15, .l], [.w 15, .l, .imm], f.sub == 0, f.x.okR (tyRange 0 7) false false⟩
  | .mulh _ f => some ⟨[.w 15], [.w 15, .l], [.w 15, .l, .imm], f.sub == 0, f.x.okR (tyRange 0 7) false false⟩
  | .mulhn _ f => some ⟨[.w 15], [.w 15, .l], [.w 15, .l, .imm], f.sub == 0, f.x.okR (tyRange 0 7) false false⟩
  | .div _ f => some ⟨[.w 15], [.w 15, .l], [.w 15, .l, .imm], f.sub == 0, f.x.okR (tyRange 0 7) false false⟩
  | .divn _ f => some ⟨[.w 15], [.w 15, .l], [.w 15, .l, .imm], f.sub == 0, f.x.okR (tyRange 0 7) false false⟩
  | .rem _ f => some ⟨[.w 15], [.w 15, .l], [.w 15, .l, .imm], f.sub == 0, f.x.okR (tyRange 0 7) false false⟩
  | .remn _ f => some ⟨[.w 15], [.w 15, .l], [.w 15, .l, .imm], f.sub == 0, f.x.okR (tyRange 0 7) false false⟩
  | .and _ f => some ⟨[.w 15], [.w 15, .l], [.w 15, .l, .imm], f.sub == 0, f.x.okR (tyRange 0 7) false false⟩
  | .or _ f => some ⟨[.w 15], [.w 15, .l], [.w 15, .l, .imm], f.sub == 0, f.x.okR (tyRange 0 7) false false⟩
  | .xor _ f => some ⟨[.w 15], [.w 15, .l], [.w 15, .l, .imm], f.sub == 0, f.x.okR (tyRange 0 7) false false⟩
  | .andn _ f => some ⟨[.w 15], [.w 15, .l], [.w 15, .l, .imm], f.sub == 0, f.x.okR (tyRange 0 7) false false⟩
  | .shl _ f => some ⟨[.w 15], [.w 15, .l], [.w 15, .l, .imm], f.sub == 0, f.x.okR (tyRange 0 7) false false⟩
  | .shr _ f => some ⟨[.w 15], [.w 15, .l], [.w 15, .l, .imm], f.sub == 0, f.x.okR (tyRange 0 7) false false⟩
  | .sra _ f => some ⟨[.w 15], [.w 15, .l], [.w 15, .l, .imm], f.sub == 0, f.x.okR (tyRange 0 7) false false⟩
  | .rol _ f => some ⟨[.w 15], [.w 15, .l], [.w 15, .l, .imm], f.sub == 0, f.x.okR (tyRange 0 7) false false⟩
  | .clz _ f => some ⟨[.w 15], [.w 15, .l], [.none], f.sub == 0, f.x.okR (tyRange 0 7) false false⟩
  | .ctz _ f => some ⟨[.w 15], [.w 15, .l], [.none], f.sub == 0, f.x.okR (tyRange 0 7) false false⟩
  | .popc _ f => some ⟨[.w 15], [.w 15, .l], [.none], f.sub == 0, f.x.okR (tyRange 0 7) false false⟩
  | .min _ f => some ⟨[.w 15], [.w 15, .l], [.w 15, .l, .imm], f.sub == 0, f.x.okR (tyRange 0 7) false false⟩
  | .max _ f => some ⟨[.w 15], [.w 15, .l], [.w 15, .l, .imm], f.sub == 0, f.x.okR (tyRange 0 7) false false⟩
  | .minn _ f => some ⟨[.w 15], [.w 15, .l], [.w 15, .l, .imm], f.sub == 0, f.x.okR (tyRange 0 7) false false⟩
  | .maxn _ f => some ⟨[.w 15], [.w 15, .l], [.w 15, .l, .imm], f.sub == 0, f.x.okR (tyRange 0 7) false false⟩
  | .sext _ f => some ⟨[.w 15], [.w 15, .l], [.none], f.sub == 0, f.x.okR (tyRange 0 7) false false⟩
  | .zext _ f => some ⟨[.w 15], [.w 15, .l], [.none], f.sub == 0, f.x.okR (tyRange 0 7) false false⟩
  | .bfx _ f => some ⟨[.w 15], [.w 15, .l], [.w 15, .l, .imm], f.sub.toNat ≤ 63, f.x.okR ([6, 7]) false false⟩
  | .bfi _ f => some ⟨[.w 15], [.w 15, .l], [.w 15, .l, .imm], f.sub.toNat ≤ 63, f.x.okR ([6, 7]) false false⟩
  | .movi _ f => some ⟨[.w 15], [.none], [.none], f.sub == 0, f.x.okI (fun _ => true)⟩
  | .moviHi _ f => some ⟨[.w 15], [.none], [.none], f.sub == 1, f.x.okI (fun v => v.toNat < 2 ^ 24)⟩
  | .lea _ f => some ⟨[.w 15], [.w 15, .none], [.w 15, .none], f.sub.toNat ≤ 7, f.x.okM [0] [0] [0] false⟩
  | .sel _ f => some ⟨[.w 15], [.w 15, .l, .imm], [.w 15, .l, .imm], f.sub.toNat ≤ 7, f.x.okR ([6, 7]) false false⟩
  | .cmp _ f => some ⟨[.p], [.w 15, .l], [.w 15, .l, .imm], f.sub.toNat ≤ 7, f.x.okR (tyRange 0 7) false false⟩
  | .pand _ f => some ⟨[.p], [.p], [.p], f.sub.toNat ≤ 1, f.x.isNone⟩
  | .por _ f => some ⟨[.p], [.p], [.p], f.sub.toNat ≤ 1, f.x.isNone⟩
  | .pxor _ f => some ⟨[.p], [.p], [.p], f.sub.toNat ≤ 1, f.x.isNone⟩
  | .pnot _ f => some ⟨[.p], [.p], [.none], f.sub == 0, f.x.isNone⟩
  | .pmov _ f => some ⟨if f.sub = 2 then [.w 15] else [.p],
      if f.sub = 1 then [.w 15, .l] else if f.sub = 3 then [.imm] else [.p], [.none], f.sub.toNat ≤ 3, f.x.isNone⟩
  | .br _ f => some ⟨[.none], [.none], [.none], f.sub == 0, f.x.okB (fun _ => true)⟩
  | .brx _ f => some ⟨[.none], [.w 15], [.none], f.sub == 0, f.x.isNone⟩
  | .call _ f => some ⟨[.none], [.none], [.none], f.sub == 0, f.x.okB (fun _ => true)⟩
  | .callx _ f => some ⟨[.none], [.w 15], [.none], f.sub == 0, f.x.isNone⟩
  | .ret _ f => some ⟨[.none], [.none], [.none], f.sub == 0, f.x.isNone⟩
  | .loop _ f => some
      ⟨[.none], [.w 15, .imm], [.none], f.sub == 0, f.x.okB (fun v => v.toNat % 3 == 0 && 3 ≤ v.toNat && v.toNat ≤ 48)⟩
  | .ldl _ f => some ⟨[.w 15], [.none], [.none], f.sub == 0, f.x.okB (fun _ => true)⟩
  | .ld _ f => some ⟨[.w 15], [.w 15, .none], [.w 15, .none], f.sub.toNat ≤ 7, f.x.okM (tyRange 0 13 ++ [15]) [0] [0, 1, 2] false⟩
  | .st _ f => some
      ⟨[.w 15, .imm], [.w 15, .none], [.w 15, .none], f.sub.toNat ≤ 7, f.x.okM (tyRange 0 13 ++ [15]) [0] [0, 1, 2] false⟩
  | .ldf _ f => some ⟨[.w 15], [.w 15, .none], [.w 15, .none], f.sub.toNat ≤ 7, f.x.okM ([6, 7]) (tyRange 1 5) [0] false⟩
  | .ldff _ f => some ⟨[.w 15], [.w 15, .none], [.w 15, .none], f.sub.toNat ≤ 7, f.x.okM ([6, 7]) (tyRange 1 5) [0] false⟩
  | .ste _ f => some ⟨[.w 15, .imm], [.w 15, .none], [.w 15, .none], f.sub.toNat ≤ 7, f.x.okM ([6, 7]) (tyRange 1 5) [0] false⟩
  | .stf _ f => some ⟨[.w 15, .imm], [.w 15, .none], [.w 15, .none], f.sub.toNat ≤ 7, f.x.okM ([6, 7]) (tyRange 1 5) [0] false⟩
  | .tagr _ f => some ⟨[.w 15], [.w 15, .none], [.w 15, .none], f.sub.toNat ≤ 7, f.x.okM ([6]) [0] [0] false⟩
  | .tagw _ f => some ⟨[.w 15, .imm], [.w 15, .none], [.w 15, .none], f.sub.toNat ≤ 7, f.x.okM ([6]) [0] [0] false⟩
  | .waita _ f => some
      ⟨[.w 14], [.w 15, .none], [.w 15, .none], natBits f.sub.toNat 5 2 ≤ 2 && natBits f.sub.toNat 3 1 == 0, f.x.okM (tyRange 4 7) (tyRange 0 5) [0] false⟩
  | .acq _ f => some ⟨[.w 15, .none], [.w 15, .none], [.w 15, .none], f.sub.toNat ≤ 7, f.x.okM ([6, 7]) (tyRange 1 5) [0] false⟩
  | .rel _ f => some ⟨[.w 15, .imm], [.w 15, .none], [.w 15, .none], f.sub.toNat ≤ 7, f.x.okM ([6, 7]) (tyRange 1 5) [0] false⟩
  | .bind _ f => some ⟨[.w 14], [.w 15, .none], [.w 15, .none], f.sub.toNat ≤ 7, f.x.okM ([6]) [0] [0] false⟩
  | .unbind _ f => some ⟨[.w 15], [.w 15, .none], [.w 15, .none], natBits f.sub.toNat 4 6 == 0, f.x.okM ([6]) [0] [0] false⟩
  | .fence _ f => some
      ⟨[.none], [.none], [.none], natBits f.sub.toNat 3 7 ≤ 3 && natBits f.sub.toNat 3 7 ≠ 0 && natBits f.sub.toNat 0 3 == 0, f.x.okM ([0]) (tyRange 1 5) [0] false && f.x.ofsZero⟩
  | .aadd _ f => some
      ⟨(if natBits f.sub.toNat 5 1 = 1 then [.w 15, .imm] else [.w 15]), [.w 15, .none], [.w 15, .none], natBits f.sub.toNat 6 4 == 0, f.x.okM (tyRange 4 7) (if natBits f.sub.toNat 3 2 = 0 then [0] else tyRange 1 5) [0] true⟩
  | .afadd _ f => some
      ⟨(if natBits f.sub.toNat 5 1 = 1 then [.w 15, .imm] else [.w 15]), [.w 15, .none], [.w 15, .none], natBits f.sub.toNat 6 4 == 0, f.x.okM ([8]) (if natBits f.sub.toNat 3 2 = 0 then [0] else tyRange 1 5) [0] true⟩
  | .amin _ f => some
      ⟨(if natBits f.sub.toNat 5 1 = 1 then [.w 15, .imm] else [.w 15]), [.w 15, .none], [.w 15, .none], natBits f.sub.toNat 6 4 == 0, f.x.okM (tyRange 4 7) (if natBits f.sub.toNat 3 2 = 0 then [0] else tyRange 1 5) [0] true⟩
  | .amax _ f => some
      ⟨(if natBits f.sub.toNat 5 1 = 1 then [.w 15, .imm] else [.w 15]), [.w 15, .none], [.w 15, .none], natBits f.sub.toNat 6 4 == 0, f.x.okM (tyRange 4 7) (if natBits f.sub.toNat 3 2 = 0 then [0] else tyRange 1 5) [0] true⟩
  | .aand _ f => some
      ⟨(if natBits f.sub.toNat 5 1 = 1 then [.w 15, .imm] else [.w 15]), [.w 15, .none], [.w 15, .none], natBits f.sub.toNat 6 4 == 0, f.x.okM (tyRange 4 7) (if natBits f.sub.toNat 3 2 = 0 then [0] else tyRange 1 5) [0] true⟩
  | .aor _ f => some
      ⟨(if natBits f.sub.toNat 5 1 = 1 then [.w 15, .imm] else [.w 15]), [.w 15, .none], [.w 15, .none], natBits f.sub.toNat 6 4 == 0, f.x.okM (tyRange 4 7) (if natBits f.sub.toNat 3 2 = 0 then [0] else tyRange 1 5) [0] true⟩
  | .axor _ f => some
      ⟨(if natBits f.sub.toNat 5 1 = 1 then [.w 15, .imm] else [.w 15]), [.w 15, .none], [.w 15, .none], natBits f.sub.toNat 6 4 == 0, f.x.okM (tyRange 4 7) (if natBits f.sub.toNat 3 2 = 0 then [0] else tyRange 1 5) [0] true⟩
  | .aswp _ f => some
      ⟨(if natBits f.sub.toNat 5 1 = 1 then [.w 15, .imm] else [.w 15]), [.w 15, .none], [.w 15, .none], natBits f.sub.toNat 6 4 == 0, f.x.okM (tyRange 4 8) (if natBits f.sub.toNat 3 2 = 0 then [0] else tyRange 1 5) [0] true⟩
  | .acas _ f => some
      ⟨[.w 14], [.w 15, .none], [.w 15, .none], natBits f.sub.toNat 6 4 == 0 && natBits f.sub.toNat 5 1 == 0, f.x.okM (tyRange 4 7) (if natBits f.sub.toNat 3 2 = 0 then [0] else tyRange 1 5) [0] true⟩
  | .pref _ f => some ⟨[.none], [.w 15, .none], [.w 15, .none], natBits f.sub.toNat 4 6 == 0, f.x.okM ([0]) [0] [0, 1] false⟩
  | .cflush _ f => some
      ⟨[.none], [.w 15, .none], [.w 15, .none], f.sub.toNat ≤ 7 || (f.sub == 8 && f.a == .none && f.b == .none && f.x.ofsZero), f.x.okM ([0]) (tyRange 1 5) [0] false⟩
  | .cinv _ f => some
      ⟨[.none], [.w 15, .none], [.w 15, .none], f.sub.toNat ≤ 7 || (f.sub == 8 && f.a == .none && f.b == .none && f.x.ofsZero), f.x.okM ([0]) (tyRange 1 5) [0] false⟩
  | .nsend _ f => some ⟨[.l], [.w 15, .imm], [.none], natBits f.sub.toNat 3 7 == 0, f.x.isNone⟩
  | .vadd _ f => some ⟨[.v], [.v], [.v, .w 15], f.sub == 0, f.x.okR (tyRange 8 11) true true⟩
  | .vsub _ f => some ⟨[.v], [.v], [.v, .w 15], f.sub == 0, f.x.okR (tyRange 8 11) true true⟩
  | .vmul _ f => some ⟨[.v], [.v], [.v, .w 15], f.sub == 0, f.x.okR (tyRange 8 11) true true⟩
  | .vfma _ f => some ⟨[.v], [.v], [.v, .w 15], f.sub == 0, f.x.okR (tyRange 8 11) true true⟩
  | .vfms _ f => some ⟨[.v], [.v], [.v, .w 15], f.sub == 0, f.x.okR (tyRange 8 11) true true⟩
  | .vfnma _ f => some ⟨[.v], [.v], [.v, .w 15], f.sub == 0, f.x.okR (tyRange 8 11) true true⟩
  | .vmin _ f => some
      ⟨[.v], [.v], (if f.x.ty ≤ 7 then [.v, .w 15, .imm] else [.v, .w 15]), f.sub == 0, f.x.okR (tyRange 0 11) false true⟩
  | .vmax _ f => some
      ⟨[.v], [.v], (if f.x.ty ≤ 7 then [.v, .w 15, .imm] else [.v, .w 15]), f.sub == 0, f.x.okR (tyRange 0 11) false true⟩
  | .vabs _ f => some ⟨[.v], [.v], [.none], f.sub == 0, f.x.okR (tyRange 0 11) false true⟩
  | .vneg _ f => some ⟨[.v], [.v], [.none], f.sub == 0, f.x.okR (tyRange 0 11) false true⟩
  | .vdiv _ f => some ⟨[.v], [.v], [.v, .w 15], f.sub == 0, f.x.okR (tyRange 8 11) true true⟩
  | .vsqrt _ f => some ⟨[.v], [.v], [.none], f.sub == 0, f.x.okR (tyRange 8 11) true true⟩
  | .vrcp _ f => some ⟨[.v], [.v], [.none], f.sub == 0, f.x.okR ([8]) true true⟩
  | .vrsq _ f => some ⟨[.v], [.v], [.none], f.sub == 0, f.x.okR ([8]) true true⟩
  | .vexp2 _ f => some ⟨[.v], [.v], [.none], f.sub == 0, f.x.okR ([8]) true true⟩
  | .vlog2 _ f => some ⟨[.v], [.v], [.none], f.sub == 0, f.x.okR ([8]) true true⟩
  | .viadd _ f => some ⟨[.v], [.v], [.v, .w 15, .imm], f.sub.toNat ≤ 1, f.x.okR (tyRange 0 7) false true⟩
  | .visub _ f => some ⟨[.v], [.v], [.v, .w 15, .imm], f.sub.toNat ≤ 1, f.x.okR (tyRange 0 7) false true⟩
  | .vimul _ f => some ⟨[.v], [.v], [.v, .w 15, .imm], f.sub == 0, f.x.okR (tyRange 0 7) false true⟩
  | .vimulh _ f => some ⟨[.v], [.v], [.v, .w 15, .imm], f.sub == 0, f.x.okR (tyRange 0 7) false true⟩
  | .vimad _ f => some ⟨[.v], [.v], [.v, .w 15, .imm], f.sub == 0, f.x.okR (tyRange 0 7) false true⟩
  | .vshl _ f => some ⟨[.v], [.v], [.v, .w 15, .imm], f.sub == 0, f.x.okR (tyRange 0 7) false true⟩
  | .vshr _ f => some ⟨[.v], [.v], [.v, .w 15, .imm], f.sub == 0, f.x.okR (tyRange 0 7) false true⟩
  | .vsra _ f => some ⟨[.v], [.v], [.v, .w 15, .imm], f.sub == 0, f.x.okR (tyRange 0 7) false true⟩
  | .vand _ f => some ⟨[.v], [.v], [.v, .w 15, .imm], f.sub == 0, f.x.okR (tyRange 0 7) false true⟩
  | .vor _ f => some ⟨[.v], [.v], [.v, .w 15, .imm], f.sub == 0, f.x.okR (tyRange 0 7) false true⟩
  | .vxor _ f => some ⟨[.v], [.v], [.v, .w 15, .imm], f.sub == 0, f.x.okR (tyRange 0 7) false true⟩
  | .vandn _ f => some ⟨[.v], [.v], [.v, .w 15, .imm], f.sub == 0, f.x.okR (tyRange 0 7) false true⟩
  | .vpopc _ f => some ⟨[.v], [.v], [.none], f.sub == 0, f.x.okR (tyRange 0 7) false true⟩
  | .vclz _ f => some ⟨[.v], [.v], [.none], f.sub == 0, f.x.okR (tyRange 0 7) false true⟩
  | .vfcmp _ f => some ⟨[.p], [.v], [.v, .w 15], f.sub.toNat ≤ 7, f.x.okR (tyRange 8 11) false true⟩
  | .vicmp _ f => some ⟨[.p], [.v], [.v, .w 15, .imm], f.sub.toNat ≤ 7, f.x.okR (tyRange 0 7) false true⟩
  | .vmov _ f => some ⟨[.v], [.v], [.none], f.sub == 0, f.x.okR (tyRange 0 15) false true⟩
  | .vmovClr _ f => some ⟨[.none], [.none], [.none], f.sub == 1, f.x.okR ([0]) false false⟩
  | .vbcst _ f => some ⟨[.v], [.w 15, .imm], [.none], f.sub == 0, f.x.okR (tyRange 0 15) false true⟩
  | .vins _ f => some ⟨[.v], [.w 15], [.w 15, .imm], f.sub == 0, f.x.okR (tyRange 0 15) false false⟩
  | .vext _ f => some ⟨[.w 15], [.v], [.w 15, .imm], f.sub == 0, f.x.okR (tyRange 0 15) false false⟩
  | .vperm _ f => some ⟨[.v], [.v], [.v], f.sub == 0, f.x.okR (tyRange 0 15) false true⟩
  | .vshuf _ f => some
      ⟨[.v], [.v], [.v], f.sub.toNat ≤ 3 || (64 ≤ f.sub.toNat && f.sub.toNat - 64 < laneCount f.x.ty), f.x.okR (tyRange 0 15) false true⟩
  | .vcomp _ f => some ⟨[.v], [.v], [.p], f.sub == 0, f.x.okR (tyRange 0 15) false false⟩
  | .vexpd _ f => some ⟨[.v], [.v], [.p], f.sub == 0, f.x.okR (tyRange 0 15) false false⟩
  | .vsel _ f => some ⟨[.v], [.v, .w 15, .imm], [.v, .w 15, .imm], f.sub.toNat ≤ 7, f.x.okR (tyRange 0 15) false true⟩
  | .viota _ f => some ⟨[.v], if f.sub = 1 then [.p] else [.none], [.none], f.sub.toNat ≤ 1, f.x.okR (tyRange 0 7) false true⟩
  | .vred _ f => some
      ⟨[.v, .w 15], [.v], [.none], f.sub.toNat ≤ 5 || (8 ≤ f.sub.toNat && f.sub.toNat ≤ 10), f.x.okR (if f.sub.toNat ≤ 5 then tyRange 0 7 else tyRange 8 11) (f.sub == 8) true⟩
  | .vcvt _ f => some
      ⟨[.v], [.v], [.imm], (let s := natBits f.sub.toNat 0 5; let t := natBits f.sub.toNat 5 5; s ≤ 20 && t ≤ 20 && (s != 15 || t == 8 || t == 15) && (t != 15 || s == 8 || s == 15) && partOk t s f.b), f.x.okR [0] true (!(18 ≤ natBits f.sub.toNat 0 5 && 18 ≤ natBits f.sub.toNat 5 5))⟩
  | .vdot _ f => some ⟨[.v], [.v], [.v, .w 15], f.sub == 0, f.x.okR [0, 1, 2, 3] false true || f.x.okR [9, 10, 12, 13] true true⟩
  | .vsca _ f => some ⟨[.v], [.v], [.w 15], natBits f.sub.toNat 3 7 == 0, f.x.okR ([8]) true true⟩
  | .vld _ f => some
      ⟨[.v], [.w 15, .none], (if natBits f.sub.toNat 3 3 = 0 then [.w 15, .none] else if natBits f.sub.toNat 3 3 = 1 then [.w 15] else [.v]), natBits f.sub.toNat 3 3 ≤ 2 && (natBits f.sub.toNat 9 1 == 1 || natBits f.sub.toNat 6 3 == 0), f.x.okM (if natBits f.sub.toNat 3 3 = 0 then tyRange 0 15 else [4, 5, 6, 7, 8, 11, 15]) [0] [0, 1, 2] false && (f.x.ty != 14 || natBits f.sub.toNat 9 1 == 0)⟩
  | .vst _ f => some
      ⟨[.v], [.w 15, .none], (if natBits f.sub.toNat 3 3 = 0 then [.w 15, .none] else if natBits f.sub.toNat 3 3 = 1 then [.w 15] else [.v]), natBits f.sub.toNat 3 3 ≤ 2 && (natBits f.sub.toNat 9 1 == 1 || natBits f.sub.toNat 6 3 == 0), f.x.okM (if natBits f.sub.toNat 3 3 = 0 then tyRange 0 15 else [4, 5, 6, 7, 8, 11, 15]) [0] [0, 1, 2] false && (f.x.ty != 14 || natBits f.sub.toNat 9 1 == 0)⟩
  | .xfence _ f => some
      ⟨[.none], [.none], [.none], f.sub == 0, f.x.okE ([0]) 0xE0000FFFF (fun r => 1 ≤ natBits r 33 3 && natBits r 33 3 ≤ 5 && natBits r 8 8 != 0 && natBits r 0 8 != 0)⟩
  | .xseal _ f => some ⟨[.w 15, .none], [.none], [.none], f.sub == 0, f.x.okE ([0]) 0 (fun _ => true)⟩
  | .xwait _ f => some ⟨[.p, .none], [.w 15, .imm], [.none], f.sub == 0, f.x.okE ([0]) 0 (fun _ => true)⟩
  | .bari _ f => some
      ⟨[.none], [.e 15], [.w 15, .imm], f.sub == 0, f.x.okE ([0]) 0xE00000000 (fun r => 2 ≤ natBits r 33 3 && natBits r 33 3 ≤ 4)⟩
  | .bara _ f => some
      ⟨[.w 15, .none], [.e 15], [.w 15, .none], f.sub.toNat ≤ 1, f.x.okE ([0]) 0xE00000000 (fun r => (if f.sub = 0 then 2 ≤ natBits r 33 3 && natBits r 33 3 ≤ 4 else natBits r 33 3 == 0))⟩
  | .bard _ f => some
      ⟨[.w 15, .none], [.e 15], [.w 15, .none], f.sub.toNat ≤ 1, f.x.okE ([0]) 0xE00000000 (fun r => (if f.sub = 0 then 2 ≤ natBits r 33 3 && natBits r 33 3 ≤ 4 else natBits r 33 3 == 0))⟩
  | .barw _ f => some ⟨[.p, .none], [.e 15], [.w 14], f.sub == 0, f.x.okE ([0]) 0 (fun _ => true)⟩
  | .tcfg _ f => some
      ⟨[.none], [.w 15], [.none], f.sub == 0, f.x.okE ([0]) 0xF80000000 (fun r => (natBits r 35 1 == 1 || natBits r 31 4 == 0))⟩
  | .kclm _ f => some
      ⟨[.w 15], [.e 63], [.w 15, .imm], f.sub == 0, f.x.okE ([0]) 0xF80000000 (fun r => (natBits r 35 1 == 1 || natBits r 31 4 == 0))⟩
  | .krel _ f => some
      ⟨[.none], [.e 63], [.w 15, .imm], f.sub == 0, f.x.okE ([0]) 0xF80000000 (fun r => (natBits r 35 1 == 1 || natBits r 31 4 == 0))⟩
  | .kld _ f => some
      ⟨[.e 63], [.w 15], [.w 15, .none], f.sub == 0, f.x.okE ([0]) 0xFBF3F1F00 (fun r => (natBits r 35 1 == 1 || natBits r 31 4 == 0))⟩
  | .ald _ f => some
      ⟨[.e 7], [.w 15], [.w 15, .none], f.sub == 0, f.x.okE ([0]) 0xF80000000 (fun r => (natBits r 35 1 == 1 || natBits r 31 4 == 0))⟩
  | .ast _ f => some
      ⟨[.e 7], [.w 15], [.w 15, .none], f.sub == 0, f.x.okE ([0]) 0xF80000000 (fun r => (natBits r 35 1 == 1 || natBits r 31 4 == 0))⟩
  | .azero _ f => some
      ⟨[.e 7], [.none], [.none], f.sub == 0, f.x.okE ([0]) 0xF80000000 (fun r => (natBits r 35 1 == 1 || natBits r 31 4 == 0))⟩
  | .mma _ f => some
      ⟨[.e 7], [.e 63], [.e 63], f.sub == 0, f.x.okE (tyRange 0 13) 0xFF8000000 (fun r => (natBits r 35 1 == 1 || natBits r 31 4 == 0) && natBits r 27 4 ≤ 13)⟩
  | .mmas _ f => some
      ⟨[.e 7], [.e 63], [.e 63], f.sub == 0, f.x.okE (tyRange 0 13) 0xFFFF00000 (fun r => (natBits r 35 1 == 1 || natBits r 31 4 == 0) && natBits r 27 4 ≤ 13)⟩
  | .asca _ f => some
      ⟨[.e 7], [.e 7], [.none], natBits f.sub.toNat 2 8 == 0, f.x.okE ([0]) 0xFBFFF0000 (fun r => (natBits r 35 1 == 1 || natBits r 31 4 == 0))⟩
  | .acvt _ f => some
      ⟨[.e 63], [.e 7], [.none], natBits f.sub.toNat 1 9 == 0, f.x.okE (tyRange 0 13) 0xFF8000000 (fun r => (natBits r 35 1 == 1 || natBits r 31 4 == 0) && natBits r 28 3 ≤ 5)⟩
  | .mwait _ f => some ⟨[.p, .none], [.w 15, .imm], [.none], f.sub == 0, f.x.okE ([0]) 0x40000000 (fun _ => true)⟩
  | .spld _ f => some ⟨[.none], [.w 15], [.w 15, .imm], f.sub == 0, f.x.okE ([8, 15]) 0xFFC000000 (fun _ => true)⟩
  | .spst _ f => some ⟨[.none], [.w 15], [.w 15, .imm], f.sub == 0, f.x.okE ([8, 15]) 0xFFC000000 (fun _ => true)⟩
  | .spshp _ f => some ⟨[.none], [.w 15], [.w 15, .imm], f.sub == 0, f.x.okE ([0]) 0 (fun _ => true)⟩
  | .spup _ f => some
      ⟨[.none], [.w 14], [.w 15], natBits f.sub.toNat 6 4 == 0 && natBits f.sub.toNat 0 4 != 0, f.x.okE ([0]) 0 (fun _ => true)⟩
  | .spdn _ f => some
      ⟨[.w 15], [.w 14], [.w 14], natBits f.sub.toNat 6 4 == 0 && natBits f.sub.toNat 4 1 == 0 && natBits f.sub.toNat 0 4 != 0, f.x.okE ([0]) 0 (fun _ => true)⟩
  | .spmode _ f => some ⟨[.w 15, .none], [.w 15, .imm], [.none], f.sub.toNat ≤ 1, f.x.okE ([0]) 0 (fun _ => true)⟩
  | .spnorm _ f => some ⟨[.w 15, .none], [.w 15, .imm], [.none], f.sub.toNat ≤ 1, f.x.okE ([0]) 0xFFC000000 (fun _ => true)⟩
  | .spwait _ f => some ⟨[.p, .none], [.w 15, .imm], [.none], f.sub == 0, f.x.okE ([0]) 0x40000000 (fun _ => true)⟩
  | .wvcfg _ f => some ⟨[.w 15, .none], [.w 15], [.none], f.sub == 0, f.x.okE ([0]) 0x300000000 (fun _ => true)⟩
  | .wvarm _ f => some ⟨[.none], [.w 15, .none], [.none], f.sub == 0, f.x.okE ([0]) 0x300000000 (fun _ => true)⟩
  | .wvflsh _ f => some ⟨[.none], [.none], [.none], f.sub == 0, f.x.okE ([0]) 0x300000000 (fun _ => true)⟩
  | .wvstat _ f => some ⟨[.w 15], [.none], [.none], f.sub.toNat ≤ 1, f.x.okE ([0]) 0x300000000 (fun _ => true)⟩
  | .rqset _ f => some ⟨[.none], [.w 15], [.none], f.sub == 0, f.x.okE ([0]) 0x700000000 (fun _ => true)⟩
  | .rqray _ f => some
      ⟨[.w 15], [.v8], [.p, .none], natBits f.sub.toNat 6 4 == 0 && natBits f.sub.toNat 1 4 == 0, f.x.okE ([0]) 0x700000000 (fun _ => true)⟩
  | .rqnear _ f => some
      ⟨[.w 15], [.v], [.none], natBits f.sub.toNat 6 4 == 0 && natBits f.sub.toNat 1 4 == 0, f.x.okE ([0]) 0x70000001F (fun r => natBits f.sub.toNat 0 1 == 0 || natBits r 0 5 ≤ 15)⟩
  | .rqwait _ f => some ⟨[.p, .none], [.w 15, .imm], [.none], f.sub == 0, f.x.okE ([0]) 0x40000000 (fun _ => true)⟩
  | .evnext _ f => some ⟨[.none], [.none], [.none], f.sub == 0, f.x.isNone⟩
  | .sleep _ f => some ⟨[.none], [.none], [.none], f.sub == 0, f.x.okI (fun v => v.toNat < 2 ^ 39)⟩
  | .popr _ f => some ⟨[.p], [.w 8], [.none], f.sub == 0, f.x.isNone⟩
  | .gnode _ f => some ⟨[.p, .none], [.w 15], [.none], f.sub == 0, f.x.okE ([0]) 0 (fun _ => true)⟩
  | .gdone _ f => some
      ⟨[.p, .none], [.w 15], [.none], f.sub == 0, f.x.okE ([0]) 0xE00000000 (fun r => 1 ≤ natBits r 33 3 && natBits r 33 3 ≤ 5)⟩
  | .gwait _ f => some
      ⟨[.p, .none], [.w 14], [.w 15, .imm], f.sub == 0, f.x.okE ([0]) 0xE00000000 (fun r => 1 ≤ natBits r 33 3 && natBits r 33 3 ≤ 5)⟩
  | .grange _ f => some ⟨[.p, .none], [.w 15], [.w 15], f.sub == 0, f.x.okE ([0]) 0xFFFF (fun r => r != 0)⟩
  | .sqtab _ f => some ⟨[.w 15, .none], [.w 15], [.none], f.sub == 0, f.x.okE ([0]) 0x33 (fun _ => true)⟩
  | .sqgo _ f => some ⟨[.w 15, .none], [.w 15], [.none], f.sub.toNat ≤ 1, f.x.okE ([0]) 0x3 (fun _ => true)⟩
  | .sqstat _ f => some
      ⟨(if f.sub = 1 then [.w 14] else [.w 15]), [.none], (if f.sub = 1 then [.p, .none] else [.none]), f.sub.toNat ≤ 1, f.x.okE ([0]) 0xE00000003 (fun r => (if f.sub = 1 then 1 ≤ natBits r 33 3 && natBits r 33 3 ≤ 5 else natBits r 33 3 == 0))⟩
  | .sqstop _ f => some ⟨[.w 15, .none], [.none], [.none], f.sub == 0, f.x.okE ([0]) 0x3 (fun _ => true)⟩
  | .blease _ f => some
      ⟨[.w 15, .none], [.w 15, .imm], [.none], f.sub == 0, f.x.okE ([0]) 0x300000000 (fun r => 2 ≤ natBits r 32 2)⟩
  | .brel _ f => some ⟨[.none], [.none], [.none], f.sub == 0, f.x.okE ([0]) 0 (fun _ => true)⟩
  | _ => none

/-- The header of a word instruction. -/
def Instr.hdr (i : Instr) : Hdr :=
  match i with
  | .ill _ => ⟨false, 0, false, false, false, false⟩
  | .nop h _ => h
  | .brk h _ => h
  | .trap h _ => h
  | .rte h _ => h
  | .rteEnd h _ => h
  | .rteDrop h _ => h
  | .mfsr h _ => h
  | .mtsr h _ => h
  | .spawn h _ => h
  | .fork h _ => h
  | .join h _ => h
  | .migr h _ => h
  | .exit h _ => h
  | .yield h _ => h
  | .iflush h _ => h
  | .add h _ => h
  | .sub h _ => h
  | .mul h _ => h
  | .mulh h _ => h
  | .mulhn h _ => h
  | .div h _ => h
  | .divn h _ => h
  | .rem h _ => h
  | .remn h _ => h
  | .and h _ => h
  | .or h _ => h
  | .xor h _ => h
  | .andn h _ => h
  | .shl h _ => h
  | .shr h _ => h
  | .sra h _ => h
  | .rol h _ => h
  | .clz h _ => h
  | .ctz h _ => h
  | .popc h _ => h
  | .min h _ => h
  | .max h _ => h
  | .minn h _ => h
  | .maxn h _ => h
  | .sext h _ => h
  | .zext h _ => h
  | .bfx h _ => h
  | .bfi h _ => h
  | .movi h _ => h
  | .moviHi h _ => h
  | .lea h _ => h
  | .sel h _ => h
  | .cmp h _ => h
  | .pand h _ => h
  | .por h _ => h
  | .pxor h _ => h
  | .pnot h _ => h
  | .pmov h _ => h
  | .br h _ => h
  | .brx h _ => h
  | .call h _ => h
  | .callx h _ => h
  | .ret h _ => h
  | .loop h _ => h
  | .ldl h _ => h
  | .ld h _ => h
  | .st h _ => h
  | .ldf h _ => h
  | .ldff h _ => h
  | .ste h _ => h
  | .stf h _ => h
  | .tagr h _ => h
  | .tagw h _ => h
  | .waita h _ => h
  | .acq h _ => h
  | .rel h _ => h
  | .bind h _ => h
  | .unbind h _ => h
  | .fence h _ => h
  | .aadd h _ => h
  | .afadd h _ => h
  | .amin h _ => h
  | .amax h _ => h
  | .aand h _ => h
  | .aor h _ => h
  | .axor h _ => h
  | .aswp h _ => h
  | .acas h _ => h
  | .pref h _ => h
  | .cflush h _ => h
  | .cinv h _ => h
  | .nsend h _ => h
  | .vadd h _ => h
  | .vsub h _ => h
  | .vmul h _ => h
  | .vfma h _ => h
  | .vfms h _ => h
  | .vfnma h _ => h
  | .vmin h _ => h
  | .vmax h _ => h
  | .vabs h _ => h
  | .vneg h _ => h
  | .vdiv h _ => h
  | .vsqrt h _ => h
  | .vrcp h _ => h
  | .vrsq h _ => h
  | .vexp2 h _ => h
  | .vlog2 h _ => h
  | .viadd h _ => h
  | .visub h _ => h
  | .vimul h _ => h
  | .vimulh h _ => h
  | .vimad h _ => h
  | .vshl h _ => h
  | .vshr h _ => h
  | .vsra h _ => h
  | .vand h _ => h
  | .vor h _ => h
  | .vxor h _ => h
  | .vandn h _ => h
  | .vpopc h _ => h
  | .vclz h _ => h
  | .vfcmp h _ => h
  | .vicmp h _ => h
  | .vmov h _ => h
  | .vmovClr h _ => h
  | .vbcst h _ => h
  | .vins h _ => h
  | .vext h _ => h
  | .vperm h _ => h
  | .vshuf h _ => h
  | .vcomp h _ => h
  | .vexpd h _ => h
  | .vsel h _ => h
  | .viota h _ => h
  | .vred h _ => h
  | .vcvt h _ => h
  | .vdot h _ => h
  | .vsca h _ => h
  | .vld h _ => h
  | .vst h _ => h
  | .xfence h _ => h
  | .xseal h _ => h
  | .xwait h _ => h
  | .bari h _ => h
  | .bara h _ => h
  | .bard h _ => h
  | .barw h _ => h
  | .tcfg h _ => h
  | .kclm h _ => h
  | .krel h _ => h
  | .kld h _ => h
  | .ald h _ => h
  | .ast h _ => h
  | .azero h _ => h
  | .mma h _ => h
  | .mmas h _ => h
  | .asca h _ => h
  | .acvt h _ => h
  | .mwait h _ => h
  | .spld h _ => h
  | .spst h _ => h
  | .spshp h _ => h
  | .spup h _ => h
  | .spdn h _ => h
  | .spmode h _ => h
  | .spnorm h _ => h
  | .spwait h _ => h
  | .wvcfg h _ => h
  | .wvarm h _ => h
  | .wvflsh h _ => h
  | .wvstat h _ => h
  | .rqset h _ => h
  | .rqray h _ => h
  | .rqnear h _ => h
  | .rqwait h _ => h
  | .evnext h _ => h
  | .sleep h _ => h
  | .popr h _ => h
  | .gnode h _ => h
  | .gdone h _ => h
  | .gwait h _ => h
  | .grange h _ => h
  | .sqtab h _ => h
  | .sqgo h _ => h
  | .sqstat h _ => h
  | .sqstop h _ => h
  | .blease h _ => h
  | .brel h _ => h
  | _ => ⟨false, 0, false, false, false, false⟩

/-- The operand, SUB and X fields of a word instruction. -/
def Instr.fields (i : Instr) : Fields :=
  match i with
  | .ill _ => ⟨.none, .none, .none, 0, .none⟩
  | .nop _ f => f
  | .brk _ f => f
  | .trap _ f => f
  | .rte _ f => f
  | .rteEnd _ f => f
  | .rteDrop _ f => f
  | .mfsr _ f => f
  | .mtsr _ f => f
  | .spawn _ f => f
  | .fork _ f => f
  | .join _ f => f
  | .migr _ f => f
  | .exit _ f => f
  | .yield _ f => f
  | .iflush _ f => f
  | .add _ f => f
  | .sub _ f => f
  | .mul _ f => f
  | .mulh _ f => f
  | .mulhn _ f => f
  | .div _ f => f
  | .divn _ f => f
  | .rem _ f => f
  | .remn _ f => f
  | .and _ f => f
  | .or _ f => f
  | .xor _ f => f
  | .andn _ f => f
  | .shl _ f => f
  | .shr _ f => f
  | .sra _ f => f
  | .rol _ f => f
  | .clz _ f => f
  | .ctz _ f => f
  | .popc _ f => f
  | .min _ f => f
  | .max _ f => f
  | .minn _ f => f
  | .maxn _ f => f
  | .sext _ f => f
  | .zext _ f => f
  | .bfx _ f => f
  | .bfi _ f => f
  | .movi _ f => f
  | .moviHi _ f => f
  | .lea _ f => f
  | .sel _ f => f
  | .cmp _ f => f
  | .pand _ f => f
  | .por _ f => f
  | .pxor _ f => f
  | .pnot _ f => f
  | .pmov _ f => f
  | .br _ f => f
  | .brx _ f => f
  | .call _ f => f
  | .callx _ f => f
  | .ret _ f => f
  | .loop _ f => f
  | .ldl _ f => f
  | .ld _ f => f
  | .st _ f => f
  | .ldf _ f => f
  | .ldff _ f => f
  | .ste _ f => f
  | .stf _ f => f
  | .tagr _ f => f
  | .tagw _ f => f
  | .waita _ f => f
  | .acq _ f => f
  | .rel _ f => f
  | .bind _ f => f
  | .unbind _ f => f
  | .fence _ f => f
  | .aadd _ f => f
  | .afadd _ f => f
  | .amin _ f => f
  | .amax _ f => f
  | .aand _ f => f
  | .aor _ f => f
  | .axor _ f => f
  | .aswp _ f => f
  | .acas _ f => f
  | .pref _ f => f
  | .cflush _ f => f
  | .cinv _ f => f
  | .nsend _ f => f
  | .vadd _ f => f
  | .vsub _ f => f
  | .vmul _ f => f
  | .vfma _ f => f
  | .vfms _ f => f
  | .vfnma _ f => f
  | .vmin _ f => f
  | .vmax _ f => f
  | .vabs _ f => f
  | .vneg _ f => f
  | .vdiv _ f => f
  | .vsqrt _ f => f
  | .vrcp _ f => f
  | .vrsq _ f => f
  | .vexp2 _ f => f
  | .vlog2 _ f => f
  | .viadd _ f => f
  | .visub _ f => f
  | .vimul _ f => f
  | .vimulh _ f => f
  | .vimad _ f => f
  | .vshl _ f => f
  | .vshr _ f => f
  | .vsra _ f => f
  | .vand _ f => f
  | .vor _ f => f
  | .vxor _ f => f
  | .vandn _ f => f
  | .vpopc _ f => f
  | .vclz _ f => f
  | .vfcmp _ f => f
  | .vicmp _ f => f
  | .vmov _ f => f
  | .vmovClr _ f => f
  | .vbcst _ f => f
  | .vins _ f => f
  | .vext _ f => f
  | .vperm _ f => f
  | .vshuf _ f => f
  | .vcomp _ f => f
  | .vexpd _ f => f
  | .vsel _ f => f
  | .viota _ f => f
  | .vred _ f => f
  | .vcvt _ f => f
  | .vdot _ f => f
  | .vsca _ f => f
  | .vld _ f => f
  | .vst _ f => f
  | .xfence _ f => f
  | .xseal _ f => f
  | .xwait _ f => f
  | .bari _ f => f
  | .bara _ f => f
  | .bard _ f => f
  | .barw _ f => f
  | .tcfg _ f => f
  | .kclm _ f => f
  | .krel _ f => f
  | .kld _ f => f
  | .ald _ f => f
  | .ast _ f => f
  | .azero _ f => f
  | .mma _ f => f
  | .mmas _ f => f
  | .asca _ f => f
  | .acvt _ f => f
  | .mwait _ f => f
  | .spld _ f => f
  | .spst _ f => f
  | .spshp _ f => f
  | .spup _ f => f
  | .spdn _ f => f
  | .spmode _ f => f
  | .spnorm _ f => f
  | .spwait _ f => f
  | .wvcfg _ f => f
  | .wvarm _ f => f
  | .wvflsh _ f => f
  | .wvstat _ f => f
  | .rqset _ f => f
  | .rqray _ f => f
  | .rqnear _ f => f
  | .rqwait _ f => f
  | .evnext _ f => f
  | .sleep _ f => f
  | .popr _ f => f
  | .gnode _ f => f
  | .gdone _ f => f
  | .gwait _ f => f
  | .grange _ f => f
  | .sqtab _ f => f
  | .sqgo _ f => f
  | .sqstat _ f => f
  | .sqstop _ f => f
  | .blease _ f => f
  | .brel _ f => f
  | _ => ⟨.none, .none, .none, 0, .none⟩

/-- The major opcode of a word instruction (R52); none for a machine step. -/
def Instr.opcode (i : Instr) : Option Nat :=
  match i with
  | .ill _ => some 0x00
  | .nop _ _ => some 0x01
  | .brk _ _ => some 0x02
  | .trap _ _ => some 0x03
  | .rte _ _ => some 0x04
  | .rteEnd _ _ => some 0x04
  | .rteDrop _ _ => some 0x04
  | .mfsr _ _ => some 0x05
  | .mtsr _ _ => some 0x06
  | .spawn _ _ => some 0x07
  | .fork _ _ => some 0x08
  | .join _ _ => some 0x09
  | .migr _ _ => some 0x0A
  | .exit _ _ => some 0x0B
  | .yield _ _ => some 0x0C
  | .iflush _ _ => some 0x0D
  | .add _ _ => some 0x10
  | .sub _ _ => some 0x11
  | .mul _ _ => some 0x12
  | .mulh _ _ => some 0x13
  | .mulhn _ _ => some 0x14
  | .div _ _ => some 0x15
  | .divn _ _ => some 0x16
  | .rem _ _ => some 0x17
  | .remn _ _ => some 0x18
  | .and _ _ => some 0x19
  | .or _ _ => some 0x1A
  | .xor _ _ => some 0x1B
  | .andn _ _ => some 0x1C
  | .shl _ _ => some 0x1D
  | .shr _ _ => some 0x1E
  | .sra _ _ => some 0x1F
  | .rol _ _ => some 0x20
  | .clz _ _ => some 0x21
  | .ctz _ _ => some 0x22
  | .popc _ _ => some 0x23
  | .min _ _ => some 0x24
  | .max _ _ => some 0x25
  | .minn _ _ => some 0x26
  | .maxn _ _ => some 0x27
  | .sext _ _ => some 0x28
  | .zext _ _ => some 0x29
  | .bfx _ _ => some 0x2A
  | .bfi _ _ => some 0x2B
  | .movi _ _ => some 0x2C
  | .moviHi _ _ => some 0x2C
  | .lea _ _ => some 0x2D
  | .sel _ _ => some 0x2E
  | .cmp _ _ => some 0x2F
  | .pand _ _ => some 0x30
  | .por _ _ => some 0x31
  | .pxor _ _ => some 0x32
  | .pnot _ _ => some 0x33
  | .pmov _ _ => some 0x34
  | .br _ _ => some 0x35
  | .brx _ _ => some 0x36
  | .call _ _ => some 0x37
  | .callx _ _ => some 0x38
  | .ret _ _ => some 0x39
  | .loop _ _ => some 0x3A
  | .ldl _ _ => some 0x3B
  | .ld _ _ => some 0x40
  | .st _ _ => some 0x41
  | .ldf _ _ => some 0x42
  | .ldff _ _ => some 0x43
  | .ste _ _ => some 0x44
  | .stf _ _ => some 0x45
  | .tagr _ _ => some 0x46
  | .tagw _ _ => some 0x47
  | .waita _ _ => some 0x48
  | .acq _ _ => some 0x49
  | .rel _ _ => some 0x4A
  | .bind _ _ => some 0x4B
  | .unbind _ _ => some 0x4C
  | .fence _ _ => some 0x4D
  | .aadd _ _ => some 0x4E
  | .afadd _ _ => some 0x4F
  | .amin _ _ => some 0x50
  | .amax _ _ => some 0x51
  | .aand _ _ => some 0x52
  | .aor _ _ => some 0x53
  | .axor _ _ => some 0x54
  | .aswp _ _ => some 0x55
  | .acas _ _ => some 0x56
  | .pref _ _ => some 0x57
  | .cflush _ _ => some 0x58
  | .cinv _ _ => some 0x59
  | .nsend _ _ => some 0x5A
  | .vadd _ _ => some 0x60
  | .vsub _ _ => some 0x61
  | .vmul _ _ => some 0x62
  | .vfma _ _ => some 0x63
  | .vfms _ _ => some 0x64
  | .vfnma _ _ => some 0x65
  | .vmin _ _ => some 0x66
  | .vmax _ _ => some 0x67
  | .vabs _ _ => some 0x68
  | .vneg _ _ => some 0x69
  | .vdiv _ _ => some 0x6A
  | .vsqrt _ _ => some 0x6B
  | .vrcp _ _ => some 0x6C
  | .vrsq _ _ => some 0x6D
  | .vexp2 _ _ => some 0x6E
  | .vlog2 _ _ => some 0x6F
  | .viadd _ _ => some 0x70
  | .visub _ _ => some 0x71
  | .vimul _ _ => some 0x72
  | .vimulh _ _ => some 0x73
  | .vimad _ _ => some 0x74
  | .vshl _ _ => some 0x75
  | .vshr _ _ => some 0x76
  | .vsra _ _ => some 0x77
  | .vand _ _ => some 0x78
  | .vor _ _ => some 0x79
  | .vxor _ _ => some 0x7A
  | .vandn _ _ => some 0x7B
  | .vpopc _ _ => some 0x7C
  | .vclz _ _ => some 0x7D
  | .vfcmp _ _ => some 0x7E
  | .vicmp _ _ => some 0x7F
  | .vmov _ _ => some 0x80
  | .vmovClr _ _ => some 0x80
  | .vbcst _ _ => some 0x81
  | .vins _ _ => some 0x82
  | .vext _ _ => some 0x83
  | .vperm _ _ => some 0x84
  | .vshuf _ _ => some 0x85
  | .vcomp _ _ => some 0x86
  | .vexpd _ _ => some 0x87
  | .vsel _ _ => some 0x88
  | .viota _ _ => some 0x89
  | .vred _ _ => some 0x8A
  | .vcvt _ _ => some 0x8B
  | .vdot _ _ => some 0x8C
  | .vsca _ _ => some 0x8D
  | .vld _ _ => some 0x8E
  | .vst _ _ => some 0x8F
  | .xfence _ _ => some 0x90
  | .xseal _ _ => some 0x91
  | .xwait _ _ => some 0x92
  | .bari _ _ => some 0x93
  | .bara _ _ => some 0x94
  | .bard _ _ => some 0x95
  | .barw _ _ => some 0x96
  | .tcfg _ _ => some 0xA0
  | .kclm _ _ => some 0xA1
  | .krel _ _ => some 0xA2
  | .kld _ _ => some 0xA3
  | .ald _ _ => some 0xA4
  | .ast _ _ => some 0xA5
  | .azero _ _ => some 0xA6
  | .mma _ _ => some 0xA7
  | .mmas _ _ => some 0xA8
  | .asca _ _ => some 0xA9
  | .acvt _ _ => some 0xAA
  | .mwait _ _ => some 0xAB
  | .spld _ _ => some 0xB0
  | .spst _ _ => some 0xB1
  | .spshp _ _ => some 0xB2
  | .spup _ _ => some 0xB3
  | .spdn _ _ => some 0xB4
  | .spmode _ _ => some 0xB5
  | .spnorm _ _ => some 0xB6
  | .spwait _ _ => some 0xB7
  | .wvcfg _ _ => some 0xB8
  | .wvarm _ _ => some 0xB9
  | .wvflsh _ _ => some 0xBA
  | .wvstat _ _ => some 0xBB
  | .rqset _ _ => some 0xBC
  | .rqray _ _ => some 0xBD
  | .rqnear _ _ => some 0xBE
  | .rqwait _ _ => some 0xBF
  | .evnext _ _ => some 0xC0
  | .sleep _ _ => some 0xC1
  | .popr _ _ => some 0xC2
  | .gnode _ _ => some 0xC4
  | .gdone _ _ => some 0xC5
  | .gwait _ _ => some 0xC6
  | .grange _ _ => some 0xC7
  | .sqtab _ _ => some 0xC8
  | .sqgo _ _ => some 0xC9
  | .sqstat _ _ => some 0xCA
  | .sqstop _ _ => some 0xCB
  | .blease _ _ => some 0xCC
  | .brel _ _ => some 0xCD
  | _ => none

/-- The X format of a major opcode (R53). -/
def opcodeFormat (opc : Nat) : XFormat :=
  if opc = 0x02 ∨ opc = 0x03 ∨ opc = 0x2C ∨ opc = 0xC1 then .i
  else if opc = 0x07 ∨ opc = 0x08 ∨ opc = 0x35 ∨ opc = 0x37 ∨ opc = 0x3A ∨ opc = 0x3B then .b
  else if opc = 0x09 ∨ opc = 0x0D ∨ opc = 0x2D ∨ (0x40 ≤ opc ∧ opc ≤ 0x59) ∨ opc = 0x8E ∨ opc = 0x8F then .m
  else if (0x10 ≤ opc ∧ opc ≤ 0x2F) ∨ (0x60 ≤ opc ∧ opc ≤ 0x8D) then .r
  else if (0x90 ≤ opc ∧ opc ≤ 0xBF) ∨ (0xC4 ≤ opc ∧ opc ≤ 0xCD) then .e
  else .none

/-- The index shift of an M-format opcode with no index register (R46): SUB[42:40] must be 0, but for the
all form of IFLUSH, CFLUSH and CINV, whose SUB is 0x008. -/
def Fields.shiftOk (f : Fields) : Bool :=
  match f.x with
  | .m .. => f.b != .none || natBits f.sub.toNat 0 3 == 0
  | _ => true

/-- Both vector sources of one bank (R50). -/
def Fields.bankClash (f : Fields) : Bool :=
  match f.a, f.b with
  | .v m, .v n => m.toNat % 2 == n.toNat % 2
  | _, _ => false

/-- The checks 3 to 5 of R51 in their order, for the fields of one word. -/
def Row.check (r : Row) (f : Fields) : Option EncodingError :=
  if !(f.d.oneOf r.d && f.a.oneOf r.a && f.b.oneOf r.b) then some .operand
  else if f.bankClash then some .bank
  else if !(r.subOk && f.shiftOk) then some .sub
  else if !r.xOk then some .field
  else none

/-- The first check of R51 that a word instruction fails. -/
def Instr.check (i : Instr) : Option EncodingError :=
  match i.row with
  | some r => r.check i.fields
  | none => match i with
    | .ill _ => some .ill
    | _ => none

/-- A word instruction that passes every check of R51, or the word of ILL, which is an instruction too: it always traps. -/
abbrev Instr.WellFormed (i : Instr) : Prop := i.opcode ≠ none ∧ (i.opcode = some 0 ∨ i.check = none)

/-- The opcodes reserved to context 7 (R51, check 6): RTE, SLEEP, and MFSR and MTSR with a SUB other than 0. -/
def Instr.supervisorOnly (i : Instr) : Bool :=
  match i with
  | .rte .. | .rteEnd .. | .rteDrop .. | .sleep .. => true
  | .mfsr _ f | .mtsr _ f => f.sub != 0
  | _ => false

end Sys2Proof
end

