-- ==== Sys2Proof/Decode.lean ====
section
/-! DEFINITION. The decoder: total on every 96-bit word, rejecting by name in the order of R51; and after it the encoder,
from the same layout (R37, R40, R44 to R48). -/

namespace Sys2Proof

/-- Bits `lo` to `lo + len - 1` of an instruction word. -/
def wordBits {n : Nat} (w : BitVec n) (lo len : Nat) : BitVec len := BitVec.extractLsb' lo len w

/-- An operand field: class [9:7], index [6:0]; an index outside the class's range is no operand (R40). -/
def decodeOpnd (x : BitVec 10) : Option Opnd :=
  let n := wordBits x 0 7
  match (wordBits x 7 3).toNat with
  | 0 => if n.toNat = 0 then some .none else none
  | 1 => if n.toNat < 16 then some (.w (n.setWidth 4)) else none
  | 2 => if n.toNat < 32 then some (.v (n.setWidth 5)) else none
  | 3 => if n.toNat < 8 then some (.p (n.setWidth 3)) else none
  | 4 => if n.toNat < 8 then some (.l (n.setWidth 3)) else none
  | 5 => some (.y n)
  | 6 => some (.e n)
  | _ => some (.imm n)

/-- The X field in the layout of its format; bits that must be zero and are not give none (R44 to R48, R51 check 5). -/
def decodeX (fmt : XFormat) (x : BitVec 40) : Option XFld :=
  match fmt with
  | .none => if x = 0 then some .none else none
  | .r => if (wordBits x 0 29) = 0 then
      some (.r (wordBits x 36 4) (wordBits x 33 3) (wordBits x 32 1 == 1) (wordBits x 29 3)) else none
  | .i => some (.i x)
  | .m => some (.m (wordBits x 36 4) (wordBits x 33 3) (wordBits x 31 2) (wordBits x 30 1 == 1) (wordBits x 0 30))
  | .b => some (.b x)
  | .e => some (.e (wordBits x 36 4) (wordBits x 0 36))

/-- The guard, marker and hints of a word (R37). -/
def decodeHdr (w : BitVec 96) : Hdr :=
  ⟨wordBits w 87 1 == 1, wordBits w 84 3, wordBits w 83 1 == 1, wordBits w 82 1 == 1, wordBits w 81 1 == 1,
    wordBits w 80 1 == 1⟩

/-- The instruction of an assigned major opcode and its SUB code (R52); none where the opcode is not assigned. -/
def instrOf (opc sub : Nat) (h : Hdr) (f : Fields) : Option Instr :=
  match opc with
  | 0x01 => some (.nop h f)
  | 0x02 => some (.brk h f)
  | 0x03 => some (.trap h f)
  | 0x04 => some (if sub = 1 then .rteEnd h f else if sub = 2 then .rteDrop h f else .rte h f)
  | 0x05 => some (.mfsr h f)
  | 0x06 => some (.mtsr h f)
  | 0x07 => some (.spawn h f)
  | 0x08 => some (.fork h f)
  | 0x09 => some (.join h f)
  | 0x0A => some (.migr h f)
  | 0x0B => some (.exit h f)
  | 0x0C => some (.yield h f)
  | 0x0D => some (.iflush h f)
  | 0x10 => some (.add h f)
  | 0x11 => some (.sub h f)
  | 0x12 => some (.mul h f)
  | 0x13 => some (.mulh h f)
  | 0x14 => some (.mulhn h f)
  | 0x15 => some (.div h f)
  | 0x16 => some (.divn h f)
  | 0x17 => some (.rem h f)
  | 0x18 => some (.remn h f)
  | 0x19 => some (.and h f)
  | 0x1A => some (.or h f)
  | 0x1B => some (.xor h f)
  | 0x1C => some (.andn h f)
  | 0x1D => some (.shl h f)
  | 0x1E => some (.shr h f)
  | 0x1F => some (.sra h f)
  | 0x20 => some (.rol h f)
  | 0x21 => some (.clz h f)
  | 0x22 => some (.ctz h f)
  | 0x23 => some (.popc h f)
  | 0x24 => some (.min h f)
  | 0x25 => some (.max h f)
  | 0x26 => some (.minn h f)
  | 0x27 => some (.maxn h f)
  | 0x28 => some (.sext h f)
  | 0x29 => some (.zext h f)
  | 0x2A => some (.bfx h f)
  | 0x2B => some (.bfi h f)
  | 0x2C => some (if sub = 1 then .moviHi h f else .movi h f)
  | 0x2D => some (.lea h f)
  | 0x2E => some (.sel h f)
  | 0x2F => some (.cmp h f)
  | 0x30 => some (.pand h f)
  | 0x31 => some (.por h f)
  | 0x32 => some (.pxor h f)
  | 0x33 => some (.pnot h f)
  | 0x34 => some (.pmov h f)
  | 0x35 => some (.br h f)
  | 0x36 => some (.brx h f)
  | 0x37 => some (.call h f)
  | 0x38 => some (.callx h f)
  | 0x39 => some (.ret h f)
  | 0x3A => some (.loop h f)
  | 0x3B => some (.ldl h f)
  | 0x40 => some (.ld h f)
  | 0x41 => some (.st h f)
  | 0x42 => some (.ldf h f)
  | 0x43 => some (.ldff h f)
  | 0x44 => some (.ste h f)
  | 0x45 => some (.stf h f)
  | 0x46 => some (.tagr h f)
  | 0x47 => some (.tagw h f)
  | 0x48 => some (.waita h f)
  | 0x49 => some (.acq h f)
  | 0x4A => some (.rel h f)
  | 0x4B => some (.bind h f)
  | 0x4C => some (.unbind h f)
  | 0x4D => some (.fence h f)
  | 0x4E => some (.aadd h f)
  | 0x4F => some (.afadd h f)
  | 0x50 => some (.amin h f)
  | 0x51 => some (.amax h f)
  | 0x52 => some (.aand h f)
  | 0x53 => some (.aor h f)
  | 0x54 => some (.axor h f)
  | 0x55 => some (.aswp h f)
  | 0x56 => some (.acas h f)
  | 0x57 => some (.pref h f)
  | 0x58 => some (.cflush h f)
  | 0x59 => some (.cinv h f)
  | 0x5A => some (.nsend h f)
  | 0x60 => some (.vadd h f)
  | 0x61 => some (.vsub h f)
  | 0x62 => some (.vmul h f)
  | 0x63 => some (.vfma h f)
  | 0x64 => some (.vfms h f)
  | 0x65 => some (.vfnma h f)
  | 0x66 => some (.vmin h f)
  | 0x67 => some (.vmax h f)
  | 0x68 => some (.vabs h f)
  | 0x69 => some (.vneg h f)
  | 0x6A => some (.vdiv h f)
  | 0x6B => some (.vsqrt h f)
  | 0x6C => some (.vrcp h f)
  | 0x6D => some (.vrsq h f)
  | 0x6E => some (.vexp2 h f)
  | 0x6F => some (.vlog2 h f)
  | 0x70 => some (.viadd h f)
  | 0x71 => some (.visub h f)
  | 0x72 => some (.vimul h f)
  | 0x73 => some (.vimulh h f)
  | 0x74 => some (.vimad h f)
  | 0x75 => some (.vshl h f)
  | 0x76 => some (.vshr h f)
  | 0x77 => some (.vsra h f)
  | 0x78 => some (.vand h f)
  | 0x79 => some (.vor h f)
  | 0x7A => some (.vxor h f)
  | 0x7B => some (.vandn h f)
  | 0x7C => some (.vpopc h f)
  | 0x7D => some (.vclz h f)
  | 0x7E => some (.vfcmp h f)
  | 0x7F => some (.vicmp h f)
  | 0x80 => some (if sub = 1 then .vmovClr h f else .vmov h f)
  | 0x81 => some (.vbcst h f)
  | 0x82 => some (.vins h f)
  | 0x83 => some (.vext h f)
  | 0x84 => some (.vperm h f)
  | 0x85 => some (.vshuf h f)
  | 0x86 => some (.vcomp h f)
  | 0x87 => some (.vexpd h f)
  | 0x88 => some (.vsel h f)
  | 0x89 => some (.viota h f)
  | 0x8A => some (.vred h f)
  | 0x8B => some (.vcvt h f)
  | 0x8C => some (.vdot h f)
  | 0x8D => some (.vsca h f)
  | 0x8E => some (.vld h f)
  | 0x8F => some (.vst h f)
  | 0x90 => some (.xfence h f)
  | 0x91 => some (.xseal h f)
  | 0x92 => some (.xwait h f)
  | 0x93 => some (.bari h f)
  | 0x94 => some (.bara h f)
  | 0x95 => some (.bard h f)
  | 0x96 => some (.barw h f)
  | 0xA0 => some (.tcfg h f)
  | 0xA1 => some (.kclm h f)
  | 0xA2 => some (.krel h f)
  | 0xA3 => some (.kld h f)
  | 0xA4 => some (.ald h f)
  | 0xA5 => some (.ast h f)
  | 0xA6 => some (.azero h f)
  | 0xA7 => some (.mma h f)
  | 0xA8 => some (.mmas h f)
  | 0xA9 => some (.asca h f)
  | 0xAA => some (.acvt h f)
  | 0xAB => some (.mwait h f)
  | 0xB0 => some (.spld h f)
  | 0xB1 => some (.spst h f)
  | 0xB2 => some (.spshp h f)
  | 0xB3 => some (.spup h f)
  | 0xB4 => some (.spdn h f)
  | 0xB5 => some (.spmode h f)
  | 0xB6 => some (.spnorm h f)
  | 0xB7 => some (.spwait h f)
  | 0xB8 => some (.wvcfg h f)
  | 0xB9 => some (.wvarm h f)
  | 0xBA => some (.wvflsh h f)
  | 0xBB => some (.wvstat h f)
  | 0xBC => some (.rqset h f)
  | 0xBD => some (.rqray h f)
  | 0xBE => some (.rqnear h f)
  | 0xBF => some (.rqwait h f)
  | 0xC0 => some (.evnext h f)
  | 0xC1 => some (.sleep h f)
  | 0xC2 => some (.popr h f)
  | 0xC4 => some (.gnode h f)
  | 0xC5 => some (.gdone h f)
  | 0xC6 => some (.gwait h f)
  | 0xC7 => some (.grange h f)
  | 0xC8 => some (.sqtab h f)
  | 0xC9 => some (.sqgo h f)
  | 0xCA => some (.sqstat h f)
  | 0xCB => some (.sqstop h f)
  | 0xCC => some (.blease h f)
  | 0xCD => some (.brel h f)
  | _ => none

/-- Decode a 96-bit word (R51, checks 1 to 5). ILL, whatever its other 88 bits hold, is the instruction that traps. -/
def decodeWord (w : BitVec 96) : Except EncodingError Instr :=
  let opc := (wordBits w 88 8).toNat
  if opc = 0 then .ok (.ill (wordBits w 0 88))
  else
    let sub := wordBits w 40 10
    match instrOf opc sub.toNat (decodeHdr w) ⟨.none, .none, .none, sub, .none⟩ with
    | none => .error .unassigned
    | some _ =>
      match decodeOpnd (wordBits w 70 10), decodeOpnd (wordBits w 60 10), decodeOpnd (wordBits w 50 10) with
      | some d, some a, some b =>
        match decodeX (opcodeFormat opc) (wordBits w 0 40) with
        | none => .error .field
        | some x =>
          match instrOf opc sub.toNat (decodeHdr w) ⟨d, a, b, sub, x⟩ with
          | none => .error .unassigned
          | some i => match i.check with
            | none => .ok i
            | some e => .error e
      | _, _, _ => .error .operand

/-- The word of twelve bytes, the byte at the lowest address first (R4, R37). -/
def wordOfBytes : List Byte → BitVec 96
  | [] => 0
  | b :: rest => (wordOfBytes rest <<< 8) ||| b.setWidth 96

/-- Decode the first twelve bytes of a list and give back the rest; fewer than twelve are no word. -/
def decodeBytes (bs : List Byte) : Option (Except EncodingError Instr × List Byte) :=
  if bs.length < 12 then none else some (decodeWord (wordOfBytes (bs.take 12)), bs.drop 12)

/-- What the decoder reads from an instruction whose bits are `w`, numbered as the opcode table numbers them. -/
def decodeTableWord (nbits w : Nat) : Option Instr :=
  match decodeWord (BitVec.ofNat 96 (w % 2 ^ nbits)) with
  | .ok i => some i
  | .error _ => none

/-- The ten bits of an operand field (R40). -/
def encodeOpnd : Opnd → BitVec 10
  | .none => 0
  | .w n => (1 : BitVec 3) ++ n.setWidth 7
  | .v n => (2 : BitVec 3) ++ n.setWidth 7
  | .p n => (3 : BitVec 3) ++ n.setWidth 7
  | .l n => (4 : BitVec 3) ++ n.setWidth 7
  | .y n => (5 : BitVec 3) ++ n
  | .e n => (6 : BitVec 3) ++ n
  | .imm n => (7 : BitVec 3) ++ n

/-- The forty bits of an X field (R44 to R48). -/
def encodeX : XFld → BitVec 40
  | .none => 0
  | .r ty rm en p => ty ++ rm ++ BitVec.ofBool en ++ p ++ (0 : BitVec 29)
  | .i v => v
  | .m ty sc cp o ofs => ty ++ sc ++ cp ++ BitVec.ofBool o ++ ofs
  | .b v => v
  | .e f r => f ++ r

/-- The eight bits GRD, SW and HNT (R37). -/
def encodeHdr (h : Hdr) : BitVec 8 :=
  BitVec.ofBool h.neg ++ h.gp ++ BitVec.ofBool h.sw ++ BitVec.ofBool h.hintY ++ BitVec.ofBool h.hintK
    ++ BitVec.ofBool h.hintL

/-- The word of a word instruction (R37); none for a machine step. -/
def encodeWord (i : Instr) : Option (BitVec 96) :=
  match i with
  | .ill raw => some ((0 : BitVec 8) ++ raw)
  | _ => match i.opcode with
    | none => none
    | some opc =>
      let f := i.fields
      some (BitVec.ofNat 8 opc ++ encodeHdr i.hdr ++ encodeOpnd f.d ++ encodeOpnd f.a ++ encodeOpnd f.b ++ f.sub
        ++ encodeX f.x)

/-- The twelve bytes of a word, the byte at the lowest address first (R4). -/
def bytesOfWord (w : BitVec 96) : List Byte :=
  (List.range 12).map (fun k => wordBits w (8 * k) 8)

/-- The bytes of a word instruction. -/
def encode (i : Instr) : Option (List Byte) := (encodeWord i).map bytesOfWord

end Sys2Proof
end

