-- ==== Sys2Proof/Config.lean ====
section
/-! DEFINITION. What an implementation fixes, and the free values: opaque constants with no body, applied to a plain
counter or to the operands, so that no proof can see a number the spec does not state. -/

namespace Sys2Proof.Config

/-- Dies of the device (R1). -/
def dies : Nat := 2

/-- Cores of one die: 24 rows of 32 (R1). -/
def coresPerDie : Nat := 768

/-- Clusters of one die (R1). -/
def clustersPerDie : Nat := 96

/-- A value the spec leaves open, by the counter of the state (log entry 1). -/
opaque freeWord : Nat → BitVec 64

/-- The pairing stop's internal hash: the running hash and a packet's words give the next running hash (R365: the function
is internal to the device, and equal streams give equal hashes). -/
opaque pairHash : BitVec 64 → List (BitVec 64) → BitVec 64

/-- Where Withy's image starts on a die: the boot list's contents are not in the spec (R451, log entry 4). -/
opaque withyEntry : Nat → BitVec 64

/-- The byte at a place of the XMSS signature over a report, which the device's own key decides (R453). -/
opaque signatureByte : List Nat → Nat → BitVec 8

/-- The public key that verifies images; its digest is fused (R452, log entry 18). -/
opaque imageKey : List Nat

/-- Does an image's header hold the magic, whose value and place are not in the spec (R452). -/
opaque imageMagic : List Nat → Bool

/-- How a dump shortens the digests of the three running images to 32 bytes (R450). -/
opaque dumpDigests : List Nat → List (BitVec 64)

/-- The fields of an image's header, whose places in its 64 bytes are not in the spec (R452): kind, security version, body length, digest. -/
opaque imageKind : List Nat → Nat
opaque imageVersion : List Nat → Nat
opaque imageLength : List Nat → Nat
opaque imageDigest : List Nat → List Nat

/-- What an issue of a core costs, with the memory accesses, transfers and flits made for it, in 2^-10 µJ, by the core and the number of the issue (R449). -/
opaque issueEnergy : Nat → Nat → BitVec 64

/-- The code of a die's run state in the answer to IDENT, by its number: 0 in reset, 1 courier-only, 2 running (R480). -/
opaque dieStateCode : Nat → BitVec 8

end Sys2Proof.Config
end

