-- ==== Sys2Proof/Machine/CoreState.lean ====
section
/-! DEFINITION. The plain data of a thread's context and of a core (R9 to R36, R157 to R223, R487). -/

namespace Sys2Proof.Machine

/-- What taking a trap writes (R33): cause, resume PC, faulting PC, the address where the cause has one, and the detail. `epc` is
none where the resume PC is the boundary reached (R34). -/
structure TrapInfo where
  cause : Nat
  epc : Option Word
  fpc : Word
  faddr : Option Word
  finfo : Word
  deriving DecidableEq, Repr

/-- Where a long result goes (R22): nowhere, an entry of the register stack, or bits of a vector register. -/
inductive LongDst where
  | none
  | w (entry : Nat)
  | p (reg : Nat)
  | v (reg lo len : Nat)
  /-- A byte of an LNS6 vector: the three bytes that share four lanes are written together (R24). -/
  | v6 (reg lo : Nat)
  deriving DecidableEq, Repr

/-- What a long result brings when it arrives: the bits, or the failing reply's trap (R35, response class). -/
inductive LongVal where
  | ok (bits : Nat)
  | fail (t : TrapInfo)
  deriving DecidableEq, Repr

/-- An outstanding long write of a context (R23, R24); `val` is none until the access has been performed. -/
structure LongRes where
  id : Nat
  dst : LongDst
  val : Option LongVal
  /-- The lanes of one VLD: none is written where one of them fails (R155); 0: alone. -/
  group : Nat
  deriving DecidableEq, Repr

/-- One atomic operation (R184, R185). -/
inductive AtomKind where
  | add | fadd | min | max | and | or | xor | swp | cas
  deriving DecidableEq, Repr

/-- A store whose translation failed, kept until the thread's next marker, REL or FENCE (R35, deferred class). -/
structure DeferredStore where
  fpc : Word
  faddr : Word
  finfo : Word
  size : Nat
  val : Nat
  /-- The cache policy the store is performed with once the page is resolved. -/
  cp : Nat
  /-- A `.nr` atomic: its operation and element type (R169). -/
  atom : Option (AtomKind × Nat)
  /-- The trap for it has been taken; the store is performed after RTE. -/
  taken : Bool
  /-- The elements of one VST share a number, and one trap; `elem` is the element (R155). -/
  group : Nat
  elem : Nat
  deriving DecidableEq, Repr

/-- What a Waiting context waits for (R20). -/
inductive WaitKind where
  /-- A reply of LDF, LDFF or STE. -/
  | tagged
  /-- The reply of STF, ACQ's fetches or another access that no rule of R175 names. -/
  | reply
  /-- WAITA. -/
  | waita
  | join
  /-- EXIT, EVNEXT, MIGR or RTE.END: until the results, writes and engine commands of context `y` are over (R19, R269). -/
  | drain (y : Nat)
  | barw | mwait | spwait | rqwait | xwait | xseal | gwait | sqstat
  /-- An engine command at the limit of unfinished commands. -/
  | engine
  /-- An `l` read with presence clear. -/
  | link (n : Nat)
  /-- SPAWN or FORK of a dual copy, or any packet of it, at the pairing stop (R365). -/
  | pairing
  /-- SPAWN or FORK whose counter's home holds the increment that the core `key` makes for it (R86). -/
  | placing
  deriving DecidableEq, Repr

/-- A wait: the instruction that waits, what for, since which device time, its place among the waits of all contexts, until which, the reply the
home has written, and the link values it has consumed. -/
structure Wait where
  instr : Instr
  kind : WaitKind
  since : Nat
  order : Nat
  deadline : Option Nat
  reply : Option LongVal
  /-- The reply says that the wait ended at its timeout. -/
  timedOut : Bool
  got : SMap Word
  /-- The token of BARW, the distance of XWAIT, the bound of MWAIT, SPWAIT, RQWAIT and GWAIT, the core of a placement: read at issue. -/
  key : Nat
  deriving DecidableEq, Repr

/-- The state of the thread in a context (R20). `parked drain again`: until every outstanding long result is written, and with
`drain` until every store, atomic and remote write is acknowledged as well (R25, R27); `again` is the instruction whose marker precedes
its own effect. -/
inductive RunState where
  | free
  | ready
  | parked (drain : Bool) (again : Option Instr)
  | waiting (w : Wait)
  | migrating
  | stopped
  deriving DecidableEq, Repr

/-- A 64-byte record (R200). -/
structure Rec where
  w0 : Word
  w1 : Word
  w2 : Word
  w3 : Word
  w4 : Word
  w5 : Word
  w6 : Word
  w7 : Word
  deriving DecidableEq, Repr

/-- A 16-byte event (R197) with what the destination stop adds: a drop marker, an event that came after its window closed, and
the window it counts in (R199, R391). -/
structure Ev where
  w0 : Word
  w1 : Word
  late : Bool
  drop : Bool
  /-- The low 48 bits of device time when it entered the inbox (R199). -/
  arr : Nat
  /-- The window group it counts in at this destination, and its window (R391). -/
  grp : Option Nat
  win : Nat
  /-- Its place in the order of arrivals at the core (R205). -/
  ord : Nat
  deriving DecidableEq, Repr

/-- What created the thread (R15, R16, R211, R230). -/
inductive Origin where
  | none
  | event (e : Ev)
  | record (r : Rec)
  | migrated
  deriving DecidableEq, Repr

/-- A lease of boost power held by a context (R445, R446). -/
structure Lease where
  act : Bool
  rvk : Bool
  /-- Granted step: 2 middle, 3 top. -/
  step : Nat
  /-- Device time of the end of the lease, in ns. -/
  ends : Nat
  deriving DecidableEq, Repr

/-- A BTE batch sealed by XSEAL: its number and how many of its transfers are unfinished (R251). -/
structure Batch where
  num : Nat
  left : Nat
  deriving DecidableEq, Repr

/-- Command status of an engine for one context: `y.mstat`, `y.spstat`, `y.rqstat` (R269, R297, R331). -/
structure EngStat where
  err : Bool
  stat : Nat
  fopc : Nat
  fdie : Nat
  fcln : Nat
  unf : Nat
  deriving DecidableEq, Repr

/-- A dual-dispatched copy's place: the pair, and whether it is the primary (R364). -/
structure DualRole where
  pair : Nat
  primary : Bool
  deriving DecidableEq, Repr

/-- One hardware context and the thread in it (R9, R92, R241, R269, R297, R331, R379, R442, R445). -/
structure Ctx where
  run : RunState
  pc : Word
  /-- The register stack, 64 entries (R10). -/
  stack : SMap Word
  v : SMap VReg
  p : SMap Word
  wf : Nat
  res : Nat
  spl : Nat
  vz : Bool
  vl : Bool
  tsp : Word
  wsp : Word
  wlim : Word
  tcomp : Word
  migmode : Word
  jctr : Word
  pid : Nat
  ectx : Nat
  pri : Nat
  loopcnt : Word
  lbody : Word
  cause : Word
  epc : Word
  fpc : Word
  faddr : Word
  finfo : Word
  bkpt : SMap Word
  dbgctl : Word
  icount : Word
  /-- The origin word: R flag [63], accepting core [49:39], SEQ [31:0] (R16). -/
  origin : Word
  made : Origin
  /-- Start address of the area pair the context holds (R487). -/
  pair : Word
  outstanding : List LongRes
  /-- Response-class causes that have arrived and not been taken, oldest first (R35, R36). -/
  pend : List TrapInfo
  deferred : List DeferredStore
  /-- A marker, REL or FENCE has been reached with deferred faults pending that are not taken yet (R35). -/
  deferArmed : Bool
  /-- The virtual lines of device memory that the thread has written, rising: what it reads of them is never older, wherever it goes (R167). -/
  wrote : List Nat
  /-- Per VST with elements under way: its lowest element whose store has failed, and the trap (R155). -/
  vstFails : SMap (Nat × TrapInfo)
  /-- Pending 0x0E with its `y.finfo`. -/
  pendDroop : Option Word
  /-- Pending 0x0F. -/
  pendPreempt : Bool
  /-- Pending 0x0A: the address of the instruction just completed under single step (R80). -/
  pendStep : Option Word
  /-- Pending 0x10 with its `y.finfo`. -/
  pendThrottle : Option Word
  /-- The launch the thread belongs to, and the queue packet that created it (R468). -/
  lid : Option Nat
  pkt : Option (Nat × Nat)
  /-- Handles of the range chunks that the thread has, each with the count of its indices that are not reported done, oldest first (R378). -/
  chunks : List Word
  /-- The scope of the acquire made when its record was bound: one made at a restart acquires there again (R230, R375, R418). -/
  acq : Nat
  xsrc : Word
  xdst : Word
  xlay : Word
  xbox : Word
  xext : Word
  xopt : Word
  xcw : Word
  xcv : Word
  /-- `y.xstat` ERR and STAT, FID of the first failing transfer (R249). -/
  xerr : Bool
  xstatCode : Nat
  xfid : Nat
  /-- Unfinished transfers of the open batch, and the sealed batches that are unfinished, oldest first (R251). -/
  xopen : Nat
  xbatches : List Batch
  xnext : Nat
  mstat : EngStat
  spstat : EngStat
  rqstat : EngStat
  /-- `y.gstat` ERR and RSN (R379). -/
  gerr : Bool
  grsn : Nat
  /-- `y.tnote` THR and EN (R442). -/
  tnThr : Nat
  tnEn : Bool
  tnDn : Nat
  lease : Lease
  dual : Option DualRole
  /-- Issue slots of the core that remain before a YIELD or Y hint stops holding this context back (R21, R91). -/
  held : Nat
  /-- An engine completion still due delays the reuse of the context after `rte.drop` (R82). -/
  closing : Bool
  /-- The core and slot whose fill failed while an access of the thread was held there: it gets an error response when it goes on (R240). -/
  failAt : Option (Nat × Nat)
  deriving DecidableEq, Repr

/-- The command status at reset. -/
def EngStat.reset : EngStat := ⟨false, 0, 0, 0, 0, 0⟩

/-- No lease (R445). -/
def Lease.reset : Lease := ⟨false, false, 0, 0⟩

/-- A context that holds no thread, at its reset values (R92 and log entry 2 where the spec gives none). -/
def Ctx.reset : Ctx where
  run := .free
  pc := 0
  stack := []
  v := []
  p := []
  wf := 0
  res := 0
  spl := 0
  vz := false
  vl := false
  tsp := 0
  wsp := 0
  wlim := 0
  tcomp := 0
  migmode := 0x800
  jctr := 0
  pid := 0
  ectx := 0
  pri := 0
  loopcnt := 0
  lbody := 0
  cause := 0
  epc := 0
  fpc := 0
  faddr := 0
  finfo := 0
  bkpt := []
  dbgctl := 0
  icount := 0
  origin := 0
  made := .none
  pair := 0
  outstanding := []
  pend := []
  deferred := []
  deferArmed := false
  wrote := []
  vstFails := []
  pendDroop := none
  pendPreempt := false
  pendStep := none
  pendThrottle := none
  lid := none
  pkt := none
  chunks := []
  acq := 0
  xsrc := 0
  xdst := 0
  xlay := 0
  xbox := 0
  xext := 0
  xopt := 0
  xcw := 0
  xcv := 0
  xerr := false
  xstatCode := 0
  xfid := 0
  xopen := 0
  xbatches := []
  xnext := 0
  mstat := EngStat.reset
  spstat := EngStat.reset
  rqstat := EngStat.reset
  gerr := false
  grsn := 0
  tnThr := 8
  tnEn := false
  tnDn := 0
  lease := Lease.reset
  dual := none
  held := 0
  closing := false
  failAt := none

/-- What a request does at its home. -/
inductive ReqOp where
  | load | store
  | ldf | ldff | ste | stf | tagr | tagw
  | waita (cond : Nat) | join
  | atom (k : AtomKind)
  /-- NSEND to a neighbour (R190). -/
  | link (n : Nat) (rel : Bool)
  deriving DecidableEq, Repr

/-- Where a request is performed: a scratchpad word at its home core, device memory at its home slice, or a die-private page at the LLC of the
requester's die (R357). -/
inductive Home where
  | spad (core off : Nat)
  | dev (pa : Nat)
  | llc (die pa : Nat)
  deriving DecidableEq, Repr

/-- A request on its way to its home, or held there (R160, R162, R173, R183). -/
structure Req where
  id : Nat
  /-- The issuing context. -/
  x : Nat
  /-- The issuing core, and the PID of the thread. -/
  src : Nat
  pid : Nat
  op : ReqOp
  home : Home
  size : Nat
  /-- Element type, for the extension of a returned value and for comparisons. -/
  ty : Nat
  val : Nat
  cmp : Nat
  /-- The long result that the reply fills. -/
  lr : Option Nat
  /-- The reply ends a wait of the issuing context. -/
  waits : Bool
  /-- Scope of the acquire made when the request is performed; 0: none. -/
  acq : Nat
  /-- OR: the `.o` atomics of a thread to one home are performed in issue order (R186). -/
  ord : Bool
  pc : Word
  va : Word
  /-- An element of a VST: its group and its number (R155). -/
  vst : Option (Nat × Nat)
  /-- Held at the home port: its slot is not resident (R162), or refused by a full list and waiting for a retry (R173). -/
  heldAt : Bool
  refused : Bool
  /-- Translated before a page migration that has moved its page (R437). -/
  stale : Bool
  /-- Mesh retry delay in core cycles, doubled at each refusal (R173). -/
  delay : Nat
  deriving DecidableEq, Repr

/-- One line of an L1 data cache (R164, R355, R363). -/
structure L1Line where
  pid : Nat
  /-- Virtual line number, VA[52:7]. -/
  vln : Nat
  bits : LineBits
  dirty : BitVec 128
  /-- The W permission of the translation that filled it. -/
  wOk : Bool
  poison : Bool
  /-- The context that last wrote it, and every context whose bytes are still dirty in it. -/
  owner : Option Nat
  writers : List Nat
  /-- An acquire has dropped its clean bytes: only the dirty ones are valid. -/
  stale : Bool
  deriving DecidableEq, Repr

/-- One line of an instruction cache (R84, R355). -/
structure ILine where
  pid : Nat
  vln : Nat
  bits : LineBits
  poison : Bool
  deriving DecidableEq, Repr

/-- A residency entry: V, DT, PN, BSY, BACK page and TAGA (R161). -/
structure Resid where
  v : Bool
  dt : Bool
  pn : Bool
  bsy : Bool
  /-- Word 0 [53:13] in place. -/
  back : Word
  /-- Word 1 [53:7] in place. -/
  taga : Word
  deriving DecidableEq, Repr

/-- The residency entry at reset: resident, nothing else (R161). -/
def Resid.reset : Resid := ⟨true, false, false, false, 0, 0⟩

/-- A record waiting in the deque or the notice queue, with its arrival order at the core, whether it was raised (R206), the scope of the
acquire made when it is bound (R375, R466), and the pair of a dual-dispatched copy (R364). -/
structure Queued where
  r : Rec
  order : Nat
  raised : Bool
  acq : Nat
  dual : Option DualRole
  /-- The primary copy waits for its secondary to be placed (R364). -/
  needsPair : Bool
  /-- The launch of the record, and the packet that created it. -/
  lid : Option Nat
  pkt : Option (Nat × Nat)
  /-- PID and energy context where the record was built by a thread (R85). -/
  ident : Option (Nat × Nat)
  deriving DecidableEq, Repr

/-- A scratchpad word as it stood before a write of a path, and the mask of the paths that may still read it so (R254); paths by number: 0 T, 1 X, 2 M,
3 W, 4 S, 5 Q, 6 I, 7 C. -/
structure OldWord where
  word : Nat
  path : Nat
  readers : Nat
  old : Word
  deriving DecidableEq, Repr

/-- A thread held in memory (R175, R176): its context as it was left, of which the image holds a part; and the word it waits on. -/
structure HeldThread where
  thread : Ctx
  home : Home
  /-- Its word has changed since it was held; and it has entered the held list (R176). -/
  changed : Bool
  woken : Bool
  order : Nat
  /-- The number under which units and homes go on to answer it, where something is under way for it; none: nothing is (log entry 33). -/
  key : Option Nat
  deriving DecidableEq, Repr

/-- What a held thread's records name (R175, R364). -/
abbrev HeldThread.wsp (h : HeldThread) : Word := h.thread.wsp
abbrev HeldThread.pair (h : HeldThread) : Word := h.thread.pair
abbrev HeldThread.pid (h : HeldThread) : Nat := h.thread.pid
abbrev HeldThread.ectx (h : HeldThread) : Nat := h.thread.ectx
abbrev HeldThread.lid (h : HeldThread) : Option Nat := h.thread.lid
abbrev HeldThread.pkt (h : HeldThread) : Option (Nat × Nat) := h.thread.pkt
abbrev HeldThread.made (h : HeldThread) : Origin := h.thread.made
abbrev HeldThread.dual (h : HeldThread) : Option DualRole := h.thread.dual

/-- An item of the supervisor queue (R215). -/
structure SupItem where
  typ : Nat
  data : Nat
  deriving DecidableEq, Repr

/-- A cached handler entry (R204): the table word and its value. -/
structure HEntry where
  addr : Nat
  val : Word
  deriving DecidableEq, Repr

/-- A core: its scratchpad, caches, queues, links, per-core registers and marks. -/
structure Core where
  spad : SMap Word
  /-- Words as they stood before writes that other paths need not see yet (R254), oldest first. -/
  older : List OldWord
  /-- Words of the scratchpad with an uncorrectable error (R160), rising. -/
  badSpad : List Nat
  /-- The slot whose fill has just failed: the accesses held for it are being answered (R162, R240). -/
  failSlot : Option Nat
  /-- Full tags; an unlisted word is empty (R159). -/
  tags : SMap Bool
  resid : SMap Resid
  /-- Wait registrations of the scratchpad port, in arrival order (R172, R173). -/
  waiters : List Req
  l1 : List L1Line
  /-- The core's slice of a fused L1 has been disabled (R237). -/
  sliceOff : Bool
  icache : List ILine
  links : SMap Word
  /-- The value of a link was sent with `.rel` (R190). -/
  linkRel : SMap Bool
  linkHold : SMap (Word × Bool)
  /-- Values behind the holding slot: those that a value given back by a cancelled instruction has pushed out of it, oldest first (R35, R191). -/
  linkBack : SMap (List (Word × Bool))
  /-- Contexts registered at a link register, in issue order (R14). -/
  linkWait : List (Nat × Nat)
  inbox : List Ev
  deque : List Queued
  notices : List Queued
  heldList : List HeldThread
  supq : List SupItem
  /-- Items whose sources keep them because the queue is full (R215). -/
  supqKept : List SupItem
  faultCount : Nat
  /-- Record faults that wait at the notice-queue port while the supervisor queue is full (R215). -/
  faultWait : List (List Word)
  hbase : Word
  rfbuf : Word
  hcache : List HEntry
  dom : Nat
  levelInt : Nat
  levelEn : Bool
  /-- Device time of the last balancing interval. -/
  levelAt : Nat
  ctxopBsy : Bool
  ctxopErr : Bool
  ctxopOp : Nat
  ctxopCtx : Nat
  pairs : Word
  pairsz : Word
  spare : List Word
  tctx : Nat
  /-- The context that issued last (R21). -/
  last : Nat
  /-- Consecutive slots that the context `last` has issued in with the K hint; 0: no run (R21). -/
  krun : Nat
  seq : Nat
  arrivals : Nat
  /-- The issues so far, and what they have cost since the last interval boundary, in 2^-10 µJ, per energy context (R449). -/
  issues : Nat
  charges : SMap Nat
  pent0 : Word
  pent1 : Word
  pErr : Bool
  pCode : Nat
  mcap : Word
  eaddr : Word
  edet : Word
  esel : Nat
  /-- `y.duty` STEP, CAP, D (R441). -/
  dutyCap : Nat
  dutyD : Nat
  droopSoft : Nat
  droopHard : Nat
  droopLast : Nat
  /-- Device time at which a hard droop stopped the core. -/
  droopAt : Option Nat
  /-- The TYPE 7 item of the latest recovery is still to be queued (R227). -/
  droopItem : Bool
  offline : Bool
  killed : Bool
  /-- What the kill found unreadable: places of the deque, 32 + n for the origin record of context n, and 64 + n for that of
  held thread n (R230). -/
  badRecs : List Nat
  /-- The launch whose pre-emption request was received and not yet resumed (R224). -/
  halted : Bool
  lid : Option Nat
  /-- Context 7 sleeps, with the timer of SLEEP (R212). -/
  asleep : Bool
  sleepAt : Option Nat
  deriving DecidableEq, Repr

/-- A core at reset: context 7 asleep, everything else at the reset values of its register maps. -/
def Core.reset : Core where
  spad := []
  older := []
  badSpad := []
  failSlot := none
  tags := []
  resid := []
  waiters := []
  l1 := []
  sliceOff := false
  icache := []
  links := []
  linkRel := []
  linkHold := []
  linkBack := []
  linkWait := []
  inbox := []
  deque := []
  notices := []
  heldList := []
  supq := []
  supqKept := []
  faultCount := 0
  faultWait := []
  hbase := 0
  rfbuf := 0
  hcache := []
  dom := 0
  levelInt := 3
  levelEn := false
  levelAt := 0
  ctxopBsy := false
  ctxopErr := false
  ctxopOp := 0
  ctxopCtx := 0
  pairs := 0
  pairsz := 0
  spare := []
  tctx := 0
  last := 0
  krun := 0
  seq := 0
  arrivals := 0
  issues := 0
  charges := []
  pent0 := 0
  pent1 := 0
  pErr := false
  pCode := 0
  mcap := 0
  eaddr := 0
  edet := 0
  esel := 0
  dutyCap := 16
  dutyD := 16
  droopSoft := 0
  droopHard := 0
  droopLast := 0
  droopAt := none
  droopItem := false
  offline := false
  killed := false
  badRecs := []
  halted := false
  lid := none
  asleep := true
  sleepAt := none

end Sys2Proof.Machine
end

