-- ==== Sys2Proof/Machine/UnitState.lean ====
section
/-! DEFINITION. The plain data of a cluster's engines: matrix engine, sum-product engine, ray query unit, weaver, BTE, parcel
engine and barriers (R235 to R331). -/

namespace Sys2Proof.Machine

/-- An engine command with everything read at its issue (R267, R296, R329). -/
structure EngCmd where
  opc : Nat
  /-- The issuing context, and its core. -/
  x : Nat
  core : Nat
  pc : Word
  f : Fields
  wd : Word
  wa : Word
  wa1 : Word
  wb : Word
  wb1 : Word
  /-- Vector operands of RQRAY and RQNEAR. -/
  vec : List VReg
  mask : Word
  /-- The long result that the reply fills. -/
  lr : Option Nat
  /-- The issuer's `y.mcap` (R238). -/
  cap : Word
  pri : Nat
  ectx : Nat
  /-- The sender's PID: the engine's accesses are translated under it (R254, R289). -/
  pid : Nat
  deriving DecidableEq, Repr

/-- The engine units that take queued commands. -/
inductive UnitKind where
  | mxe | spe | rqu
  deriving DecidableEq, Repr

/-- A command on the request network, to a cluster; `refused` marks one that a full queue sent back (R268). -/
structure CmdMsg where
  unit : UnitKind
  /-- Device cluster number; none names an offline target (R267). -/
  target : Option Nat
  cmd : EngCmd
  refused : Bool
  deriving DecidableEq, Repr

/-- A completion reply on its way to a context (R268, R296), with the kind-9 notice that follows it. -/
structure EngReply where
  unit : UnitKind
  x : Nat
  core : Nat
  /-- The engine's cluster. -/
  q : Nat
  opc : Nat
  stat : Nat
  lr : Option Nat
  lval : Option Nat
  notice : Option Rec
  deriving DecidableEq, Repr

/-- The matrix engine (R263 to R288). -/
structure Mxe where
  /-- Rows of 256 bytes, row r of slot n under 64n + r. -/
  rows : SMap (BitVec 2048)
  claim : BitVec 64
  /-- Element (i, j) of tile t under 4096t + 64i + j. -/
  acc : SMap (BitVec 32)
  tcsb : Word
  queue : List EngCmd
  cur : Option EngCmd
  done : Nat
  tot : Nat
  /-- Opcode of the latest command begun (R287). -/
  lastOpc : Nat
  /-- Stopped for a pre-empted launch (R285), or restored (R288). -/
  stopped : Bool
  stopReq : Bool
  paused : Bool
  occLid : Nat
  occKey : Nat
  occV : Bool
  /-- Uncorrectable 64-bit words of slots (word w of row r of slot n under 32(64n + r) + w) and elements of tiles; true: found, and marked
  poisoned (R291). -/
  badRows : SMap Bool
  badAcc : SMap Bool
  saveBsy : Bool
  saveErr : Bool
  saveAddr : Word
  saveOp : Nat
  /-- The PID of the context 7 that asked for the operation. -/
  savePid : Nat
  /-- Its core: a local alias in the address names that core (R157). -/
  saveCore : Nat
  deriving DecidableEq, Repr

/-- M = N = K = 64, row-major (R266). -/
def tcsbReset : Word := 0x3F3F3F

/-- The launch-start state of the matrix engine (R263). -/
def Mxe.reset : Mxe where
  rows := []
  claim := 0
  acc := []
  tcsb := tcsbReset
  queue := []
  cur := none
  done := 0
  tot := 0
  lastOpc := 0
  stopped := false
  stopReq := false
  paused := false
  occLid := 0
  occKey := 0
  occV := false
  badRows := []
  badAcc := []
  saveBsy := false
  saveErr := false
  saveAddr := 0
  saveOp := 0
  savePid := 0
  saveCore := 0

/-- The sum-product engine (R292). -/
structure Spe where
  q : SMap Word
  /-- Word k of shape entry e under 8e + k. -/
  shapes : SMap Word
  mode : Nat
  oflow : Bool
  uflow : Bool
  stall : Nat
  queue : List EngCmd
  stopped : Bool
  paused : Bool
  /-- Uncorrectable registers and shape entries; true: found, and marked poisoned (R315). -/
  badQ : SMap Bool
  badShape : SMap Bool
  saveBsy : Bool
  saveErr : Bool
  saveAddr : Word
  saveOp : Nat
  savePid : Nat
  /-- Its core: a local alias in the address names that core (R157). -/
  saveCore : Nat
  deriving DecidableEq, Repr

/-- The launch-start state of the SPE (R292). -/
def Spe.reset : Spe where
  q := []
  shapes := []
  mode := 0
  oflow := false
  uflow := false
  stall := 0
  queue := []
  stopped := false
  paused := false
  badQ := []
  badShape := []
  saveBsy := false
  saveErr := false
  saveAddr := 0
  saveOp := 0
  savePid := 0
  saveCore := 0

/-- The ray query unit (R326). -/
structure Rqu where
  bvh : SMap Word
  queue : List EngCmd
  stopped : Bool
  paused : Bool
  deriving DecidableEq, Repr

/-- The launch-start state of the RQU: every root 0, nothing queued. -/
def Rqu.reset : Rqu := ⟨[], [], false, false⟩

/-- The three states of a weaver buffer (R316). -/
inductive BufState where
  | free | opened | pending | written
  deriving DecidableEq, Repr

/-- A weaver tile buffer: cells by 64 row + col, the first and the last postmark, the count, the causes, the window and the time it was
opened (R318 to R322). `written` is a buffer written out whose record is not yet accepted. -/
structure WvBuf where
  st : BufState
  cells : SMap Nat
  tb : Nat
  lastPmk : Nat
  count : Nat
  cause : Nat
  /-- The window group and the window of its first event (R320). -/
  grp : Option Nat
  window : Nat
  openedAt : Nat
  /-- Order of closing: the one closed earlier is written first. -/
  closed : Nat
  /-- STAT of its write-out, and the TARGET it was written to. -/
  stat : Nat
  tgt : Word
  /-- A condition that closes the open buffer has arisen, at this device time: it closes at the end of that mesh cycle (R320). -/
  dueAt : Option Nat
  deriving DecidableEq, Repr

def WvBuf.reset : WvBuf := ⟨.free, [], 0, 0, 0, 0, none, 0, 0, 0, 0, 0, none⟩

/-- A weaver channel: the installed descriptor words, the two buffers and the counters (R316, R317, R324). -/
structure WvChan where
  en : Bool
  w0 : Word
  target : Word
  w2 : Word
  w3 : Word
  w4 : Word
  arm : Bool
  drop : Nat
  out : Nat
  err : Nat
  b0 : WvBuf
  b1 : WvBuf
  /-- Count of closings, for the order of write-out. -/
  closings : Nat
  /-- The buffer that opens next where both are free: they are used alternately (R316). -/
  turn : Nat
  deriving DecidableEq, Repr

def WvChan.reset : WvChan := ⟨false, 0, 0, 0, 0, 0, false, 0, 0, 0, WvBuf.reset, WvBuf.reset, 0, 0⟩

/-- A BTE transfer in flight: the shadow set sampled at its start (R245). -/
structure Xfer where
  id : Nat
  /-- The issuing context. -/
  x : Nat
  core : Nat
  pid : Nat
  batch : Nat
  src : Word
  dst : Word
  lay : Word
  box : Word
  ext : Word
  opt : Word
  cw : Word
  cv : Word
  pri : Nat
  /-- A kind-6 record to post and the completion write of a transfer whose payload is done (R247, R248). -/
  notice : Option Rec
  moved : Bool
  stat : Nat
  /-- The layout record as read at the start (R244): the status of that read, and its words. -/
  lrec : Option (Nat × List Word)
  deriving DecidableEq, Repr

/-- A barrier (R256). -/
structure Barrier where
  cnt : Nat
  arr : Nat
  drp : Nat
  ph : Nat
  bs : Nat
  deriving DecidableEq, Repr

def Barrier.reset : Barrier := ⟨0, 0, 0, 0, 0⟩

/-- An arrival or a BARI on its way to a barrier unit (R257 to R259). -/
structure BarMsg where
  /-- The barrier. -/
  bar : Nat
  x : Nat
  core : Nat
  remote : Bool
  /-- BARD rather than BARA. -/
  drop : Bool
  /-- BARI: the count and the scope it sets. -/
  init : Option (Nat × Nat)
  lr : Option Nat
  pc : Word
  deriving DecidableEq, Repr

/-- A queued parcel command (R239). -/
structure PceCmd where
  /-- The issuing core. -/
  core : Nat
  op : Nat
  tgt : Nat
  slot : Nat
  deriving DecidableEq, Repr

/-- A cluster (R235). -/
structure Cluster where
  fused : Bool
  mxe : Mxe
  spe : Spe
  rqu : Rqu
  wv : SMap WvChan
  xfers : List Xfer
  nextXfer : Nat
  bars : SMap Barrier
  barMsgs : List BarMsg
  pce : List PceCmd
  /-- Boost state of `y.bstat` (R443, R444). -/
  perm : Nat
  half : Bool
  slot : Bool
  brw : Bool
  step : Nat
  /-- The step that work and leases ask for at the next boundary (R443). -/
  want : Nat
  /-- Intervals since the step was last needed. -/
  idle : Nat
  deriving DecidableEq, Repr

/-- A cluster at reset (R244 and R444 for the boost state). -/
def Cluster.reset : Cluster where
  fused := false
  mxe := Mxe.reset
  spe := Spe.reset
  rqu := Rqu.reset
  wv := []
  xfers := []
  nextXfer := 0
  bars := []
  barMsgs := []
  pce := []
  perm := 64
  half := false
  slot := false
  brw := false
  step := 1
  want := 1
  idle := 0

end Sys2Proof.Machine
end

