-- ==== Sys2Proof/Machine/DieState.lean ====
section
/-! DEFINITION. The plain data of a die: translation, LLC copies, error banks, cluster map, task graph unit, event ingress,
destination stops, integrator sequencers and die control registers (R343 to R421, R430 to R449). -/

namespace Sys2Proof.Machine

/-- A translation cached by a station (R354): the leaf of a granule. -/
structure TlbEntry where
  station : Nat
  pid : Nat
  /-- The leaf is global: it matches every PID. -/
  glob : Bool
  level : Nat
  /-- First virtual 8 KiB page of the granule, and the pages it covers. -/
  vpn : Nat
  pages : Nat
  leaf : Word
  deriving DecidableEq, Repr

/-- A copy in a die's LLC of a line homed elsewhere, or of a die-private page (R348, R357). -/
structure LlcLine where
  bits : LineBits
  dirty : BitVec 128
  poison : Bool
  /-- An acquire has dropped its clean bytes: only the dirty ones are valid. -/
  stale : Bool
  deriving DecidableEq, Repr

/-- An error bank: words 0 to 5 and the corrected count of word 6 (R359). -/
structure Bank where
  w0 : Word
  w1 : Word
  w2 : Word
  w3 : Word
  w4 : Word
  w5 : Word
  ccnt : Nat
  deriving DecidableEq, Repr

def Bank.reset : Bank := ⟨0, 0, 0, 0, 0, 0, 0⟩

/-- A record for an error bank. -/
structure ErrRec where
  rank : Nat
  typ : Nat
  pois : Bool
  ownu : Bool
  av : Bool
  ak : Bool
  addr : Word
  syn : Word
  src : Word
  detail : Word
  deriving DecidableEq, Repr

/-- What one mesh cycle has done to an error bank: the package time, the bank before the cycle's records, the records in their order, and the bank
with them applied (R361). -/
structure BankCycle where
  time : Nat
  base : Bank
  recs : List ErrRec
  out : Bank
  deriving DecidableEq, Repr

/-- An entry of the cluster map: ERR, PND, NEW and PHY (R368). -/
structure CmapEntry where
  err : Bool
  pnd : Bool
  new : Nat
  phy : Nat
  deriving DecidableEq, Repr

/-- One declared operand of a graph node: mode, address, length (R372). -/
structure NodeOp where
  mode : Nat
  addr : Nat
  len : Nat
  deriving DecidableEq, Repr

/-- A slot of the TGU's pool (R371 to R379). -/
structure Node where
  gen : Nat
  lid : Option Nat
  pid : Nat
  ectx : Nat
  /-- The die of the submitting core. -/
  die : Nat
  strm : Nat
  pri : Nat
  r : Bool
  p : Bool
  hd : Bool
  pc : Word
  arg0 : Word
  arg1 : Word
  arg2 : Word
  comp : Word
  hint : Word
  ops : List NodeOp
  unmet : Nat
  succs : List Nat
  /-- Order in which the node became ready, and the device time before which a refused offer is not made again (R370). -/
  readyAt : Option Nat
  again : Nat
  dispatched : Bool
  /-- Largest scope of the GDONEs that released the node (R375). -/
  acq : Nat
  /-- A range: largest scope of the GDONEs of its chunks so far; a node submitted later is released by them as well. -/
  rel : Nat
  range : Bool
  /-- A share held for a range: slot n of die d, which counts completion, as 4096d + n (R378). -/
  shadowOf : Option Nat
  /-- Range: the chunk size, this die's undistributed share [lo, hi), indices not yet reported done of the whole range. -/
  ch : Nat
  lo : Nat
  hi : Nat
  undone : Nat
  /-- The core that took the previous chunk. -/
  lastCore : Option Nat
  /-- The integrator sequencer whose stage the node is (R404). -/
  isq : Option Nat
  pkt : Option (Nat × Nat)
  deriving DecidableEq, Repr

/-- What a source has dropped since its FIFO was full: how many, the last kind, and the port (R388). -/
structure DropRec where
  count : Nat
  kind : Nat
  port : Nat
  deriving DecidableEq, Repr

/-- An entry of a source's FIFO (R388, R389, R391): the event, its source entry as it stood when it entered, the port that received it, and
the destination of the group where it is a heartbeat. -/
structure FifoItem where
  e : Ev
  ent : Word
  port : Nat
  hb : Option Nat
  deriving DecidableEq, Repr

/-- The window state that a destination stop keeps for one group (R391 to R393). -/
structure StopState where
  kOpen : Nat
  /-- Latest postmark received, per source. -/
  lp : SMap Nat
  late : Nat
  /-- First window not yet reported. -/
  k0 : Nat
  /-- Events of windows at or after `k0`, per window: received and handled. -/
  got : SMap Nat
  handled : SMap Nat
  /-- Windows not yet reported that were closed by force. -/
  forced : List Nat
  deriving DecidableEq, Repr

def StopState.reset : StopState := ⟨0, [], 0, 0, [], [], []⟩

/-- An integrator sequencer (R397). Tables are kept as 32-bit words: 92 of the table, then eb[0..7] and κ. -/
structure Isq where
  granted : Option Nat
  tabs : SMap (List (BitVec 32))
  /-- The table the running set is bound to (R414). -/
  tab : List (BitVec 32)
  hdrAddr : Word
  hdr : List Word
  state : Nat
  cause : Nat
  live : Nat
  stg : Nat
  rounds : Nat
  /-- Samples of the submitted batch, in order. -/
  batch : List Nat
  handle : Option Word
  /-- The batch is built and the stage node not yet accepted (R404). -/
  toSubmit : Bool
  stageDone : Bool
  /-- The set has failed; its PROG and its notice wait for a page fill of its core's scratchpad (R240, R420). -/
  progDue : Bool
  submitted : Nat
  stopReq : Bool
  preReq : Bool
  pid : Nat
  ectx : Nat
  core : Nat
  acc : Nat
  rej : Nat
  paused : Bool
  deriving DecidableEq, Repr

def Isq.reset : Isq where
  granted := none
  tabs := []
  tab := []
  hdrAddr := 0
  hdr := []
  state := 7
  cause := 0
  live := 0
  stg := 0
  rounds := 0
  batch := []
  handle := none
  toSubmit := false
  stageDone := false
  progDue := false
  submitted := 0
  stopReq := false
  preReq := false
  pid := 0
  ectx := 0
  core := 0
  acc := 0
  rej := 0
  paused := false

/-- A dual-dispatched pair (R364 to R366): the record, the two contexts, retries, running hashes and the packets waiting. -/
structure DualPair where
  id : Nat
  r : Rec
  lid : Option Nat
  prim : Option Nat
  sec : Option Nat
  retries : Nat
  h0 : Word
  h1 : Word
  /-- The n-th packet of each copy that waits at the pairing stop, and since when: its words. -/
  pk0 : Option (List Word)
  pk1 : Option (List Word)
  at0 : Nat
  at1 : Nat
  deriving DecidableEq, Repr

/-- The run state of a die (R438, R451). -/
inductive DieRun where
  | reset | courierOnly | running
  deriving DecidableEq, Repr

/-- A page migration in progress, or asked for (R436). -/
structure Pmig where
  sz : Nat
  pid : Nat
  vpn : Nat
  deriving DecidableEq, Repr

/-- A die. -/
structure Die where
  run : DieRun
  /-- The other die is fenced off for its reset (R438). -/
  fenced : Bool
  ptab : Word
  tinvBsy : Bool
  /-- The write of TINV that is being carried out (R356). -/
  tinvReq : Word
  /-- TINVLEN as it was when the shootdown was asked for. -/
  tinvRun : Nat
  tinvLen : Nat
  pmigBsy : Bool
  pmigErr : Bool
  pmigDst : Word
  pmigSlot : Word
  pmig : Option Pmig
  bslot : Nat
  dumpBase : Word
  ringEn : Bool
  ringSzm1 : Nat
  ringPos : Nat
  lnk0 : Bool
  lnk1 : Bool
  tlb : List TlbEntry
  llc : SMap LlcLine
  /-- Device-memory waiters of the home slices (R173). -/
  waiters : List Req
  banks : SMap Bank
  /-- The last mesh cycle in which a unit's record reached a bank. -/
  bankCycles : SMap BankCycle
  cmap : SMap CmapEntry
  pool : SMap Node
  gens : SMap Nat
  readyCtr : Nat
  tguSeq : Nat
  portCfg : SMap Word
  badPackets : SMap Nat
  badEvents : SMap Nat
  fifos : SMap (List FifoItem)
  seqs : SMap Nat
  drops : SMap DropRec
  srcTab : SMap Word
  /-- Word w of group g under 8g + w. -/
  groups : SMap Word
  /-- State kept at this die's stops for destination e of group g of die d, under 16(64d + g) + e. -/
  stops : SMap StopState
  /-- When group g was enabled; when source s last sent to destination e of group g, under 4096(16g + e) + s (R391). -/
  grpOn : SMap Nat
  hbSent : SMap Nat
  isqs : SMap Isq
  /-- Boost slots that were free at the last boundary (R446). -/
  slotsFree : Nat
  lending : SMap Word
  energy : SMap Nat
  /-- Energy not yet added to a counter, in 2^-10 uJ (R449). -/
  energyAcc : SMap Nat
  /-- Consecutive intervals with duty at most 4, per core (R440). -/
  lowD : SMap Nat
  pairs : List DualPair
  /-- Consecutive failed flit replays, per link (R346). -/
  flitFails : SMap Nat
  deriving DecidableEq, Repr

/-- A die at reset: held in reset until its boot (R438, R451); registers at the reset values of their maps. -/
def Die.reset : Die where
  run := .reset
  fenced := false
  ptab := 0
  tinvBsy := false
  tinvReq := 0
  tinvRun := 0
  tinvLen := 0
  pmigBsy := false
  pmigErr := false
  pmigDst := 0
  pmigSlot := 0
  pmig := none
  bslot := 16
  dumpBase := 0
  ringEn := false
  ringSzm1 := 0
  ringPos := 0
  lnk0 := false
  lnk1 := false
  tlb := []
  llc := []
  waiters := []
  banks := []
  bankCycles := []
  cmap := []
  pool := []
  gens := []
  readyCtr := 0
  tguSeq := 0
  portCfg := []
  badPackets := []
  badEvents := []
  fifos := []
  seqs := []
  drops := []
  srcTab := []
  groups := []
  stops := []
  grpOn := []
  hbSent := []
  isqs := []
  slotsFree := 16
  lending := []
  energy := []
  energyAcc := []
  lowD := []
  pairs := []
  flitFails := []

end Sys2Proof.Machine
end

