-- ==== Sys2Proof/Machine/FabricState.lean ====
section
/-! DEFINITION. The plain data of the package and the fabric: launches, queues, collectives, host registers, the courier port,
fuses and boot images (R430 to R480). -/

namespace Sys2Proof.Machine

/-- The life of a launch (R469, R470). -/
inductive LaunchRun where
  | running | preempting | preempted | resuming | ending | ended
  deriving DecidableEq, Repr

/-- A launch: the words of its descriptor, its state, word 6 of its initial records, and the queue and packet that submitted it (R468,
R469). -/
structure Launch where
  lid : Nat
  words : List Word
  run : LaunchRun
  comp : Word
  queue : Option Nat
  packet : Nat
  deriving DecidableEq, Repr

/-- A packet that has been dispatched and not completed (R467). -/
structure Packet where
  idx : Nat
  words : List Word
  /-- Threads it created that have not ended. -/
  left : Nat
  /-- The packet itself completes by its own step (copy, signal, collective, lease), not by threads. -/
  own : Bool
  /-- The packet's own operation has been performed. -/
  done : Bool
  deriving DecidableEq, Repr

/-- A wait packet that holds the queue: its words and its deadline (R468). -/
structure WaitHold where
  idx : Nat
  words : List Word
  deadline : Option Nat
  deriving DecidableEq, Repr

/-- What the device keeps of a queue beside its descriptor in memory (R465, R466). -/
structure Queue where
  wrix : Word
  notified : Bool
  /-- Since when the packet at RDIX has had V = 0, and the time of the last read. -/
  vSince : Option Nat
  vLast : Nat
  hold : Option WaitHold
  /-- The packet at RDIX, read and checked, whose dispatch is due. -/
  cur : Option (List Word)
  /-- The threads of that packet have been offered; its entry and RDIX are still to be written (R466, R484). -/
  offered : Bool
  inflight : List Packet
  deriving DecidableEq, Repr

def Queue.reset : Queue := ⟨0, false, none, 0, none, none, false, []⟩

/-- A collective in flight (R475): the queue, packet and descriptor words, and its start. -/
structure Coll where
  queue : Nat
  idx : Nat
  pid : Nat
  words : List Word
  started : Nat
  deriving DecidableEq, Repr

/-- A SYNC group: its PID, the duty G and the count n of intervals with slack (R478). -/
structure SyncGroup where
  pid : Nat
  g : Nat
  n : Nat
  deriving DecidableEq, Repr

/-- A record on its way to a core, or kept by a unit whose offer was refused (R203, R370). -/
structure RecMsg where
  r : Rec
  /-- The receiving core; none while the walk has not found one. -/
  core : Option Nat
  lid : Option Nat
  /-- PID and energy context where the record was built by a thread (R85). -/
  ident : Option (Nat × Nat)
  /-- Where the walk's route starts: the sender's core, or the core position that an edge unit's packets enter, and then true (R343, R344). -/
  sender : Nat × Bool
  /-- The largest acquire scope to perform at binding (R375, R466). -/
  acq : Nat
  /-- Refused: offered again not before this device time. -/
  again : Nat
  /-- A FORK record goes to the bottom of the deque (R201). -/
  bottom : Bool
  dual : Option DualRole
  /-- A levelling transfer: its entry is reserved at the receiver (R208); it was raised where it waited (R206). -/
  levelled : Bool
  raised : Bool
  pkt : Option (Nat × Nat)
  deriving DecidableEq, Repr

/-- An event or heartbeat on its way to a destination stop (R389, R391). -/
structure EvMsg where
  e : Ev
  die : Nat
  src : Nat
  /-- The port that received it. -/
  port : Nat
  heartbeat : Bool
  /-- Logical core of the destination, and the weaver channel where it is one. -/
  core : Nat
  weaver : Option Nat
  /-- The group and destination it counts at, as StopState numbers them. -/
  group : Option Nat
  /-- Passed its destination stop: it is about to enter the inbox or the weaver. -/
  passed : Bool
  deriving DecidableEq, Repr

/-- A thread packet (R27, R28): the origin's copy, the destination core, and the acknowledgement with the pair the destination held. -/
structure MigMsg where
  /-- The origin context. -/
  x : Nat
  dst : Nat
  ctx : Ctx
  /-- The departure frame's address. -/
  frame : Word
  /-- Lines that the context had dirtied at the origin (R27, step 2). -/
  lines : List Nat
  ack : Option Word
  automatic : Bool
  /-- The departure frame could not be read at the destination. -/
  failed : Bool
  /-- The MIGR, or the access that triggered the migration. -/
  pc : Word
  deriving DecidableEq, Repr

/-- A response the courier port has sent: CMD, TAG, STATUS and the payload's bytes (R479). -/
structure CourierOut where
  cmd : Nat
  tag : Nat
  status : Nat
  payload : List Nat
  deriving DecidableEq, Repr

/-- A completed host read, or an unsupported request (R460). -/
structure HostOut where
  addr : Nat
  data : List Nat
  /-- EP set: the line was poisoned. -/
  ep : Bool
  ur : Bool
  deriving DecidableEq, Repr

/-- One boot image as staged or in flash: kind, security version, its bytes (R452). -/
structure Image where
  kind : Nat
  version : Nat
  bytes : List Nat
  deriving DecidableEq, Repr

/-- The 64 bytes of a command in an engine image and the command they stand for: they have no layout in the spec (log entry 14). -/
structure EngImage where
  bytes : List Word
  cmd : EngCmd
  deriving DecidableEq, Repr

/-- What a context image leaves out of the context it saves, kept aside under the core and the image's place (R223): what made the thread, its
launch and packet, causes that are pending and stores whose faults are deferred. -/
structure CtxImage where
  core : Nat
  /-- The number of the context it left. -/
  no : Nat
  wsp : Word
  pair : Word
  made : Origin
  lid : Option Nat
  pkt : Option (Nat × Nat)
  chunks : List Word
  acq : Nat
  pend : List TrapInfo
  deferred : List DeferredStore
  deferArmed : Bool
  wrote : List Nat
  /-- Long results that engines stopped with the launch still owe (R285). -/
  owed : List LongRes
  deriving DecidableEq, Repr

/-- What the shipped Withy keeps of a core while its launch is pre-empted, beside the save area: which images it saved there, and what the
queued items carry beyond their words (R226, R486; log entry 16). -/
structure CoreSave where
  core : Nat
  lid : Nat
  wsps : List Word
  events : List Ev
  deque : List Queued
  notices : List Queued
  /-- Engine commands of the saved contexts that were on their way (R269). -/
  cmds : List CmdMsg
  deriving DecidableEq, Repr

/-- A dump that is due (R450): the dies, the cause, the trigger's device time, DUMPBASE of each die at the trigger, and whether DCTL or the
courier port asked for it; the courier's TAG. -/
structure DumpReq where
  mask : Nat
  cause : Nat
  time : Nat
  base0 : Nat
  base1 : Nat
  dctl : Bool
  courier : Option Nat
  deriving DecidableEq, Repr

/-- A reset that is due (R438): the dies, who asked for it, and whether the dies have been reset and are to boot. -/
structure ResetReq where
  mask : Nat
  began : Bool
  dctl : Bool
  courier : Option Nat
  deriving DecidableEq, Repr

/-- What moves next (log entry 3): an issue slot of a core, a step of the machine, or the passing of device time. -/
inductive Turn where
  | slot (core : Nat)
  | event (i : Instr)
  | tick (ns : Nat)
  deriving DecidableEq, Repr

/-- The installed memory (R434): 64, 128 or 256 GiB. -/
inductive Capacity where
  | gib64 | gib128 | gib256
  deriving DecidableEq, Repr

/-- The package and the outside world's registers. -/
structure Package where
  capacity : Capacity
  /-- Device time in ns (R438: kept by the always-on domain). -/
  time : Nat
  modulesOff : List Nat
  replayFails : SMap Nat
  power : Nat
  powerNext : Nat
  qtab : Word
  queues : SMap Queue
  lctlBsy : Bool
  lctlErr : Bool
  lctlOp : Nat
  lctlLid : Nat
  /-- The cores that the broadcast of a pre-emption has not reached yet, and whether it has been sent. -/
  lctlCores : List Nat
  lctlSent : Bool
  dctlBsy : Bool
  dctlErr : Bool
  dctlOp : Nat
  dctlDie : Nat
  msixEn : Bool
  msixFMask : Bool
  /-- MSI-X table: word 2v is entry v's message address, word 2v + 1 its data [31:0] and vector control [63:32]. -/
  msixTab : SMap Word
  msixPend : List Nat
  msixSent : List Nat
  hostMem : SMap Byte
  colls : List Coll
  /-- The SYNC groups that this device is a member of, in the order in which they came up (R478). -/
  sync : List SyncGroup
  peerFails : SMap Nat
  hostOut : List HostOut
  courierBusy : Bool
  courierOut : List CourierOut
  /-- The Ethernet address of the courier port, once it has been set. -/
  courierAddr : Option Word
  /-- In-band interrupts that the courier port has raised. -/
  courierIrqs : Nat
  staged : SMap Byte
  stagedLen : Nat
  flash : List Image
  running : List Image
  minVer : SMap Nat
  /-- The fused SHAKE256 digest of the images' public key (R452). -/
  keyDigest : List Nat
  /-- Since when an engine of kind k and number n is paused by a hard droop, under 8n + k (R448). -/
  pausedAt : SMap Nat
  devId : Nat
  attestBlock : Nat
  attestPos : Nat
  launches : List Launch
  engImages : List EngImage
  ctxImages : List CtxImage
  coreSaves : List CoreSave
  dumps : List DumpReq
  resets : List ResetReq
  deriving DecidableEq, Repr

/-- The package at reset: log entry 2 names the values the spec gives no reset for (power, image stores, fuses). -/
def Package.reset : Package where
  capacity := .gib256
  time := 0
  modulesOff := []
  replayFails := []
  power := 240
  powerNext := 240
  qtab := 0
  queues := []
  lctlBsy := false
  lctlErr := false
  lctlOp := 0
  lctlLid := 0
  lctlCores := []
  lctlSent := false
  dctlBsy := false
  dctlErr := false
  dctlOp := 0
  dctlDie := 0
  msixEn := false
  msixFMask := false
  msixTab := []
  msixPend := []
  msixSent := []
  hostMem := []
  colls := []
  sync := []
  peerFails := []
  hostOut := []
  courierBusy := false
  courierOut := []
  courierAddr := none
  courierIrqs := 0
  staged := []
  stagedLen := 0
  flash := []
  running := []
  minVer := []
  keyDigest := List.replicate 32 0
  pausedAt := []
  devId := 0
  attestBlock := 0
  attestPos := 0
  launches := []
  engImages := []
  ctxImages := []
  coreSaves := []
  dumps := []
  resets := []

end Sys2Proof.Machine
end

