-- ==== Sys2Proof/Machine/State.lean ====
section
/-! DEFINITION. The state of the whole device, as plain data, and its value at reset. -/

namespace Sys2Proof.Machine

/-- Why the machine stops with a fault. -/
inductive Fault where
  /-- A state that names a core, a die or a unit outside the device (R1): raised by `step` when the schedule or the state holds
  such a number. Safe: the device has no such unit. -/
  | noSuchUnit
  deriving DecidableEq, Repr

/-- Why the machine has no meaning to give. -/
inductive Refusal where
  /-- An instruction whose meaning is not written: raised by its arm of `exec` alone. Safe. -/
  | notModelled (mnemonic : String)
  deriving DecidableEq, Repr

/-- The device. Contexts lie under 8 × core + context, cores under 768 × die + 32 × row + column, clusters under
96 × die + 8 × cluster row + cluster column (R235). -/
structure State where
  ctxs : SMap Ctx
  cores : SMap Core
  clusters : SMap Cluster
  dies : SMap Die
  pkg : Package
  /-- Device memory by physical address, at the home slices (R347). -/
  mem : List Host.Cell
  /-- Poisoned lines of device memory, rising (R349). -/
  poison : List Nat
  /-- Requests in flight. -/
  reqs : List Req
  cmds : List CmdMsg
  replies : List EngReply
  recs : List RecMsg
  evs : List EvMsg
  migs : List MigMsg
  /-- The context that executes: set by an issue slot. -/
  cur : Nat
  /-- What moves next; with nothing listed, an issue slot of the focus core. -/
  agenda : List Turn
  focus : Nat
  nextId : Nat
  /-- The model's own counter: the free value `Config.freeWord` is applied to it. -/
  freeCtr : Nat
  deriving DecidableEq, Repr

/-- The device right after reset: every unit at its reset values, both dies before their boot, memory with nothing listed. -/
def State.reset : State where
  ctxs := []
  cores := []
  clusters := []
  dies := []
  pkg := Package.reset
  mem := []
  poison := []
  reqs := []
  cmds := []
  replies := []
  recs := []
  evs := []
  migs := []
  cur := 0
  agenda := []
  focus := 0
  nextId := 0
  freeCtr := 0

end Sys2Proof.Machine
end

