-- ==== Sys2Proof/Machine/Bits.lean ====
section
/-! DEFINITION. Bit fields, extensions and byte order, and the numbering of cores, contexts and clusters (R4, R157, R235). -/

namespace Sys2Proof.Machine

/-- Bits `lo` to `lo + len - 1` of a word, as a number. -/
def fld (w : Word) (lo len : Nat) : Nat := natBits w.toNat lo len

/-- Bit `n` of a word. -/
def bitAt (w : Word) (n : Nat) : Bool := w.getLsbD n

/-- A field of `len` bits at `lo`, as a word. -/
def put (n lo len : Nat) : Word := BitVec.ofNat 64 ((n % 2 ^ len) <<< lo)

/-- A word with its field of `len` bits at `lo` replaced. -/
def setFld (w : Word) (lo len n : Nat) : Word :=
  (w &&& ~~~(BitVec.ofNat 64 ((2 ^ len - 1) <<< lo))) ||| put n lo len

/-- One bit as a word's field. -/
def flag (b : Bool) (lo : Nat) : Word := if b then BitVec.ofNat 64 (1 <<< lo) else 0

/-- A number as `n` little-endian bytes. -/
def natBytes (v : Nat) : Nat → List Nat
  | 0 => []
  | n + 1 => v % 256 :: natBytes (v / 256) n

/-- A number of `bits` bits read as two's complement (R62). -/
def signedOf (bits n : Nat) : Int :=
  if n % 2 ^ bits < 2 ^ (bits - 1) then (n % 2 ^ bits : Nat) else (n % 2 ^ bits : Nat) - (2 ^ bits : Nat)

/-- An integer modulo 2^bits. -/
def wrapInt (bits : Nat) (i : Int) : Nat := (i % (2 ^ bits : Nat)).toNat

/-- A 64-bit word sign-extended from its low `bits` bits. -/
def sextW (bits n : Nat) : Word := BitVec.ofNat 64 (wrapInt 64 (signedOf bits n))

/-- 64 copies of one bit (R12). -/
def allOf (b : Bool) : Word := if b then 0xFFFF_FFFF_FFFF_FFFF else 0

/-- The bytes of an element type (R170). -/
def tyBytes (ty : Nat) : Nat :=
  match ty with
  | 0 | 1 | 12 | 13 => 1
  | 2 | 3 | 9 | 10 => 2
  | 6 | 7 | 15 => 8
  | 14 => 1
  | _ => 4

/-- The bits of a lane of an element type (R101, R129). -/
def tyBits (ty : Nat) : Nat := if ty = 14 then 6 else 8 * tyBytes ty

/-- Bits `w` wide from bit `w × i` of a register. -/
def laneGet (v : VReg) (w i : Nat) : Nat := natBits v.toNat (w * i) w

/-- Is the element type a signed integer (R49). -/
def tySigned (ty : Nat) : Bool := ty = 0 || ty = 2 || ty = 4 || ty = 6

/-- A value of an element type widened to 64 bits: sign-extended for i types, zero-extended for every other (R62, R170). -/
def extendTy (ty n : Nat) : Word :=
  if tySigned ty then sextW (tyBits ty) n else BitVec.ofNat 64 (n % 2 ^ tyBits ty)

/-- The core of a context. -/
def coreOf (x : Nat) : Nat := x / 8

/-- The number of a context in its core. -/
def ctxNo (x : Nat) : Nat := x % 8

/-- The contexts of a core, by number. -/
def ctxKey (k c : Nat) : Nat := 8 * k + c

/-- The die of a core. -/
def coreDie (k : Nat) : Nat := k / 768

/-- The row of a core, 0 to 23. -/
def coreRow (k : Nat) : Nat := k % 768 / 32

/-- The column of a core, 0 to 31. -/
def coreCol (k : Nat) : Nat := k % 32

/-- The core at a coordinate. -/
def coreAt (d r c : Nat) : Nat := 768 * d + 32 * r + c

/-- The cluster of a core (R235). -/
def clusterOf (k : Nat) : Nat := 96 * coreDie k + 8 * (coreRow k / 2) + coreCol k / 4

/-- The number of a core in its cluster: 4i + j (R235). -/
def coreInCluster (k : Nat) : Nat := 4 * (coreRow k % 2) + coreCol k % 4

/-- Core `n` of a cluster (R235). -/
def clusterCore (q n : Nat) : Nat :=
  coreAt (q / 96) (2 * (q % 96 / 8) + n / 4) (4 * (q % 8) + n % 4)

/-- Is the cluster L-class: odd columns are (R235). -/
def clusterL (q : Nat) : Bool := q % 2 == 1

/-- The global scratchpad address of offset 0 of a core (R93, R157). -/
def coreAddr (k : Nat) : Word :=
  flag true 53 ||| put (coreDie k) 49 1 ||| put (coreRow k) 44 5 ||| put (coreCol k) 39 5

/-- The core that bits [49:39] of a word name, where the row exists (R157). -/
def coreNamed (a : Word) : Option Nat :=
  if fld a 44 5 ≤ 23 then some (coreAt (fld a 49 1) (fld a 44 5) (fld a 39 5)) else none

/-- Hops between two cores of one die (R344). -/
def hops (a b : Nat) : Nat :=
  let dr := if coreRow a ≤ coreRow b then coreRow b - coreRow a else coreRow a - coreRow b
  let dc := if coreCol a ≤ coreCol b then coreCol b - coreCol a else coreCol a - coreCol b
  dr + dc

/-- Words of a record by number. -/
def Rec.word (r : Rec) (i : Nat) : Word :=
  match i with
  | 0 => r.w0 | 1 => r.w1 | 2 => r.w2 | 3 => r.w3 | 4 => r.w4 | 5 => r.w5 | 6 => r.w6 | _ => r.w7

/-- A record of eight words. -/
def Rec.ofWords (f : Nat → Word) : Rec := ⟨f 0, f 1, f 2, f 3, f 4, f 5, f 6, f 7⟩

/-- The kind of a record (R200). -/
def Rec.kind (r : Rec) : Nat := fld r.w0 0 4

/-- The priority of a record (R200). -/
def Rec.pri (r : Rec) : Nat := fld r.w0 8 2

/-- Is the record pinned (R200). -/
def Rec.pinned (r : Rec) : Bool := bitAt r.w0 4

/-- Is the record dual-dispatched (R200). -/
def Rec.dualFlag (r : Rec) : Bool := bitAt r.w0 5

/-- Is the record restartable (R200). -/
def Rec.restart (r : Rec) : Bool := bitAt r.w0 6

/-- A scope word: 110 and 111 store 100 (R92). -/
def fixScope (v : Word) : Word := if 6 ≤ fld v 0 3 then setFld v 0 3 4 else v

/-- The register forms of a completion or counter word, of `y.lbody`, of a line-aligned address and of the origin word: their reserved bits read
as zero (R7, R16, R75, R92, R95). -/
def scopeReg (v : Word) : Word := fixScope (put (fld v 0 54) 0 54)
def lbodyReg (v : Word) : Word := put (fld v 60 4) 60 4 ||| put (fld v 2 52) 2 52 ||| put (fld v 0 1) 0 1
def lineReg (v : Word) : Word := put (fld v 6 58) 6 58
def originReg (v : Word) : Word := put (fld v 63 1) 63 1 ||| put (fld v 39 11) 39 11 ||| put (fld v 0 32) 0 32

/-- Remove the element at a place of a list. -/
def dropAt {α : Type} (l : List α) (i : Nat) : List α := l.take i ++ l.drop (i + 1)

end Sys2Proof.Machine
end

