-- ==== Sys2Proof/Machine/Base.lean ====
section
/-! DEFINITION. The named operations over contexts, cores and registers; the supervisor queue; error records; long results and the replies
to requests. -/

namespace Sys2Proof.Machine

/-- What a meaning answers. -/
abbrev Out := Host.Outcome State Fault Refusal

/-! ### Units of the device -/

/-- Context `x` of the device. -/
def State.ctx (s : State) (x : Nat) : Ctx := s.ctxs.getD x Ctx.reset

/-- Replace context `x`. -/
def State.setCtx (s : State) (x : Nat) (c : Ctx) : State := { s with ctxs := s.ctxs.put x c }

/-- Change context `x`. -/
def State.modCtx (s : State) (x : Nat) (g : Ctx → Ctx) : State := s.setCtx x (g (s.ctx x))

/-- Core `k`. -/
def State.core (s : State) (k : Nat) : Core := s.cores.getD k Core.reset

/-- Replace core `k`. -/
def State.setCore (s : State) (k : Nat) (c : Core) : State := { s with cores := s.cores.put k c }

/-- Change core `k`. -/
def State.modCore (s : State) (k : Nat) (g : Core → Core) : State := s.setCore k (g (s.core k))

/-- Cluster `q`. -/
def State.cluster (s : State) (q : Nat) : Cluster := s.clusters.getD q Cluster.reset

/-- Change cluster `q`. -/
def State.modCluster (s : State) (q : Nat) (g : Cluster → Cluster) : State :=
  { s with clusters := s.clusters.put q (g (s.cluster q)) }

/-- Die `d`. -/
def State.die (s : State) (d : Nat) : Die := s.dies.getD d Die.reset

/-- Change die `d`. -/
def State.modDie (s : State) (d : Nat) (g : Die → Die) : State := { s with dies := s.dies.put d (g (s.die d)) }

/-- Change the package. -/
def State.modPkg (s : State) (g : Package → Package) : State := { s with pkg := g s.pkg }

/-- A fresh number for a request or a long result. -/
def State.fresh (s : State) : Nat × State := (s.nextId, { s with nextId := s.nextId + 1 })

/-- The next free value (log entry 1). -/
def State.free (s : State) : Word × State := (Config.freeWord s.freeCtr, { s with freeCtr := s.freeCtr + 1 })

/-! ### Registers of a context -/

/-- The stack entry that `w`n names (R10). -/
def Ctx.entry (c : Ctx) (n : Nat) : Nat := (8 * c.wf + n) % 64

/-- `w`n: a view onto the register stack (R10). -/
def Ctx.w (c : Ctx) (n : Nat) : Word := c.stack.getD (c.entry n) 0

/-- Write an entry of the register stack. -/
def Ctx.setEntry (c : Ctx) (e : Nat) (v : Word) : Ctx := { c with stack := c.stack.put (e % 64) v }

/-- Write `w`n. -/
def Ctx.setW (c : Ctx) (n : Nat) (v : Word) : Ctx := c.setEntry (c.entry n) v

/-- `p`n; `p0` reads all ones (R9). -/
def Ctx.pred (c : Ctx) (n : Nat) : Word := if n = 0 then allOf true else c.p.getD n 0

/-- Write `p`n; a write to `p0` is discarded (R9). -/
def Ctx.setPred (c : Ctx) (n : Nat) (v : Word) : Ctx := if n = 0 then c else { c with p := c.p.put n v }

/-- `v`n. -/
def Ctx.vec (c : Ctx) (n : Nat) : VReg := c.v.getD n 0

/-- Write `v`n; the vector state is then live (R13). -/
def Ctx.setVec (c : Ctx) (n : Nat) (v : VReg) : Ctx := { c with v := c.v.put n v, vl := true }

/-- Does the guard pass (R38). -/
def guardPasses (h : Hdr) (c : Ctx) : Bool := (bitAt (c.pred h.gp.toNat) 0) != h.neg

/-- Does the context hold a thread. -/
def Ctx.occupied (c : Ctx) : Bool := c.run != .free

/-! ### The supervisor queue (R215) -/

/-- Queue an item for the core's Withy and wake context 7; a full queue leaves the item with its source. -/
def supPush (k : Nat) (typ data : Nat) (s : State) : State :=
  s.modCore k fun c =>
    let it : SupItem := ⟨typ, data % 65536⟩
    if c.supq.length < 64 then { c with supq := c.supq ++ [it], asleep := false, sleepAt := none }
    else { c with supqKept := c.supqKept ++ [it], asleep := false, sleepAt := none }

/-- Take the oldest item; an item that its source kept then enters the queue (R215, R220). -/
def supPop (k : Nat) (s : State) : Option SupItem × State :=
  match (s.core k).supq with
  | [] => (none, s)
  | it :: rest =>
    (some it, s.modCore k fun c =>
      match c.supqKept with
      | [] => { c with supq := rest }
      | m :: more => { c with supq := rest ++ [m], supqKept := more })

/-- The queue service core of a die: (d, 0, 0) (R466). -/
def serviceCore (d : Nat) : Nat := coreAt d 0 0

/-! ### MSI-X (R464) -/

/-- Is a vector masked: bit 0 of its entry's vector control, which PCIe resets to 1. -/
def Package.vectorMasked (p : Package) (v : Nat) : Bool := bitAt (p.msixTab.getD (2 * v + 1) (flag true 32)) 32

/-- Send a vector, or keep it pending while MSI-X is off or masked; a pending vector is kept once. -/
def sendVector (v : Nat) (s : State) : State :=
  s.modPkg fun p =>
    if p.msixEn && !p.msixFMask && !(p.vectorMasked v) then { p with msixSent := p.msixSent ++ [v] }
    else if p.msixPend.contains v then p else { p with msixPend := p.msixPend ++ [v] }

/-! ### Error records (R358 to R362) -/

/-- Word 0 of a bank for a record (R359). -/
def ErrRec.status (e : ErrRec) (ovf : Bool) : Word :=
  flag true 63 ||| flag ovf 62 ||| put e.rank 60 2 ||| flag e.pois 59 ||| flag e.ownu 58 ||| flag e.av 57
    ||| flag e.ak 56 ||| put e.typ 48 8

/-- The physical cluster of a die that a logical one stands for (R367, R368). -/
def physCluster (s : State) (d n : Nat) : Nat := ((s.die d).cmap.getD n ⟨false, false, n, n⟩).phy

/-- The physical coordinate of a core, as a core number: error records report it (R367). -/
def physCore (s : State) (k : Nat) : Nat :=
  clusterCore (96 * coreDie k + physCluster s (coreDie k) (clusterOf k % 96) % 96) (coreInCluster k)

/-- Word 3 for a core's unit: its physical coordinate, the unit, and a context's PID and energy context where one is named (R359, R367). -/
def errSource (s : State) (k unit : Nat) (x : Option (Nat × Nat × Nat)) : Word :=
  let p := physCore s k
  put (coreDie p) 49 1 ||| put (coreRow p) 44 5 ||| put (coreCol p) 39 5 ||| put unit 32 4 |||
    match x with
    | none => 0
    | some (pid, ectx, c) => put pid 16 12 ||| put ectx 8 8 ||| flag true 3 ||| put c 0 3

/-- Word 3 for an edge unit of a die. -/
def errEdge (d unit : Nat) : Word := put d 49 1 ||| put unit 32 4

/-- A bank whose V is cleared: words 0 to 5 and 7 are zero, and CCNT stays (R359). -/
def Bank.clear (b : Bank) : Bank := { Bank.reset with ccnt := b.ccnt }

/-- The record as the bank holds it. -/
def Bank.load (b : Bank) (e : ErrRec) (now : Nat) : Bank :=
  { b with w0 := e.status (bitAt b.w0 62), w1 := e.addr, w2 := e.syn, w3 := e.src, w4 := BitVec.ofNat 64 now, w5 := e.detail }

/-- What a bank does with a record that reaches it (R361). -/
def Bank.apply (b : Bank) (e : ErrRec) (now : Nat) : Bank :=
  let b1 := if e.rank = 1 then { b with ccnt := min (b.ccnt + 1) (2 ^ 32 - 1) } else b
  if !(bitAt b.w0 63) then { b1.load e now with w0 := e.status false }
  else if fld b.w0 60 2 < e.rank then b1.load e now
  else if fld b.w0 60 2 = e.rank then { b1 with w0 := b1.w0 ||| flag true 62 }
  else b1

/-- An uncorrected record that reaches bank `b` of die `d` queues the machine check, sends vector 0 and raises an interrupt at the courier port
(R361, R464, R479). -/
def machineCheck (d b : Nat) (e : ErrRec) (s : State) : State :=
  if e.rank = 3 then sendVector 0 (supPush (serviceCore d) 6 (0x4000 ||| b) (s.modPkg fun p => { p with courierIrqs := p.courierIrqs + 1 }))
  else s

/-- A record reaches bank `b` of die `d` in a mesh cycle of its own (R361). -/
def postError (d b : Nat) (e : ErrRec) (s : State) : State :=
  machineCheck d b e (s.modDie d fun dd => { dd with banks := dd.banks.put b ((dd.banks.getD b Bank.reset).apply e s.pkg.time) })

/-- The bank of a core (R358), by its physical cluster row. -/
def coreBank (s : State) (k : Nat) : Nat := if coreRow (physCore s k) / 2 ≤ 5 then 12 else 13

/-- A record reaches a bank whose syndrome and detail the spec does not state: they are free values (log entry 1). -/
def postErrorOpen (d b : Nat) (e : ErrRec) (s : State) : State :=
  let (syn, s1) := s.free
  let (det, s2) := s1.free
  postError d b { e with syn := syn, detail := det } s2

/-! ### Threads of queue packets (R468) -/

/-- A thread that a queue packet created has ended, or its record or node will never become one (R468). -/
def packetEnd (pkt : Option (Nat × Nat)) (s : State) : State :=
  match pkt with
  | none => s
  | some (q, n) =>
    s.modPkg fun p =>
      let qu := p.queues.getD q Queue.reset
      let l := qu.inflight.map fun e => if e.idx = n then { e with left := e.left - 1 } else e
      { p with queues := p.queues.put q { qu with inflight := l } }

/-- The threads of several queue packets end. -/
def packetsEnd (ps : List (Option (Nat × Nat))) (s : State) : State := ps.foldl (fun t p => packetEnd p t) s

/-! ### Long results and replies (R22 to R24, R35) -/

/-- The contexts that a reply to `x` reaches: the other copy of a dual-dispatched pair gets it as well (R365). -/
def replyTo (x : Nat) (s : State) : List Nat :=
  match (s.ctx x).dual with
  | none => [x]
  | some r =>
    match (s.die (coreDie (coreOf x))).pairs.find? (fun q => q.id == r.pair) with
    | none => [x]
    | some q => (q.prim.toList ++ q.sec.toList)

/-- Apply a change to a context and to the other copy of its pair (R365). -/
def State.modBoth (s : State) (x : Nat) (g : Ctx → Ctx) : State := (replyTo x s).foldl (fun t y => t.modCtx y g) s

/-- The core at which what a copy starts is performed: the primary's (R365). -/
def packetCore (s : State) (x : Nat) : Nat := coreOf ((replyTo x s).headD x)

/-- Fill the long result `id` of context `x`. -/
def fillLong (x id : Nat) (v : LongVal) (s : State) : State :=
  (replyTo x s).foldl (fun t y => t.modCtx y fun c =>
    { c with outstanding := c.outstanding.map fun r => if r.id = id then { r with val := some v } else r }) s

/-- Start a long result of context `x`; the value may be known at once or when its access is performed. -/
def startLong (x : Nat) (dst : LongDst) (v : Option LongVal) (s : State) : Nat × State :=
  let (id, s1) := s.fresh
  (id, s1.modCtx x fun c => { c with outstanding := c.outstanding ++ [⟨id, dst, v, 0⟩] })

/-- The long result that D names: an entry of the register stack, fixed at issue. -/
def Ctx.longDst (c : Ctx) (d : Opnd) : LongDst :=
  match d with
  | .w n => .w (c.entry n.toNat)
  | _ => .none

/-- A response-class cause arrives at context `x` (R35). -/
def postTrap (x : Nat) (t : TrapInfo) (s : State) : State :=
  (replyTo x s).foldl (fun u y => u.modCtx y fun c => { c with pend := c.pend ++ [t] }) s

/-- A store of element `e` of VST `g` of context `x` has failed: the lowest such element keeps its trap (R155). -/
def vstFail (x g e : Nat) (t : TrapInfo) (s : State) : State :=
  s.modCtx x fun c =>
    match c.vstFails.get? g with
    | some (n, _) => if n ≤ e then c else { c with vstFails := c.vstFails.put g (e, t) }
    | none => { c with vstFails := c.vstFails.put g (e, t) }

/-- Once no element of VST `g` is under way, its trap is pending (R155). -/
def vstSettle (x g : Nat) (s : State) : State :=
  if s.reqs.any fun r => r.x == x && r.vst.any fun v => v.1 == g then s
  else match (s.ctx x).vstFails.get? g with
    | some (_, t) => postTrap x t (s.modCtx x fun c => { c with vstFails := c.vstFails.erase g })
    | none => s

/-- The home's answer to a request: it ends the wait, or fills the long result, or posts an error of a write (R35, R169). -/
def replyReq (r : Req) (v : LongVal) (s : State) : State :=
  if r.waits then
    (replyTo r.x s).foldl (fun t y => t.modCtx y fun c =>
      match c.run with
      | .waiting w => { c with run := .waiting { w with reply := some v } }
      | _ => c) s
  else match r.lr with
    | some id => fillLong r.x id v s
    | none => match r.vst, v with
      | none, .fail t => postTrap r.x t s
      | none, .ok _ => s
      | some (g, e), .fail t => vstSettle r.x g (vstFail r.x g e t s)
      | some (g, _), .ok _ => vstSettle r.x g s

/-- The trap of an error response: 0x0C with the code in `y.finfo` (R169). -/
def errTrap (r : Req) (code : Nat) : TrapInfo := ⟨0x0C, none, r.pc, some r.va, BitVec.ofNat 64 code⟩

/-! ### The contexts and neighbours of a core, and events that count as handled -/

/-- Every context of a core, by key. -/
def coreCtxs (k : Nat) : List Nat := (List.range 8).map (ctxKey k)

/-- The user contexts of a core, by key. -/
def userCtxs (k : Nat) : List Nat := (List.range 7).map (ctxKey k)

/-- The postmaster of a cluster (R230): its lowest-numbered online core, or the die's queue service core. -/
def postmaster (s : State) (q : Nat) : Nat :=
  match ((List.range 8).map (clusterCore q)).find? (fun k => !(s.core k).offline) with
  | some k => k
  | none => serviceCore (q / 96)

/-- Count an event handled in its window at a destination core (R211, R391). -/
def markHandled (k : Nat) (e : Ev) (s : State) : State :=
  match e.grp with
  | none => s
  | some ge =>
    s.modDie (coreDie k) fun d =>
      let st := d.stops.getD ge StopState.reset
      { d with stops := d.stops.put ge { st with handled := st.handled.put e.win (st.handled.getD e.win 0 + 1) } }

/-- What is under way for context `x` answers `y` from now on. -/
def readdress (x y : Nat) (s : State) : State :=
  let n := fun i => if i = x then y else i
  let cmd := fun (e : EngCmd) => { e with x := n e.x }
  let req := fun (r : Req) => { r with x := n r.x }
  { s with
    reqs := s.reqs.map req
    cmds := s.cmds.map fun m => { m with cmd := cmd m.cmd }
    replies := s.replies.map fun r => { r with x := n r.x }
    cores := s.cores.map fun e => (e.1, { e.2 with waiters := e.2.waiters.map req })
    dies := s.dies.map fun e => (e.1, { e.2 with waiters := e.2.waiters.map req })
    clusters := s.clusters.map fun e => (e.1, { e.2 with
      mxe := { e.2.mxe with queue := e.2.mxe.queue.map cmd, cur := e.2.mxe.cur.map cmd }
      spe := { e.2.spe with queue := e.2.spe.queue.map cmd }
      rqu := { e.2.rqu with queue := e.2.rqu.queue.map cmd }
      xfers := e.2.xfers.map fun t => { t with x := n t.x }
      barMsgs := e.2.barMsgs.map fun m => { m with x := n m.x } })
    pkg := { s.pkg with engImages := s.pkg.engImages.map fun e => { e with cmd := cmd e.cmd } } }

/-- The event that created a thread, if one did. -/
def Origin.event? (o : Origin) : Option Ev :=
  match o with
  | .event e => some e
  | _ => Option.none

/-- The event whose handler runs in a context, if it has one. -/
def Ctx.event? (c : Ctx) : Option Ev :=
  match c.run with
  | .free => none
  | _ => c.made.event?

/-- The neighbours of a core on its die, in the order north, east, south, west (R190, R208). -/
def neighbours (k : Nat) : List (Option Nat) :=
  let d := coreDie k
  let r := coreRow k
  let c := coreCol k
  [ if r = 0 then none else some (coreAt d (r - 1) c),
    if c = 31 then none else some (coreAt d r (c + 1)),
    if r = 23 then none else some (coreAt d (r + 1) c),
    if c = 0 then none else some (coreAt d r (c - 1)) ]

/-- Answer every pending `l` read of a core with an error response (R191). -/
def failLinkReads (k : Nat) (s : State) : State :=
  let pending := (s.core k).linkWait
  let s1 := s.modCore k fun c => { c with linkWait := [] }
  pending.foldl (fun t e => t.modCtx e.2 fun c =>
    match c.run with
    | .waiting w => { c with run := .waiting { w with reply := some (.fail ⟨0x0C, none, c.pc, none, 1⟩) } }
    | _ => c) s1

/-- Is a request addressed to the scratchpad of core `k`. -/
def Req.atCore (r : Req) (k : Nat) : Bool :=
  match r.home with
  | .spad c _ => c == k
  | .dev _ | .llc _ _ => false

end Sys2Proof.Machine
end

