-- ==== Sys2Proof/Machine/Operands.lean ====
section
/-! DEFINITION. Operand forms: scalar sources, short immediates, links, effective addresses, and where a result goes (R14, R22, R42,
R46, R62). -/

namespace Sys2Proof

/-! ### Fields of a word -/

/-- The element type of a word. -/
def Fields.ty (f : Fields) : Nat := f.x.ty

/-- Bits of SUB. -/
def Fields.subBits (f : Fields) (lo len : Nat) : Nat := natBits f.sub.toNat lo len

/-- A field of the 36 extension bits of format E (R48). -/
def Fields.xBits (f : Fields) (lo len : Nat) : Nat := natBits f.x.rest lo len

/-- One bit of SUB. -/
def Fields.subBit (f : Fields) (n : Nat) : Bool := f.sub.getLsbD n

/-- The number in an operand field, whatever its class. -/
def Opnd.num : Opnd → Nat
  | .none => 0
  | .w n => n.toNat
  | .v n => n.toNat
  | .p n => n.toNat
  | .l n => n.toNat
  | .y n => n.toNat
  | .e n => n.toNat
  | .imm n => n.toNat

/-- Is the operand of class none. -/
def Opnd.isNone : Opnd → Bool
  | .none => true
  | _ => false

/-- The `l` register that an operand names. -/
def Opnd.link? : Opnd → Option Nat
  | .l n => Option.some n.toNat
  | _ => Option.none

/-- The links that A and B name, each once (R62). -/
def Fields.links (f : Fields) : List Nat :=
  match f.a.link?, f.b.link? with
  | some a, some b => if a = b then [a] else [a, b]
  | some a, none => [a]
  | none, some b => [b]
  | none, none => []

end Sys2Proof

namespace Sys2Proof.Machine

/-- A short immediate as a 64-bit word: two's complement (R42). -/
def immS (n : BitVec 7) : Word := n.signExtend 64

/-- A short immediate that the opcode zero-extends: 0 to 127 (R42). -/
def immZ (n : BitVec 7) : Word := n.setWidth 64

/-- A 64-bit source: a `w` register, a consumed link value, a predicate, or an immediate sign-extended (R42, R62). -/
def srcS (c : Ctx) (links : SMap Word) (o : Opnd) : Word :=
  match o with
  | .w n => c.w n.toNat
  | .l n => links.getD n.toNat 0
  | .imm n => immS n
  | .p n => c.pred n.toNat
  | _ => 0

/-- A 64-bit source whose immediate is zero-extended: counts and positions (R62, R75). -/
def srcZ (c : Ctx) (links : SMap Word) (o : Opnd) : Word :=
  match o with
  | .imm n => immZ n
  | _ => srcS c links o

/-- The value of D where it is a source (ST and its like): a `w` register or an immediate sign-extended (R170). -/
def Ctx.dVal (c : Ctx) (o : Opnd) : Word := srcS c [] o

/-- The effective address (R46). -/
def Ctx.ea (c : Ctx) (f : Fields) : Word :=
  (match f.a with | .w n => c.w n.toNat | _ => 0)
    + (match f.b with | .w n => c.w n.toNat <<< f.subBits 0 3 | _ => 0)
    + f.x.ofs

/-- The target of a B-format offset (R47). -/
def bTarget (pc : Word) (f : Fields) : Word := pc + (f.x.imm40.signExtend 64) * 4

/-- Are bits [63:54] of an address not zero (R37, R47, R157). -/
def badTop (a : Word) : Bool := fld a 54 10 != 0

/-- `y.finfo` of a malformed address: code 3 at level 0xF (R157, R353). -/
def malformed : Word := 0xF03

/-! ### Links (R14, R191) -/

/-- The holding slot of a link is empty again: a value that waits behind it moves in (R191). -/
def Core.nextHeld (c : Core) (n : Nat) : Core :=
  match c.linkBack.get? n with
  | some (b :: rest) => { c with linkHold := c.linkHold.put n b, linkBack := if rest.isEmpty then c.linkBack.erase n else c.linkBack.put n rest }
  | _ => { c with linkHold := c.linkHold.erase n }

/-- Take the present value of a link: the held value moves in (R191). With it comes whether it was sent by `.rel` (R190). -/
def takeLink (c : Core) (n : Nat) : Option (Word × Bool × Core) :=
  match c.links.get? n with
  | none => none
  | some v =>
    let rel := c.linkRel.getD n false
    match c.linkHold.get? n with
    | some (hv, hr) => some (v, rel, { c with links := c.links.put n hv, linkRel := c.linkRel.put n hr }.nextHeld n)
    | none => some (v, rel, { c with links := c.links.erase n, linkRel := c.linkRel.erase n })

/-- Where a short result goes as a long one (R22): a `w` register's entry or a predicate. -/
def Ctx.resultDst (c : Ctx) (d : Opnd) : LongDst :=
  match d with
  | .w n => .w (c.entry n.toNat)
  | .p n => if n = 0 then .none else .p n.toNat
  | _ => .none

/-- Write a short result to D: a `w` register or a predicate. -/
def Ctx.writeD (c : Ctx) (d : Opnd) (v : Word) : Ctx :=
  match d with
  | .w n => c.setW n.toNat v
  | .p n => c.setPred n.toNat v
  | _ => c

/-- Write the result of context `x`: short, or long where the instruction has an `l` source (R22). -/
def writeResult (x : Nat) (f : Fields) (v : Word) (s : State) : State :=
  if f.links.isEmpty then s.modCtx x fun c => c.writeD f.d v
  else (startLong x ((s.ctx x).resultDst f.d) (some (.ok v.toNat)) s).2

end Sys2Proof.Machine
end

