-- ==== Sys2Proof/Machine/Flags.lean ====
section
/-! DEFINITION. Conditions and the predicates that hold their outcomes: the machine has no flags register (R62); a comparison writes
a predicate (R12, R69). -/

namespace Sys2Proof.Machine

/-- An integer comparison of two values of `bits` bits under a condition code: signed for i types, unsigned for n types (R69, R141). -/
def intCond (cond : Nat) (signed : Bool) (bits a b : Nat) : Bool :=
  let ua := a % 2 ^ bits
  let ub := b % 2 ^ bits
  let lt := if signed then decide (signedOf bits ua < signedOf bits ub) else decide (ua < ub)
  match cond with
  | 0 => ua == ub
  | 1 => ua != ub
  | 2 => lt
  | 3 => lt || ua == ub
  | 4 => !(lt || ua == ub)
  | 5 => !lt
  | 6 => (ua &&& ub) != 0
  | _ => (ua &&& ub) == 0

/-- The condition of WAITA (R174): 0 equal, 1 not equal, 2 at least. -/
def waitCond (cond : Nat) (signed : Bool) (bits word val : Nat) : Bool :=
  intCond (if cond = 2 then 5 else cond) signed bits word val

end Sys2Proof.Machine
end

