-- ==== Sys2Proof/Machine/Float.lean ====
section
/-! DEFINITION. Floating-point formats, the one rounding, NaNs and zeros, and the arithmetic of R103 to R110 and R134 to R136. -/

namespace Sys2Proof.Machine

/-- Which codes of a format are NaNs (R103). -/
inductive NanKind where
  | none | ieee | e4m3
  deriving DecidableEq, Repr

/-- A floating-point format (R103): exponent and fraction bits, bias, infinities, NaN codes, subnormals flushed, and how far the fraction
is shifted up in its container. -/
structure FFmt where
  eb : Nat
  mb : Nat
  bias : Nat
  inf : Bool
  nan : NanKind
  flush : Bool
  sh : Nat
  deriving DecidableEq, Repr

def fFP32 : FFmt := ⟨8, 23, 127, true, .ieee, false, 0⟩
def fF19 : FFmt := ⟨8, 10, 127, true, .ieee, true, 13⟩
def fBF16 : FFmt := ⟨8, 7, 127, true, .ieee, true, 0⟩
def fFP16 : FFmt := ⟨5, 10, 15, true, .ieee, false, 0⟩
def fE4M3 : FFmt := ⟨4, 3, 7, false, .e4m3, false, 0⟩
def fE5M2 : FFmt := ⟨5, 2, 15, true, .ieee, false, 0⟩
def fE3M2 : FFmt := ⟨3, 2, 3, false, .none, false, 0⟩
def fE2M3 : FFmt := ⟨2, 3, 1, false, .none, false, 0⟩
def fE2M1 : FFmt := ⟨2, 1, 1, false, .none, false, 0⟩

/-- The format of a TY code (R49); other codes are no float format. -/
def tyFmt (ty : Nat) : FFmt :=
  match ty with
  | 9 => fBF16
  | 10 => fFP16
  | 11 => fF19
  | 12 => fE4M3
  | 13 => fE5M2
  | _ => fFP32

/-- Is a TY code one of the float formats of R134. -/
def tyFloat (ty : Nat) : Bool := 8 ≤ ty && ty ≤ 13

/-- What a code means: a NaN, an infinity, or (−1)^neg × m × 2^e. -/
inductive FV where
  | nan (code : Nat)
  | inf (neg : Bool)
  | fin (neg : Bool) (m : Nat) (e : Int)
  deriving DecidableEq, Repr

/-- The code of a sign, an exponent field and a fraction. -/
def FFmt.code (g : FFmt) (neg : Bool) (e m : Nat) : Nat :=
  ((if neg then 2 ^ (g.eb + g.mb) else 0) + e * 2 ^ g.mb + m) * 2 ^ g.sh

/-- The value of a code (R103 to R105): subnormals of BF16 and F19 are read as zeros of their sign. -/
def FFmt.read (g : FFmt) (code : Nat) : FV :=
  let c := code / 2 ^ g.sh
  let neg := c / 2 ^ (g.eb + g.mb) % 2 == 1
  let e := c / 2 ^ g.mb % 2 ^ g.eb
  let m := c % 2 ^ g.mb
  let top := e == 2 ^ g.eb - 1
  match g.nan with
  | .ieee =>
    if top then (if m = 0 then .inf neg else .nan (g.code neg e m))
    else if e = 0 then (if g.flush then .fin neg 0 0 else .fin neg m (1 - (g.bias : Int) - g.mb))
    else .fin neg (2 ^ g.mb + m) ((e : Int) - g.bias - g.mb)
  | .e4m3 =>
    if top ∧ m = 2 ^ g.mb - 1 then .nan (g.code neg e m)
    else if e = 0 then .fin neg m (1 - (g.bias : Int) - g.mb)
    else .fin neg (2 ^ g.mb + m) ((e : Int) - g.bias - g.mb)
  | .none =>
    if e = 0 then .fin neg m (1 - (g.bias : Int) - g.mb)
    else .fin neg (2 ^ g.mb + m) ((e : Int) - g.bias - g.mb)

/-- The quiet bit of a format: the top fraction bit (R109). -/
def FFmt.quietBit (g : FFmt) : Nat := 2 ^ (g.mb - 1 + g.sh)

/-- A NaN code with its quiet bit set; the container's low bits are zero (R104, R109). -/
def FFmt.quiet (g : FFmt) (code : Nat) : Nat := (code / 2 ^ g.sh * 2 ^ g.sh) ||| g.quietBit

/-- The canonical NaN (R105): the zero code in the formats without one (R108). -/
def FFmt.canon (g : FFmt) : Nat :=
  match g.nan with
  | .ieee => g.code false (2 ^ g.eb - 1) 0 + g.quietBit
  | .e4m3 => g.code false (2 ^ g.eb - 1) (2 ^ g.mb - 1)
  | .none => 0

/-- The largest finite code of a sign (R105). -/
def FFmt.largest (g : FFmt) (neg : Bool) : Nat :=
  match g.nan with
  | .ieee => g.code neg (2 ^ g.eb - 2) (2 ^ g.mb - 1)
  | .e4m3 => g.code neg (2 ^ g.eb - 1) (2 ^ g.mb - 2)
  | .none => g.code neg (2 ^ g.eb - 1) (2 ^ g.mb - 1)

/-- The infinity of a sign, or the largest finite value in a format without infinities (R108). -/
def FFmt.infinity (g : FFmt) (neg : Bool) : Nat :=
  if g.inf then g.code neg (2 ^ g.eb - 1) 0 else g.largest neg

/-- What overflow gives (R107, R108). -/
def FFmt.overflow (g : FFmt) (rm : Nat) (neg : Bool) : Nat :=
  if g.inf && (rm == 0 || rm == 4 || (rm == 2 && neg) || (rm == 3 && !neg)) then g.infinity neg else g.largest neg

/-- An integer part `n` with a rest, rounded in magnitude (R106): `cmp` orders the rest against a half, `inexact` says that it is not
zero. -/
def roundUp (rm : Nat) (neg : Bool) (n : Nat) (cmp : Ordering) (inexact : Bool) : Nat :=
  let up : Bool := match rm with
    | 0 => cmp == .gt || (cmp == .eq && n % 2 == 1)
    | 1 => false
    | 2 => inexact && neg
    | 3 => inexact && !neg
    | 4 => cmp != .lt
    | _ => inexact && n % 2 == 0
  if up then n + 1 else n

/-- The magnitude m × 2^e, with a rest below the last bit where `sticky`, rounded to a multiple of 2^q: the number of multiples (R106). -/
def roundAt (rm : Nat) (neg : Bool) (m : Nat) (e : Int) (sticky : Bool) (q : Int) : Nat :=
  if q ≤ e then roundUp rm neg (m <<< (e - q).toNat) .lt sticky
  else
    let s := (q - e).toNat
    let n := m >>> s
    let rest := m % 2 ^ s
    let half := 2 ^ (s - 1)
    let cmp : Ordering := if half < rest then .gt else if rest = half then (if sticky then .gt else .eq) else .lt
    roundUp rm neg n cmp (rest != 0 || sticky)

/-- Round(x, rm) of a magnitude m × 2^e, m not zero, with its sign (R105 to R108). -/
def FFmt.round (g : FFmt) (rm : Nat) (neg : Bool) (m : Nat) (e : Int) (sticky : Bool) : Nat :=
  let lead : Int := (Nat.log2 m : Int) + e
  let qn : Int := lead - g.mb
  let qmin : Int := 1 - (g.bias : Int) - g.mb
  let q := if g.flush then qn else max qn qmin
  let n := roundAt rm neg m e sticky q
  let carry := n == 2 ^ (g.mb + 1)
  let n1 := if carry then n / 2 else n
  let q1 := if carry then q + 1 else q
  if n1 < 2 ^ g.mb then g.code neg 0 n1
  else if q1 < qmin then g.code neg 0 0
  else
    let ef := (q1 - qmin).toNat + 1
    let fr := n1 - 2 ^ g.mb
    let ovf : Bool := match g.nan with
      | .ieee => decide (2 ^ g.eb - 1 ≤ ef)
      | .e4m3 => decide (2 ^ g.eb - 1 < ef) || (ef == 2 ^ g.eb - 1 && fr == 2 ^ g.mb - 1)
      | .none => decide (2 ^ g.eb - 1 < ef)
    if ovf then g.overflow rm neg else g.code neg ef fr

/-- The code of a value: special values as they are, a finite one rounded; a zero keeps the sign given (R107 to R110). -/
def FFmt.write (g : FFmt) (rm : Nat) (v : FV) : Nat :=
  match v with
  | .nan c => g.quiet c
  | .inf neg => g.infinity neg
  | .fin neg m e => if m = 0 then g.code neg 0 0 else g.round rm neg m e false

/-- An invalid operation without a NaN operand (R109). -/
def FV.isNan : FV → Bool
  | .nan _ => true
  | _ => false

/-- The negation of a value that is no NaN. -/
def FV.neg : FV → FV
  | .nan c => .nan c
  | .inf n => .inf (!n)
  | .fin n m e => .fin (!n) m e

/-- The exact product; none where the operation is invalid (R109, R110). NaNs are taken out before. -/
def FV.mul (a b : FV) : Option FV :=
  match a, b with
  | .inf x, .inf y => some (.inf (x != y))
  | .inf x, .fin y m _ => if m = 0 then none else some (.inf (x != y))
  | .fin x m _, .inf y => if m = 0 then none else some (.inf (x != y))
  | .fin x m e, .fin y n k => some (.fin (x != y) (m * n) (e + k))
  | _, _ => none

/-- The sign of an exact zero sum (R110); (+0) + (+0) is +0 in every mode (log entry 26). -/
def zeroSign (rm : Nat) (x y : FV) : Bool :=
  match x, y with
  | .fin a 0 _, .fin b 0 _ => if a == b then a else rm == 2
  | _, _ => rm == 2

/-- A signed magnitude at a common exponent. -/
def signedMag (neg : Bool) (m : Nat) (e lo : Int) : Int :=
  let i : Int := ((m <<< (e - lo).toNat : Nat) : Int)
  if neg then -i else i

/-- The exact sum; none where the operation is invalid. -/
def FV.add (rm : Nat) (a b : FV) : Option FV :=
  match a, b with
  | .inf x, .inf y => if x == y then some (.inf x) else none
  | .inf x, .fin _ _ _ => some (.inf x)
  | .fin _ _ _, .inf y => some (.inf y)
  | .fin x m e, .fin y n k =>
    if m = 0 ∧ n = 0 then some (.fin (zeroSign rm a b) 0 0)
    else if m = 0 then some (.fin y n k)
    else if n = 0 then some (.fin x m e)
    else
      let lo := min e k
      let s := signedMag x m e lo + signedMag y n k lo
      if s = 0 then some (.fin (zeroSign rm a b) 0 0) else some (.fin (s < 0) s.natAbs lo)
  | _, _ => none

/-- The first NaN operand with its quiet bit set (R109). -/
def firstNan (g : FFmt) (l : List FV) : Option Nat :=
  match l with
  | [] => none
  | .nan c :: _ => some (g.quiet c)
  | _ :: rest => firstNan g rest

/-- Write a result that may be invalid. -/
def FFmt.finish (g : FFmt) (rm : Nat) (v : Option FV) : Nat :=
  match v with
  | some x => g.write rm x
  | none => g.canon

/-- Round(a + b) (R134). -/
def fAdd (g : FFmt) (rm a b : Nat) : Nat :=
  match firstNan g [g.read a, g.read b] with
  | some c => c
  | none => g.finish rm ((g.read a).add rm (g.read b))

/-- Round(a − b) (R134). -/
def fSub (g : FFmt) (rm a b : Nat) : Nat :=
  match firstNan g [g.read a, g.read b] with
  | some c => c
  | none => g.finish rm ((g.read a).add rm (g.read b).neg)

/-- Round(a × b) (R134). -/
def fMul (g : FFmt) (rm a b : Nat) : Nat :=
  match firstNan g [g.read a, g.read b] with
  | some c => c
  | none => g.finish rm ((g.read a).mul (g.read b))

/-- Round(±(a × b) ± d) with one rounding (R106, R134). -/
def fMulAdd (g : FFmt) (rm : Nat) (negP negD : Bool) (a b d : Nat) : Nat :=
  let x := g.read a
  let y := g.read b
  let z := g.read d
  match firstNan g [x, y, z] with
  | some c => c
  | none => g.finish rm ((x.mul y).bind fun p => (if negP then p.neg else p).add rm (if negD then z.neg else z))

/-- Round(a / b) (R134). -/
def fDiv (g : FFmt) (rm a b : Nat) : Nat :=
  match firstNan g [g.read a, g.read b] with
  | some c => c
  | none =>
    match g.read a, g.read b with
    | .inf x, .fin y _ _ => g.infinity (x != y)
    | .fin x _ _, .inf y => g.code (x != y) 0 0
    | .fin x m e, .fin y n k =>
      if n = 0 then (if m = 0 then g.canon else g.infinity (x != y))
      else if m = 0 then g.code (x != y) 0 0
      else g.round rm (x != y) ((m <<< 64) / n) (e - k - 64) ((m <<< 64) % n != 0)
    | _, _ => g.canon

/-- The integer square root, bit by bit from bit `k - 1` down. -/
def isqrtFrom (n : Nat) : Nat → Nat → Nat
  | 0, r => r
  | k + 1, r => isqrtFrom n k (if (r + 2 ^ k) * (r + 2 ^ k) ≤ n then r + 2 ^ k else r)

/-- The integer square root of a number below 2^128. -/
def isqrt (n : Nat) : Nat := isqrtFrom n 64 0

/-- Round(√a) (R134). -/
def fSqrt (g : FFmt) (rm a : Nat) : Nat :=
  match g.read a with
  | .nan c => g.quiet c
  | .inf neg => if neg then g.canon else g.infinity false
  | .fin neg m e =>
    if m = 0 then g.code neg 0 0
    else if neg then g.canon
    else
      let odd := e % 2 == 1
      let m1 := (if odd then 2 * m else m) <<< 80
      let r := isqrt m1
      g.round rm false r ((if odd then e - 1 else e) / 2 - 40) (r * r != m1)

/-- The order of two values with −0 below +0 (R135): is the first below the second. -/
def FV.below (a b : FV) : Bool :=
  match a, b with
  | .inf x, .inf y => x && !y
  | .inf x, .fin _ _ _ => x
  | .fin _ _ _, .inf y => !y
  | .fin x m e, .fin y n k =>
    let lo := min e k
    let i := signedMag x m e lo
    let j := signedMag y n k lo
    if i = 0 ∧ j = 0 then x && !y else decide (i < j)
  | _, _ => false

/-- The order of two values as numbers, −0 equal to +0 (R140). -/
def FV.lt (a b : FV) : Bool :=
  match a, b with
  | .fin _ 0 _, .fin _ 0 _ => false
  | _, _ => a.below b

/-- An operand as a result of the format: F19 is written with bits [12:0] zero (R104). -/
def FFmt.clean (g : FFmt) (code : Nat) : Nat := code / 2 ^ g.sh * 2 ^ g.sh

/-- An operand as it is read (R105): a subnormal of a format that flushes them is a zero of its sign. -/
def FFmt.asRead (g : FFmt) (code : Nat) : Nat :=
  match g.read code with
  | .fin neg 0 _ => g.code neg 0 0
  | _ => g.clean code

/-- The smaller (`hi` false) or the larger of two (R105, R135). -/
def fMinMax (g : FFmt) (hi : Bool) (a b : Nat) : Nat :=
  let x := g.read a
  let y := g.read b
  match x.isNan, y.isNan with
  | true, true => g.quiet a
  | true, false => g.asRead b
  | false, true => g.asRead a
  | false, false => if (if hi then x.below y else y.below x) then g.asRead b else g.asRead a

/-- VABS or VNEG of a float (R136): the sign alone; a NaN has its quiet bit set. -/
def fSign (g : FFmt) (negate : Bool) (a : Nat) : Nat :=
  let s := 2 ^ (g.eb + g.mb + g.sh)
  let c := if negate then a ^^^ s else a % s + a / (2 * s) * (2 * s)
  if (g.read a).isNan then g.quiet c else g.clean c

/-- The comparisons of R140. -/
def floatCond (g : FFmt) (cond a b : Nat) : Bool :=
  let x := g.read a
  let y := g.read b
  let un := x.isNan || y.isNan
  let lt := !un && x.lt y
  let gt := !un && y.lt x
  let eq := !un && !lt && !gt
  match cond with
  | 0 => eq
  | 1 => !eq
  | 2 => lt
  | 3 => lt || eq
  | 4 => gt
  | 5 => gt || eq
  | 6 => !un
  | _ => un

end Sys2Proof.Machine
end

