-- ==== Sys2Proof/Machine/Convert.lean ====
section
/-! DEFINITION. Conversions between the number formats (R111), LNS6 (R112 to R114) and scaled probabilities (R115 to R118). -/

namespace Sys2Proof.Machine

/-! ### Integers -/

/-- The integer nearest to `i` in a format of `bits` bits (R111: saturation). -/
def satInt (signed : Bool) (bits : Nat) (i : Int) : Int :=
  if signed then max (-(2 ^ (bits - 1) : Nat)) (min i ((2 ^ (bits - 1) : Nat) - 1))
  else max 0 (min i ((2 ^ bits : Nat) - 1))

/-- A float as an integer (R111): NaN gives 0, an infinity the limit of its sign, else rounded and saturated. -/
def floatToInt (signed : Bool) (bits rm : Nat) (v : FV) : Int :=
  match v with
  | .nan _ => 0
  | .inf neg => satInt signed bits (if neg then -(2 ^ 80) else 2 ^ 80)
  | .fin neg m e =>
    if 200 < (Nat.log2 m : Int) + e then satInt signed bits (if neg then -(2 ^ 80) else 2 ^ 80)
    else
      let n : Int := (roundAt rm neg m e false 0 : Nat)
      satInt signed bits (if neg then -n else n)

/-- An integer as a float: zero gives +0 (R111). -/
def intToFloat (g : FFmt) (rm : Nat) (i : Int) : Nat :=
  if i = 0 then 0 else g.round rm (i < 0) i.natAbs 0 false

/-! ### LNS6 -/

/-- Is an LNS6 code read as zero (R112). -/
def lnsZero (c : Nat) : Bool := c % 32 == 0

/-- 2^(f/4) × 2^96, truncated; the fraction dropped is not zero for f from 1 to 3 (R112, R113). -/
def quarterPow (f : Nat) : Nat :=
  match f with
  | 0 => 79228162514264337593543950336
  | 1 => 94218694570555024373110687280
  | 2 => 112045541949572279837463876454
  | _ => 133245355690767209784526313331

/-- An LNS6 value as a float of a format (R111): its exact value, rounded once. -/
def lnsToFloat (g : FFmt) (rm c : Nat) : Nat :=
  if lnsZero c then 0
  else
    let q : Int := ((c % 32 : Nat) : Int) - 16
    let f := (q % 4).toNat
    let n := q / 4
    g.round rm (32 ≤ c % 64) (quarterPow f) (n - 96) (f != 0)

/-- A finite magnitude m × 2^e, m not zero, as LNS6 (R114). -/
def lnsRound (rm : Nat) (neg : Bool) (m : Nat) (e : Int) : Nat :=
  let fl : Int := (Nat.log2 (m ^ 4) : Int) + 4 * e + 16
  let exact : Bool := m ^ 4 == 2 ^ Nat.log2 (m ^ 4)
  let half : Bool := decide (2 * fl - 31 ≤ (Nat.log2 (m ^ 8) : Int) + 8 * e)
  let sgn := if neg then 32 else 0
  if fl < 1 then
    let small : Bool := match rm with
      | 1 => false
      | 2 => neg
      | 3 => !neg
      | 5 => true
      | _ => decide (-3 ≤ fl)
    if small then sgn + 1 else 0
  else
    let up : Bool := match rm with
      | 1 => false
      | 2 => neg && !exact
      | 3 => !neg && !exact
      | 5 => !exact && fl % 2 == 0
      | _ => half
    sgn + min 31 (if up then fl.toNat + 1 else fl.toNat)

/-- A float as LNS6 (R114). -/
def floatToLns (rm : Nat) (v : FV) : Nat :=
  match v with
  | .nan _ => 0
  | .inf neg => if neg then 0x3F else 0x1F
  | .fin neg m e => if m = 0 then 0 else lnsRound rm neg m e

/-! ### Scaled probabilities -/

/-- A PS value: M / 2^40 × 2^−E; one is M = 2^40 with E = 0. -/
structure PSV where
  m : Nat
  e : Nat
  deriving DecidableEq, Repr

/-- The value of a PS code (R115). -/
def psRead (c : Nat) : PSV :=
  if c % 2 ^ 64 = 0xFFFFFF then ⟨2 ^ 40, 0⟩ else ⟨c / 2 ^ 24 % 2 ^ 40, c % 2 ^ 24⟩

/-- A rounded PS code with its OF and UF (R116). -/
structure PSOut where
  code : Nat
  of : Bool
  uf : Bool
  deriving DecidableEq, Repr

/-- The one code. -/
def psOne : Nat := 0xFFFFFF

/-- RoundPS of m × 2^e, with a rest below the last bit where `sticky` (R116). -/
def roundPS (m : Nat) (e : Int) (sticky : Bool) : PSOut :=
  if m = 0 then ⟨0, false, false⟩
  else
    let lead : Int := (Nat.log2 m : Int) + e
    if 0 ≤ lead then
      if lead = 0 ∧ m = 2 ^ Nat.log2 m ∧ sticky = false then ⟨psOne, false, false⟩ else ⟨psOne, true, false⟩
    else
      let ex := (-(lead + 1)).toNat
      let n := roundAt 0 false m e sticky (-((ex : Int) + 40))
      let carry := n == 2 ^ 40
      if carry && ex == 0 then ⟨psOne, false, false⟩
      else
        let n1 := if carry then 2 ^ 39 else n
        let ex1 := if carry then ex - 1 else ex
        if 2 ^ 24 - 1 < ex1 then ⟨0, false, true⟩ else ⟨n1 * 2 ^ 24 + ex1, false, false⟩

/-- Addition (R117): a summand far below the other is only a rest. -/
def psAdd (a b : Nat) : PSOut :=
  let x := psRead a
  let y := psRead b
  if x.m = 0 then roundPS y.m (-((y.e : Int) + 40)) false
  else if y.m = 0 then roundPS x.m (-((x.e : Int) + 40)) false
  else
    let lo := min x.e y.e
    let hi := max x.e y.e
    if 128 ≤ hi - lo then
      roundPS ((if x.e ≤ y.e then x.m else y.m) <<< 64) (-((lo : Int) + 104)) true
    else roundPS ((x.m <<< (hi - x.e)) + (y.m <<< (hi - y.e))) (-((hi : Int) + 40)) false

/-- Multiplication (R117). -/
def psMul (a b : Nat) : PSOut :=
  let x := psRead a
  let y := psRead b
  roundPS (x.m * y.m) (-(((x.e + y.e : Nat) : Int) + 80)) false

/-- Is the first value below the second (R117). -/
def psLt (a b : Nat) : Bool :=
  let x := psRead a
  let y := psRead b
  let lo := min x.e y.e
  decide (x.m <<< min 64 (y.e - lo) < y.m <<< min 64 (x.e - lo))

/-- Maximum (R117): the operand of greater value; on equal values the first. -/
def psMax (a b : Nat) : Nat := if psLt a b then b else a

/-- FP32 to PS (R118). -/
def floatToPS (v : FV) : PSOut :=
  match v with
  | .nan _ => ⟨0, true, false⟩
  | .inf neg => if neg then ⟨0, true, false⟩ else ⟨psOne, true, false⟩
  | .fin neg m e => if m = 0 then ⟨0, false, false⟩ else if neg then ⟨0, true, false⟩ else roundPS m e false

/-- PS to FP32 (R118). -/
def psToFloat (rm c : Nat) : Nat :=
  let x := psRead c
  if x.m = 0 then 0
  else if 400 < x.e then fFP32.round rm false 1 (-300) true
  else fFP32.round rm false x.m (-((x.e : Int) + 40)) false

/-! ### VCVT's formats (R149) -/

/-- Bits of an element of a format code. -/
def cvtBits (c : Nat) : Nat :=
  match c with
  | 16 | 17 => 6
  | 18 | 19 | 20 => 4
  | _ => tyBits c

/-- Elements of a register under a format code. -/
def cvtLanes (c : Nat) : Nat :=
  match c with
  | 16 | 17 => 64
  | 18 | 19 | 20 => 128
  | _ => laneCount c

/-- The integer format of a code: signed. -/
def cvtInt? (c : Nat) : Option Bool :=
  if c ≤ 7 then some (tySigned c) else if c = 19 then some true else if c = 20 then some false else none

/-- The float format of a code. -/
def cvtFloat? (c : Nat) : Option FFmt :=
  match c with
  | 8 => some fFP32
  | 9 => some fBF16
  | 10 => some fFP16
  | 11 => some fF19
  | 12 => some fE4M3
  | 13 => some fE5M2
  | 16 => some fE3M2
  | 17 => some fE2M3
  | 18 => some fE2M1
  | _ => none

/-- A NaN moved to another format (R108, R109): the sign, the top fraction bits that fit, and the quiet bit. -/
def nanTo (g h : FFmt) (code : Nat) : Nat :=
  let c := code / 2 ^ g.sh
  let neg := c / 2 ^ (g.eb + g.mb) % 2 == 1
  match h.nan with
  | .none => 0
  | .e4m3 => h.largest neg + 1
  | .ieee =>
    let m := c % 2 ^ g.mb
    h.quiet (h.code neg (2 ^ h.eb - 1) (if g.mb ≤ h.mb then m <<< (h.mb - g.mb) else m >>> (g.mb - h.mb)))

/-- A float moved to another float format (R111). -/
def floatToFloat (g h : FFmt) (rm code : Nat) : Nat :=
  match g.read code with
  | .nan c => nanTo g h c
  | v => h.write rm v

/-- Convert one element (R111); none where the rule states no result: LNS6 to an integer (log entry 7).
PS to PS rounds the value as RoundPS does (log entry 27). -/
def convert (src dst rm x : Nat) : Option Nat :=
  match cvtInt? src, cvtFloat? src with
  | some sg, _ =>
    let i := if sg then signedOf (cvtBits src) x else ((x % 2 ^ cvtBits src : Nat) : Int)
    match cvtInt? dst, cvtFloat? dst with
    | some dg, _ => some (wrapInt (cvtBits dst) (satInt dg (cvtBits dst) i))
    | none, some h => some (intToFloat h rm i)
    | none, none => some (if i = 0 then 0 else lnsRound rm (i < 0) i.natAbs 0)
  | none, some g =>
    match cvtInt? dst, cvtFloat? dst with
    | some dg, _ => some (wrapInt (cvtBits dst) (floatToInt dg (cvtBits dst) rm (g.read x)))
    | none, some h => some (floatToFloat g h rm x)
    | none, none => some (if dst = 15 then (floatToPS (g.read x)).code else floatToLns rm (g.read x))
  | none, none =>
    if src = 15 then
      some (if dst = 15 then (roundPS (psRead x).m (-(((psRead x).e : Int) + 40)) false).code else psToFloat rm x)
    else match cvtFloat? dst with
      | some h => some (lnsToFloat h rm x)
      | none => if dst = 14 then some (if lnsZero x then 0 else x % 64) else none

end Sys2Proof.Machine
end

