-- ==== Sys2Proof/Machine/Memory.lean ====
section
/-! DEFINITION. Device memory: the cells at the home slices, poison, the LLC copies of a die, translation and the L1 caches
(R164 to R167, R347 to R357). -/

namespace Sys2Proof.Machine

/-! ### Cells (R4, R347) -/

/-- The byte at a physical address; an address that nothing has written reads 0 (log entry 6). -/
def memByte (m : List Host.Cell) (a : Nat) : Byte := SMap.getD m a 0

/-- Write one byte; the list stays rising and never lists a byte that an unlisted address would read as. -/
def memPut (m : List Host.Cell) (a : Nat) (b : Byte) : List Host.Cell := SMap.putD m a 0 b

/-- The canonical form of memory: rising addresses, no zero byte listed. -/
def Memory.wf (m : List Host.Cell) : Bool :=
  match m with
  | [] => true
  | c :: rest => c.2 != 0 && (match rest with | [] => true | e :: _ => c.1 < e.1) && Memory.wf rest

/-- `n` bytes from an address, little-endian (R4). -/
def memRead (m : List Host.Cell) (a : Nat) : Nat → Nat
  | 0 => 0
  | n + 1 => (memByte m a).toNat + 256 * memRead m (a + 1) n

/-- Write `n` bytes at an address, little-endian (R4). -/
def memWrite (m : List Host.Cell) (a v : Nat) : Nat → List Host.Cell
  | 0 => m
  | n + 1 => memWrite (memPut m a (BitVec.ofNat 8 v)) (a + 1) (v / 256) n

/-- The 128-byte line of an address. -/
def lineOf (a : Nat) : Nat := a / 128

/-- The die of a physical address's home slice: channel f mod 24 (R347, R348). -/
def homeDie (pa : Nat) : Nat := pa / 8192 % 24 / 12

/-- The station and slice, 0 to 11 on its die, of a physical address's channel (R343, R347). -/
def homeStation (pa : Nat) : Nat := pa / 8192 % 12

/-- Insert a line number in a rising list without repeats. -/
def insertLine (l : List Nat) (n : Nat) : List Nat := l.filter (· < n) ++ n :: l.filter (n < ·)

/-- Is the die a requester of `d` would reach cut off by its reset (R438). -/
def fencedFrom (s : State) (d target : Nat) : Bool := d != target && (s.die d).fenced

/-! ### At the home slice -/

/-- Read `n` bytes at the home slice, for a requester on die `d`: error 4 where the line is poisoned (R349), error 5 where the home's die is
being reset (R438). -/
def homeRead (s : State) (d pa n : Nat) : Except Nat Nat :=
  if fencedFrom s d (homeDie pa) then .error 5
  else if s.poison.contains (lineOf pa) then .error 4
  else .ok (memRead s.mem pa n)

/-- A field of a line. -/
def lineGet (bits : LineBits) (off n : Nat) : Nat := (bits.toNat >>> (8 * off)) % 2 ^ (8 * n)

/-- A line with `n` bytes replaced. -/
def linePut (bits : LineBits) (off n v : Nat) : LineBits :=
  let m := BitVec.ofNat 1024 ((2 ^ (8 * n) - 1) <<< (8 * off))
  (bits &&& ~~~m) ||| BitVec.ofNat 1024 ((v % 2 ^ (8 * n)) <<< (8 * off))

/-- The dirty mask of `n` bytes at an offset. -/
def byteMask (off n : Nat) : BitVec 128 := BitVec.ofNat 128 ((2 ^ n - 1) <<< off)

/-- A line with the bytes of another where a mask bit is set. -/
def lineMerge (old bits : LineBits) (mask : BitVec 128) : LineBits :=
  (List.range 128).foldl (fun l i => if mask.getLsbD i then linePut l i 1 (lineGet bits i 1) else l) old

/-- The LLC copy of a line on a die. -/
def llcCopy (s : State) (d ln : Nat) : Option LlcLine := (s.die d).llc.get? ln

/-- The word of a home outside the scratchpads, as it stands there. -/
def homeWord (s : State) (h : Home) (size : Nat) : Nat :=
  match h with
  | .dev p => memRead s.mem p size
  | .llc d p => match llcCopy s d (lineOf p) with
    | some l => lineGet l.bits (p % 128) size
    | none => memRead s.mem p size
  | .spad _ _ => 0

/-- Does a write to `n` bytes at physical address `pa`, at the home slice or in the copy of die `at?`, touch a home word of `size` bytes. -/
def Home.hit (h : Home) (at? : Option Nat) (pa n size : Nat) : Bool :=
  match h, at? with
  | .dev p, none => decide (p < pa + n) && decide (pa < p + size)
  | .llc d p, some e => d == e && decide (p < pa + n) && decide (pa < p + size)
  | _, _ => false

/-- Mark the held threads whose word a write has changed: they are woken (R176). -/
def markHeld (hit : Home → Bool) (s : State) : State :=
  { s with cores := s.cores.map fun e =>
      (e.1, { e.2 with heldList := e.2.heldList.map fun h => if hit h.home then { h with changed := true } else h }) }

/-- Does the word satisfy a waiter of device memory: WAITA or JOIN (R88, R174). -/
def Req.holds (r : Req) (word : Nat) : Bool :=
  match r.op with
  | .waita c => waitCond c (tySigned r.ty) (8 * r.size) word r.val
  | .join => word == 0
  | _ => false

/-- A write re-evaluates the waiters registered on the words it touches, in arrival order: those of the home slice, or of the slice of die
`at?` (R173, R174, R357). -/
def serveAt (at? : Option Nat) (pa n : Nat) (s : State) : State :=
  let d := at?.getD (homeDie pa)
  let hit := fun r : Req => r.home.hit at? pa n r.size && r.holds (homeWord s r.home r.size)
  let ready := (s.die d).waiters.filter hit
  let s1 := if ready.isEmpty then s
    else ready.foldl (fun t r => replyReq r (.ok (homeWord t r.home r.size)) t)
      (s.modDie d fun dd => { dd with waiters := dd.waiters.filter fun r => !(hit r) })
  markHeld (fun h => h.hit at? pa n 8) s1

/-- A write at a home slice re-evaluates the waiters there. -/
def serveDev (pa n : Nat) (s : State) : State := serveAt none pa n s

/-- The waiters of each 8-byte word of a line that a mask touches, once all its bytes are written (R158, R193). -/
def serveMask (at? : Option Nat) (ln : Nat) (mask : BitVec 128) (s : State) : State :=
  (List.range 16).foldl (fun t i => if mask.extractLsb' (8 * i) 8 = 0 then t else serveAt at? (128 * ln + 8 * i) 8 t) s

/-- Write `n` bytes at the home slice. A write that covers the whole line clears its poison mark; a partial one keeps it (R349). -/
def homeWrite (s : State) (pa n v : Nat) : State :=
  serveDev pa n
    { s with
      mem := memWrite s.mem pa v n
      poison := if pa % 128 = 0 ∧ n = 128 then s.poison.filter (· ≠ lineOf pa) else s.poison }

/-- Mark the line of an address poisoned (R349). -/
def poisonLine (s : State) (pa : Nat) : State := { s with poison := insertLine s.poison (lineOf pa) }

/-- Write the bytes of a line whose mask bit is set, from byte `i` on. -/
def writeMasked (m : List Host.Cell) (base : Nat) (bits : LineBits) (mask : BitVec 128) : Nat → List Host.Cell
  | 0 => m
  | n + 1 =>
    let m1 := if mask.getLsbD n then memPut m (base + n) (bits.extractLsb' (8 * n) 8) else m
    writeMasked m1 base bits mask n

/-- Write the bytes of a line under a mask at its home slice, in one piece; a full line clears the poison mark (R158, R349). -/
def homeMerge (s : State) (ln : Nat) (bits : LineBits) (mask : BitVec 128) : State :=
  serveMask none ln mask
    { s with
      mem := writeMasked s.mem (128 * ln) bits mask 128
      poison := if mask = BitVec.allOnes 128 then s.poison.filter (· ≠ ln) else s.poison }

/-- The dirty bytes of a die's copy of a line go to the home slice, and the copy is dropped (R348). A poisoned copy writes the mark (R363).
While the home's die is fenced off nothing reaches it. -/
def llcDrop (s : State) (d ln : Nat) : State :=
  match llcCopy s d ln with
  | none => s
  | some l =>
    let s1 := s.modDie d fun dd => { dd with llc := dd.llc.erase ln }
    if fencedFrom s d (homeDie (128 * ln)) then s1
    else if l.poison && l.dirty != 0 then poisonLine (homeMerge s1 ln l.bits l.dirty) (128 * ln)
    else homeMerge s1 ln l.bits l.dirty

/-- The dirty bytes of a die's copy go to the home slice and the copy stays, clean; one whose clean bytes an acquire has dropped goes. -/
def llcClean (s : State) (d ln : Nat) : State :=
  match llcCopy s d ln with
  | none => s
  | some l => if l.stale then llcDrop s d ln
      else (llcDrop s d ln).modDie d fun dd => { dd with llc := dd.llc.put ln { l with dirty := 0 } }

/-- Every line that a die holds a copy of. -/
def llcLines (s : State) (d : Nat) : List Nat := (s.die d).llc.map (·.1)

/-! ### At a die's LLC (R165, R348, R357) -/

/-- A copy enters the slice of its channel; in a slice of 4 MiB that is full another copy leaves by replacement first (R348). -/
def llcInstall (s : State) (d ln : Nat) (l : LlcLine) : State :=
  let mates := (llcLines s d).filter fun m => homeStation (128 * m) == homeStation (128 * ln) && m != ln
  let s1 := match mates with
    | m :: _ => if 32768 ≤ mates.length then llcDrop s d m else s
    | [] => s
  s1.modDie d fun dd => { dd with llc := dd.llc.put ln l }

/-- The die's copy of a line homed on the other die, filled from its home where the die has none; the bytes that an acquire has dropped are
filled anew. -/
def llcFill (s : State) (d ln : Nat) : Except Nat LlcLine × State :=
  match llcCopy s d ln with
  | some l =>
    if l.poison then (.error 4, s)
    else if l.stale then
      match homeRead s d (128 * ln) 128 with
      | .error e => (.error e, s)
      | .ok v =>
        let l1 : LlcLine := { l with bits := lineMerge (BitVec.ofNat 1024 v) l.bits l.dirty, stale := false }
        (.ok l1, s.modDie d fun dd => { dd with llc := dd.llc.put ln l1 })
    else (.ok l, s)
  | none =>
    match homeRead s d (128 * ln) 128 with
    | .error e => (.error e, s)
    | .ok v =>
      let l : LlcLine := ⟨BitVec.ofNat 1024 v, 0, false, false⟩
      (.ok l, llcInstall s d ln l)

/-- Read `n` bytes of one line at die `d`'s LLC. -/
def dieRead (s : State) (d pa n : Nat) : Except Nat Nat × State :=
  if homeDie pa = d then (homeRead s d pa n, s)
  else match llcFill s d (lineOf pa) with
    | (.error e, s1) => (.error e, s1)
    | (.ok l, s1) => (.ok (lineGet l.bits (pa % 128) n), s1)

/-- Write the bytes of a line under a mask at die `d`'s LLC, in one piece (R158). A partial write of a poisoned copy keeps the mark, and one of
a line that cannot be filled is kept as its dirty bytes, with the home's mark (R349). -/
def dieMerge (s : State) (d ln : Nat) (bits : LineBits) (mask : BitVec 128) : Except Nat Unit × State :=
  if homeDie (128 * ln) = d then (.ok (), homeMerge s ln bits mask)
  else
    let full := mask == BitVec.allOnes 128
    let s1 := if full then s else (llcFill s d ln).2
    match llcCopy s1 d ln with
    | some l =>
      let l1 : LlcLine := ⟨lineMerge l.bits bits mask, l.dirty ||| mask, l.poison && !full, l.stale && !full⟩
      (.ok (), serveMask (some d) ln mask (s1.modDie d fun dd => { dd with llc := dd.llc.put ln l1 }))
    | none =>
      if !full && fencedFrom s d (homeDie (128 * ln)) then (.error 5, s)
      else (.ok (), serveMask (some d) ln mask (llcInstall s1 d ln ⟨lineMerge 0 bits mask, mask, !full, false⟩))

/-- Write `n` bytes of one line at die `d`'s LLC. -/
def dieWrite (s : State) (d pa n v : Nat) : Except Nat Unit × State :=
  if homeDie pa = d then (.ok (), homeWrite s pa n v)
  else dieMerge s d (lineOf pa) (linePut 0 (pa % 128) n v) (byteMask (pa % 128) n)

/-- A streaming read from die `d`: its copy of a line homed on the other die is written back and dropped first (R165). A die-private
page caps the access at the die's own LLC (R166, R357). -/
def streamRead (s : State) (d pa : Nat) (priv : Bool) (n : Nat) : Except Nat Nat × State :=
  if priv then dieRead s d pa n
  else (homeRead (llcDrop s d (lineOf pa)) d pa n, llcDrop s d (lineOf pa))

/-- A streaming write from die `d` (R165, R166, R357). -/
def streamWrite (s : State) (d pa : Nat) (priv : Bool) (n v : Nat) : Except Nat Unit × State :=
  if priv then dieWrite s d pa n v
  else if fencedFrom s d (homeDie pa) then (.error 5, s)
  else (.ok (), homeWrite (llcDrop s d (lineOf pa)) pa n v)

/-! ### Translation (R350 to R355) -/

/-- The kinds of access that translation distinguishes. -/
inductive Acc where
  | read | write | fetch
  deriving DecidableEq, Repr

/-- The station of a virtual address (R350). -/
def stationOf (va : Nat) : Nat :=
  let x := va / 2 ^ 21 % 2 ^ 32
  ((x ^^^ (x >>> 8) ^^^ (x >>> 16) ^^^ (x >>> 24)) % 256) % 12

/-- `y.finfo` of a translation failure: the code and the level (R353). -/
def walkInfo (code level : Nat) : Nat := code + 256 * level

/-- What the walker makes of an entry at a level (R352, R353): a code, a next table, or a leaf. -/
inductive EntryRead where
  | fail (code : Nat)
  | table (pa : Nat)
  | leaf (e : Nat)
  deriving DecidableEq, Repr

/-- First bit of the page that a leaf at a level maps, and of the virtual index of the level (R352). -/
def levelShift (level : Nat) : Nat :=
  match level with
  | 0 => 13 | 1 => 21 | 2 => 30 | _ => 41

/-- Number of index bits of a level (R352). -/
def levelBits (level : Nat) : Nat :=
  match level with
  | 0 => 8 | 1 => 9 | 2 => 11 | _ => 12

/-- First address bit that the next table below a level may set: 16 KiB, 4 KiB, 2 KiB (R352). -/
def tableShift (level : Nat) : Nat :=
  match level with
  | 3 => 14 | 2 => 12 | _ => 11

/-- Read an entry of a level (R352, R353). -/
def readEntry (level e : Nat) : EntryRead :=
  if e % 2 = 0 then .fail 1
  else if natBits e 38 26 ≠ 0 ∨ natBits e 8 3 ≠ 0 then .fail 5
  else if natBits e 1 1 = 1 then
    if level = 0 ∨ natBits e 11 (tableShift level - 11) ≠ 0 then .fail 5 else .table (natBits e 11 27 * 2048)
  else if level = 3 ∨ natBits e 11 (levelShift level - 11) ≠ 0 then .fail 5 else .leaf e

/-- Bytes of the physical address space: 60, 120 or 240 GiB (R434). -/
def State.usable (s : State) : Nat :=
  2 ^ 30 * match s.pkg.capacity with
    | .gib64 => 60
    | .gib128 => 120
    | .gib256 => 240

/-- Read one 8-byte word of a table as a streaming read of the walking die (R165, R353): memory beyond the usable capacity and poison give an
error response. -/
def walkRead (s : State) (d pa : Nat) : Except Nat Nat × State :=
  if s.usable ≤ pa then (.error 7, s)
  else match streamRead s d pa false 8 with
    | (.ok v, s1) => (.ok v, s1)
    | (.error _, s1) => (.error 7, s1)

/-- Read `n` words of a table; the first failure ends it. -/
def walkWords (s : State) (d pa : Nat) : Nat → Except Nat (List Nat) × State
  | 0 => (.ok [], s)
  | n + 1 => match walkRead s d pa with
    | (.error e, s1) => (.error e, s1)
    | (.ok v, s1) => match walkWords s1 d (pa + 8) n with
      | (.error e, s2) => (.error e, s2)
      | (.ok vs, s2) => (.ok (v :: vs), s2)

/-- The physical address of the entry of a level in its table (R352). -/
def entryAddr (table level va : Nat) : Nat := table + 8 * natBits va (levelShift level) (levelBits level)

/-- Walk from a table at a level down; `level` falls by one a step (R352, R353): the leaf, its level and the address of its entry. -/
def walkFrom (s : State) (d va : Nat) : Nat → Nat → Except Nat (Nat × Nat × Nat) × State
  | 0, table =>
    match walkRead s d (entryAddr table 0 va) with
    | (.error e, s1) => (.error (walkInfo e 0), s1)
    | (.ok v, s1) => match readEntry 0 v with
      | .leaf e => (.ok (e, 0, entryAddr table 0 va), s1)
      | .table _ => (.error (walkInfo 5 0), s1)
      | .fail c => (.error (walkInfo c 0), s1)
  | level + 1, table =>
    match walkRead s d (entryAddr table (level + 1) va) with
    | (.error e, s1) => (.error (walkInfo e (level + 1)), s1)
    | (.ok v, s1) => match readEntry (level + 1) v with
      | .leaf e => (.ok (e, level + 1, entryAddr table (level + 1) va), s1)
      | .table pa => walkFrom s1 d va level pa
      | .fail c => (.error (walkInfo c (level + 1)), s1)

/-- The physical address of the process descriptor of a PID (R351). -/
def descAddr (s : State) (d pid : Nat) : Nat := fld (s.die d).ptab 18 20 * 2 ^ 18 + 64 * (pid % 4096)

/-- The descriptor of a PID, valid and with its zero fields zero: the root table and the region table (R351, R353). -/
def readDesc (s : State) (d pid : Nat) : Except Nat (Nat × Nat) × State :=
  match walkWords s d (descAddr s d pid) 8 with
  | (.ok (w0 :: w1 :: rest), s1) =>
    if natBits w0 63 1 = 1 ∧ natBits w0 38 25 = 0 ∧ natBits w0 0 15 = 0 ∧ natBits w1 38 26 = 0 ∧ natBits w1 0 17 = 0
        ∧ rest.all (· == 0) then
      (.ok (natBits w0 15 23 * 2 ^ 15, natBits w1 17 21 * 2 ^ 17), s1)
    else (.error (walkInfo 6 15), s1)
  | (_, s1) => (.error (walkInfo 7 15), s1)

/-- A walk of the tables of a PID for a virtual address (R353): the leaf, its level and where its entry lies. -/
def walk (s : State) (d pid va : Nat) : Except Nat (Nat × Nat × Nat) × State :=
  match readDesc s d pid with
  | (.error e, s1) => (.error e, s1)
  | (.ok (root, _), s1) => walkFrom s1 d va 3 root

/-- A translated access: the physical address, the leaf's P and W. -/
structure Page where
  pa : Nat
  priv : Bool
  w : Bool
  deriving DecidableEq, Repr

/-- What a leaf at a level gives an access, with `lim` usable bytes: codes 8, 2 and 4 are its own (R353). -/
def leafAccess (lim leaf level va : Nat) (acc : Acc) : Except Nat Page :=
  let pa := natBits leaf 11 27 * 2048 + va % 2 ^ levelShift level
  if lim ≤ pa then .error (walkInfo 8 level)
  else if acc = .write ∧ natBits leaf 2 1 = 0 then .error (walkInfo 2 level)
  else if acc = .fetch ∧ natBits leaf 3 1 = 0 then .error (walkInfo 4 level)
  else .ok ⟨pa, natBits leaf 5 1 == 1, natBits leaf 2 1 == 1⟩

/-- The entry a station would cache for a leaf: at most one 2 MiB granule (R354). -/
def tlbEntry (pid va leaf level : Nat) : TlbEntry :=
  let sz := if level = 0 then 1 else 256
  let page := va / 8192
  ⟨stationOf va, pid, natBits leaf 4 1 == 1, level, page / sz * sz, sz, BitVec.ofNat 64 leaf⟩

/-- Does a cached entry serve an access (R354). -/
def TlbEntry.covers (e : TlbEntry) (pid va : Nat) : Bool :=
  (e.glob || e.pid == pid) && e.vpn ≤ va / 8192 && va / 8192 < e.vpn + e.pages

/-- Translate a virtual address of a PID for an access at its station on a die: a cached leaf, or a walk whose leaf the station then caches
(R350 to R354). -/
def translate (s : State) (d pid va : Nat) (acc : Acc) : Except Nat Page × State :=
  match (s.die d).tlb.find? (fun e => e.covers pid va) with
  | some e => (leafAccess s.usable e.leaf.toNat e.level va acc, s)
  | none =>
    match walk s d pid va with
    | (.error e, s1) => (.error e, s1)
    | (.ok (leaf, level, _), s1) =>
      match leafAccess s.usable leaf level va acc with
      | .error e => (.error e, s1)
      | .ok p =>
        let st := stationOf va
        if ((s1.die d).tlb.filter (fun e => e.station == st)).length < 4096 then
          (.ok p, s1.modDie d fun dd => { dd with tlb := dd.tlb ++ [tlbEntry pid va leaf level] })
        else (.ok p, s1)

/-! ### The L1 data cache (R164, R237, R355, R363) -/

/-- Why a device-memory access failed: a translation with its `y.finfo`, or an error response with its code. -/
inductive AccErr where
  | xlate (info : Nat)
  | resp (code : Nat)
  /-- Held: a scratchpad slot that is not resident, or a droop-stopped home (R160, R162). -/
  | held
  deriving DecidableEq, Repr

/-- The trap of a failed access (R169): 0x05 or 0x0C with the address and the detail. -/
def AccErr.trap (e : AccErr) (pc va : Word) : TrapInfo :=
  match e with
  | .xlate i => ⟨0x05, none, pc, some va, BitVec.ofNat 64 i⟩
  | .resp c => ⟨0x0C, none, pc, some va, BitVec.ofNat 64 c⟩
  | .held => ⟨0x0C, none, pc, some va, 3⟩

/-- The core whose L1 holds a line for an access of core `k`: its own, or the slice of the fused L1 that bits [9:7] name; none where that
slice is disabled (R164, R237). -/
def l1Home (s : State) (k vln : Nat) : Option Nat :=
  if (s.cluster (clusterOf k)).fused then
    let m := clusterCore (clusterOf k) (vln % 8)
    if (s.core m).sliceOff then none else some m
  else some k

/-- The L1 line of a PID and virtual line. -/
def l1Find (s : State) (m pid vln : Nat) : Option L1Line :=
  (s.core m).l1.find? fun l => l.pid == pid && l.vln == vln

/-- Drop a line of an L1 without writing it back. -/
def l1Remove (s : State) (m pid vln : Nat) : State :=
  s.modCore m fun c => { c with l1 := c.l1.filter fun l => !(l.pid == pid && l.vln == vln) }

/-- List a line of an L1 in place of an older one of the same name. -/
def l1Put (s : State) (m : Nat) (l : L1Line) : State :=
  s.modCore m fun c => { c with l1 := (c.l1.filter fun e => !(e.pid == l.pid && e.vln == l.vln)) ++ [l] }

/-- A dirty line of an L1 that is found uncorrectable goes to memory with its poison mark; the record names its owner, which gets an item as
well (R363). -/
def l1Poisoned (s : State) (m : Nat) (l : L1Line) (pa : Nat) : State :=
  let s1 := llcDrop s (coreDie m) (lineOf pa)
  let s2 := poisonLine { s1 with mem := writeMasked s1.mem (128 * lineOf pa) l.bits l.dirty 128 } pa
  match l.owner with
  | some x =>
    supPush (coreOf x) 6 (0x6000 ||| ctxNo x) (postErrorOpen (coreDie m) (coreBank s2 m)
      ⟨3, 0x0F, true, false, true, false, BitVec.ofNat 64 (128 * lineOf pa), 0,
        errSource s2 m 1 (some ((s.ctx x).pid, (s.ctx x).ectx, ctxNo x)), 0⟩ s2)
  | none =>
    postErrorOpen (coreDie m) (coreBank s2 m)
      ⟨3, 0x0F, true, true, true, false, BitVec.ofNat 64 (128 * lineOf pa), 0, errSource s2 m 1 none ||| put l.pid 16 12, 0⟩ s2

/-- The dirty bytes of a line go to the die's LLC (R164). A write-back whose translation fails discards them and writes a deferred record
of type 0x10 (R355). -/
def l1WriteBack (s : State) (m : Nat) (l : L1Line) : State :=
  if l.dirty = 0 then s
  else match translate s (coreDie m) l.pid (128 * l.vln) .read with
    | (.error _, s1) =>
      postErrorOpen (coreDie m) (coreBank s1 m)
        ⟨2, 0x10, false, false, true, true, BitVec.ofNat 64 (128 * l.vln), 0, errSource s1 m 1 none ||| put l.pid 16 12, 0⟩ s1
    | (.ok p, s1) => if l.poison then l1Poisoned s1 m l p.pa else (dieMerge s1 (coreDie m) (lineOf p.pa) l.bits l.dirty).2

/-- Write a line back and drop it. -/
def l1Flush (s : State) (m pid vln : Nat) : State :=
  match l1Find s m pid vln with
  | none => s
  | some l => l1Remove (l1WriteBack s m l) m pid vln

/-- Is the write-back of a line one whose translation fails: its dirty bytes are discarded (R355). -/
def l1Lost (s : State) (m : Nat) (l : L1Line) : Bool :=
  l.dirty != 0 && match (translate s (coreDie m) l.pid (128 * l.vln) .read).1 with
    | .ok _ => false
    | .error _ => true

/-- Write a line back and keep it, clean; a line without its clean bytes, or whose dirty bytes are discarded, goes. -/
def l1Clean (s : State) (m pid vln : Nat) : State :=
  match l1Find s m pid vln with
  | none => s
  | some l =>
    if l.stale || l1Lost s m l then l1Remove (l1WriteBack s m l) m pid vln
    else l1Put (l1WriteBack s m l) m { l with dirty := 0, owner := none, writers := [] }

/-- A new line enters an L1; one of 256 lines leaves by replacement first where the cache is full (R164). -/
def l1Install (s : State) (m : Nat) (l : L1Line) : State :=
  match (s.core m).l1 with
  | old :: _ => if 256 ≤ (s.core m).l1.length then l1Put (l1Flush s m old.pid old.vln) m l else l1Put s m l
  | [] => l1Put s m l

/-- The L1 line for an access, filled from the die's LLC where it is absent (R165), or where an acquire has dropped the clean bytes that a read
needs; a store fetches it with write intent (R355). -/
def l1Fill (s : State) (m pid vln : Nat) (acc : Acc) : Except AccErr L1Line × State :=
  let fill := fun (old : Option L1Line) =>
    match translate s (coreDie m) pid (128 * vln) acc with
    | (.error e, s1) => (.error (.xlate e), s1)
    | (.ok p, s1) =>
      match dieRead s1 (coreDie m) p.pa 128 with
      | (.error e, s2) => (.error (.resp e), s2)
      | (.ok v, s2) =>
        match old with
        | some l =>
          let l1 := { l with bits := lineMerge (BitVec.ofNat 1024 v) l.bits l.dirty, wOk := p.w, stale := false }
          (.ok l1, l1Put s2 m l1)
        | none =>
          let l : L1Line := ⟨pid, vln, BitVec.ofNat 1024 v, 0, p.w, false, none, [], false⟩
          (.ok l, l1Install s2 m l)
  match l1Find s m pid vln with
  | some l =>
    if acc = .write ∧ l.wOk = false then
      match translate s (coreDie m) pid (128 * vln) .write with
      | (.error e, s1) => (.error (.xlate e), s1)
      | (.ok _, s1) => (.ok { l with wOk := true }, s1)
    else if l.stale ∧ acc ≠ .write then fill (some l)
    else (.ok l, s)
  | none => fill none

/-- Drop core `k`'s own copy of a line before an access that is performed beyond the L1 (R165). A disabled slice of a fused L1 holds
none (R237). -/
def l1Bypass (s : State) (k pid va : Nat) : State :=
  match l1Home s k (lineOf va) with
  | some m => l1Flush s m pid (lineOf va)
  | none => s

/-- A device-memory load of up to 8 bytes by core `k` under a PID and a cache policy (R165). -/
def devLoad (s : State) (k pid cp va n : Nat) : Except AccErr Nat × State :=
  match (if cp = 0 then l1Home s k (lineOf va) else none) with
  | some m =>
    match l1Fill s m pid (lineOf va) .read with
    | (.error e, s1) => (.error e, s1)
    | (.ok l, s1) => (if l.poison then .error (.resp 4) else .ok (lineGet l.bits (va % 128) n), s1)
  | none =>
    let s0 := l1Bypass s k pid va
    match translate s0 (coreDie k) pid va .read with
    | (.error e, s1) => (.error (.xlate e), s1)
    | (.ok p, s1) =>
      match (if cp = 2 then streamRead s1 (coreDie k) p.pa p.priv n else dieRead s1 (coreDie k) p.pa n) with
      | (.error e, s2) => (.error (.resp e), s2)
      | (.ok v, s2) => (.ok v, s2)

/-- A line with `n` bytes written by context `x`. -/
def L1Line.store (l : L1Line) (x : Option Nat) (off n v : Nat) : L1Line :=
  { l with bits := linePut l.bits off n v, dirty := l.dirty ||| byteMask off n, owner := x,
           writers := match x with
             | some y => if l.writers.contains y then l.writers else l.writers ++ [y]
             | none => l.writers }

/-- The thread of context `x` has written a virtual line (R167). -/
def noteWrote (x : Option Nat) (vln : Nat) (s : State) : State :=
  match x with
  | some y => s.modCtx y fun c => { c with wrote := insertLine c.wrote vln }
  | none => s

/-- A device-memory store of up to 8 bytes by context `x` of core `k` (R165, R355). A normal store that misses to a poisoned line merges its bytes
at the die's LLC, and the mark stays (R349). -/
def devStore (s : State) (k : Nat) (x : Option Nat) (pid cp va n v : Nat) : Except AccErr Unit × State :=
  let below := fun (s0 : State) =>
    match translate s0 (coreDie k) pid va .write with
    | (.error e, s1) => (.error (.xlate e), s1)
    | (.ok p, s1) =>
      match (if cp = 2 then streamWrite s1 (coreDie k) p.pa p.priv n v else dieWrite s1 (coreDie k) p.pa n v) with
      | (.error e, s2) => (.error (.resp e), s2)
      | (.ok _, s2) => (.ok (), noteWrote x (lineOf va) s2)
  match (if cp = 0 then l1Home s k (lineOf va) else none) with
  | some m =>
    match l1Fill s m pid (lineOf va) .write with
    | (.error (.resp 4), s1) => below s1
    | (.error e, s1) => (.error e, s1)
    | (.ok l, s1) => (.ok (), noteWrote x (lineOf va) (l1Put s1 m (l.store x (va % 128) n v)))
  | none => below (l1Bypass s k pid va)

/-! ### The points of coherence (R166, R180 to R182, R432) -/

/-- Is the scope one that the die's LLC is the point of: cluster without fusion, or die (R166). -/
def scopeAtDie (fused : Bool) (sc : Nat) : Bool := (sc = 2 && !fused) || sc = 3

/-- Is the scope one whose point is the home slice: device or system (R166). -/
def scopeAtHome (sc : Nat) : Bool := 4 ≤ sc

/-- The cache policy whose point of performance is a scope's point of coherence (R180). -/
def scopePolicy (fused : Bool) (sc : Nat) : Nat := if scopeAtHome sc then 2 else if scopeAtDie fused sc then 1 else 0

/-- The cores whose L1s an access of core `k` goes through: itself, or its cluster where fused (R164). -/
def l1Cores (s : State) (k : Nat) : List Nat :=
  if (s.cluster (clusterOf k)).fused then (List.range 8).map (clusterCore (clusterOf k)) else [k]

/-- Is a line in a range of addresses, or in any where there is none. -/
def lineIn (ranges : Option (List (Nat × Nat))) (vln : Nat) : Bool :=
  match ranges with
  | none => true
  | some rs => rs.any fun r => r.1 < 128 * vln + 128 && 128 * vln < r.1 + r.2

/-- Carry an operation over the physical lines of ranges of device addresses that are not die-private (R166, R357). -/
def overRanges (d pid : Nat) (rs : List (Nat × Nat)) (g : Nat → State → State) (s : State) : State :=
  rs.foldl (fun t r =>
    if 2 ^ 53 ≤ r.1 then t
    else (List.range (r.2 / 128 + 2)).foldl (fun u i =>
      let va := (r.1 / 128 + i) * 128
      if r.1 + r.2 ≤ va then u
      else match (translate u d pid va .read).1 with
        | .ok p => if p.priv then u else g (lineOf p.pa) u
        | .error _ => u) t) s

/-- Write the dirty bytes of the lines in the ranges, or of every line, back to the point of coherence of a scope: those of the L1, and for a
scope beyond the die those of the die's copies, a thread of the PID's (R181, R182, R348, R432). -/
def releaseLines (s : State) (k pid sc : Nat) (ranges : Option (List (Nat × Nat))) : State :=
  let fused := (s.cluster (clusterOf k)).fused
  if scopeAtDie fused sc || scopeAtHome sc then
    let s1 := (l1Cores s k).foldl (fun t m =>
      ((t.core m).l1.filter fun l => lineIn ranges l.vln).foldl (fun u l => l1Clean u m l.pid l.vln) t) s
    if scopeAtHome sc then
      match ranges with
      | none => (llcLines s1 (coreDie k)).foldl (fun t ln => llcClean t (coreDie k) ln) s1
      | some rs => overRanges (coreDie k) pid rs (fun ln u => llcClean u (coreDie k) ln) s1
    else s1
  else s

/-- What an acquire leaves of a line of an L1: nothing of a clean one, and of a dirty one its dirty bytes (R180, R182). -/
def L1Line.acquired (l : L1Line) : Option L1Line := if l.dirty = 0 then none else some { l with stale := true }

/-- What an acquire beyond the die leaves of a die's copy of a line. -/
def LlcLine.acquired (l : LlcLine) : Option LlcLine := if l.dirty = 0 then none else some { l with stale := true }

/-- A die's copy of a line after an acquire. -/
def llcAcquire (d ln : Nat) (s : State) : State :=
  match llcCopy s d ln with
  | none => s
  | some l => s.modDie d fun dd => { dd with llc := match l.acquired with
      | some l1 => dd.llc.put ln l1
      | none => dd.llc.erase ln }

/-- Drop the clean bytes of the lines in the ranges, or of every line, between a core and the point of coherence of a scope (R180, R182, R432). -/
def acquireLines (s : State) (k pid sc : Nat) (ranges : Option (List (Nat × Nat))) : State :=
  let fused := (s.cluster (clusterOf k)).fused
  if scopeAtDie fused sc || scopeAtHome sc then
    let s1 := (l1Cores s k).foldl (fun t m => t.modCore m fun c =>
      { c with l1 := c.l1.filterMap fun l => if lineIn ranges l.vln then l.acquired else some l }) s
    if scopeAtHome sc then
      match ranges with
      | none => (llcLines s1 (coreDie k)).foldl (fun t ln => llcAcquire (coreDie k) ln t) s1
      | some rs => overRanges (coreDie k) pid rs (llcAcquire (coreDie k)) s1
    else s1
  else s

end Sys2Proof.Machine
end

