-- ==== Sys2Proof/Machine/Ops.lean ====
section
/-! DEFINITION. The kill of a core, and TAKING AN EXCEPTION as one shared operation, with the return from one beside it. -/

namespace Sys2Proof.Machine

/-! ### Killing a core (R228, R229, R237) -/

/-- A core's slice of a fused L1 writes its dirty lines back and is disabled (R237). -/
def sliceDisable (k : Nat) (s : State) : State :=
  ((s.core k).l1.foldl (fun t l => l1WriteBack t k l) s).modCore k fun c => { c with l1 := [], sliceOff := true }

/-- The kill of a core, in the order of R229; `typ` is the type of its error record. Its parcel commands are discarded (R262), and its slice of
a fused L1 writes back and is disabled (R237). -/
def coreKill (k typ : Nat) (s : State) : State :=
  if (s.core k).killed then s
  else
    let evs := (s.core k).inbox ++ ((userCtxs k).filterMap fun x => (s.ctx x).event?) ++ (s.core k).heldList.filterMap fun h => h.made.event?
    let s0 := if (s.cluster (clusterOf k)).fused then sliceDisable k s else s
    let s1 := (s0.modCore k fun c => { c with offline := true, killed := true }).modCluster (clusterOf k) fun q =>
      { q with pce := q.pce.filter fun e => e.core != k }
    let s2 := evs.foldl (fun t e => markHandled k e t) s1
    let mine := (s2.core k).waiters ++ s2.reqs.filter (fun r => r.atCore k)
    let s3 := { s2 with reqs := s2.reqs.filter fun r => !(r.atCore k) }
    let s4 := s3.modCore k fun c => { c with waiters := [], inbox := [] }
    let s5 := mine.foldl (fun t r => replyReq r (.fail (errTrap r (match r.op with | .link _ _ => 1 | _ => 2))) t) s4
    let s6 := (neighbours k).foldl (fun t n => match n with | some m => failLinkReads m t | none => t) s5
    let s7 := postErrorOpen (coreDie k) (coreBank s6 k)
      ⟨3, typ, false, false, false, false, 0, 0, errSource s6 k 0 none, 0⟩ s6
    let (m, s8) := s7.free
    supPush (postmaster s8 (clusterOf k)) 6 m.toNat s8

/-! ### Taking an exception (R33 to R36) and the return from one (R82) -/

/-- TAKE A TRAP in context `x` at an instruction boundary (R33): the context is Stopped, the trap registers are written, and context 7 is
woken by a TYPE 0 item. A cause that would trap context 7 kills the core (R214), and so does an error response that carries poison
outside a completion atomic (R228). -/
def takeTrap (x : Nat) (t : TrapInfo) (s : State) : State :=
  if ctxNo x = 7 then coreKill (coreOf x) 0x0E s
  else if t.cause = 0x0C ∧ fld t.finfo 0 8 = 4 ∧ bitAt t.finfo 63 = false then coreKill (coreOf x) 0x07 s
  else
    let s1 := s.modCtx x fun c =>
      { c with
        run := .stopped
        cause := BitVec.ofNat 64 t.cause
        epc := t.epc.getD c.pc
        fpc := t.fpc
        faddr := t.faddr.getD c.faddr
        finfo := t.finfo }
    supPush (coreOf x) 0 (ctxNo x) s1

/-- The context is Stopped at its `y.epc` and becomes Ready there (R82), after the marker of R25: the outstanding long results are written first,
so it is Parked while any is outstanding, and a store fault that is still deferred is taken (R35). An `y.epc` whose low bits context 7 has made
nonzero is fetched as it stands (log entry 20). -/
def returnFromTrap (x : Nat) (s : State) : State :=
  s.modCtx x fun c =>
    { c with
      run := if c.outstanding.isEmpty then .ready else .parked false none
      deferArmed := c.deferArmed || c.deferred.any fun d => !d.taken
      pc := c.epc }

/-- The causes pending at the boundary of context `x` that come before the next instruction's own, in the order of R36 (items 1 to 5): the
first, with the state in which it is no longer pending. An asynchronous cause has no faulting instruction: its `y.fpc` is a free
value (log entry 5). -/
def nextPending (x : Nat) (s : State) : Option (TrapInfo × State) :=
  let c := s.ctx x
  match c.pendDroop with
  | some fi =>
    let (v, s1) := s.free
    some (⟨0x0E, none, v, none, fi⟩, s1.setCtx x { c with pendDroop := none })
  | none =>
    if c.pendPreempt then
      let (v, s1) := s.free
      some (⟨0x0F, none, v, none, 0⟩, s1.setCtx x { c with pendPreempt := false })
    else match c.pend with
      | t :: rest => some (t, s.setCtx x { c with pend := rest })
      | [] =>
        match (if c.deferArmed then c.deferred.find? (fun q => !q.taken) else none) with
        | some q =>
          some (⟨0x05, none, q.fpc, some q.faddr, q.finfo⟩,
            s.setCtx x { c with
              deferred := c.deferred.map fun e => if e.group = q.group then { e with taken := true } else e
              deferArmed := c.deferred.any fun e => !e.taken && e.group != q.group })
        | none =>
          match c.pendStep with
          | some at0 => some (⟨0x0A, none, at0, none, 0⟩, s.setCtx x { c with pendStep := none })
          | none => none

/-- A pending throttle notice (R36, item 7): taken where neither an earlier cause nor the next instruction's own trap is. -/
def nextThrottle (x : Nat) (s : State) : Option (TrapInfo × State) :=
  let c := s.ctx x
  match c.pendThrottle with
  | some fi =>
    let (v, s1) := s.free
    some (⟨0x10, none, v, none, fi⟩, s1.setCtx x { c with pendThrottle := none })
  | none => none

end Sys2Proof.Machine
end

