-- ==== Sys2Proof/Machine/Requests.lean ====
section
/-! DEFINITION. Scratchpad words and their tags, the waiters of the home ports, atomics, releases and acquires, and the requests on
their way to a home (R157 to R187). -/

namespace Sys2Proof.Machine

/-! ### Data addresses (R157) -/

/-- What a data address names, for a core. -/
inductive Space where
  | bad
  | spad (core off : Nat)
  | dev (va : Nat)
  deriving DecidableEq, Repr

/-- Decode a data address (R157). -/
def resolve (k : Nat) (a : Word) : Space :=
  if badTop a then .bad
  else if !(bitAt a 53) then .dev a.toNat
  else if bitAt a 52 then (if fld a 18 34 ≠ 0 then .bad else .spad k (fld a 0 18))
  else if fld a 50 2 ≠ 0 ∨ fld a 18 21 ≠ 0 then .bad
  else match coreNamed a with
    | some c => .spad c (fld a 0 18)
    | none => .bad

/-- A local alias as the global address of a core; every other address as it is (R157). -/
def globalOf (k : Nat) (a : Word) : Word :=
  match resolve k a with
  | .spad c off => if bitAt a 52 then coreAddr c ||| BitVec.ofNat 64 off else a
  | _ => a

/-! ### Scratchpad words (R159 to R163) -/

/-- The residency slot of an offset. -/
def slotOf (off : Nat) : Nat := off / 8192 % 32

/-- The residency entry of a slot of a core. -/
def residOf (s : State) (k slot : Nat) : Resid := (s.core k).resid.getD slot Resid.reset

/-- Is the slot of an offset resident. -/
def resident (s : State) (k off : Nat) : Bool := (residOf s k (slotOf off)).v

/-- The 64-bit word at an offset. -/
def spadWord (s : State) (k off : Nat) : Nat := ((s.core k).spad.getD (off / 8 % 32768) 0).toNat

/-- The full/empty tag of the word at an offset. -/
def spadTag (s : State) (k off : Nat) : Bool := (s.core k).tags.getD (off / 8 % 32768) false

/-- Read `n` bytes of one word. -/
def spadGet (s : State) (k off n : Nat) : Nat := natBits (spadWord s k off) (8 * (off % 8)) (8 * n)

/-- Has the word at an offset an uncorrectable error (R160). -/
def spadBad (s : State) (k off : Nat) : Bool := (s.core k).badSpad.contains (off / 8 % 32768)

/-- Replace `n` bytes of one word and mark the slot written; a write of the whole word leaves no error in it. -/
def spadSet (s : State) (k off n v : Nat) : State :=
  s.modCore k fun c =>
    let i := off / 8 % 32768
    let w := c.spad.getD i 0
    { c with
      badSpad := if n = 8 then c.badSpad.filter (· ≠ i) else c.badSpad
      spad := c.spad.putD i 0 (setFld w (8 * (off % 8)) (8 * n) v)
      resid := c.resid.put (slotOf off) { (c.resid.getD (slotOf off) Resid.reset) with dt := true } }

/-- Write a tag; the slot is written too. -/
def spadSetTag (s : State) (k off : Nat) (b : Bool) : State :=
  s.modCore k fun c =>
    { c with
      tags := c.tags.putD (off / 8 % 32768) false b
      resid := c.resid.put (slotOf off) { (c.resid.getD (slotOf off) Resid.reset) with dt := true } }

/-- A word written with an uncorrectable error or a poison mark (R160, R291). -/
def spadPoison (s : State) (k off : Nat) : State :=
  s.modCore k fun c => { c with badSpad := insertLine c.badSpad (off / 8 % 32768) }

/-! ### Paths (R254, R255) -/

/-- The number of a path that is none of those of R254: the supervisor's, the firmware's, the PCE's and the host's accesses, which find every word as it
stands (log entry 40). -/
def noPath : Nat := 8

/-- Is an entry one that a path may still read for the word at an offset. -/
def OldWord.serves (e : OldWord) (p off : Nat) : Bool := e.word == off / 8 % 32768 && e.readers.testBit p

/-- The entry without the paths of a mask; none where no path is left. -/
def OldWord.without (e : OldWord) (m : Nat) : Option OldWord :=
  if e.readers ^^^ (e.readers &&& m) = 0 then none else some { e with readers := e.readers ^^^ (e.readers &&& m) }

/-- The paths of a mask find the word at an offset as it stands from now on. -/
def meetWord (m k off : Nat) (s : State) : State :=
  if (s.core k).older.isEmpty then s
  else s.modCore k fun c => { c with older := c.older.filterMap fun e => if e.word = off / 8 % 32768 then e.without m else some e }

/-- Before path `p` writes the word at an offset: the other paths may go on reading it as it stands, and as it stood where they may read that already,
until an XFENCE orders them (R254). A write by what has no path is seen by all. -/
def leaveWord (p k off : Nat) (s : State) : State :=
  if p = noPath then meetWord 255 k off s
  else
    let t := meetWord (2 ^ p) k off s
    t.modCore k fun c =>
      let seen := (c.older.filter fun e => e.word == off / 8 % 32768 && e.path == p).foldl (fun m e => m ||| e.readers) (2 ^ p)
      { c with older := c.older ++ ((⟨off / 8 % 32768, p, 255, c.spad.getD (off / 8 % 32768) 0⟩ : OldWord).without seen).toList }

/-- Read `n` bytes of one word by a path: the word as it stands, or by a free choice as it stood before a write of another path that no XFENCE has
ordered before this read (R254, R255); what the path has once seen it does not see older again. -/
def pathGet (s : State) (p k off n : Nat) : Nat × State :=
  match (s.core k).older.find? (·.serves p off) with
  | none => (spadGet s k off n, s)
  | some e =>
    if bitAt s.free.1 0 then (natBits e.old.toNat (8 * (off % 8)) (8 * n), s.free.2)
    else (spadGet s k off n, meetWord (2 ^ p) k off s.free.2)

/-- Does a scope of core `j` cover the scratchpad of core `k` for the engines' paths: from cluster scope on (R166). -/
def scopeHasCore (sc j k : Nat) : Bool :=
  (sc == 2 && clusterOf j == clusterOf k) || (sc == 3 && coreDie j == coreDie k) || decide (4 ≤ sc)

/-- XFENCE at the scratchpads: the paths of `tos` find every word that a path of `froms` has written, in a scratchpad of the scope, as it stands
(R255). -/
def fencePaths (j sc froms tos : Nat) (s : State) : State :=
  { s with cores := s.cores.map fun e => (e.1, if scopeHasCore sc j e.1 then
      { e.2 with older := e.2.older.filterMap fun o =>
          o.without (tos &&& (e.2.older.filter fun q => q.word == o.word && froms.testBit q.path).foldl (fun m q => m ||| q.readers) 0) }
    else e.2) }

/-! ### Atomics (R184, R185) -/

/-- The new word of an atomic: `m` the old word, `v` the operand, `cv` the value that ACAS compares with. -/
def atomNew (op : AtomKind) (ty size m v cv : Nat) : Nat :=
  let bits := 8 * size
  let lt := intCond 2 (tySigned ty) bits v m
  let r := match op with
    | .add => m + v
    | .fadd => fAdd fFP32 0 m v
    | .min => if lt then v else m
    | .max => if intCond 2 (tySigned ty) bits m v then v else m
    | .and => m &&& v
    | .or => m ||| v
    | .xor => m ^^^ v
    | .swp => v
    | .cas => if m % 2 ^ bits = cv % 2 ^ bits then v else m
  r % 2 ^ bits

/-! ### Bindings, acquires and releases (R177 to R182) -/

/-- The valid entries of a region table at a physical address: index, object, start and length (R351). -/
def regionEntries (s : State) (table : Nat) : List (Nat × Nat × Nat × Nat) :=
  (s.mem.filter fun c => table ≤ c.1 && c.1 < table + 131072 && (c.1 - table) % 32 == 7 && 128 ≤ c.2.toNat).map fun c =>
    let a := c.1 - 7
    ((a - table) / 32, memRead s.mem a 8 % 2 ^ 63, memRead s.mem (a + 8) 8, memRead s.mem (a + 16) 8)

/-- The ranges bound to an object for a PID: the word itself and every range of the table (R177). -/
def boundRanges (s : State) (d pid obj : Nat) : List (Nat × Nat) :=
  (obj, 8) :: match readDesc s d pid with
    | (.error _, _) => []
    | (.ok (_, t), s1) => ((regionEntries s1 t).filter fun e => e.2.1 == obj).map fun e => (e.2.2.1, e.2.2.2)

/-- The acquire of an object by core `k` at a scope: no later read of a bound region returns data older than the point of coherence (R180). -/
def acquireObj (s : State) (k pid sc obj : Nat) : State :=
  if sc = 0 then s else acquireLines s k pid sc (some (boundRanges s (coreDie k) pid obj))

/-- A request's answer: the acquire that an ACQ or an atomic makes, then the reply (R180, R183). -/
def finishReq (r : Req) (v : LongVal) (s : State) : State :=
  let s1 := match v with
    | .ok _ => if r.acq = 0 then s else acquireObj s r.src r.pid r.acq (globalOf r.src r.va).toNat
    | .fail _ => s
  replyReq r v s1

/-! ### The home port (R160, R171 to R174) -/

/-- Can the request be performed on its word now: the tag or the condition is as it waits for. -/
def Req.eligible (r : Req) (s : State) (k off : Nat) : Bool :=
  match r.op with
  | .ldf | .ldff => spadTag s k off
  | .ste => !(spadTag s k off)
  | .waita _ | .join => r.holds (spadGet s k off r.size)
  | _ => true

/-- Perform an eligible request at its word, without serving the waiters. A plain load is an access of path T; every other finds the word as it
stands. -/
def spadPerform (r : Req) (k off : Nat) (s : State) : State :=
  let old := spadGet s k off r.size
  match r.op with
  | .load =>
    if r.acq = 0 then finishReq r (.ok (extendTy r.ty (pathGet s 0 k off r.size).1).toNat) (pathGet s 0 k off r.size).2
    else finishReq r (.ok (extendTy r.ty old).toNat) (meetWord 1 k off s)
  | .store => finishReq r (.ok 0) (spadSet (leaveWord 0 k off s) k off r.size r.val)
  | .ldf => finishReq r (.ok old) (spadSetTag (meetWord 1 k off s) k off false)
  | .ldff => finishReq r (.ok old) (meetWord 1 k off s)
  | .ste | .stf => finishReq r (.ok 0) (spadSetTag (spadSet (leaveWord 0 k off s) k off 8 r.val) k off true)
  | .tagr => finishReq r (.ok (if spadTag s k off then 1 else 0)) s
  | .tagw => finishReq r (.ok 0) (spadSetTag s k off (r.val % 2 == 1))
  | .waita _ | .join => finishReq r (.ok old) (meetWord 1 k off s)
  | .atom op =>
    finishReq r (.ok (extendTy r.ty old).toNat) (spadSet (leaveWord 0 k off s) k off r.size (atomNew op r.ty r.size old r.val r.cmp))
  | .link _ _ => s

/-- Is the request registered on the word at an offset of core `k`. -/
def Req.onWord (r : Req) (k off : Nat) : Bool :=
  match r.home with
  | .spad c o => c == k && o / 8 == off / 8
  | _ => false

/-- The offset of a request in its home's scratchpad. -/
def Req.off (r : Req) : Nat :=
  match r.home with
  | .spad _ o => o
  | _ => 0

/-- Serve the waiters of a word in arrival order until none of them can go on (R172). -/
def spadServe (k off : Nat) : Nat → State → State
  | 0, s => s
  | n + 1, s =>
    match (s.core k).waiters.find? (fun r => r.onWord k off && r.eligible s k r.off) with
    | none => s
    | some r =>
      spadServe k off n (spadPerform r k r.off (s.modCore k fun c => { c with waiters := c.waiters.erase r }))

/-- After a write or a tag change of a word: held threads are woken and the waiters served (R172, R174, R176). -/
def spadChanged (k off : Nat) (s : State) : State :=
  let s1 := markHeld (fun h => match h with | .spad c o => c == k && o / 8 == off / 8 | _ => false) s
  spadServe k off (s1.core k).waiters.length s1

/-- Write `n` bytes of a word and serve its waiters. -/
def spadWrite (s : State) (k off n v : Nat) : State := spadChanged k off (spadSet s k off n v)

/-- Does an operation change the word or its tag. -/
def ReqOp.changes : ReqOp → Bool
  | .store | .ldf | .ste | .stf | .tagw | .atom _ => true
  | _ => false

/-- Does an operation write a whole word whatever it held (R160). -/
def ReqOp.overwrites (op : ReqOp) (size : Nat) : Bool :=
  match op with
  | .store => size == 8
  | .ste | .stf => true
  | _ => false

/-- Perform a request at a scratchpad word, or register it with the waiters of the port; a full list refuses it (R172, R173). -/
def portDo (r : Req) (k off : Nat) (s : State) : Except Req State :=
  if r.eligible s k off then
    let s1 := spadPerform r k off s
    .ok (if r.op.changes then spadChanged k off s1 else s1)
  else if (s.core k).waiters.length < 32 then .ok (s.modCore k fun c => { c with waiters := c.waiters ++ [r] })
  else .error { r with refused := true, delay := if r.refused then min 1024 (2 * r.delay) else 64 }

/-- Accesses held at the home port of a core for slots that are not resident (R162). -/
def heldAtPort (s : State) (k : Nat) : Nat := (s.reqs.filter fun r => r.atCore k && r.heldAt).length

/-- Is a request's home one that the waiters of a slice are listed at: the same station of a die. -/
def Home.sameSlice (a b : Home) : Bool :=
  match a, b with
  | .dev p, .dev q => homeDie p == homeDie q && homeStation p == homeStation q
  | .llc d p, .llc e q => d == e && homeStation p == homeStation q
  | .dev p, .llc e q => homeDie p == e && homeStation p == homeStation q
  | .llc d p, .dev q => d == homeDie q && homeStation p == homeStation q
  | _, _ => false

/-- Read `n` bytes at a home outside the scratchpads, for a requester on die `d`: the home slice, or the copy of the requester's die (R183, R357). -/
def sliceRead (s : State) (d : Nat) (h : Home) (n : Nat) : Except Nat Nat × State :=
  match h with
  | .dev pa => (homeRead s d pa n, s)
  | .llc e pa => dieRead s e pa n
  | .spad _ _ => (.ok 0, s)

/-- Write `n` bytes at such a home. -/
def sliceWrite (s : State) (h : Home) (n v : Nat) : State :=
  match h with
  | .dev pa => homeWrite s pa n v
  | .llc e pa => (dieWrite s e pa n v).2
  | .spad _ _ => s

/-- The die whose slices serve a home. -/
def Home.dieOf (h : Home) : Nat :=
  match h with
  | .dev pa => homeDie pa
  | .llc d _ => d
  | .spad k _ => coreDie k

/-- The copies of a word on the requester's own side leave before it is accessed at its home (R165, R167): the core's L1 line, and for the home
slice the die's copy. -/
def ownCopies (r : Req) (s : State) : State :=
  let s1 := l1Bypass s r.src r.pid r.va.toNat
  match r.home with
  | .dev pa => llcDrop s1 (coreDie r.src) (lineOf pa)
  | _ => s1

/-- Perform a request at device memory: WAITA, JOIN and atomics at its slice (R173, R183). -/
def sliceDo (r : Req) (s0 : State) : Except Req State :=
  let s1 := ownCopies r s0
  match sliceRead s1 (coreDie r.src) r.home r.size with
  | (.error e, s) => .ok (finishReq r (.fail (errTrap r e)) s)
  | (.ok old, s) =>
    match r.op with
    | .atom op =>
      .ok (finishReq r (.ok (extendTy r.ty old).toNat) (sliceWrite s r.home r.size (atomNew op r.ty r.size old r.val r.cmp)))
    | _ =>
      if r.holds old then .ok (finishReq r (.ok old) s)
      else if ((s.die r.home.dieOf).waiters.filter fun q => q.home.sameSlice r.home).length < 256 then
        .ok (s.modDie r.home.dieOf fun d => { d with waiters := d.waiters ++ [r] })
      else .error { r with refused := true, delay := if r.refused then min 1024 (2 * r.delay) else 64 }

/-- A value sent by NSEND reaches a receive register (R191): it becomes present, or goes to the holding slot, or is refused. -/
def linkArrive (r : Req) (k n : Nat) (rel : Bool) (s : State) : Except Req State :=
  let kc := s.core k
  let v := BitVec.ofNat 64 r.val
  match kc.links.get? n with
  | none => .ok (s.setCore k { kc with links := kc.links.put n v, linkRel := kc.linkRel.put n rel })
  | some _ =>
    match kc.linkHold.get? n with
    | none => .ok (s.setCore k { kc with linkHold := kc.linkHold.put n (v, rel) })
    | some _ => .error { r with refused := true }

/-- Perform a request at its home: done, or the request as it stays in flight: held at a droop-stopped home, at a slot that is not
resident, refused by a full list, or to be translated anew (R160, R162, R173, R437). -/
def performReq (r : Req) (s : State) : Except Req State :=
  match r.home with
  | .dev _ | .llc _ _ => if r.stale then .error r else sliceDo r s
  | .spad k off =>
    if fencedFrom s (coreDie r.src) (coreDie k) then .ok (finishReq r (.fail (errTrap r 5)) s)
    else match r.op with
    | .link n rel =>
      if (s.core k).killed || (s.core k).offline then .ok (finishReq r (.fail (errTrap r 1)) s)
      else if (s.core k).droopAt.isSome then .error r
      else linkArrive r k n rel s
    | _ =>
      if (s.core k).killed then .ok (finishReq r (.fail (errTrap r 2)) s)
      else if (s.core k).droopAt.isSome then .error r
      else if !(resident s k off) then
        .error (if heldAtPort s k < 64 then { r with heldAt := true } else { r with refused := true })
      else if spadBad s k off && !(r.op.overwrites r.size) then .ok (finishReq r (.fail (errTrap r 4)) s)
      else portDo r k off s

/-- Do two requests travel from one stop to one stop (R345): a core's port, a slice's station, or a neighbour link. -/
def Req.sameWay (r q : Req) : Bool :=
  q.src == r.src && match q.home, r.home with
    | .spad a o, .spad b p => a == b && decide (o < 2 ^ 18) == decide (p < 2 ^ 18)
    | a, b => a.sameSlice b

/-- Has a request arrived at its home already: it is held there, or was sent back. -/
def Req.arrived (r : Req) : Bool := r.heldAt || r.refused

/-- Must request `r` wait for the earlier request `q`: they travel one way, or the same thread accesses one word, or orders its atomics to one
home (R160, R186, R345). -/
def Req.after (r q : Req) : Bool :=
  r.sameWay q && (!q.arrived || (q.x == r.x && ((q.ord && r.ord) || match q.home, r.home with
    | .spad _ o, .spad _ p => o / 8 == p / 8
    | .dev p, .dev m => p / 8 == m / 8
    | .llc _ p, .llc _ m => p / 8 == m / 8
    | _, _ => false)))

/-- May the request at a place of the list be performed before those that stand earlier. -/
def reqFirst (s : State) (i : Nat) : Bool :=
  match s.reqs[i]? with
  | none => false
  | some r => !((s.reqs.take i).any fun q => r.after q)

/-- Perform the request at a place of the list of requests in flight. -/
def performAt (i : Nat) (s : State) : State :=
  match s.reqs[i]? with
  | none => s
  | some r =>
    match performReq r { s with reqs := dropAt s.reqs i } with
    | .ok t => t
    | .error r1 => { s with reqs := s.reqs.set i r1 }

/-- Send a request: it joins those in flight. -/
def sendReq (r : Req) (s : State) : State := { s with reqs := s.reqs ++ [r] }

/-- Perform a request at once where nothing holds it, else leave it in flight. -/
def startReq (r : Req) (s : State) : State :=
  match performReq r s with
  | .ok t => t
  | .error r1 => sendReq r1 s

/-- Is the request at a place one that satisfies a test, or one that such a request must come after. -/
def reqDue (p : Req → Bool) (s : State) (i : Nat) : Bool :=
  match s.reqs[i]? with
  | none => false
  | some r => (s.reqs.drop i).any fun q => p q && (q == r || q.after r)

/-- Perform, in order from a place on, the requests that are due and that nothing holds. -/
def flushFrom (p : Req → Bool) : Nat → Nat → State → State
  | 0, _, s => s
  | n + 1, i, s =>
    let t := if reqDue p s i && reqFirst s i then performAt i s else s
    flushFrom p n (if t.reqs.length < s.reqs.length then i else i + 1) t

/-- Perform, in order, the requests in flight that satisfy a test, with those they come after, as far as nothing holds them. -/
def flushReqs (p : Req → Bool) (s : State) : State := flushFrom p s.reqs.length 0 s

/-- Before a core sends a packet to the slice that serves a home: what it sent there earlier is performed, as packets of one pair of stops arrive
in the order in which they were sent (R345). -/
def sentBefore (k : Nat) (h : Home) (s : State) : State := flushReqs (fun r => r.src == k && r.home.sameSlice h) s

/-- The slice that an access of core `k` sends a packet to: none where its L1 serves it; the die's own for a fill and for bypass; the home
slice for streaming (R165, R343). -/
def packetHome (s : State) (k pid cp va : Nat) (acc : Acc) : Option Home :=
  let held : Bool := match (if cp = 0 then l1Home s k (lineOf va) else none) with
    | some m => match l1Find s m pid (lineOf va) with
      | some l => acc == .write || !l.stale
      | none => false
    | none => false
  if held then none
  else match (translate s (coreDie k) pid va acc).1 with
    | .ok p => some (if cp = 2 && !p.priv then .dev p.pa else .llc (coreDie k) p.pa)
    | .error _ => none

/-- The state in which an access of core `k` to device memory is made: the core's earlier packets to its slice have been performed (R345). -/
def inOrder (k pid cp va : Nat) (acc : Acc) (s : State) : State :=
  match packetHome s k pid cp va acc with
  | some h => sentBefore k h s
  | none => s

/-- The slices that the write-backs of a release send packets to. -/
def dirtyHomes (s : State) (k : Nat) (ranges : Option (List (Nat × Nat))) : List Home :=
  (l1Cores s k).flatMap fun m => ((s.core m).l1.filter fun l => l.dirty != 0 && lineIn ranges l.vln).filterMap fun l =>
    match (translate s (coreDie m) l.pid (128 * l.vln) .read).1 with
    | .ok p => some (.llc (coreDie m) p.pa)
    | .error _ => none

/-- The write-backs of a release by core `k` (R181, R182), behind the core's earlier packets to the same slices (R345). -/
def releaseVia (s : State) (k pid sc : Nat) (ranges : Option (List (Nat × Nat))) : State :=
  let hs := if scopeAtDie (s.cluster (clusterOf k)).fused sc || scopeAtHome sc then dirtyHomes s k ranges else []
  releaseLines (flushReqs (fun r => r.src == k && hs.any fun h => r.home.sameSlice h) s) k pid sc ranges

/-- The write-backs of a release of an object (R181). -/
def releaseObj (s : State) (k pid sc obj : Nat) : State :=
  releaseVia s k pid sc (some (boundRanges s (coreDie k) pid obj))

/-- Before a thread's own access: its earlier requests to the same address and its pending acquires are performed (R167, R180). -/
def flushOwn (x : Nat) (va : Word) (s : State) : State :=
  flushReqs (fun r => r.x == x && (r.acq != 0 || r.va.toNat / 8 == va.toNat / 8)) s

/-- Does the thread have an acquire that cannot be performed yet: its later accesses wait (R180). -/
def acquirePending (s : State) (x : Nat) : Bool := s.reqs.any fun r => r.x == x && r.acq != 0

/-! ### Accesses made for a thread by the hardware (R11, R19, R175) -/

/-- What keeps an access of a requester on die `d` from a scratchpad word, if anything does (R160, R162, R240, R438); `whole`: it writes the whole
word. -/
def portErr (s : State) (d k off : Nat) (whole : Bool) : Option AccErr :=
  if fencedFrom s d (coreDie k) then some (.resp 5)
  else if (s.core k).killed then some (.resp 2)
  else if (s.core k).droopAt.isSome then some .held
  else if !(resident s k off) then (if (s.core k).failSlot = some (slotOf off) then some (.resp 3) else some .held)
  else if spadBad s k off && !whole then some (.resp 4)
  else none

/-- Read `n` bytes of one scratchpad word by a path for a requester on die `d`. -/
def portLoad (s : State) (p d k off n : Nat) : Except AccErr Nat × State :=
  match portErr s d k off false with
  | some e => (.error e, s)
  | none => (.ok (pathGet s p k off n).1, (pathGet s p k off n).2)

/-- Write `n` bytes of one scratchpad word by a path for a requester on die `d`. -/
def portStore (s : State) (p d k off n v : Nat) : Except AccErr Unit × State :=
  match portErr s d k off (n == 8) with
  | some e => (.error e, s)
  | none => (.ok (), spadWrite (leaveWord p k off s) k off n v)

/-- Read `n` bytes of one word at a data address, as a thread of core `k` under a PID and a policy. -/
def wordLoad (s : State) (k pid cp : Nat) (a : Word) (n : Nat) : Except AccErr Nat × State :=
  match resolve k a with
  | .bad => (.error (.xlate 0xF03), s)
  | .dev va => devLoad s k pid cp va n
  | .spad c off => portLoad s noPath (coreDie k) c off n

/-- Write `n` bytes of one word at a data address, as context `x` of core `k` under a PID and a policy. -/
def wordStore (s : State) (k : Nat) (x : Option Nat) (pid cp : Nat) (a : Word) (n v : Nat) : Except AccErr Unit × State :=
  match resolve k a with
  | .bad => (.error (.xlate 0xF03), s)
  | .dev va => devStore s k x pid cp va n v
  | .spad c off => portStore s 0 (coreDie k) c off n v

/-- Write words in rising order from an address; the first failure ends it. -/
def wordsStore (s : State) (k : Nat) (x : Option Nat) (pid cp : Nat) (a : Word) (ws : List Word) :
    Except (AccErr × Word) Unit × State :=
  match ws with
  | [] => (.ok (), s)
  | w :: rest =>
    match wordStore s k x pid cp a 8 w.toNat with
    | (.error e, s1) => (.error (e, a), s1)
    | (.ok _, s1) => wordsStore s1 k x pid cp (a + 8) rest

/-- Read `n` words in rising order from an address; the first failure ends it. -/
def wordsLoad (s : State) (k pid cp : Nat) (a : Word) : Nat → Except (AccErr × Word) (List Word) × State
  | 0 => (.ok [], s)
  | n + 1 =>
    match wordLoad s k pid cp a 8 with
    | (.error e, s1) => (.error (e, a), s1)
    | (.ok v, s1) =>
      match wordsLoad s1 k pid cp (a + 8) n with
      | (.error e, s2) => (.error e, s2)
      | (.ok vs, s2) => (.ok (BitVec.ofNat 64 v :: vs), s2)

/-- A link value that a cancelled instruction has taken goes back in front of the others, which keep their order: the value in the holding
slot waits behind it (R35, R191). -/
def linkReturn (x n : Nat) (v : Word) (s : State) : State :=
  let k := coreOf x
  let kc := s.core k
  let c1 := match kc.linkHold.get? n with
    | some h => { kc with linkBack := kc.linkBack.put n (h :: kc.linkBack.getD n []) }
    | none => kc
  let c2 := match kc.links.get? n with
    | some pv => { c1 with linkHold := c1.linkHold.put n (pv, kc.linkRel.getD n false) }
    | none => c1
  s.setCore k { c2 with links := c2.links.put n v, linkRel := c2.linkRel.put n false }

/-- The cancellation of a context's wait at its home (R35): the registration and the request are dropped. -/
def cancelWait (x : Nat) (s0 : State) : State :=
  let mine := fun r : Req => r.x == x && r.waits
  let s : State := match (s0.ctx x).run with
    | .waiting w => w.got.foldl (fun t e => linkReturn x e.1 e.2 t) s0
    | _ => s0
  { s with
    reqs := s.reqs.filter fun r => !(mine r)
    cores := s.cores.map fun e => (e.1, { e.2 with
      waiters := e.2.waiters.filter fun r => !(mine r)
      linkWait := e.2.linkWait.filter fun q => q.2 != x })
    dies := s.dies.map fun e => (e.1, { e.2 with waiters := e.2.waiters.filter fun r => !(mine r) }) }

/-! ### Landing of long results (R23, R24, R155) -/

/-- The other lanes of the VLD that a long result belongs to, and itself. -/
def Ctx.lanesOf (c : Ctx) (r : LongRes) : List LongRes :=
  if r.group = 0 then [r] else c.outstanding.filter fun e => e.group == r.group

/-- Write the bits of a long result; a write to a `v` register makes the vector state live (R13). -/
def Ctx.landBits (c : Ctx) (dst : LongDst) (bits : Nat) : Ctx :=
  match dst with
  | .none => c
  | .w e => c.setEntry e (BitVec.ofNat 64 bits)
  | .p n => c.setPred n (BitVec.ofNat 64 bits)
  | .v6 n lo => c.setVec n ((c.vec n &&& ~~~(BitVec.ofNat 512 (255 <<< lo))) ||| BitVec.ofNat 512 ((bits % 256) <<< lo))
  | .v n lo len =>
    c.setVec n ((c.vec n &&& ~~~(BitVec.ofNat 512 ((2 ^ len - 1) <<< lo))) ||| BitVec.ofNat 512 ((bits % 2 ^ len) <<< lo))

/-- The first failing reply among long results. -/
def firstFail : List LongRes → Option TrapInfo
  | [] => none
  | r :: rest => match r.val with
    | some (.fail t) => some t
    | _ => firstFail rest

/-- Do two long results land together: bytes of one LNS6 vector that share lanes (R24). -/
def LongRes.landsWith (r e : LongRes) : Bool :=
  match r.dst, e.dst with
  | .v6 n lo, .v6 m hi => r.group == e.group && n == m && lo / 24 == hi / 24
  | _, _ => false

/-- Land the outstanding long result at a place of a context's list, where its access has been performed (R23, R24): its bits are written
or its trap is posted, and it is outstanding no more. The lanes of one VLD land once all are performed, and none where one fails (R155). -/
def landResult (x i : Nat) (s : State) : State :=
  let c := s.ctx x
  match c.outstanding[i]? with
  | none => s
  | some r =>
    let lanes := c.lanesOf r
    if lanes.any fun e => e.val.isNone then s
    else match firstFail lanes with
      | some t =>
        s.setCtx x { c with
          outstanding := if r.group = 0 then dropAt c.outstanding i else c.outstanding.filter fun e => e.group != r.group
          pend := c.pend ++ [t] }
      | none => match r.val with
        | some (.ok bits) =>
          let c1 := { c with outstanding := (dropAt c.outstanding i).filter fun e => !(r.landsWith e) }
          s.setCtx x ((c.outstanding.filter fun e => r.landsWith e).foldl (fun d e => match e.val with
            | some (.ok b) => d.landBits e.dst b
            | _ => d) (c1.landBits r.dst bits))
        | _ => s

/-- The oldest outstanding long result that can land. -/
def Ctx.canLand (c : Ctx) : Option Nat := c.outstanding.findIdx? fun r => !((c.lanesOf r).any fun e => e.val.isNone)

end Sys2Proof.Machine
end

