-- ==== Sys2Proof/Machine/Issue.lean ====
section
/-! DEFINITION. Issuing and completing one instruction of a context: privilege, guard, effect, loop-back, marker, single step
(R20 to R25, R35, R38, R51, R75, R80, R91). -/

namespace Sys2Proof.Machine

/-- What an instruction's effect answers. -/
inductive Eff where
  /-- It completes and falls through. -/
  | done (s : State)
  /-- It completes and transfers control. -/
  | jump (target : Word) (s : State)
  /-- A synchronous trap: no effect but on caches of translations and lines. -/
  | trap (t : TrapInfo) (s : State)
  /-- It completes and then traps (R81). -/
  | after (t : TrapInfo) (s : State)
  /-- It does not complete now: the context waits, has moved, or has ended. -/
  | leave (s : State)

/-- A trap of the instruction at `pc` itself (R34): resumes at the instruction. -/
def syncTrap (cause : Nat) (pc : Word) (addr : Option Word) (info : Word) : TrapInfo := ⟨cause, some pc, pc, addr, info⟩

/-- A trap of a malformed data address or target (R47, R157). -/
def malformedTrap (pc a : Word) : TrapInfo := syncTrap 0x05 pc (some a) malformed

/-- A misaligned address (R158). -/
def misalignedTrap (pc a info : Word) : TrapInfo := syncTrap 0x04 pc (some a) info

/-- The last instruction of the active loop's body (R75). -/
def loopEnd (lbody : Word) : Word := put (fld lbody 2 52) 2 52 + 12 * BitVec.ofNat 64 (fld lbody 60 4)

/-- The PC after an instruction at `pc` that completed without a transfer, with the loop state (R75). -/
def fallThrough (c : Ctx) (pc : Word) : Ctx :=
  if bitAt c.lbody 0 && pc == loopEnd c.lbody then
    if 1 < c.loopcnt.toNat then { c with loopcnt := c.loopcnt - 1, pc := put (fld c.lbody 2 52) 2 52 }
    else { c with loopcnt := 0, lbody := c.lbody &&& ~~~1, pc := pc + 12 }
  else { c with pc := pc + 12 }

/-- Complete the instruction at `pc` of a context: next PC, single step, and the marker (R23, R35, R75, R80). -/
def Ctx.retire (c : Ctx) (user : Bool) (pc : Word) (sw : Bool) (target : Option Word) : Ctx :=
  let c1 := match target with
    | some t => { c with pc := t }
    | none => fallThrough c pc
  let c2 := if user && bitAt c.dbgctl 0 then { c1 with pendStep := some pc } else c1
  if sw then
    { c2 with
      run := if c2.outstanding.isEmpty then .ready else .parked false none
      deferArmed := c2.deferArmed || c2.deferred.any fun d => !d.taken }
  else { c2 with run := .ready }

/-- Complete the instruction of context `x`. -/
def retire (x : Nat) (pc : Word) (sw : Bool) (target : Option Word) (s : State) : State :=
  s.modCtx x fun c => c.retire (ctxNo x != 7) pc sw target

/-- What an issue does to the choice of the next context: the K and Y hints, and the end of a YIELD of others (R21, R91). -/
def noteIssue (x : Nat) (h : Hdr) (s : State) : State :=
  if ctxNo x = 7 then s
  else
    let k := coreOf x
    let s1 := (userCtxs k).foldl (fun t y => if (t.ctx y).held = 0 ∨ y = x then t else t.modCtx y fun c => { c with held := 0 }) s
    let s2 := s1.modCore k fun c =>
      { c with
        krun := if h.hintK && !h.hintY then (if c.last = ctxNo x ∧ c.krun ≠ 0 ∧ c.krun < 16 then c.krun + 1 else 1) else 0
        last := ctxNo x }
    if h.hintY then s2.modCtx x fun c => { c with held := max 1 c.held } else s2

/-- An issue is charged to the energy context of its thread; what it costs, with what is accessed and sent for it, is a free value (R449). -/
def chargeIssue (x : Nat) (s : State) : State :=
  let e := (s.ctx x).ectx % 256
  s.modCore (coreOf x) fun c =>
    { c with issues := c.issues + 1, charges := c.charges.put e (c.charges.getD e 0 + (Config.issueEnergy (coreOf x) c.issues).toNat) }

/-- The state an instruction's effect starts from: the context's instruction count is one more, the choice of the next context is
noted, and the issue is charged (R20, R21, R449). -/
def issued (x : Nat) (h : Hdr) (s : State) : State := chargeIssue x (noteIssue x h (s.modCtx x fun c => { c with icount := c.icount + 1 }))

/-- Apply what the effect of the instruction at `pc` answers. -/
def settle (x : Nat) (pc : Word) (h : Hdr) (e : Eff) : State :=
  match e with
  | .done s => retire x pc h.sw none s
  | .jump t s => retire x pc h.sw (some t) s
  | .trap t s => takeTrap x t s
  | .after t s => takeTrap x t (retire x pc h.sw none s)
  | .leave s => s

/-- Does an instruction of a dual-dispatched copy send a packet (R365): loads, stores, atomics, accesses of tagged words, NSEND, engine
commands, the start of a transfer, barrier operations, ISQ commands, SPAWN and FORK, GNODE and GRANGE, and the completion of EXIT and EVNEXT. -/
def Instr.packet (i : Instr) : Bool :=
  match i.opcode with
  | some o => o = 0x07 || o = 0x08 || o = 0x09 || o = 0x0B || (0x40 ≤ o && o ≤ 0x5A && o != 0x4D && o != 0x57) || o = 0x8E || o = 0x8F
      || (o = 0x05 && i.fields.sub == 0 && i.fields.a.num == 40) || (0x93 ≤ o && o ≤ 0x96) || o = 0xC8 || o = 0xC9 || o = 0xCB
      || (0xA0 ≤ o && o ≤ 0xAA) || (0xB0 ≤ o && o ≤ 0xB6) || (0xB8 ≤ o && o ≤ 0xBE) || o = 0xC0 || o = 0xC4 || o = 0xC5 || o = 0xC7
  | none => false

/-! ### Elements of a vector access (R153, R154) -/

/-- The elements that an access makes: bytes each, how many, and bits each; LNS6 is one block of 48 bytes. -/
def vecElems (ty : Nat) : Nat × Nat := if ty = 14 then (1, 48) else (tyBytes ty, laneCount ty)

/-- Is element `i` enabled (R153). -/
def elemOn (c : Ctx) (f : Fields) (i : Nat) : Bool := !(f.subBit 9) || bitAt (c.pred (f.subBits 6 3)) i

/-- The address of element `i` (R154). -/
def elemAddr (c : Ctx) (f : Fields) (i : Nat) : Word :=
  let base := match f.a with | .w n => c.w n.toNat | _ => 0
  let sh := f.subBits 0 3
  match f.subBits 3 3 with
  | 0 => c.ea f + BitVec.ofNat 64 (i * (vecElems f.ty).1)
  | 1 => base + f.x.ofs + BitVec.ofNat 64 i * (srcS c [] f.b <<< sh)
  | _ => base + f.x.ofs + (sextW 32 (laneGet (c.vec f.b.num) 32 i) <<< sh)

/-- The enabled elements with their addresses, the lowest first. -/
def vecAddrs (c : Ctx) (f : Fields) : List (Nat × Word) :=
  ((List.range (vecElems f.ty).2).filter fun i => elemOn c f i).map fun i => (i, elemAddr c f i)

/-! ### Packets of a dual-dispatched copy (R365) -/

/-- The policy of an access that is normal for the thread: that of a dual-dispatched copy is bypass (R365). -/
def Ctx.normal (c : Ctx) : Nat := if c.dual.isSome then 1 else 0

/-- A number as a word of a packet. -/
def pkNum (n : Nat) : Word := BitVec.ofNat 64 n

/-- An operand of a command: the number of an engine name, or the value. -/
def pkOpnd (c : Ctx) (o : Opnd) : Word :=
  match o with
  | .e n => n.setWidth 64
  | o => srcZ c [] o

/-- The address, kind, size and data of a memory access, its addresses as those of core `k`. -/
def pkAccess (k : Nat) (c : Ctx) (o : Nat) (f : Fields) : List Word :=
  let whole := f.subBit 3 && (o == 0x4C || o == 0x58 || o == 0x59)
  let kind := if o = 0x48 then f.subBits 3 4 else f.subBits 3 7
  let data := fun (w : Word) => pkNum (w.toNat % 2 ^ (8 * tyBytes f.ty))
  (if whole then [] else [globalOf k (c.ea f)])
    ++ [pkNum f.ty, pkNum kind, pkNum f.x.sc, pkNum (if f.x.cp = 0 then 1 else f.x.cp), flag f.x.ord 0]
    ++ (match o with
    | 0x40 | 0x42 | 0x43 | 0x46 | 0x49 | 0x58 | 0x59 => []
    | 0x47 => [put (fld (c.dVal f.d) 0 1) 0 1]
    | 0x48 => [data (c.dVal f.d), c.w (f.d.num + 1)]
    | 0x4B => [globalOf k (c.dVal f.d), c.w (f.d.num + 1)]
    | 0x4C => [globalOf k (c.dVal f.d)]
    | 0x56 => [data (c.dVal f.d), data (c.w (f.d.num + 1))]
    | _ => [data (c.dVal f.d)])

/-- The fields of an SPUP or an SPDN of the enabled trees. -/
def pkTrees (c : Ctx) (o : Nat) (f : Fields) : List Word :=
  let a1 := c.w (f.a.num + 1)
  ((List.range 4).filter fun t => f.subBit t).flatMap fun t =>
    [pkNum (fld (pkOpnd c f.a) (8 * t) 8), pkNum (fld a1 (16 * t) 10), pkNum (fld (pkOpnd c f.b) (16 * t) 10)]
      ++ if o = 0xB4 then [pkNum (fld (c.w (f.b.num + 1)) (16 * t) 10), pkNum (fld (c.w f.d.num) (16 * t) 10)] else []

/-- The operands and fields of an engine, barrier, task graph or sequencer command. -/
def pkCommand (c : Ctx) (o : Nat) (f : Fields) : List Word :=
  let far := 0xA0 ≤ o && o ≤ 0xAA && f.xBits 35 1 == 1
  let rays := fun (regs lanes : List Nat) => lanes.flatMap fun i => regs.map fun r => pkNum (laneGet (c.vec (f.a.num + r)) 32 i)
  let on := (List.range 16).filter fun i => f.b.isNone || bitAt (c.pred f.b.num) i
  [pkNum f.sub.toNat, pkNum f.ty, pkNum (if far then f.xBits 0 31 else f.x.rest)]
    ++ (if far then [c.w (f.xBits 31 4)] else [])
    ++ (match f.d with | .e n => [n.setWidth 64] | _ => if o = 0xBD ∨ o = 0xBE then [c.w f.d.num] else [])
    ++ (if o = 0xB3 ∨ o = 0xB4 then pkTrees c o f
      else if o = 0xBD then on.map pkNum ++ rays (List.range 8) on
      else if o = 0xBE then rays [0] (if f.subBit 0 then [0, 1, 2] else [0, 1, 2, 3])
      else if o = 0x96 then [pkOpnd c f.a, c.w f.b.num, c.w (f.b.num + 1)]
      else [pkOpnd c f.a, pkOpnd c f.b])

/-- The words of the packet that a copy sends: type and operation, address, size and data (R365); a local alias names the primary's core `k`. -/
def packetWords (i : Instr) (k : Nat) (c : Ctx) : List Word :=
  let f := i.fields
  let o := i.opcode.getD 0
  pkNum o :: if o = 0x07 ∨ o = 0x08 then
    [pkNum f.sub.toNat, setFld (setFld (srcS c [] f.a) 56 8 0) 0 32 0, bTarget c.pc f, c.jctr] ++ (List.range 4).map fun j => c.w (f.b.num + j)
  else if o = 0x09 then [globalOf k (c.ea f), pkNum f.x.sc]
  else if o = 0x0B ∨ o = 0xC0 then [c.tcomp]
  else if o = 0x05 then [c.xsrc, c.xdst, c.xlay, c.xbox, c.xext, c.xopt, c.xcw, c.xcv]
  else if o = 0x5A then [pkNum f.sub.toNat, pkNum f.d.num, srcS c [] f.a]
  else if 0x40 ≤ o ∧ o ≤ 0x59 then pkAccess k c o f
  else if o = 0x8E ∨ o = 0x8F then
    pkNum f.ty :: (vecAddrs c f).flatMap fun e =>
      globalOf k e.2 :: if o = 0x8F then [pkNum (laneGet (c.vec f.d.num) (8 * (vecElems f.ty).1) e.1)] else []
  else pkCommand c o f

/-- A copy's packet arrives at the pairing stop and the copy waits there (R365). -/
def pairStop (x : Nat) (i : Instr) (s : State) : State :=
  let c := s.ctx x
  let s1 := s.setCtx x { c with run := .waiting ⟨i, .pairing, s.pkg.time, 0, none, none, false, [], 0⟩ }
  match c.dual with
  | none => s
  | some r => s1.modDie (coreDie (coreOf x)) fun d =>
    { d with pairs := d.pairs.map fun q =>
        let ws := packetWords i (coreOf (q.prim.getD x)) c
        if q.id ≠ r.pair then q
        else if r.primary then { q with pk0 := some ws, at0 := s.pkg.time }
        else { q with pk1 := some ws, at1 := s.pkg.time } }

/-- ISSUE the instruction at the PC of the executing context (`s.cur`), or go on with the one it waits in. `sup`: reserved to context 7
(R51, check 6); `always`: whatever the guard (ILL and BRK, R78, R79). A context that is neither Ready, nor Waiting, nor at an implicit
marker issues nothing. -/
def issue (i : Instr) (sup always : Bool) (eff : Nat → Ctx → State → Eff) (s : State) : Out :=
  let x := s.cur
  let c := s.ctx x
  let h := i.hdr
  match c.run with
  | .ready =>
    if sup && ctxNo x != 7 then .next (takeTrap x (syncTrap 0x03 c.pc none 0) s)
    else
      let s1 := issued x h s
      if always || guardPasses h c then
        (if c.dual.isSome && Instr.packet i then .next (pairStop x i s1) else .next (settle x c.pc h (eff x (s1.ctx x) s1)))
      else .next (retire x c.pc h.sw none s1)
  | .waiting _ => .next (settle x c.pc h (eff x c s))
  | .parked _ (some _) => .next (settle x c.pc h (eff x c s))
  | _ => .next s

/-! ### Waits -/

/-- The wait that a context is in. -/
def Ctx.wait? (c : Ctx) : Option Wait :=
  match c.run with
  | .waiting w => some w
  | _ => none

/-- Enter a wait, or stay in it. -/
def waitFor (x : Nat) (i : Instr) (kind : WaitKind) (deadline : Option Nat) (s : State) : State :=
  match (s.ctx x).run with
  | .waiting w => s.modCtx x fun c => { c with run := .waiting { w with kind := kind } }
  | _ => s.fresh.2.modCtx x fun c => { c with run := .waiting ⟨i, kind, s.pkg.time, s.nextId, deadline, none, false, [], 0⟩ }

/-- Enter a wait whose condition has a number read at issue. -/
def waitKeyed (x : Nat) (i : Instr) (kind : WaitKind) (deadline : Option Nat) (key : Nat) (s : State) : State :=
  (waitFor x i kind deadline s).modCtx x fun c =>
    match c.run with
    | .waiting w => { c with run := .waiting { w with key := key }, failAt := none }
    | _ => c

/-- The implicit marker before an instruction's own effect (R25): none where it is over, else the context parks there. With `drain` the
thread's writes under way must be acknowledged as well (R27, R182); deferred store faults are taken first (R35). -/
def marker (x : Nat) (i : Instr) (drain : Bool) (s : State) : Option State :=
  let c := s.ctx x
  let due := c.deferred.any fun d => !d.taken
  if c.outstanding.isEmpty && c.pend.isEmpty && !due && !(drain && s.reqs.any fun r => r.x == x) then none
  else some (s.setCtx x { c with run := .parked drain (some i), deferArmed := c.deferArmed || due })

/-- An access that is held at its home holds the instruction before its effect; it is tried again in a later slot (R11, R162). -/
def holdHere (x : Nat) (i : Instr) (s : State) : State := s.modCtx x fun c => { c with run := .parked false (some i), failAt := none }

/-- Take the value of a link for context `x`: none while it has none, or while a context that registered earlier waits for it (R14). A value
sent by `.rel` makes the read an acquire at die scope (R190). -/
def takeLinkFor (x n : Nat) (s : State) : Option (Word × State) :=
  let k := coreOf x
  let kc := s.core k
  match kc.linkWait.find? (fun e => e.1 == n) with
  | some (_, y) =>
    if y = x then
      match takeLink kc n with
      | some (v, rel, kc1) =>
        let s1 := s.setCore k { kc1 with linkWait := kc1.linkWait.erase (n, x) }
        some (v, if rel then acquireLines s1 k (s.ctx x).pid 3 none else s1)
      | none => none
    else none
  | none =>
    match takeLink kc n with
    | some (v, rel, kc1) =>
      let s1 := s.setCore k kc1
      some (v, if rel then acquireLines s1 k (s.ctx x).pid 3 none else s1)
    | none => none

/-- The values of the links that an instruction names: none while one is missing, and then the context waits for it, with the values it has
taken (R14). -/
def takeLinks (x : Nat) (i : Instr) : List Nat → SMap Word → State → Option (SMap Word) × State
  | [], got, s => (some got, s)
  | n :: rest, got, s =>
    match got.get? n with
    | some _ => takeLinks x i rest got s
    | none =>
      match takeLinkFor x n s with
      | some (v, s1) => takeLinks x i rest (got.put n v) s1
      | none =>
        (none, ((waitFor x i (.link n) none s).modCtx x fun c =>
          match c.run with
          | .waiting w => { c with run := .waiting { w with got := got } }
          | _ => c).modCore (coreOf x) fun c =>
            { c with linkWait := if c.linkWait.contains (n, x) then c.linkWait else c.linkWait ++ [(n, x)] })

/-- Go on with the values of the links that an instruction names; an error response to the read ends it with its trap (R191). -/
def withLinks (x : Nat) (i : Instr) (f : Fields) (s : State) (k : SMap Word → State → Eff) : Eff :=
  match (s.ctx x).wait? with
  | some w =>
    match w.reply with
    | some (.fail t) => .done (postTrap x t s)
    | _ => match takeLinks x i f.links w.got s with
      | (some ls, s1) => k ls s1
      | (none, s1) => .leave s1
  | none => match takeLinks x i f.links [] s with
    | (some ls, s1) => k ls s1
    | (none, s1) => .leave s1

end Sys2Proof.Machine
end

