-- ==== Sys2Proof/Machine/Fetch.lean ====
section
/-! DEFINITION. Fetching an instruction's twelve bytes through the instruction cache (R37, R54, R84, R355), and where a word is placed for
the next fetch. -/

namespace Sys2Proof.Machine

/-- The instruction-cache line of a PID and virtual line. -/
def iFind (s : State) (k pid vln : Nat) : Option ILine :=
  (s.core k).icache.find? fun l => l.pid == pid && l.vln == vln

/-- Read the 128-byte line of a virtual line through the instruction cache and the instruction translation (R54, R355). -/
def iLine (s : State) (k pid vln : Nat) : Except AccErr LineBits × State :=
  match iFind s k pid vln with
  | some l => (if l.poison then .error (.resp 4) else .ok l.bits, s)
  | none =>
    match translate s (coreDie k) pid (128 * vln) .fetch with
    | (.error e, s1) => (.error (.xlate e), s1)
    | (.ok p, s1) =>
      match dieRead s1 (coreDie k) p.pa 128 with
      | (.error e, s2) => (.error (.resp e), s2)
      | (.ok v, s2) =>
        (.ok (BitVec.ofNat 1024 v), s2.modCore k fun c => { c with icache := c.icache ++ [⟨pid, vln, BitVec.ofNat 1024 v, false⟩] })

/-- The first bit of the page that a failing translation's level maps: a walk that reached no table level names no page, and the smallest
page stands for it (R352, R353). -/
def failedShift (info : Nat) : Nat := if natBits info 8 4 < 3 then levelShift (natBits info 8 4) else 13

/-- The address that a failing fetch of the word at `a` names when only its second line, at `b`, failed: the word's own where both lie in the page
that failed, else the base of the second page (R37). -/
def fetchFail (a b : Nat) (e : AccErr) : Nat :=
  match e with
  | .xlate i => if a >>> failedShift i = b >>> failedShift i then a else b
  | _ => if a / 8192 = b / 8192 then a else b

/-- The twelve bytes at a PC, as a word (R4, R37): a failing fetch names the word's own address, or the second page of a word that crosses into
it. A PC in the scratchpad space is malformed, and a word that starts below 2^53 and runs past it has its last bytes at address 0 (log
entry 19, the model's choice). -/
def fetchWord (s : State) (k pid : Nat) (pc : Word) : Except TrapInfo (BitVec 96) × State :=
  let a := pc.toNat
  let l1 := a / 128
  let l2 := (a + 11) / 128
  if badTop pc || bitAt pc 53 then (.error (malformedTrap pc pc), s)
  else match iLine s k pid l1 with
    | (.error e, s1) =>
      (.error { e.trap pc pc with epc := some pc }, s1)
    | (.ok b1, s1) =>
      if l2 = l1 then (.ok (BitVec.ofNat 96 (lineGet b1 (a % 128) 12)), s1)
      else match iLine s1 k pid l2 with
        | (.error e, s2) =>
          (.error { e.trap pc (BitVec.ofNat 64 (fetchFail a (128 * l2) e)) with epc := some pc }, s2)
        | (.ok b2, s2) =>
          let n := 128 * l2 - a
          (.ok (BitVec.ofNat 96 (lineGet b1 (a % 128) n + (lineGet b2 0 (12 - n) <<< (8 * n)))), s2)

/-- The body of a boot image (R452). -/
def Image.body (i : Image) : List Nat := (i.bytes.drop 64).take (Config.imageLength (i.bytes.take 64))

/-- The address at which Withy's image starts on a die: a multiple of 4 in the range that a PC can hold (R37, log entry 4). -/
def withyStart (d : Nat) : Word := put (fld (Config.withyEntry d) 2 51) 2 51

/-- `n` bytes of the running Withy's image as context 7 finds them where its instruction cache does not hold the line: the boot has
written the image there (R214, R451, log entry 4). -/
def withyBytes (s : State) (x : Nat) (a : Word) (n : Nat) : Option Nat :=
  if ctxNo x ≠ 7 ∨ (iFind s (coreOf x) (s.ctx x).pid (a.toNat / 128)).isSome then none
  else match s.pkg.running.find? fun i => i.kind == 1 with
    | none => none
    | some i =>
      let off := (a - withyStart (coreDie (coreOf x))).toNat
      if off + n ≤ i.body.length then some (((i.body.drop off).take n).foldr (fun b v => b % 256 + 256 * v) 0) else none

/-- The word that a context fetches. -/
def fetchFor (s : State) (x : Nat) : Except TrapInfo (BitVec 96) × State :=
  let c := s.ctx x
  match withyBytes s x c.pc 12 with
  | some w => (.ok (BitVec.ofNat 96 w), s)
  | none => fetchWord s (coreOf x) c.pid c.pc

/-- The hardware breakpoint that an address matches: of several the lowest-numbered (R80, log entry 30). -/
def breakpointAt (c : Ctx) (pc : Word) : Option Nat :=
  (List.range 4).find? fun n => bitAt (c.bkpt.getD n 0) 0 && (c.bkpt.getD n 0 >>> 2) <<< 2 == pc

/-- The next instruction of a context, or the trap it takes before it issues: breakpoint, fetch, decode (R36, R51, R80). -/
def nextInstr (x : Nat) (s : State) : Except TrapInfo Instr × State :=
  let c := s.ctx x
  match (if ctxNo x = 7 then none else breakpointAt c c.pc) with
  | some n => (.error (syncTrap 0x09 c.pc none (BitVec.ofNat 64 n)), s)
  | none =>
    match fetchFor s x with
    | (.error t, s1) => (.error t, s1)
    | (.ok w, s1) =>
      match decodeWord w with
      | .ok i => (.ok i, s1)
      | .error .ill => (.error (syncTrap 0x01 c.pc none 0), s1)
      | .error .unassigned => (.error (syncTrap 0x01 c.pc none 0), s1)
      | .error _ => (.error (syncTrap 0x02 c.pc none 0), s1)

/-- Is an instruction a word of the instruction stream, rather than a step of the machine. -/
def isWord (i : Instr) : Bool :=
  match i with
  | .ill _ => true
  | _ => i.opcode.isSome

/-- Put `n` bytes into one line of the instruction cache; the line's other bytes are those it holds, zeros for a line not held. -/
def placeBytes (s : State) (k pid vln off n v : Nat) : State :=
  let old := match iFind s k pid vln with
    | some l => l.bits
    | none => 0
  s.modCore k fun kc =>
    { kc with
      icache := ⟨pid, vln, linePut old off n v, false⟩ :: kc.icache.filter fun l => !(l.pid == pid && l.vln == vln) }

/-- Place a word where the next fetch of a context reads it: the line or the two lines of the instruction cache that hold its twelve
bytes (log entry 8). -/
def placeWord (s : State) (x : Nat) (w : BitVec 96) : State :=
  let c := s.ctx x
  let a := c.pc.toNat
  let l1 := a / 128
  let n := min 12 (128 * (l1 + 1) - a)
  let s1 := placeBytes s (coreOf x) c.pid l1 (a % 128) n (w.toNat % 2 ^ (8 * n))
  if n = 12 then s1 else placeBytes s1 (coreOf x) c.pid (l1 + 1) 0 (12 - n) (w.toNat >>> (8 * n))

end Sys2Proof.Machine
end

