-- ==== Sys2Proof/Machine/Control.lean ====
section
/-! DEFINITION. Branches, calls and the register window, loops, and the plain system instructions (R11, R71 to R81, R84, R91). -/

namespace Sys2Proof.Machine

/-! ### The register window (R10, R11, R72, R73) -/

/-- The eight entries of a frame of the register stack. -/
def Ctx.frame (c : Ctx) (fr : Nat) : List Word := (List.range 8).map fun i => c.stack.getD (8 * (fr % 8) + i) 0

/-- Write the entries of a frame. -/
def Ctx.setFrame (c : Ctx) (fr : Nat) (ws : List Word) : Ctx :=
  (List.range 8).foldl (fun d i => d.setEntry (8 * (fr % 8) + i) (ws.getD i 0)) c

/-- Spill the oldest resident frame (R11): the trap of a failure, or none while the access is held. A dual-dispatched copy's goes past the L1 (R365);
it is not compared at the pairing stop, since each copy has its own area pair (log entry 85). -/
def spillFrame (x : Nat) (pc : Word) (s : State) : Except (Option TrapInfo) State :=
  let c := s.ctx x
  if c.wsp.toNat < c.wlim.toNat + 64 then .error (some (syncTrap 0x07 pc none 0))
  else
    let a := c.wsp - 64
    match wordsStore s (coreOf x) (some x) c.pid c.normal a (c.frame (c.wf + 8 - c.res)) with
    | (.error (.held, _), _) => .error none
    | (.error (e, fa), _) => .error (some { e.trap pc fa with epc := some pc })
    | (.ok _, s1) => .ok (s1.modCtx x fun d => { d with wsp := a, spl := d.spl + 1, res := d.res - 1 })

/-- Move the window up one frame: the new frame zero, the link in the callee's `w7` (R72); an inline child gets its arguments in `w0` to
`w3` first (R18). -/
def Ctx.enter (c : Ctx) (link : Word) (args : List Word) : Ctx :=
  let c1 := { c with wf := (c.wf + 1) % 8, res := c.res + 1 }
  let c2 := (List.range args.length).foldl (fun d i => d.setW i (args.getD i 0)) c1
  (((List.range 8).foldl (fun d i => d.setW (8 + i) 0) c2)).setW 7 link

/-- A call (R72): spill where six frames are resident, then move the window. -/
def callWindow (x : Nat) (pc link : Word) (args : List Word) (s : State) : Except (Option TrapInfo) State :=
  match (if (s.ctx x).res = 6 then spillFrame x pc s else .ok s) with
  | .error e => .error e
  | .ok s1 => .ok (s1.modCtx x fun c => c.enter link args)

/-- A return (R73): fill where no caller is resident, then move the window down; the target is the link without its low two bits. -/
def retWindow (x : Nat) (pc : Word) (s : State) : Except (Option TrapInfo) (Word × State) :=
  let c := s.ctx x
  let filled : Except (Option TrapInfo) State :=
    if c.res ≠ 0 then .ok s
    else if c.spl = 0 then .error (some (syncTrap 0x08 pc none 0))
    else match wordsLoad s (coreOf x) c.pid c.normal c.wsp 8 with
      | (.error (.held, _), _) => .error none
      | (.error (e, fa), _) => .error (some { e.trap pc fa with epc := some pc })
      | (.ok ws, s1) =>
        .ok (s1.modCtx x fun d => { (d.setFrame (d.wf + 7) ws) with wsp := d.wsp + 64, spl := d.spl - 1, res := d.res + 1 })
  match filled with
  | .error e => .error e
  | .ok s1 =>
    let target := (s1.ctx x).w 7 &&& ~~~3
    .ok (target, s1.modCtx x fun d => { d with wf := (d.wf + 7) % 8, res := d.res - 1 })

/-- The answer of a window operation that may trap or be held. -/
def windowEff (x : Nat) (i : Instr) (s : State) (r : Except (Option TrapInfo) State) (target : Word) : Eff :=
  match r with
  | .ok t => .jump target t
  | .error (some t) => .trap t s
  | .error none => .leave (holdHere x i s)

/-! ### Meanings -/

/-- ILL (R78): trap 0x01 whatever its other bits and its guard. -/
def execIll (_raw : BitVec 88) (s : State) : Out :=
  match (s.ctx s.cur).run with
  | .ready => .next (takeTrap s.cur (syncTrap 0x01 (s.ctx s.cur).pc none 0) s)
  | _ => .next s

/-- NOP (R78). -/
def execNop (h : Hdr) (f : Fields) (s : State) : Out := issue (.nop h f) false false (fun _ _ t => .done t) s

/-- BRK (R79): trap 0x09 before execution, whatever its guard. -/
def execBrk (h : Hdr) (f : Fields) (s : State) : Out :=
  issue (.brk h f) false true (fun _ c t => .trap (syncTrap 0x09 c.pc none (flag true 63 ||| f.x.imm40.setWidth 64)) t) s

/-- TRAP (R81): trap 0x11 after execution. -/
def execTrap (h : Hdr) (f : Fields) (s : State) : Out :=
  issue (.trap h f) false false (fun _ c t => .after ⟨0x11, none, c.pc, none, f.x.imm40.setWidth 64⟩ t) s

/-- BR (R71). -/
def execBr (h : Hdr) (f : Fields) (s : State) : Out :=
  issue (.br h f) false false (fun _ c t =>
    let target := bTarget c.pc f
    if badTop target then .trap (malformedTrap c.pc target) t else .jump target t) s

/-- BRX (R71): a target that is not a multiple of 4 traps 0x04. -/
def execBrx (h : Hdr) (f : Fields) (s : State) : Out :=
  issue (.brx h f) false false (fun _ c t =>
    let target := srcS c [] f.a
    if fld target 0 2 ≠ 0 then .trap (misalignedTrap c.pc target 0) t else .jump target t) s

/-- CALL (R72). -/
def execCall (h : Hdr) (f : Fields) (s : State) : Out :=
  issue (.call h f) false false (fun x c t =>
    let target := bTarget c.pc f
    if badTop target then .trap (malformedTrap c.pc target) t
    else windowEff x (.call h f) t (callWindow x c.pc (c.pc + 12) [] t) target) s

/-- CALLX (R72): the target is read before the window moves. -/
def execCallx (h : Hdr) (f : Fields) (s : State) : Out :=
  issue (.callx h f) false false (fun x c t =>
    let target := srcS c [] f.a
    if fld target 0 2 ≠ 0 then .trap (misalignedTrap c.pc target 0) t
    else windowEff x (.callx h f) t (callWindow x c.pc (c.pc + 12) [] t) target) s

/-- RET (R73). -/
def execRet (h : Hdr) (f : Fields) (s : State) : Out :=
  issue (.ret h f) false false (fun x c t =>
    match retWindow x c.pc t with
    | .ok (target, t1) => .jump target t1
    | .error (some e) => .trap e t
    | .error none => .leave (holdHere x (.ret h f) t)) s

/-- LOOP (R75): start a counted loop over the next instructions, or end the active one and skip the body. -/
def execLoop (h : Hdr) (f : Fields) (s : State) : Out :=
  issue (.loop h f) false false (fun x c t =>
    let n := srcZ c [] f.a
    let off := f.x.imm40.setWidth 64
    if n = 0 then .jump (c.pc + 4 * off + 12) (t.modCtx x fun d => { d with loopcnt := 0, lbody := d.lbody &&& ~~~1 })
    else .done (t.modCtx x fun d =>
      { d with
        lbody := put (off.toNat / 3 - 1) 60 4 ||| ((c.pc + 12) &&& 0x3F_FFFF_FFFF_FFFC) ||| 1
        loopcnt := n })) s

/-- LDL (R54, R77): a 64-bit literal through the instruction cache, as a long result. A target in the scratchpad space is malformed (log entry 19). -/
def execLdl (h : Hdr) (f : Fields) (s : State) : Out :=
  issue (.ldl h f) false false (fun x c t =>
    let target := bTarget c.pc f
    if badTop target then .trap (malformedTrap c.pc target) t
    else if target.toNat % 8 ≠ 0 then .trap (misalignedTrap c.pc target 0) t
    else
      let dst := c.longDst f.d
      if bitAt target 53 then .done (startLong x dst (some (.fail ⟨0x05, none, c.pc, some target, malformed⟩)) t).2
      else match withyBytes t x target 8 with
        | some v => .done (startLong x dst (some (.ok v)) t).2
        | none => match iLine t (coreOf x) c.pid (target.toNat / 128) with
          | (.error e, t1) => .done (startLong x dst (some (.fail (e.trap c.pc target))) t1).2
          | (.ok b, t1) => .done (startLong x dst (some (.ok (lineGet b (target.toNat % 128) 8))) t1).2) s

/-- YIELD (R91): the context is held back for 16 issue slots or until another user context has issued; a run of K hints ends. -/
def execYield (h : Hdr) (f : Fields) (s : State) : Out :=
  issue (.yield h f) false false (fun x _ t =>
    if ctxNo x = 7 then .done t
    else .done ((t.modCtx x fun c => { c with held := 17 }).modCore (coreOf x) fun k => { k with krun := 0 })) s

/-- IFLUSH (R84): the core's dirty data lines that overlap are written back, and the lines leave the instruction cache. -/
def execIflush (h : Hdr) (f : Fields) (s : State) : Out :=
  issue (.iflush h f) false false (fun x c t =>
    let k := coreOf x
    if f.sub = 8 then
      let t1 := flushReqs (fun r => r.x == x) t
      let t2 := (t1.core k).icache.foldl (fun u l => (l1Cores u k).foldl (fun v m => l1Clean v m l.pid l.vln) u) t1
      .done (t2.modCore k fun kc => { kc with icache := [] })
    else
      let a := c.ea f
      match resolve k a with
      | .bad => .trap (malformedTrap c.pc a) t
      | .spad _ _ => .done t
      | .dev va =>
        match translate t (coreDie k) c.pid va .read with
        | (.error e, t1) => .done (postTrap x ⟨0x05, none, c.pc, some a, BitVec.ofNat 64 e⟩ t1)
        | (.ok _, t1) =>
          let t2 := flushReqs (fun r => r.x == x && r.va.toNat / 128 == va / 128) t1
          let t3 := (l1Cores t2 k).foldl (fun v m => l1Clean v m c.pid (va / 128)) t2
          .done (t3.modCore k fun kc => { kc with icache := kc.icache.filter fun l => !(l.pid == c.pid && l.vln == va / 128) })) s

end Sys2Proof.Machine
end

