-- ==== Sys2Proof/Machine/Units.lean ====
section
/-! DEFINITION. What the hardware units do on behalf of threads and launches: their memory accesses, atomics at a home, launches,
the handler table, record faults, and the acceptance of records (R86, R200 to R205, R216, R254, R364). -/

namespace Sys2Proof.Machine

/-! ### Accesses of a unit (R254): streaming from its die; scratchpad at the home port -/

/-- Read `n` bytes inside one line, or one word of a scratchpad, by a path for a unit on die `d`; local aliases name core `k` (R157). -/
def pathLoad (s : State) (p d k pid : Nat) (a : Word) (n : Nat) : Except AccErr Nat × State :=
  match resolve k a with
  | .bad => (.error (.xlate 0xF03), s)
  | .spad c off => portLoad s p d c off n
  | .dev va =>
    match translate s d pid va .read with
    | (.error e, s1) => (.error (.xlate e), s1)
    | (.ok g, s1) => match streamRead s1 d g.pa g.priv n with
      | (.error e, s2) => (.error (.resp e), s2)
      | (.ok v, s2) => (.ok v, s2)

/-- Write `n` bytes inside one line, or one word of a scratchpad, by a path for a unit. -/
def pathStore (s : State) (p d k pid : Nat) (a : Word) (n v : Nat) : Except AccErr Unit × State :=
  match resolve k a with
  | .bad => (.error (.xlate 0xF03), s)
  | .spad c off => portStore s p d c off n v
  | .dev va =>
    match translate s d pid va .write with
    | (.error e, s1) => (.error (.xlate e), s1)
    | (.ok g, s1) => match streamWrite s1 d g.pa g.priv n v with
      | (.error e, s2) => (.error (.resp e), s2)
      | (.ok _, s2) => (.ok (), s2)

/-- The read of what has no path. -/
def unitLoad (s : State) (d k pid : Nat) (a : Word) (n : Nat) : Except AccErr Nat × State := pathLoad s noPath d k pid a n

/-- The write of what has no path. -/
def unitStore (s : State) (d k pid : Nat) (a : Word) (n v : Nat) : Except AccErr Unit × State := pathStore s noPath d k pid a n v

/-- Read words in rising order by a path for a unit; the first failure ends it. -/
def pathWords (s : State) (p d k pid : Nat) (a : Word) : Nat → Except AccErr (List Word) × State
  | 0 => (.ok [], s)
  | n + 1 =>
    match pathLoad s p d k pid a 8 with
    | (.error e, s1) => (.error e, s1)
    | (.ok v, s1) =>
      match pathWords s1 p d k pid (a + 8) n with
      | (.error e, s2) => (.error e, s2)
      | (.ok vs, s2) => (.ok (BitVec.ofNat 64 v :: vs), s2)

/-- The words read by what has no path. -/
def unitWords (s : State) (d k pid : Nat) (a : Word) (n : Nat) : Except AccErr (List Word) × State := pathWords s noPath d k pid a n

/-- Words as one little-endian number (R4). -/
def wordsNat : List Word → Nat
  | [] => 0
  | w :: rest => w.toNat + 2 ^ 64 * wordsNat rest

/-- Words cut at the ends of the lines that hold them: `left` words fit in the first line. -/
def lineWords : Nat → List Word → List (List Word)
  | _, [] => []
  | left, w :: rest =>
    if left ≤ 1 then [w] :: lineWords 16 rest
    else match lineWords (left - 1) rest with
      | [] => [[w]]
      | g :: more => (w :: g) :: more

/-- Write groups of words in rising order by a path for a unit, each group as one access; the first failure ends it. -/
def pathPutGroups (s : State) (p d k pid : Nat) (a : Word) : List (List Word) → Except AccErr Unit × State
  | [] => (.ok (), s)
  | g :: rest =>
    match pathStore s p d k pid a (8 * g.length) (wordsNat g) with
    | (.error e, s1) => (.error e, s1)
    | (.ok _, s1) => pathPutGroups s1 p d k pid (a + BitVec.ofNat 64 (8 * g.length)) rest

/-- Write words in rising order by a path for a unit: in device memory the words of one line are one access, so that a full line clears a poison mark
(R349); in a scratchpad each word is one (R160). -/
def pathPutWords (s : State) (p d k pid : Nat) (a : Word) (ws : List Word) : Except AccErr Unit × State :=
  pathPutGroups s p d k pid a (if bitAt a 53 then ws.map ([·]) else lineWords (16 - a.toNat / 8 % 16) ws)

/-- The words written by what has no path. -/
def unitPutWords (s : State) (d k pid : Nat) (a : Word) (ws : List Word) : Except AccErr Unit × State := pathPutWords s noPath d k pid a ws

/-- Read bytes in rising order for a unit, each as an access of its own; the first failure ends it. -/
def unitBytes (s : State) (d k pid : Nat) (a : Word) : Nat → Except AccErr (List Nat) × State
  | 0 => (.ok [], s)
  | n + 1 =>
    match unitLoad s d k pid a 1 with
    | (.error e, s1) => (.error e, s1)
    | (.ok v, s1) =>
      match unitBytes s1 d k pid (a + 1) n with
      | (.error e, s2) => (.error e, s2)
      | (.ok vs, s2) => (.ok (v :: vs), s2)

/-- The home of a device word that is accessed beyond the caches (R183, R357): the copies on the thread's own side leave first (R167, log
entry 9), and the address is translated; a die-private page caps the access at the die's own LLC. -/
def devHome (s : State) (k pid va : Nat) (acc : Acc) : Except Nat Home × State :=
  match translate (l1Bypass s k pid va) (coreDie k) pid va acc with
  | (.error e, s1) => (.error e, s1)
  | (.ok p, s1) =>
    if p.priv && homeDie p.pa != coreDie k then (.ok (.llc (coreDie k) p.pa), s1)
    else (.ok (.dev p.pa), llcDrop s1 (coreDie k) (lineOf p.pa))

/-- An atomic performed at its home for core `k` under a PID (R183): the old value. The core's own line is written back first (R167), and
the die's copy of the line (log entry 9). -/
def atomicAt (s : State) (k pid : Nat) (a : Word) (op : AtomKind) (ty size v : Nat) : Except AccErr Nat × State :=
  match resolve k a with
  | .bad => (.error (.xlate 0xF03), s)
  | .spad c off =>
    match portErr s (coreDie k) c off false with
    | some e => (.error e, s)
    | none =>
      let old := spadGet s c off size
      (.ok old, spadWrite (leaveWord 0 c off s) c off size (atomNew op ty size old v 0))
  | .dev va =>
    match devHome s k pid va .write with
    | (.error e, s1) => (.error (.xlate e), s1)
    | (.ok h, s1) =>
      match sliceRead s1 (coreDie k) h size with
      | (.error e, s2) => (.error (.resp e), s2)
      | (.ok old, s2) => (.ok old, sliceWrite s2 h size (atomNew op ty size old v 0))

/-! ### Launches (R469) -/

/-- A launch by its identifier. -/
def launchOf (s : State) (lid : Nat) : Option Launch := s.pkg.launches.find? fun l => l.lid == lid

/-- The launch that occupies a core. -/
def coreLaunch (s : State) (k : Nat) : Option Launch := (s.core k).lid.bind fun l => launchOf s l

/-- A word of a launch descriptor. -/
def Launch.word (l : Launch) (i : Nat) : Word := l.words.getD i 0

/-- Has a launch a thread, or a record that will become one: in a context, held in memory, queued, on its way or a node of a TGU; or is it
pre-empted. One that has only events in inboxes or notices queued counts as ended (log entry 76). -/
def launchLive (s : State) (l : Launch) : Bool :=
  match l.run with
  | .ended => false
  | .running =>
    (s.ctxs.any fun e => ctxNo e.1 != 7 && e.2.occupied && e.2.lid == some l.lid) || (s.recs.any fun m => m.lid == some l.lid)
      || (s.cores.any fun e => (e.2.deque.any fun q => q.lid == some l.lid) || e.2.heldList.any fun h => h.lid == some l.lid)
      || s.dies.any fun e => e.2.pool.any fun n => n.2.lid == some l.lid
  | _ => true

/-- PID of a launch (R469). -/
def Launch.pid (l : Launch) : Nat := fld (l.word 2) 16 12

/-- Energy context of a launch (R469). -/
def Launch.ectx (l : Launch) : Nat := fld (l.word 2) 28 8

/-- `y.migmode` at creation: HOPS and EN of the launch (R30, R469). -/
def Launch.migmode (l : Launch) : Word := put (fld (l.word 3) 32 8) 8 8 ||| put (fld (l.word 3) 40 1) 0 1

/-- PID under which a core's units read its launch's tables. -/
def corePid (s : State) (k : Nat) : Nat := match coreLaunch s k with | some l => l.pid | none => 0

/-- Is a core in the rectangle of a launch (R469). -/
def Launch.covers (l : Launch) (k : Nat) : Bool :=
  let w := l.word 1
  let die := fld w 40 2
  let r0 := fld w 32 4
  let c0 := fld w 16 3
  (die == 2 || die == coreDie k) && r0 ≤ coreRow k / 2 && coreRow k / 2 < r0 + fld w 24 4
    && c0 ≤ coreCol k / 4 && coreCol k / 4 < c0 + fld w 8 4

/-- The cores of a launch in row-major core order, die 0 first (R60, R487). -/
def Launch.cores (l : Launch) : List Nat := (List.range 1536).filter fun k => l.covers k

/-- Write the dirty lines of a core's L1 back and drop every line (R237). -/
def emptyL1 (k : Nat) (s : State) : State := ((s.core k).l1).foldl (fun t l => l1Flush t k l.pid l.vln) s

/-- A thread of a launch has ended: where the launch ends with it, the L1s of its cores are written back and emptied (R237). -/
def launchOver (lid : Option Nat) (s : State) : State :=
  match lid.bind fun n => launchOf s n with
  | some l => if launchLive s l then s else l.cores.foldl (fun t k => emptyL1 k t) s
  | none => s

/-! ### The handler table (R204) -/

/-- A table word, from the core's cache or from memory under the launch's PID; a word that cannot be read is 0. -/
def tableWord (s : State) (k addr : Nat) : Word × State :=
  match (s.core k).hcache.find? (fun e => e.addr == addr) with
  | some e => (e.val, s)
  | none =>
    match unitLoad s (coreDie k) k (corePid s k) (BitVec.ofNat 64 addr) 8 with
    | (.error _, s1) => (0, s1)
    | (.ok v, s1) => (BitVec.ofNat 64 v, s1.modCore k fun c => { c with hcache := c.hcache ++ [⟨addr, BitVec.ofNat 64 v⟩] })

/-- The entry of a handler index, through the indirect table where IND is set: the PC and SER, or none (R204). -/
def handlerOf (s : State) (k idx sel : Nat) : Option (Word × Bool) × State :=
  let (e, s1) := tableWord s k ((s.core k).hbase.toNat + 8 * idx)
  if bitAt e 0 then
    let (i, s2) := tableWord s1 k ((put (fld e 2 62) 2 62).toNat + 8 * sel)
    (if i = 0 ∨ bitAt i 0 = true then none else some (put (fld i 2 62) 2 62, bitAt i 1), s2)
  else (if e = 0 then none else some (put (fld e 2 62) 2 62, bitAt e 1), s1)

/-- KIND of an event (R197). -/
def Ev.kind (e : Ev) : Nat := fld e.w0 0 4

/-- SRC of an event (R197). -/
def Ev.src (e : Ev) : Nat := fld e.w0 4 12

/-! ### Record faults (R216) -/

/-- A record fault is served: the words go to the ring at `y.rfbuf`, and a TYPE 1 item is queued. -/
def serveFault (k : Nat) (ws : List Word) (s : State) : State :=
  let n := (s.core k).faultCount
  let s0 := s.modCore k fun c => { c with faultCount := (n + 1) % 32768 }
  match unitPutWords s0 (coreDie k) k (corePid s k) ((s.core k).rfbuf + BitVec.ofNat 64 (64 * (n % 8))) ws with
  | (.ok _, s1) => supPush k 1 n s1
  | (.error _, _) => supPush k 1 (n ||| 0x8000) s0

/-- A record fault (R216); while the supervisor queue is full it waits at the notice-queue port (R215). -/
def recordFault (k : Nat) (ws : List Word) (s : State) : State :=
  if (s.core k).supq.length < 64 && (s.core k).faultWait.isEmpty then serveFault k ws s
  else s.modCore k fun c => { c with faultWait := c.faultWait ++ [ws], asleep := false, sleepAt := none }

/-- Take the oldest item of the supervisor queue; a record fault that waits for the room is served then (R215). -/
def supTake (k : Nat) (s : State) : Option SupItem × State :=
  let (it, s1) := supPop k s
  match (s1.core k).faultWait with
  | ws :: rest =>
    (it, if (s1.core k).supq.length < 64 then serveFault k ws (s1.modCore k fun c => { c with faultWait := rest }) else s1)
  | [] => (it, s1)

/-- The eight words of a record. -/
def Rec.words (r : Rec) : List Word := [r.w0, r.w1, r.w2, r.w3, r.w4, r.w5, r.w6, r.w7]

/-- An event as a record fault writes it. -/
def Ev.words (e : Ev) : List Word := [e.w0, e.w1, 0, 0, 0, 0, 0, 0]

/-! ### Acceptance of records (R201 to R203) -/

/-- Does a record of this kind enter the notice queue (R201). -/
def kindNotice (kind : Nat) : Bool := (3 ≤ kind && kind ≤ 7) || kind == 9

/-- Is a placement word malformed: zero bits set, CLS 11, or a row above 23 (R200, R370). -/
def badHint (w : Word) : Bool := fld w 54 2 ≠ 0 || fld w 32 5 ≠ 0 || fld w 37 2 == 3 || 24 ≤ fld w 44 5

/-- The checks of R202 that need no table. -/
def recordBad (r : Rec) : Bool :=
  let kind := r.kind
  10 ≤ kind || fld r.w0 36 28 ≠ 0 || fld r.w0 10 10 ≠ 0 || bitAt r.w0 7 || badHint r.w7
    || fld r.w6 54 10 ≠ 0 || (fld r.w6 3 51 ≠ 0 && 6 ≤ fld r.w6 0 3)
    || (!(kindNotice kind) && (fld r.w0 20 12 ≠ 0 || fld r.w1 0 2 ≠ 0 || badTop r.w1))

/-- A record as it waits at the core that has accepted it: DOM is that of the core (R200). -/
def queuedRec (s : State) (k : Nat) (r : Rec) (acq : Nat) (dual : Option DualRole) (lid : Option Nat) (pkt : Option (Nat × Nat))
    (ident : Option (Nat × Nat)) : Queued :=
  ⟨if kindNotice r.kind then r else { r with w7 := setFld r.w7 56 8 (s.core k).dom },
    (s.core k).arrivals, false, acq, dual, r.dualFlag && !(kindNotice r.kind) && (match dual with | none => true | some p => p.primary), lid, pkt, ident⟩

/-- A checked record enters the deque, at its top or its bottom, or the notice queue (R201). -/
def enqueueRec (k : Nat) (q : Queued) (bottom : Bool) (s : State) : State :=
  s.modCore k fun c =>
    let c1 := { c with arrivals := c.arrivals + 1 }
    if kindNotice q.r.kind then { c1 with notices := c1.notices ++ [q] }
    else if bottom then { c1 with deque := c1.deque ++ [q] }
    else { c1 with deque := q :: c1.deque }

/-- A record arrives at a core that has room for it: it is checked, and is queued or becomes a record fault (R202, R216). -/
def arriveRec (k : Nat) (r : Rec) (bottom : Bool) (acq : Nat) (dual : Option DualRole) (lid : Option Nat) (pkt : Option (Nat × Nat))
    (ident : Option (Nat × Nat)) (s : State) : State :=
  if recordBad r then recordFault k r.words (packetEnd pkt s)
  else if kindNotice r.kind then
    match handlerOf s k (16 + r.kind) (fld r.w0 20 12) with
    | (none, s1) => recordFault k r.words (packetEnd pkt s1)
    | (some _, s1) => enqueueRec k (queuedRec s k r acq dual lid pkt ident) bottom s1
  else enqueueRec k (queuedRec s k r acq dual lid pkt ident) bottom s

/-- Does a core accept records at all: it is online. -/
def coreOnline (s : State) (k : Nat) : Bool := !(s.core k).offline && !(s.core k).killed && (s.die (coreDie k)).run == .running

/-- Charge a step of a unit to an energy context of a die, in 2^-10 µJ: what a step costs is a free value (R286, R313, R396, R449). -/
def chargeStep (d ectx : Nat) (s : State) : State :=
  let (v, s1) := s.free
  s1.modDie d fun dd => { dd with energyAcc := dd.energyAcc.put ectx (dd.energyAcc.getD ectx 0 + v.toNat) }

/-- Is no core of a cluster online (R262). -/
def clusterDark (s : State) (q : Nat) : Bool := !((List.range 8).any fun n => coreOnline s (clusterCore q n))

/-- Candidates waiting to be bound at a core (R369): events, woken held threads, deque and notice records. -/
def waitingWork (c : Core) : Nat :=
  c.inbox.length + (c.heldList.filter fun h => h.woken).length + c.deque.length + c.notices.length

/-- The free user contexts of a core; one whose engine completions are still due is not offered (R82). -/
def freeCtxs (s : State) (k : Nat) : List Nat :=
  (userCtxs k).filter fun x => (s.ctx x).run == .free && !(s.ctx x).closing

/-- Step 1 of R369: more free contexts than candidates. -/
def takesNow (s : State) (k : Nat) : Bool := decide (waitingWork (s.core k) < (freeCtxs s k).length)

/-- The depth of a deque, with the entries that are reserved for records on their way (R208). -/
def dequeDepth (s : State) (k : Nat) : Nat :=
  (s.core k).deque.length + (s.recs.filter fun m => m.levelled && m.core == some k).length

/-- Step 2 of R369: room in the deque, of which reserved entries are taken (R203, R208). -/
def dequeRoom (s : State) (k : Nat) : Bool := dequeDepth s k < 32

/-- Does a core match a class code (R235, R369). -/
def classOk (cls k : Nat) : Bool := cls == 0 || (cls == 1 && !(clusterL (clusterOf k))) || (cls == 2 && clusterL (clusterOf k))

/-- The core that a placement word names. -/
def hintCore (w : Word) : Nat := coreAt (fld w 49 1) (fld w 44 5) (fld w 39 5)

/-- Is a core in the candidate set of a hint (R369). -/
def inCandidates (s : State) (lid : Option Nat) (hint : Word) (k : Nat) : Bool :=
  let h := hintCore hint
  coreDie k == coreDie h && hops k h ≤ fld hint 50 4 && coreOnline s k && (s.core k).lid == lid && classOk (fld hint 37 2) k

/-- The cores of an XY route along a row, from column `a` towards column `b`, both included (R344). -/
def rowRun (d r a b : Nat) : List Nat :=
  if a ≤ b then (List.range (b - a + 1)).map fun i => coreAt d r (a + i)
  else (List.range (a - b + 1)).map fun i => coreAt d r (a - i)

/-- The cores along a column. -/
def colRun (d c a b : Nat) : List Nat :=
  if a ≤ b then (List.range (b - a + 1)).map fun i => coreAt d (a + i) c
  else (List.range (a - b + 1)).map fun i => coreAt d (a - i) c

/-- The module that carries packets of row `r` to the other die (R344), or the next enabled one (R431). -/
def ucieModule (s : State) (r : Nat) : Nat :=
  (((List.range 4).map fun i => (r / 6 + i) % 4).find? fun m => !(s.pkg.modulesOff.contains m)).getD (r / 6)

/-- The core position at which packets from row `r` of the other die enter die `d` (R343, R344). -/
def ucieEntry (s : State) (d r : Nat) : Nat := coreAt d (6 * ucieModule s r + 2) (if d = 0 then 31 else 0)

/-- The part of the route to core `h` that lies on its die, in the order the route reaches it: the row first, then the column (R344, R369).
The sender's own position is not on it; the position that an edge unit or the other die's packet enters is. -/
def routeTo (s : State) (src : Nat × Bool) (h : Nat) : List Nat :=
  let e := if coreDie src.1 = coreDie h then src.1 else ucieEntry s (coreDie h) (coreRow src.1)
  let run := rowRun (coreDie h) (coreRow e) (coreCol e) (coreCol h) ++ (colRun (coreDie h) (coreCol h) (coreRow e) (coreRow h)).drop 1
  if src.2 || coreDie src.1 != coreDie h then run else run.drop 1

/-- The cores of a die within a distance of a core, by distance, then row, then column (R369). -/
def byDistance (h rad : Nat) : List Nat :=
  (List.range (rad + 1)).flatMap fun r => ((List.range 768).map fun i => 768 * coreDie h + i).filter fun k => hops k h == r

/-- THE PLACEMENT WALK (R369): the core that takes a record with this hint, if one does. -/
def placementWalk (s : State) (lid : Option Nat) (src : Nat × Bool) (hint : Word) : Option Nat :=
  let h := hintCore hint
  match ((h :: routeTo s src h).filter fun k => inCandidates s lid hint k).find? (fun k => takesNow s k) with
  | some k => some k
  | none => (byDistance h (fld hint 50 4)).find? fun k => inCandidates s lid hint k && dequeRoom s k

/-! ### Notices (R203) -/

/-- Post a notice to a core: refused by a full notice queue or an offline core, the unit keeps it and retries. -/
def postNotice (k : Nat) (r : Rec) (s : State) : State :=
  let m : RecMsg := ⟨r, some k, (s.core k).lid, none, (k, false), 0, 0, false, none, false, false, none⟩
  { s with recs := s.recs ++ [m] }

/-- A scope word's scope, with 000 as device (R17, R95). -/
def scopeOf (w : Word) : Nat := if fld w 0 3 = 0 then 4 else fld w 0 3

/-- The address of a completion or counter word. -/
def wordAddr (w : Word) : Word := put (fld w 3 51) 3 51

/-- Raise a join counter by one for a record that a thread of core `src` places with `y.jctr` (R86): the accepting core's atomic at the
counter's home; a local alias names the thread's core (R157). -/
def raiseCounter (s : State) (k src pid : Nat) (jctr : Word) : Except AccErr Unit × State :=
  if fld jctr 3 51 = 0 then (.ok (), s)
  else match atomicAt s k pid (globalOf src (wordAddr jctr)) .add 6 8 1 with
    | (.error e, s1) => (.error e, s1)
    | (.ok _, s1) => (.ok (), s1)

/-! ### Results that a stopped engine owes (R285, R313) -/

/-- Is long result `id` of context `x` that of a command which waits, or is stopped, at an engine that a pre-emption has stopped. -/
def engineOwes (s : State) (x id : Nat) : Bool :=
  let mine := fun (e : EngCmd) => e.x == x && e.lr == some id
  let at? := fun (q : Nat) => (s.cmds.any fun m => m.target == some q && mine m.cmd)
  s.clusters.any fun e =>
    (e.2.mxe.stopped && ((e.2.mxe.cur.toList ++ e.2.mxe.queue).any mine || at? e.1))
      || (e.2.spe.stopped && (e.2.spe.queue.any mine || at? e.1))

/-- Are a context's long results written, but for those that stopped engines owe it (R285; log entry 34). -/
def resultsIn (s : State) (x : Nat) : Bool := (s.ctx x).outstanding.all fun r => engineOwes s x r.id

/-! ### The work of a killed core (R230) -/

/-- What a postmaster finds at a killed core: the record of a thread or a deque entry, none for a thread that migrated in, and what travels
beside it. -/
structure Lost where
  r : Option Rec
  lid : Option Nat
  pkt : Option (Nat × Nat)
  ident : Option (Nat × Nat)
  acq : Nat

/-- The handle of the chunk that a record carries, if it carries one (R378): a kind-1 record, or its restart. -/
def Rec.chunk (r : Rec) : Option Word := if (r.kind = 1 ∨ r.kind = 8) ∧ fld r.w5 16 16 ≠ 0 then some r.w5 else none

/-- The record behind a thread, with the acquire that its binding made: a handler's event is handled already (R229, R230). -/
def lostThread (c : Ctx) : Option Lost :=
  match c.made with
  | .record r => some ⟨some r, c.lid, c.pkt, some (c.pid, c.ectx), c.acq⟩
  | .migrated => some ⟨none, c.lid, c.pkt, none, 0⟩
  | .event _ => none
  | .none => some ⟨none, c.lid, c.pkt, none, 0⟩

/-- A machine check of a postmaster, for work that is not restarted (R230); the work ends there. -/
def lostCheck (pm : Nat) (w : Lost) (s : State) : State :=
  packetEnd w.pkt (postErrorOpen (coreDie pm) (coreBank s pm) ⟨3, 0x11, false, false, false, false, 0, 0, errSource s pm 15 none, 0⟩ s)

/-- Deal with one record (R230): a kind-8 record where it may be restarted, else a machine check. -/
def restartLost (pm : Nat) (w : Lost) (s : State) : State :=
  match w.r with
  | some r =>
    if r.restart ∧ fld r.w0 32 4 < 3 then
      let w0 := setFld (setFld (setFld r.w0 0 4 8) 4 1 0) 32 4 (fld r.w0 32 4 + 1)
      { s with recs := s.recs ++ [⟨{ r with w0 := w0 }, none, w.lid, w.ident, (pm, false), w.acq, 0, false, none, false, false, w.pkt⟩] }
    else lostCheck pm w s
  | none => lostCheck pm w s

end Sys2Proof.Machine
end

