-- ==== Sys2Proof/Machine/Threads.lean ====
section
/-! DEFINITION. Accesses of a thread at a home, the end of a thread and its completion release, the building and placing of a record,
and the departure of a migration (R15 to R19, R27 to R31, R82, R85 to R88, R211, R252, R269). -/

namespace Sys2Proof.Machine

/-! ### Accesses at a home -/

/-- A request of context `x`, whose registers are `c`, for the instruction at its PC. -/
def mkReq (x : Nat) (c : Ctx) (op : ReqOp) (home : Home) (size ty val : Nat) (va : Word) : Req :=
  { id := 0, x := x, src := coreOf x, pid := c.pid, op := op, home := home, size := size, ty := ty, val := val, cmp := 0, lr := none,
    waits := false, acq := 0, ord := false, pc := c.pc, va := va, vst := none, heldAt := false, refused := false, stale := false, delay := 0 }

/-- A request to the core's own scratchpad is performed at once; every other one travels (R160, R183). -/
def launchReq (r : Req) (s : State) : State :=
  if r.atCore r.src then startReq r s else sendReq r s

/-- The checks of a data access of `n` bytes, in the order of R36: malformed, misaligned, local slot not resident. -/
def accessSpace (s : State) (x : Nat) (pc a : Word) (n : Nat) : Except TrapInfo Space :=
  match resolve (coreOf x) a with
  | .bad => .error (malformedTrap pc a)
  | sp =>
    if a.toNat % n ≠ 0 then .error (misalignedTrap pc a 0)
    else match sp with
      | .spad c off =>
        if c = coreOf x ∧ resident s c off = false then .error (syncTrap 0x06 pc (some a) (BitVec.ofNat 64 (slotOf off)))
        else .ok sp
      | _ => .ok sp

/-- The reply that the context's wait has received. -/
def Ctx.reply? (c : Ctx) : Option LongVal := c.wait?.bind fun w => w.reply

/-- Wait for the reply of a request: send it where the context does not wait yet, and go on where the reply is there. -/
def waitReply (x : Nat) (i : Instr) (kind : WaitKind) (deadline : Option Nat) (r : Req) (s : State) (k : LongVal → State → Eff) : Eff :=
  let s1 := if (s.ctx x).wait?.isSome then s else launchReq { r with waits := true } (waitFor x i kind deadline s)
  match (s1.ctx x).reply? with
  | some v => k v s1
  | none => .leave s1

/-! ### The end of a thread -/

/-- A number that no context has: the work of an ended thread that is still under way answers nobody. -/
def nobody : Nat := 65536

/-- The lines that context `y` wrote have no owner any more: its thread no longer holds it (R363). -/
def dropOwner (y : Nat) (s : State) : State :=
  (l1Cores s (coreOf y)).foldl (fun t m => t.modCore m fun c =>
    if c.l1.any fun l => l.writers.contains y || l.owner == some y then
      { c with l1 := c.l1.map fun l =>
          { l with owner := if l.owner = some y then none else l.owner, writers := l.writers.filter (· ≠ y) } }
    else c) s

/-- The thread of context `y` ends and the context is free (R19, R82, R211, R269): its event is handled, its area pair stays, what is
under way for it answers nobody, and engine completions still due keep the context from being bound. -/
def endThread (y : Nat) (s : State) : State :=
  let c := s.ctx y
  let s1 := match c.event? with
    | some e => markHandled (coreOf y) e s
    | none => s
  let s2 := cancelWait y (packetEnd c.pkt s1)
  let s3 := dropOwner y { s2 with reqs := s2.reqs.map fun (r : Req) => if r.x = y then { r with x := nobody, acq := 0 } else r }
  let s4 := s3.modCluster (clusterOf (coreOf y)) fun q =>
    { q with xfers := q.xfers.map fun (t : Xfer) => if t.x = y then { t with x := nobody } else t }
  s4.setCtx y
    { Ctx.reset with
      pair := c.pair
      mstat := { EngStat.reset with unf := c.mstat.unf }
      spstat := { EngStat.reset with unf := c.spstat.unf }
      rqstat := { EngStat.reset with unf := c.rqstat.unf }
      closing := c.mstat.unf + c.spstat.unf + c.rqstat.unf != 0 }

/-- Are the thread's long results, writes and engine commands over (R19, R269, R297, R331). -/
def drainOver (s : State) (y : Nat) : Bool :=
  let c := s.ctx y
  c.outstanding.isEmpty && !(s.reqs.any fun r => r.x == y)
    && c.mstat.unf == 0 && c.spstat.unf == 0 && c.rqstat.unf == 0

/-- Physical address of word `i` of a queue's descriptor (R465). -/
def queueAddr (s : State) (n i : Nat) : Nat := fld s.pkg.qtab 14 24 * 16384 + 64 * n + 8 * i

/-- Word `i` of a queue's descriptor, at its home slice. -/
def queueWord (s : State) (n i : Nat) : Word := BitVec.ofNat 64 (memRead s.mem (queueAddr s n i) 8)

/-- The vector of a queue (R465). -/
def queueVec (s : State) (n : Nat) : Nat := fld (queueWord s n 0) 0 11

/-- The decrement of a completion word took it from `old`: the vector of the packet with INT that the word is the signal of is sent where it
leaves 0 (R464, R467). -/
def signalFell (pkt : Option (Nat × Nat)) (old : Nat) (s : State) : State :=
  match pkt with
  | none => s
  | some (q, n) =>
    match (s.pkg.queues.getD q Queue.reset).inflight.find? (fun e => e.idx == n) with
    | none => s
    | some e => if old = 1 ∧ bitAt (e.words.getD 0 0) 61 ∧ fld (e.words.getD 6 0) 3 51 ≠ 0 then sendVector (queueVec s q) s else s

/-- The completion release of a thread (R19): FENCE.rel at the scope, then an atomic −1 at the completion word. A failure gives the trap, or
none while the word's home holds the access. -/
def completionRelease (y : Nat) (pc : Word) (s : State) : Except (Option TrapInfo × State) State :=
  let c := s.ctx y
  let a := wordAddr c.tcomp
  if a = 0 then .ok s
  else
    let s1 := releaseVia s (coreOf y) c.pid (scopeOf c.tcomp) none
    match atomicAt s1 (coreOf y) c.pid a .add 6 8 (2 ^ 64 - 1) with
    | (.ok old, s2) => .ok (signalFell c.pkt old s2)
    | (.error .held, s2) => .error (none, s2)
    | (.error e, s2) =>
      let t := e.trap pc a
      .error (some { t with epc := some pc, finfo := t.finfo ||| flag true 63 }, s2)

/-- The end of the thread of context `x` by its own EXIT or EVNEXT, after the marker (R19). -/
def endEff (x : Nat) (i : Instr) (s : State) : Eff :=
  if drainOver s x then
    match completionRelease x (s.ctx x).pc s with
    | .ok s1 => .leave (launchOver (s.ctx x).lid (endThread x s1))
    | .error (none, s1) => .leave (holdHere x i s1)
    | .error (some t, s1) => .trap t s1
  else .leave (waitFor x i (.drain x) none s)

/-- Does the current frame hold an inline child (R74). -/
def Ctx.inlineFrame (c : Ctx) : Bool := c.res + c.spl != 0 && bitAt (c.w 7) 0

/-! ### Records built by a thread (R85, R87) -/

/-- The launch of a thread; for context 7 that of its core. -/
def threadLaunch (s : State) (x : Nat) : Option Nat :=
  if ctxNo x = 7 then (s.core (coreOf x)).lid else (s.ctx x).lid

/-- The record that SPAWN or FORK builds. -/
def builtRecord (c : Ctx) (f : Fields) (target hint : Word) (dual : Bool) (seq : Nat) : Rec :=
  let n := f.b.num
  { w0 := put (f.subBits 0 2) 8 2 ||| flag (f.subBit 2) 4 ||| flag dual 5 ||| flag (bitAt c.origin 63) 6
    w1 := target
    w2 := c.w n
    w3 := c.w (n + 1)
    w4 := c.w (n + 2)
    w5 := c.w (n + 3)
    w6 := c.jctr
    w7 := setFld (setFld hint 56 8 0) 0 32 seq }

/-- The next sequence number of a core (R200). -/
def nextSeq (k : Nat) (s : State) : Nat × State :=
  ((s.core k).seq, s.modCore k fun c => { c with seq := (c.seq + 1) % 2 ^ 32 })

/-- Place a record with core `k`: the counter is raised first, then the record enters the deque, and the outcome is written (R86). While the
counter's home holds the increment the placement goes on, and no trap of a droop stop or a pre-emption is taken. -/
def placeAt (x : Nat) (i : Instr) (f : Fields) (k : Nat) (target hint : Word) (dual bottom : Bool) (s : State) : Eff :=
  let c := s.ctx x
  match raiseCounter s k (coreOf x) c.pid c.jctr with
  | (.error .held, s1) => .leave (waitKeyed x i .placing none k s1)
  | (.error e, s1) =>
    let t := e.trap c.pc (wordAddr c.jctr)
    .trap { t with epc := some c.pc, finfo := t.finfo ||| flag true 63 } s1
  | (.ok _, s1) =>
    let (seq, s2) := nextSeq (coreOf x) s1
    let s3 := arriveRec k (builtRecord c f target hint dual seq) bottom 0 none (threadLaunch s x) none (some (c.pid, c.ectx)) s2
    .done (s3.modCtx x fun d => d.writeD f.d (allOf true))

/-- The core that has accepted the record that a waiting SPAWN or FORK places. -/
def Ctx.placing? (c : Ctx) : Option Nat :=
  match c.wait? with
  | some w => if w.kind = .placing then some w.key else none
  | none => none

/-- The inline fallback (R18, R85): a call with bit 0 of the link set; the outcome is 0. -/
def inlineChild (x : Nat) (i : Instr) (f : Fields) (target : Word) (s : State) : Eff :=
  let c := s.ctx x
  let n := f.b.num
  match callWindow x c.pc (c.pc + 12 + 1) [c.w n, c.w (n + 1), c.w (n + 2), c.w (n + 3)] s with
  | .error (some t) => .trap t s
  | .error none => .leave (holdHere x i s)
  | .ok s1 => .jump target (s1.modCtx x fun d => d.writeD f.d 0)

/-! ### Migration (R27 to R31, R252) -/

/-- Batches finish in number order: the finished ones at the front leave (R251). -/
def pruneBatches : List Batch → List Batch
  | [] => []
  | b :: rest => if b.left = 0 then pruneBatches rest else b :: rest

/-- Seal the open batch (R251). -/
def Ctx.seal (c : Ctx) : Ctx :=
  { c with xbatches := pruneBatches (c.xbatches ++ [⟨c.xnext, c.xopen⟩]), xopen := 0, xnext := (c.xnext + 1) % 65536 }

/-- The 16 words of the departure frame (R27). -/
def departureFrame (c : Ctx) : List Word :=
  ((List.range 7).map fun i => c.pred (i + 1)) ++ [c.tcomp, c.jctr, c.origin, c.wlim] ++ List.replicate 5 0

/-- Spill every resident frame, oldest first. -/
def spillAll (x : Nat) (pc : Word) : Nat → State → Except (Option TrapInfo) State
  | 0, s => .ok s
  | n + 1, s =>
    if (s.ctx x).res = 0 then .ok s
    else match spillFrame x pc s with
      | .error e => .error e
      | .ok s1 => spillAll x pc n s1

/-- The lines of an L1 that a context has dirtied. -/
def ownLines (s : State) (x : Nat) : List (Nat × L1Line) :=
  (l1Cores s (coreOf x)).flatMap fun m => ((s.core m).l1.filter fun l => l.writers.contains x && l.dirty != 0).map fun l => (m, l)

/-- A line goes to its home LLC slice, out of the L1s that core `k` uses and out of its die's copy. -/
def sendHome (k pid vln : Nat) (s : State) : State :=
  let u := (l1Cores s k).foldl (fun t m => l1Clean t m pid vln) s
  match (translate u (coreDie k) pid (128 * vln) .read).1 with
  | .ok p => if p.priv then u else llcClean u (coreDie k) (lineOf p.pa)
  | .error _ => u

/-- The lines that a departing thread sends home: those it has dirtied in the old L1 (R27, step 2), and those it has written before or past the
L1, which it may have left in the die's copies (R167). -/
def departing (s : State) (x : Nat) : List (Nat × Nat) :=
  (((ownLines s x).map fun e => (e.2.pid, e.2.vln)) ++ (s.ctx x).wrote.map fun v => ((s.ctx x).pid, v)).eraseDups

/-- The core-scope release of a departing thread (R27, step 2; R167). -/
def releaseOwn (x : Nat) (s : State) : State := (departing s x).foldl (fun t e => sendHome (coreOf x) e.1 e.2 t) s

/-- Would the departure pass `y.wlim` (R27). -/
def migOverflow (c : Ctx) : Bool := c.wsp.toNat < c.wlim.toNat + 64 * c.res + 128

/-- Steps 2 to 4 of a migration: the spills, the departure frame and the write-backs, and the thread packet. -/
def depart (x dst : Nat) (automatic : Bool) (s : State) : Except (Option TrapInfo) State :=
  let pc := (s.ctx x).pc
  match spillAll x pc 8 s with
  | .error e => .error e
  | .ok s1 =>
    let c := s1.ctx x
    let a := c.wsp - 128
    match wordsStore s1 (coreOf x) (some x) c.pid 0 a (departureFrame c) with
    | (.error (.held, _), _) => .error none
    | (.error (e, fa), _) => .error (some { e.trap pc fa with epc := some pc })
    | (.ok _, s2) =>
      let lines := ((departing s2 x).map (·.2)).eraseDups
      let s3 := releaseOwn x s2
      let m : MigMsg := ⟨x, dst, { s3.ctx x with pc := (if automatic then pc else (fallThrough c pc).pc) }, a, lines, none, automatic, false, pc⟩
      .ok { (s3.modCtx x fun d => { d with run := .migrating }) with migs := s3.migs ++ [m] }

/-- Does an access to the scratchpad of a core start an automatic migration (R30). -/
def autoMigrates (s : State) (x home : Nat) : Bool :=
  let k := coreOf x
  let c := s.ctx x
  bitAt c.migmode 0 && coreDie home == coreDie k && fld c.migmode 8 8 < hops k home
    && !c.vl && c.dual.isNone && ctxNo x != 7 && (match c.made with | .event _ => false | _ => true)
    && (s.core home).lid == c.lid && coreOnline s home && !(freeCtxs s home).isEmpty
    && c.mstat.unf == 0 && c.spstat.unf == 0 && c.rqstat.unf == 0 && c.xopen == 0 && c.xbatches.isEmpty
    && !(migOverflow c)

/-- Start an automatic migration for the access of the instruction at the PC (R25, R30): the implicit marker first, then the departure. None
where it does not start, and the access is then made remotely. -/
def autoMigrate (x : Nat) (i : Instr) (home : Nat) (s : State) : Option State :=
  if autoMigrates s x home then
    match marker x i true s with
    | some s1 => some s1
    | none => match depart x home true s with
      | .ok s1 => some s1
      | .error _ => none
  else none

end Sys2Proof.Machine
end

