-- ==== Sys2Proof/Machine/SysRegs.lean ====
section
/-! DEFINITION. The system registers `y0` to `y114`: reads, writes and their rights, and MFSR and MTSR (R6, R83, R92 to R97, R218 to R222,
R236 to R245, R249, R266, R269, R287, R288, R297, R303, R310, R314, R331, R362, R379, R441 to R449, R487). -/

namespace Sys2Proof.Machine

/-! ### Rights (R51 check 6, R83) -/

/-- A register that a user context may not name. -/
def yPrivate (n : Nat) : Bool :=
  (16 ≤ n && n ≤ 20) || n == 23 || n == 51 || (57 ≤ n && n ≤ 60) || n == 67 || n == 81 || n == 84 || n == 85 || n == 87
    || n == 100 || n == 101 || (112 ≤ n && n ≤ 114)

/-- A register that a user context may read, and whose write by it traps (R218). -/
def yWriteTraps (n : Nat) : Bool := n == 80 || n == 82

/-- A register of a core or a cluster, not of a context (R83). -/
def yShared (n : Nat) : Bool :=
  n == 21 || n == 23 || n == 48 || (50 ≤ n && n ≤ 52) || (56 ≤ n && n ≤ 60) || (65 ≤ n && n ≤ 67) || (80 ≤ n && n ≤ 85) || n == 87
    || n == 96 || (99 ≤ n && n ≤ 102) || (112 ≤ n && n ≤ 114)

/-- How a write is made: by a user context, by context 7, or by context 7 under SUB 1, which may write RO fields too. -/
inductive YRight where
  | user | sup | full
  deriving DecidableEq, Repr

/-! ### Composed registers -/

/-- `y.wstate` (R10). -/
def Ctx.wstate (c : Ctx) : Word := put c.spl 48 16 ||| flag c.vz 13 ||| flag c.vl 12 ||| put c.res 8 3 ||| put c.wf 0 3

/-- `y.self` (R93). -/
def ySelf (x : Nat) : Word := coreAddr (coreOf x) ||| put (ctxNo x) 0 3

/-- `y.ident` (R94). -/
def Ctx.ident (c : Ctx) : Word := put c.pid 16 12 ||| put c.ectx 8 8 ||| put c.pri 0 2

/-- `y.xstat` (R249). -/
def Ctx.xstat (c : Ctx) : Word :=
  flag c.xerr 63 ||| put c.xstatCode 48 8 ||| put c.xfid 32 6 ||| put c.xbatches.length 16 8 ||| put c.xnext 0 16

/-- `y.mstat` (R269); `y.spstat` and `y.rqstat` have no engine fields (R297, R331). -/
def EngStat.word (e : EngStat) : Word :=
  flag e.err 63 ||| put e.stat 48 8 ||| put e.fopc 40 8 ||| put e.fdie 39 1 ||| put e.fcln 32 7 ||| put e.unf 0 6

/-- A status written whole (R83, SUB 1). -/
def EngStat.ofWord (v : Word) : EngStat := ⟨bitAt v 63, fld v 48 8, fld v 40 8, fld v 39 1, fld v 32 7, fld v 0 6⟩

/-- `y.clinfo` (R236). -/
def clInfo (s : State) (k : Nat) : Word :=
  let q := clusterOf k
  let onl := (List.range 8).foldl (fun w n => if (s.core (clusterCore q n)).offline then w else w ||| flag true (8 + n)) 0
  coreAddr (clusterCore q 0) ||| put (q % 96) 16 7 ||| onl ||| flag (clusterL q) 7 ||| flag (s.cluster q).fused 6

/-- `y.mstep` (R287). -/
def Mxe.stepWord (m : Mxe) : Word := flag m.cur.isSome 63 ||| put m.lastOpc 48 8 ||| put m.tot 16 16 ||| put m.done 0 16

/-- `y.msave` and `y.spsave` (R288, R314). -/
def saveWord (bsy err : Bool) (addr : Word) : Word := flag bsy 63 ||| flag err 62 ||| put (fld addr 12 42) 12 42

/-- `y.spcfg` (R303). -/
def Spe.cfgWord (e : Spe) (qd : Nat) : Word := flag e.oflow 63 ||| flag e.uflow 62 ||| put qd 16 5 ||| put e.mode 0 2

/-- Entry word 0 of a residency entry (R161). -/
def Resid.word0 (r : Resid) : Word := flag r.v 63 ||| flag r.dt 62 ||| flag r.pn 61 ||| flag r.bsy 60 ||| r.back

/-- `y.pstat` (R239). -/
def pceStatus (s : State) (k : Nat) : Word :=
  let q := s.cluster (clusterOf k)
  let c := s.core k
  flag (q.pce.any fun p => p.core == k) 63 ||| flag c.pErr 62 ||| put c.pCode 48 8 ||| put q.pce.length 0 5

/-- `y.level` (R221). -/
def Core.levelWord (c : Core) : Word :=
  put c.dom 56 8 ||| put c.inbox.length 48 8 ||| put c.deque.length 40 8 ||| put c.notices.length 32 8 ||| put c.heldList.length 24 8
    ||| put c.levelInt 1 6 ||| flag c.levelEn 0

/-- `y.ctxop` (R222). -/
def Core.ctxopWord (c : Core) : Word := flag c.ctxopBsy 63 ||| flag c.ctxopErr 62 ||| put c.ctxopCtx 0 3

/-- Does a core of the cluster hold an active lease. -/
def clusterLeased (s : State) (q : Nat) : Bool :=
  (List.range 8).any fun n => (userCtxs (clusterCore q n)).any fun x => (s.ctx x).lease.act

/-- The clock step of a core (R440, R443): floor after two intervals of duty at most 4; the cluster's step while it holds a lease or the
cluster borrows; else nominal. -/
def coreStep (s : State) (k : Nat) : Nat :=
  let q := s.cluster (clusterOf k)
  if 2 ≤ (s.die (coreDie k)).lowD.getD (k % 768) 0 then 0
  else if q.brw || (userCtxs k).any (fun x => (s.ctx x).lease.act) then q.step else 1

/-- `y.duty` (R441). -/
def dutyWord (s : State) (k : Nat) : Word := put (coreStep s k) 16 2 ||| put (s.core k).dutyCap 8 5 ||| put (s.core k).dutyD 0 5

/-- `y.lease` (R445): the rest in µs, rounded up. -/
def Lease.word (l : Lease) (now : Nat) : Word :=
  if l.act then flag true 63 ||| flag l.rvk 62 ||| put l.step 60 2 ||| put ((l.ends - now + 999) / 1000) 0 10 else 0

/-- `y.bstat` (R444). -/
def boostWord (s : State) (q : Nat) : Word :=
  let c := s.cluster q
  put c.perm 16 8 ||| flag c.half 15 ||| flag c.slot 14 ||| flag c.brw 13 ||| flag (clusterLeased s q) 12 ||| put c.step 0 2

/-- `y.droop` (R448). -/
def Core.droopWord (c : Core) : Word := put c.droopSoft 48 16 ||| put c.droopHard 32 16 ||| put c.droopLast 0 32

/-! ### Operations behind registers -/

/-- The supervisor item word (R220). -/
def supWord (o : Option SupItem) : Word :=
  match o with
  | some it => flag true 63 ||| put it.typ 48 8 ||| put it.data 0 16
  | none => 0

/-- A write of `y.hbase` drops the cached handler entries (R204, R218). -/
def setHbase (k : Nat) (v : Word) (s : State) : State :=
  s.modCore k fun c => { c with hbase := put (fld v 8 46) 8 46, hcache := [] }

/-- Start of area pair `n` of a core (R487). -/
def Core.pairAddr (c : Core) (n : Nat) : Word := c.pairs + BitVec.ofNat 64 (n * (fld c.pairsz 32 32 + fld c.pairsz 0 32))

/-- A write of `y.pairs` (R487): ignored while a user context holds a thread, else it assigns the pairs. -/
def setPairs (k : Nat) (v : Word) (s : State) : State :=
  if (userCtxs k).any fun x => (s.ctx x).occupied then s
  else
    let s1 := s.modCore k fun c =>
      let c1 := { c with pairs := put (fld v 6 48) 6 48 }
      { c1 with spare := (List.range 8).map fun i => c1.pairAddr (7 + i) }
    (List.range 7).foldl (fun t n => t.modCtx (ctxKey k n) fun c => { c with pair := (s1.core k).pairAddr n }) s1

/-- A write of `y.ctxop` (R222): ignored while busy; a context number of 7 and the codes 00 and 11 are ignored. -/
def setCtxop (k : Nat) (v : Word) (s : State) : State :=
  s.modCore k fun c =>
    if c.ctxopBsy then c
    else
      let c1 := if fld v 0 3 = 7 then c else { c with ctxopCtx := fld v 0 3 }
      let op := fld v 4 2
      if op = 1 ∨ op = 2 then { c1 with ctxopBsy := true, ctxopOp := op } else c1

/-- A write of `y.pcmd` queues a parcel command; a full queue is failure 7 (R239, R240). -/
def queueParcel (k : Nat) (v : Word) (s : State) : State :=
  let q := clusterOf k
  if 16 ≤ (s.cluster q).pce.length then s.modCore k fun c => { c with pErr := true, pCode := 7 }
  else s.modCluster q fun c => { c with pce := c.pce ++ [⟨k, fld v 0 4, fld v 8 3, fld v 16 5⟩] }

/-- A write of `y.epost` (R362): rank 00 and a reserved type post nothing. -/
def postFirmware (k : Nat) (v : Word) (s : State) : State :=
  let rank := fld v 62 2
  let typ := fld v 48 8
  if rank = 0 ∨ 0x13 ≤ typ then s
  else
    let c := s.core k
    let (syn, s1) := s.free
    postError (coreDie k) (coreBank s k)
      ⟨rank, typ, false, false, bitAt v 60, bitAt v 61, c.eaddr, syn, errSource s k 15 none ||| put (fld v 0 8) 8 8, c.edet⟩ s1

/-- A write of `y.msave` (R288). -/
def setMsave (k : Nat) (v : Word) (s : State) : State :=
  s.modCluster (clusterOf k) fun c =>
    let m := c.mxe
    if m.saveBsy then c
    else
      let m1 := { m with saveAddr := put (fld v 12 42) 12 42, savePid := (s.ctx (ctxKey k 7)).pid, saveCore := k }
      { c with mxe := if fld v 0 2 = 1 ∨ fld v 0 2 = 2 then { m1 with saveBsy := true, saveOp := fld v 0 2 } else m1 }

/-- A write of `y.spsave` (R314). -/
def setSpsave (k : Nat) (v : Word) (s : State) : State :=
  s.modCluster (clusterOf k) fun c =>
    let m := c.spe
    if m.saveBsy then c
    else
      let m1 := { m with saveAddr := put (fld v 12 42) 12 42, savePid := (s.ctx (ctxKey k 7)).pid, saveCore := k }
      { c with spe := if fld v 0 2 = 1 ∨ fld v 0 2 = 2 then { m1 with saveBsy := true, saveOp := fld v 0 2 } else m1 }

/-- The first identifier from a free value on that no transfer in flight has (R245). -/
def freeXferId (used : List Nat) (start : Nat) : Nat :=
  (((List.range 64).map fun i => (start + i) % 64).find? fun n => !(used.contains n)).getD 0

/-- The status of a failed access (R249): 1 malformed, 2 translation, 3 error response; none while it is held. -/
def xferStat (e : AccErr) : Option Nat :=
  match e with
  | .xlate i => some (if i = 0xF03 then 1 else 2)
  | .resp _ => some 3
  | .held => none

/-- Is the completion word an 8-byte-aligned scratchpad address and its scope one of cluster, die and device (R249, status 7). -/
def xcwBad (x : Xfer) : Bool :=
  bitAt x.opt 5 && (x.cw.toNat % 8 != 0 || !(2 ≤ fld x.opt 7 3 && fld x.opt 7 3 ≤ 4)
    || (match resolve x.core x.cw with | .spad _ _ => false | _ => true))

/-- The read of a transfer's layout record, when it starts (R244): nothing is read where an earlier check fails (R249), and a held read is made
again. -/
def readLayout (x : Xfer) (s : State) : Xfer × State :=
  if x.lrec.isSome || !(fld x.opt 0 2 == 1 || fld x.opt 0 2 == 2) || xcwBad x || resolve x.core x.lay == .bad then (x, s)
  else match pathWords s 1 (coreDie x.core) x.core x.pid x.lay 8 with
    | (.ok l, s1) => ({ x with lrec := some (0, l) }, s1)
    | (.error e, s1) => match xferStat e with
      | some st => ({ x with lrec := some (st, []) }, s1)
      | none => (x, s)

/-- MFSR of `y.xgo` (R157, R245): the shadow set is sampled, with local aliases as global addresses, and a transfer starts, unless 64 are in
flight. -/
def startXfer (x : Nat) (s : State) : Word × State :=
  let k := coreOf x
  let q := clusterOf k
  let c := s.ctx x
  let xs := (s.cluster q).xfers
  if 64 ≤ xs.length then (put 1 56 7, s)
  else
    let (r, s1) := s.free
    let id := freeXferId (xs.map fun t => t.id) (fld r 0 6)
    let t : Xfer :=
      { id := id, x := x, core := k, pid := c.pid, batch := c.xnext, src := globalOf k c.xsrc, dst := globalOf k c.xdst,
        lay := globalOf k c.xlay, box := c.xbox, ext := c.xext, opt := c.xopt, cw := globalOf k c.xcw, cv := c.xcv, pri := c.pri,
        notice := none, moved := false, stat := 0, lrec := none }
    let (t1, s2) := readLayout t s1
    (flag true 63 ||| put c.xnext 8 16 ||| put id 0 6,
      (s2.modCluster q fun cl => { cl with xfers := cl.xfers ++ [t1] }).modCtx x fun d => { d with xopen := d.xopen + 1 })

/-! ### Reads -/

/-- Read a register of context `x`; `viaT`: under SUB 1 (R83). -/
def yRead (x n : Nat) (viaT : Bool) (s : State) : Word × State :=
  let c := s.ctx x
  let k := coreOf x
  let kc := s.core k
  let q := clusterOf k
  let cl := s.cluster q
  match n with
  | 0 => (c.tsp, s)
  | 1 => (c.wsp, s)
  | 2 => (c.wstate, s)
  | 3 => (c.tcomp, s)
  | 4 => (c.migmode, s)
  | 5 => (c.jctr, s)
  | 6 => (ySelf x, s)
  | 7 => (c.ident, s)
  | 8 => (c.loopcnt, s)
  | 9 => (c.lbody, s)
  | 10 => (c.wlim, s)
  | 11 => (c.cause, s)
  | 12 => (c.epc, s)
  | 13 => (c.fpc, s)
  | 14 => (c.faddr, s)
  | 15 => (c.finfo, s)
  | 16 => (c.bkpt.getD 0 0, s)
  | 17 => (c.bkpt.getD 1 0, s)
  | 18 => (c.bkpt.getD 2 0, s)
  | 19 => (c.bkpt.getD 3 0, s)
  | 20 => (c.dbgctl, s)
  | 21 => (BitVec.ofNat 64 s.pkg.time, s)
  | 22 => (c.icount, s)
  | 23 => (put kc.tctx 0 3, s)
  | 32 => (c.xsrc, s)
  | 33 => (c.xdst, s)
  | 34 => (c.xlay, s)
  | 35 => (c.xbox, s)
  | 36 => (c.xext, s)
  | 37 => (c.xopt, s)
  | 38 => (c.xcw, s)
  | 39 => (c.xcv, s)
  | 40 => if viaT then (0, s) else startXfer x s
  | 41 => (c.xstat, s)
  | 48 => (kc.mcap, s)
  | 49 => (c.mstat.word, s)
  | 50 => (cl.mxe.stepWord, s)
  | 51 => (saveWord cl.mxe.saveBsy cl.mxe.saveErr cl.mxe.saveAddr, s)
  | 52 => (cl.mxe.tcsb, s)
  | 56 => (clInfo s k, s)
  | 58 => (pceStatus s k, s)
  | 59 => (kc.pent0, s)
  | 60 => (kc.pent1, s)
  | 64 => (c.spstat.word, s)
  | 65 => (cl.spe.cfgWord cl.spe.queue.length, s)
  | 66 => (put cl.spe.stall 0 32, s)
  | 67 => (saveWord cl.spe.saveBsy cl.spe.saveErr cl.spe.saveAddr, s)
  | 72 => (c.rqstat.word, s)
  | 80 => (kc.hbase, s)
  | 81 => (supWord (supTake k s).1, (supTake k s).2)
  | 82 => (kc.rfbuf, s)
  | 83 => (kc.levelWord, s)
  | 84 => (kc.ctxopWord, s)
  | 85 => (kc.pairs, s)
  | 86 => (flag c.gerr 63 ||| put c.grsn 48 8, s)
  | 87 => (kc.pairsz, s)
  | 96 => (dutyWord s k, s)
  | 97 => (put c.tnDn 16 1 ||| put c.tnThr 8 5 ||| flag c.tnEn 0, s)
  | 98 => (c.lease.word s.pkg.time, s)
  | 99 => (boostWord s q, s)
  | 100 => (put kc.esel 0 8, s)
  | 101 => (BitVec.ofNat 64 ((s.die (coreDie k)).energy.getD kc.esel 0), s)
  | 102 => (kc.droopWord, s)
  | 113 => (kc.eaddr, s)
  | 114 => (kc.edet, s)
  | _ => (0, s)

/-! ### Writes -/

/-- A status with ERR as W1C, or written whole (R6, R83). -/
def EngStat.put (e : EngStat) (r : YRight) (v : Word) (w : Word) : EngStat :=
  if r = .full then EngStat.ofWord (v &&& w) else if bitAt v 63 then { e with err := false } else e

/-- Write a register of a context with full rights over what it holds (R83, SUB 1), or under the access codes of its map. -/
def Ctx.yPut (c : Ctx) (n : Nat) (v : Word) (r : YRight) : Ctx :=
  let ro := r = .full
  let trapRegs := r ≠ .user
  match n with
  | 0 => { c with tsp := v }
  | 1 => { c with wsp := lineReg v }
  | 2 =>
    if ro then { c with spl := fld v 48 16, vz := bitAt v 13, vl := bitAt v 12, res := fld v 8 3, wf := fld v 0 3 }
    else if bitAt v 13 then { c with vz := false } else c
  | 3 => { c with tcomp := scopeReg v }
  | 4 => { c with migmode := put (fld v 8 8) 8 8 ||| put (fld v 0 1) 0 1 }
  | 5 => { c with jctr := scopeReg v }
  | 7 => if ro then { c with pid := fld v 16 12, ectx := fld v 8 8, pri := fld v 0 2 } else c
  | 8 => { c with loopcnt := v }
  | 9 => { c with lbody := lbodyReg v }
  | 10 => { c with wlim := lineReg v }
  | 11 => if trapRegs then { c with cause := v } else c
  | 12 => if trapRegs then { c with epc := v } else c
  | 13 => if trapRegs then { c with fpc := v } else c
  | 14 => if trapRegs then { c with faddr := v } else c
  | 15 => if trapRegs then { c with finfo := v } else c
  | 16 => { c with bkpt := c.bkpt.put 0 (v &&& ~~~2) }
  | 17 => { c with bkpt := c.bkpt.put 1 (v &&& ~~~2) }
  | 18 => { c with bkpt := c.bkpt.put 2 (v &&& ~~~2) }
  | 19 => { c with bkpt := c.bkpt.put 3 (v &&& ~~~2) }
  | 20 => { c with dbgctl := v &&& 1 }
  | 22 => if ro then { c with icount := v } else c
  | 32 => { c with xsrc := v }
  | 33 => { c with xdst := v }
  | 34 => { c with xlay := put (fld v 6 58) 6 58 }
  | 35 => { c with xbox := v }
  | 36 => { c with xext := v }
  | 37 => { c with xopt := put (fld v 5 5) 5 5 ||| put (fld v 0 2) 0 2 }
  | 38 => { c with xcw := v }
  | 39 => { c with xcv := v }
  | 41 =>
    if ro then
      let m := fld v 16 8
      { c with
        xerr := bitAt v 63
        xstatCode := fld v 48 8
        xfid := fld v 32 6
        xbatches := List.replicate (m - c.xbatches.length) ⟨0, 0⟩ ++ c.xbatches.drop (c.xbatches.length - m)
        xnext := fld v 0 16 }
    else if bitAt v 63 then { c with xerr := false } else c
  | 49 => { c with mstat := c.mstat.put r v (allOf true) }
  | 64 => { c with spstat := c.spstat.put r v 0x80FF_FF00_0000_001F }
  | 72 => { c with rqstat := c.rqstat.put r v 0x80FF_FF00_0000_001F }
  | 86 => if ro then { c with gerr := bitAt v 63, grsn := fld v 48 8 } else if bitAt v 63 then { c with gerr := false } else c
  | 97 =>
    { c with
      tnThr := fld v 8 5
      tnEn := bitAt v 0
      tnDn := if bitAt v 16 then 0 else c.tnDn }
  | _ => c

/-- Write a register of a core or a cluster by context 7; a user context's write is ignored (R6). -/
def ySharedPut (k n : Nat) (v : Word) (s : State) : State :=
  match n with
  | 23 => s.modCore k fun c => { c with tctx := fld v 0 3 }
  | 48 => s.modCore k fun c => { c with mcap := put (fld v 63 1) 63 1 ||| put (fld v 0 48) 0 48 }
  | 51 => setMsave k v s
  | 57 => queueParcel k v s
  | 58 => if bitAt v 62 then s.modCore k fun c => { c with pErr := false } else s
  | 59 => s.modCore k fun c => { c with pent0 := put (fld v 61 3) 61 3 ||| put (fld c.pent0 60 1) 60 1 ||| put (fld v 13 41) 13 41 }
  | 60 => s.modCore k fun c => { c with pent1 := put (fld v 7 47) 7 47 }
  | 67 => setSpsave k v s
  | 80 => setHbase k v s
  | 82 => s.modCore k fun c => { c with rfbuf := put (fld v 8 46) 8 46 }
  | 83 => s.modCore k fun c => { c with dom := fld v 56 8, levelInt := fld v 1 6, levelEn := bitAt v 0 }
  | 84 => setCtxop k v s
  | 85 => setPairs k v s
  | 87 => s.modCore k fun c => { c with pairsz := put (fld v 38 26) 38 26 ||| put (fld v 6 26) 6 26 }
  | 96 => s.modCore k fun c => { c with dutyCap := min 16 (fld v 8 5) }
  | 100 => s.modCore k fun c => { c with esel := fld v 0 8 }
  | 112 => postFirmware k v s
  | 113 => s.modCore k fun c => { c with eaddr := v }
  | 114 => s.modCore k fun c => { c with edet := v }
  | _ => s

/-- Write a register of context `x`. -/
def yWrite (x n : Nat) (v : Word) (r : YRight) (s : State) : State :=
  if yShared n then (if r = .user then s else ySharedPut (coreOf x) n v s)
  else s.modCtx x fun c => c.yPut n v r

/-! ### MFSR and MTSR (R83) -/

/-- The target of SUB 1 to 3: the context `y.tctx`, where it is Stopped or free. -/
def yTarget (s : State) (k : Nat) : Option Nat :=
  let y := ctxKey k (s.core k).tctx
  if (s.ctx y).run = .stopped ∨ (s.ctx y).run = .free then some y else none

/-- MFSR. -/
def execMfsr (h : Hdr) (f : Fields) (s : State) : Out :=
  issue (.mfsr h f) (f.sub != 0 || yPrivate f.a.num) false (fun x c t =>
    let k := coreOf x
    let answer := fun (r : Word × State) => Eff.done (r.2.modCtx x fun d => d.writeD f.d r.1)
    match f.sub.toNat with
    | 0 => answer (yRead x f.a.num false t)
    | 1 =>
      if yShared f.a.num then answer (yRead x f.a.num true t)
      else match yTarget t k with
        | some y => answer (yRead y f.a.num true t)
        | none => answer (0, t)
    | 2 => match yTarget t k with
      | some y => answer ((t.ctx y).stack.getD ((srcZ c [] f.b).toNat % 64) 0, t)
      | none => answer (0, t)
    | _ => match yTarget t k with
      | some y => answer ((t.ctx y).pred f.b.num, t)
      | none => answer (0, t)) s

/-- MTSR. -/
def execMtsr (h : Hdr) (f : Fields) (s : State) : Out :=
  issue (.mtsr h f) (f.sub != 0 || yPrivate f.d.num || yWriteTraps f.d.num) false (fun x c t =>
    let k := coreOf x
    let v := srcS c [] f.a
    match f.sub.toNat with
    | 0 => .done (yWrite x f.d.num v (if ctxNo x = 7 then .sup else .user) t)
    | 1 =>
      if yShared f.d.num then .done (yWrite x f.d.num v .sup t)
      else match yTarget t k with
        | some y => .done (yWrite y f.d.num v .full t)
        | none => .done t
    | 2 => match yTarget t k with
      | some y => .done (t.modCtx y fun d => d.setEntry ((srcZ c [] f.b).toNat % 64) v)
      | none => .done t
    | _ => match yTarget t k with
      | some y => .done (t.modCtx y fun d => d.setPred f.b.num v)
      | none => .done t) s

/-! ### The same operations as steps of the machine -/

/-- SUPQ_READ (R220): a read of `y.supq` by context 7 of a core into `w`n. -/
def execSupqRead (k : Nat) (n : BitVec 4) (s : State) : Out :=
  .next ((supTake k s).2.modCtx (ctxKey k 7) fun c => c.setW n.toNat (supWord (supTake k s).1))

/-- HBASE_WRITE (R204). -/
def execHbaseWrite (k : Nat) (v : BitVec 64) (s : State) : Out := .next (setHbase k v s)

/-- PAIRS_WRITE (R487). -/
def execPairsWrite (k : Nat) (v : BitVec 64) (s : State) : Out := .next (setPairs k v s)

/-- BTE_START (R245): a read of `y.xgo` by context `x` into `w`n. -/
def execBteStart (x : Nat) (n : BitVec 4) (s : State) : Out :=
  .next ((startXfer x s).2.modCtx x fun c => c.setW n.toNat (startXfer x s).1)

/-- ERROR_POST (R362): a write of `y.epost` by context 7 of a core. -/
def execErrorPost (k : Nat) (v : BitVec 64) (s : State) : Out := .next (postFirmware k v s)

end Sys2Proof.Machine
end

