-- ==== Sys2Proof/Machine/Cluster.lean ====
section
/-! DEFINITION. The cluster's shared resources: fences between paths, batches and transfers of the BTE, and barriers
(R241 to R262). -/

namespace Sys2Proof.Machine

/-! ### Fences and batches (R251, R255) -/

/-- XFENCE (R255): the marker, then a release where T is in FROM and an acquire where T is in TO; at the scratchpads the paths of TO see what those of
FROM have written. -/
def execXfence (h : Hdr) (f : Fields) (s : State) : Out :=
  issue (.xfence h f) false false (fun x c t =>
    let k := coreOf x
    let sc := f.xBits 33 3
    let rel := f.xBits 8 1 == 1
    match marker x (.xfence h f) rel t with
    | some t1 => .leave t1
    | none =>
      let t1 := fencePaths k sc (f.xBits 8 8) (f.xBits 0 8) (if rel then releaseVia t k c.pid sc none else t)
      .done (if f.xBits 0 1 = 1 then acquireLines t1 k c.pid sc none else t1)) s

/-- XSEAL (R251): seal the open batch; with 16 sealed batches unfinished the context waits. -/
def execXseal (h : Hdr) (f : Fields) (s : State) : Out :=
  issue (.xseal h f) false false (fun x c t =>
    if 16 ≤ c.xbatches.length then .leave (waitFor x (.xseal h f) .xseal none t)
    else .done (t.modCtx x fun d => d.seal.writeD f.d (BitVec.ofNat 64 c.xnext))) s

/-- XWAIT (R251): wait until a sealed batch and every earlier one have finished. -/
def execXwait (h : Hdr) (f : Fields) (s : State) : Out :=
  issue (.xwait h f) false false (fun x c t =>
    let b := (srcZ c [] f.a).toNat % 65536
    let dist := match c.wait? with
      | some w => w.key
      | none => (c.xnext + 65536 - b) % 65536
    if dist = 0 ∨ 32768 ≤ dist then .done (t.modCtx x fun d => d.writeD f.d 0)
    else if dist ≤ c.xbatches.length then .leave (waitKeyed x (.xwait h f) .xwait none dist t)
    else .done (t.modCtx x fun d => d.writeD f.d (allOf (!c.xerr)))) s

/-! ### Notices (R203, R247) -/

/-- A notice that a unit posts reaches its core: none where the core refuses or holds it, or a record fault waits at its notice-queue port; a killed
core's is discarded (R203, R215, R252). -/
def deliverNotice (k : Nat) (r : Rec) (s : State) : Option State :=
  let c := s.core k
  if c.killed then some s
  else if c.droopAt.isSome || 8 ≤ c.notices.length || !c.faultWait.isEmpty then none
  else some (arriveRec k r false 0 none c.lid none none s)

/-! ### Transfers (R242 to R250) -/

/-- One move of a transfer: a source address or a value, and a destination address. -/
structure Move where
  src : Option Word
  val : Nat
  dst : Word

/-- A 16-bit or 8-bit corner, signed. -/
def corner (x : Xfer) (a : Nat) : Int :=
  match a with
  | 4 => signedOf 8 (fld x.ext 56 8)
  | _ => signedOf 16 (fld x.box (16 * a) 16)

/-- The extent of the box on an axis (R242). -/
def extent (x : Xfer) (a : Nat) : Nat :=
  match a with
  | 4 => fld x.ext 48 8
  | _ => fld x.ext (12 * a) 12

/-- A layout record's words (R244). -/
def layNax (l : List Word) : Nat := fld (l.getD 0 0) 56 3
def layEdge (l : List Word) : Nat := fld (l.getD 0 0) 54 2
def laySize (l : List Word) (a : Nat) : Nat := fld (l.getD (a + 1) 0) 0 32
def layPitch (l : List Word) (a : Nat) : Int := signedOf 32 (fld (l.getD (a + 1) 0) 32 32)
def layBytes (l : List Word) : Nat := tyBytes (fld (l.getD 0 0) 60 4)
def layBase (l : List Word) : Word := put (fld (l.getD 0 0) 0 54) 0 54

/-- The check of a layout record's fields (R249, status 5). -/
def layBad (l : List Word) : Bool :=
  bitAt (l.getD 0 0) 59 || l.getD 7 0 != 0 || layNax l == 0 || 5 < layNax l || fld (l.getD 0 0) 60 4 == 14 || layEdge l == 3
    || (List.range (layNax l)).any fun a => laySize l a == 0

/-- The check of the box against the record (R249, status 6). -/
def boxBad (x : Xfer) (l : List Word) : Bool :=
  ((List.range 5).any fun a => extent x a == 0)
    || (List.range 5).any fun a => layNax l ≤ a && (corner x a != 0 || extent x a != 1)

/-- The dense base of a gather or a scatter. -/
def denseBase (x : Xfer) : Word := if fld x.opt 0 2 = 1 then x.dst else x.src

/-- The check of alignment (R249, status 4). -/
def alignBad (x : Xfer) (l : List Word) : Bool :=
  let b := layBytes l
  (layBase l).toNat % b != 0 || (denseBase x).toNat % b != 0
    || (List.range (layNax l)).any fun a => (layPitch l a) % (b : Nat) != 0

/-- The coordinate of a box place on an axis: `i` is the dense index, axis 0 fastest (R246). -/
def boxCoord (x : Xfer) (i : Nat) : Nat → Int
  | 0 => corner x 0 + (i % extent x 0 : Nat)
  | a + 1 => corner x (a + 1) + (i / ((List.range (a + 1)).foldl (fun p j => p * extent x j) 1) % extent x (a + 1) : Nat)

/-- Elements of a box. -/
def boxCount (x : Xfer) : Nat := (List.range 5).foldl (fun p a => p * extent x a) 1

/-- Is a box place in bounds (R246). -/
def boxIn (x : Xfer) (l : List Word) (i : Nat) : Bool :=
  (List.range (layNax l)).all fun a => 0 ≤ boxCoord x i a && boxCoord x i a < (laySize l a : Nat)

/-- The tensor address of a box place, with wrap where the edge mode says so (R246, R247). -/
def tensorAddr (x : Xfer) (l : List Word) (i : Nat) : Word :=
  let off := (List.range (layNax l)).foldl (fun (acc : Int) a =>
    let c := boxCoord x i a
    acc + (if layEdge l = 2 then c % (laySize l a : Nat) else c) * layPitch l a) 0
  layBase l + BitVec.ofNat 64 (wrapInt 64 off)

/-- The moves of a gather or a scatter, in dense order (R246, R247). -/
def boxMoves (x : Xfer) (l : List Word) : List Move :=
  let b := layBytes l
  (List.range (boxCount x)).filterMap fun i =>
    let dense := denseBase x + BitVec.ofNat 64 (i * b)
    let ok := layEdge l == 2 || boxIn x l i
    if fld x.opt 0 2 = 1 then
      if ok then some ⟨some (tensorAddr x l i), 0, dense⟩
      else if layEdge l = 0 then some ⟨none, (l.getD 6 0).toNat % 2 ^ (8 * b), dense⟩ else none
    else if ok then some ⟨some dense, 0, tensorAddr x l i⟩ else none

/-- The moves of a linear copy, 8 bytes each. -/
def linearMoves (x : Xfer) : List Move :=
  (List.range (fld x.ext 0 32 / 8)).map fun i => ⟨some (x.src + BitVec.ofNat 64 (8 * i)), 0, x.dst + BitVec.ofNat 64 (8 * i)⟩

/-- The aligned word that a move writes. -/
def Move.word (m : Move) : Nat := m.dst.toNat / 8

/-- Moves in dense order, those that follow each other into one aligned word together: they are written with their word (R250). -/
def wordRuns : List Move → List (List Move)
  | [] => []
  | m :: rest =>
    match wordRuns rest with
    | (n :: g) :: more => if n.word = m.word then (m :: n :: g) :: more else [m] :: (n :: g) :: more
    | more => [m] :: more

/-- All moves into each word, the words in the order of their first move. -/
def wordGroups (ms : List Move) : List (List Move) := ((ms.map (·.word)).dedup).map fun w => ms.filter fun m => m.word == w

/-- A list in a free order (log entry 11). -/
def shuffled {α : Type} : List α → State → List α × State
  | [], s => ([], s)
  | a :: rest, s =>
    let (l, s1) := shuffled rest s
    (l.insertIdx (s1.free.1.toNat % (l.length + 1)) a, s1.free.2)

/-- The value that a move of `b` bytes writes. Of a source word that the transfer itself writes, the read is made either before all the writes, in
`old`, or where the move stands: a free choice (R250), made for each move of a source word by itself (log entry 11). -/
def moveRead (x : Xfer) (b : Nat) (written : List Nat) (old : State) (m : Move) (s : State) : Except AccErr Nat × State :=
  match m.src with
  | none => (.ok m.val, s)
  | some a =>
    match pathLoad s 1 (coreDie x.core) x.core x.pid a b with
    | (.error e, s1) => (.error e, s1)
    | (.ok v, s1) =>
      if written.contains (a.toNat / 8) then
        match (unitLoad old (coreDie x.core) x.core x.pid a b).1 with
        | .ok u => (.ok (if bitAt s1.free.1 0 then u else v), s1.free.2)
        | .error _ => (.ok v, s1)
      else (.ok v, s1)

/-- The values of moves, in order, as far as their reads succeed, and the failure that ended them. -/
def movesRead (x : Xfer) (b : Nat) (written : List Nat) (old : State) : List Move → State → List (Nat × Nat) × Option AccErr × State
  | [], s => ([], none, s)
  | m :: rest, s =>
    match moveRead x b written old m s with
    | (.error e, s1) => ([], some e, s1)
    | (.ok v, s1) =>
      let (vs, e, s2) := movesRead x b written old rest s1
      ((m.dst.toNat % 8, v) :: vs, e, s2)

/-- Write values of `b` bytes at their offsets in one aligned word, with what lies between them as it stands, in one access (R250). -/
def wordMerge (x : Xfer) (b base : Nat) (vs : List (Nat × Nat)) (s : State) : Except AccErr Unit × State :=
  match vs with
  | [] => (.ok (), s)
  | (o, _) :: rest =>
    let lo := rest.foldl (fun n e => min n e.1) o
    let n := rest.foldl (fun h e => max h e.1) o + b - lo
    let at0 := BitVec.ofNat 64 (8 * base + lo)
    let whole := (List.range n).all fun i => vs.any fun e => e.1 ≤ lo + i && lo + i < e.1 + b
    let (got, s1) : Except AccErr Nat × State :=
      if whole then (.ok 0, s) else unitLoad s (coreDie x.core) x.core x.pid at0 n
    match got with
    | .error e => (.error e, s1)
    | .ok old =>
      let w := vs.foldl (fun (u : Word) e => setFld u (8 * (e.1 - lo)) (8 * b) e.2) (BitVec.ofNat 64 old)
      pathStore s1 1 (coreDie x.core) x.core x.pid at0 n w.toNat

/-- Carry out groups of moves of `b` bytes, each group into one word (a transfer is one step, and its partial lines leave poison marks: log entry 31): the answer is the status, or none where an access is held. -/
def doMoves (x : Xfer) (b : Nat) (written : List Nat) (old : State) : List (List Move) → State → Option Nat × State
  | [], s => (some 0, s)
  | g :: rest, s =>
    let (vs, e, s1) := movesRead x b written old g s
    match wordMerge x b ((g.map (·.word)).headD 0) vs s1 with
    | (.error e, s2) => (xferStat e, s2)
    | (.ok _, s2) =>
      match e with
      | some e => (xferStat e, s2)
      | none => doMoves x b written old rest s2

/-- Carry out the moves of a transfer: in dense order, or word by word in a free order where a source word is also written (R250). -/
def allMoves (x : Xfer) (b : Nat) (ms : List Move) (s : State) : Option Nat × State :=
  let written := ms.map (·.word)
  if ms.any fun m => match m.src with | some a => written.contains (a.toNat / 8) | none => false then
    let (gs, s1) := shuffled (wordGroups ms) s
    doMoves x b written s gs s1
  else doMoves x b [] s (wordRuns ms) s

/-- The in-bound part of a box on an axis: origin and extent (R247). -/
def boxClip (x : Xfer) (l : List Word) (a : Nat) : Int × Nat :=
  if layNax l ≤ a then (0, 1)
  else
    let lo := max 0 (corner x a)
    let hi := min ((laySize l a : Nat) : Int) (corner x a + (extent x a : Nat))
    (lo, (hi - lo).toNat)

/-- The kind-6 record of a clipped box (R247); with nothing in bounds the origin is a free value (log entry 12). -/
def clipRecord (x : Xfer) (l : List Word) (s : State) : Rec × State :=
  let c := fun a => boxClip x l a
  let none? := (List.range 5).any fun a => (c a).2 == 0
  let (fr, s1) := s.free
  let (fr4, s2) := s1.free
  let (sq, s3) := s2.free
  let at16 := fun a => put (wrapInt 16 (c a).1) (16 * a) 16
  ({ w0 := put 6 0 4 ||| put x.pri 8 2
     w1 := 0
     w2 := put x.batch 8 16 ||| put x.id 0 6
     w3 := if none? then fr else at16 0 ||| at16 1 ||| at16 2 ||| at16 3
     w4 := if none? then put (fld fr4 56 8) 56 8
       else put (wrapInt 8 (c 4).1) 56 8 ||| put (c 4).2 48 8 ||| put (c 3).2 36 12 ||| put (c 2).2 24 12 ||| put (c 1).2 12 12
         ||| put (c 0).2 0 12
     w5 := denseBase x
     w6 := 0
     w7 := put (fld sq 0 32) 0 32 }, s3)

/-- The checks and the payload of a transfer (R246 to R250): its status, its notice, and the state; none where an access is held. -/
def runXfer (x : Xfer) (s : State) : Option (Nat × Option Rec) × State :=
  let k := x.core
  let mode := fld x.opt 0 2
  let bad := fun a => resolve k a == .bad
  if mode = 3 then (some (6, none), s)
  else if xcwBad x then (some (7, none), s)
  else if mode = 0 then
    let len := fld x.ext 0 32
    if len = 0 then (some (6, none), s)
    else if len % 8 ≠ 0 ∨ x.src.toNat % 8 ≠ 0 ∨ x.dst.toNat % 8 ≠ 0 then (some (4, none), s)
    else if bad x.src || bad x.dst then (some (1, none), s)
    else
      match allMoves x 8 (linearMoves x) s with
      | (some st, s1) => (some (st, none), s1)
      | (none, _) => (none, s)
  else if bad x.lay then (some (1, none), s)
  else match (readLayout x s).1.lrec, (readLayout x s).2 with
    | none, _ => (none, s)
    | some (st + 1, _), s1 => (some (st + 1, none), s1)
    | some (0, l), s1 =>
      if layBad l then (some (5, none), s1)
      else if boxBad x l then (some (6, none), s1)
      else if alignBad x l then (some (4, none), s1)
      else if bad (layBase l) || bad (denseBase x) then (some (1, none), s1)
      else
        match allMoves x (layBytes l) (boxMoves x l) s1 with
        | (none, _) => (none, s)
        | (some 0, s2) =>
          if layEdge l = 1 ∧ ((List.range (boxCount x)).all fun i => boxIn x l i) = false then
            let (r, s3) := clipRecord x l s2
            (some (0, some r), s3)
          else (some (0, none), s2)
        | (some st, s2) => (some (st, none), s2)

/-- The completion write of a transfer (R248, R249), and its status after it: none while its home holds it. An error response to it is that of a
failed transfer; a scratchpad word with an error is written whole. Of the checks only status 7 leaves it out: a transfer of MODE 11, whose
completion words R249 does not check, makes it wherever `y.xcw` resolves to a scratchpad (log entry 80). -/
def xferWrite (x : Xfer) (s : State) : Option (Nat × State) :=
  if !(bitAt x.opt 5) || x.stat == 7 then some (x.stat, s)
  else
    let v := if x.stat = 0 then x.cv else allOf true
    match resolve x.core x.cw with
    | .spad c off =>
      match portErr s (coreDie x.core) c off true with
      | some .held => none
      | some _ => some (if x.stat = 0 then 3 else x.stat, s)
      | none =>
        let s1 := spadSet (leaveWord noPath c off s) c off 8 v.toNat
        some (x.stat, spadChanged c off (if bitAt x.opt 6 then spadSetTag s1 c off true else s1))
    | _ => some (x.stat, s)

/-- A finished transfer of a batch: the batch counts down, and finished batches leave in number order (R251); the first error is kept
(R249). -/
def Ctx.xferDone (c : Ctx) (x : Xfer) : Ctx :=
  let c1 := if x.stat ≠ 0 ∧ c.xerr = false then { c with xerr := true, xstatCode := x.stat, xfid := x.id } else c
  if c1.xbatches.any fun b => b.num == x.batch then
    { c1 with xbatches := pruneBatches (c1.xbatches.map fun b => if b.num = x.batch then { b with left := b.left - 1 } else b) }
  else { c1 with xopen := c1.xopen - 1 }

/-- BTE_TRANSFER_COMPLETE (R246 to R252): transfer `i` of a cluster moves its payload, posts its notice, writes its completion word and
ends; it stays where it is while its core refuses the notice or an access is held. -/
def execBteTransferComplete (q i : Nat) (s : State) : Out :=
  match (s.cluster q).xfers[i]? with
  | none => .next s
  | some x0 =>
    let put := fun (x : Xfer) (t : State) => t.modCluster q fun c => { c with xfers := c.xfers.set i x }
    match (if x0.moved then (some (x0.stat, x0.notice), s) else runXfer x0 s) with
    | (none, _) => .next s
    | (some (st, nt), s1) =>
      let x := { x0 with moved := true, stat := st, notice := nt }
      let posted := match nt with
        | none => some s1
        | some r => deliverNotice x.core r s1
      match posted with
      | none => .next (put x s1)
      | some s2 =>
        let x2 := { x with notice := none }
        match xferWrite x2 s2 with
        | none => .next (put x2 s2)
        | some (st2, s3) =>
          let s4 := s3.modCluster q fun c => { c with xfers := dropAt c.xfers i }
          .next (if x.x = nobody then s4 else s4.modBoth x.x fun c => c.xferDone { x with stat := st2 })

/-! ### Barriers (R256 to R261) -/

/-- The trap of a barrier: 0x0D with its code; it has no address (R35). -/
def barTrap (pc : Word) (code : Nat) : TrapInfo := ⟨0x0D, none, pc, some 0, BitVec.ofNat 64 code⟩

/-- Has the phase of a token completed (R260). -/
def phaseOver (b : Barrier) (token : Nat) : Bool :=
  let d := (b.ph + 65536 - token % 65536) % 65536
  1 ≤ d && d < 32768

/-- Barrier `n` of a cluster. -/
def barOf (s : State) (q n : Nat) : Barrier := (s.cluster q).bars.getD n Barrier.reset

/-- Is a cluster one that a thread's arrivals and commands may go to: online and in its launch (R258, R267). -/
def clusterServes (s : State) (x q : Nat) : Bool :=
  (List.range 8).any fun n => coreOnline s (clusterCore q n) && (s.core (clusterCore q n)).lid == threadLaunch s x

/-- The cluster that a word names as a global scratchpad address of one of its cores; none for an offline target (R258, R267). -/
def clusterNamed (w : Word) : Option Nat := if bitAt w 53 then (coreNamed w).map clusterOf else none

/-- BARI (R257). -/
def execBari (h : Hdr) (f : Fields) (s : State) : Out :=
  issue (.bari h f) false false (fun x c t =>
    let n := (srcZ c [] f.b).toNat
    if 4095 < n then .done (postTrap x (barTrap c.pc 3) t)
    else .done (t.modCluster (clusterOf (coreOf x)) fun q =>
      { q with barMsgs := q.barMsgs ++ [⟨f.a.num, x, coreOf x, false, false, some (n, f.xBits 33 3), none, c.pc⟩] })) s

/-- An arrival toward a die in reset gets an error response: its token fails, or the trap is posted (R438). -/
def barRefused (x : Nat) (lr : Option Nat) (pc : Word) (s : State) : State :=
  let t : TrapInfo := ⟨0x0C, none, pc, some 0, 5⟩
  match lr with
  | some id => fillLong x id (.fail t) s
  | none => postTrap x t s

/-- An arrival at a barrier (R258): the release where it is one, then the message; its token is a long result. -/
def arriveEff (x : Nat) (i : Instr) (f : Fields) (drop : Bool) (s : State) : Eff :=
  let c := s.ctx x
  let own := clusterOf (coreOf x)
  let rel := f.sub == 0
  match (if rel then marker x i true s else none) with
  | some s1 => .leave s1
  | none =>
    let s1 := if rel then releaseVia s (coreOf x) c.pid (f.xBits 33 3) none else s
    match (if f.b.isNone then some own else clusterNamed (srcS c [] f.b)) with
    | none => .done (postTrap x (barTrap c.pc 2) s1)
    | some q =>
      let fenced := fencedFrom s1 (coreDie (coreOf x)) (q / 96)
      if fenced = false ∧ q ≠ own ∧ clusterServes s1 x q = false then .done (postTrap x (barTrap c.pc 2) s1)
      else
        let (lr, s2) : Option Nat × State := if f.d.isNone then (none, s1) else
          let (id, u) := startLong x (c.longDst f.d) none s1
          (some id, u)
        if fenced then .done (barRefused x lr c.pc s2)
        else .done (s2.modCluster q fun cl =>
          { cl with barMsgs := cl.barMsgs ++ [⟨f.a.num, x, coreOf x, q != own, drop, none, lr, c.pc⟩] })

/-- BARA (R258). -/
def execBara (h : Hdr) (f : Fields) (s : State) : Out :=
  issue (.bara h f) false false (fun x _ t => arriveEff x (.bara h f) f false t) s

/-- BARD (R258). -/
def execBard (h : Hdr) (f : Fields) (s : State) : Out :=
  issue (.bard h f) false false (fun x _ t => arriveEff x (.bard h f) f true t) s

/-- BARW (R260): wait for the phase of a token; then the acquire at the barrier's scope. -/
def execBarw (h : Hdr) (f : Fields) (s : State) : Out :=
  issue (.barw h f) false false (fun x c t =>
    let k := coreOf x
    let b := barOf t (clusterOf (packetCore t x)) f.a.num
    let ns := (c.w (f.b.num + 1)).toNat
    let fin := fun (u : State) => Eff.done ((acquireLines u k c.pid b.bs none).modCtx x fun d => d.writeD f.d (allOf true))
    match c.wait? with
    | some w =>
      match w.reply with
      | some (.fail tr) => .done (postTrap x tr t)
      | some (.ok _) => fin t
      | none => if w.timedOut then .done (t.modCtx x fun d => d.writeD f.d 0) else .leave t
    | none =>
      let token := fld (c.w f.b.num) 0 16
      if phaseOver b token then fin t
      else if b.cnt = 0 then .done (postTrap x (barTrap c.pc 1) t)
      else .leave (waitKeyed x (.barw h f) .barw (if ns = 0 then none else some (t.pkg.time + ns)) token t)) s

/-- Does a context wait, unanswered, in a BARW of barrier `n`. -/
def Ctx.waitsAt (c : Ctx) (n : Nat) : Bool :=
  match c.run with
  | .waiting w => w.kind == .barw && w.instr.fields.a.num == n && w.reply.isNone && !w.timedOut
  | _ => false

/-- Answer the contexts of a cluster that wait at barrier `n`: those whose phase has completed, or all of them with a failure. -/
def wakeBarrier (q n : Nat) (fail : Option Nat) (s : State) : State :=
  ((List.range 8).flatMap fun m => coreCtxs (clusterCore q m)).foldl (fun t x =>
    if (s.ctx x).waitsAt n = false then t
    else t.modBoth x fun c =>
      match c.run with
      | .waiting w =>
        if c.waitsAt n then
          match fail with
          | some code => { c with run := .waiting { w with reply := some (.fail (barTrap c.pc code)) } }
          | none => if phaseOver (barOf t q n) w.key then { c with run := .waiting { w with reply := some (.ok 0) } } else c
        else c
      | _ => c) s

/-- Apply one arrival (R259); a remote one finds a cluster whose cores have all gone offline (R262). -/
def barArrive (q : Nat) (m : BarMsg) (s : State) : State :=
  let b := barOf s q m.bar
  let fail := fun (code : Nat) => match m.lr with
    | some id => fillLong m.x id (.fail (barTrap m.pc code)) s
    | none => postTrap m.x (barTrap m.pc code) s
  if m.remote && clusterDark s q then fail 2
  else if b.cnt = 0 then fail 1
  else
    let s1 := match m.lr with
      | some id => fillLong m.x id (.ok b.ph) s
      | none => s
    let drp := b.drp + (if m.drop then 1 else 0)
    let b1 := if b.arr + 1 = b.cnt then { b with ph := (b.ph + 1) % 65536, cnt := b.cnt - drp, arr := 0, drp := 0 }
      else { b with arr := b.arr + 1, drp := drp }
    wakeBarrier q m.bar none (s1.modCluster q fun c => { c with bars := c.bars.put m.bar b1 })

/-- Apply a BARI (R257). -/
def barInit (q : Nat) (m : BarMsg) (s : State) : State :=
  match m.init with
  | none => s
  | some (n, sc) => s.modCluster q fun c =>
    { c with bars := c.bars.put m.bar { c.bars.getD m.bar Barrier.reset with cnt := n, arr := 0, drp := 0, bs := sc } }

/-- Does arrival `a` come before `b` in one update (R259). -/
def BarMsg.before (a b : BarMsg) : Bool :=
  if a.drop != b.drop then a.drop
  else if a.remote != b.remote then !a.remote
  else a.core < b.core

/-- Insert an arrival in its place of the order. -/
def insertMsg (m : BarMsg) : List BarMsg → List BarMsg
  | [] => [m]
  | a :: rest => if m.before a then m :: a :: rest else a :: insertMsg m rest

/-- The first `n` messages of a barrier, of different cores: those of one mesh cycle. -/
def cycleMsgs (bar : Nat) : Nat → List Nat → List BarMsg → List BarMsg
  | 0, _, _ => []
  | _, _, [] => []
  | n + 1, seen, m :: rest =>
    if m.bar ≠ bar then cycleMsgs bar (n + 1) seen rest
    else if seen.contains m.core then []
    else m :: cycleMsgs bar n (m.core :: seen) rest

/-- BARRIER_UPDATE (R257, R259): the first `n` messages that have reached barrier `b` are applied as those of one mesh cycle: the arrivals in
their order, then a BARI. -/
def execBarrierUpdate (q b n : Nat) (s : State) : Out :=
  let ms := cycleMsgs b n [] (s.cluster q).barMsgs
  let s1 := s.modCluster q fun c => { c with barMsgs := ms.foldl (fun l m => l.erase m) c.barMsgs }
  let arr := (ms.filter fun m => m.init.isNone).foldl (fun l m => insertMsg m l) []
  let s2 := arr.foldl (fun t m => barArrive q m t) s1
  .next ((ms.filter fun m => m.init.isSome).foldl (fun t m => barInit q m t) s2)

/-- A wait of a kind reaches its timeout: its deadline has come and nothing has answered it. -/
def timeOut (x : Nat) (kind : WaitKind) (s : State) : State :=
  s.modCtx x fun c =>
    match c.run with
    | .waiting w =>
      match w.deadline with
      | some t => if w.kind = kind ∧ w.reply = none ∧ t ≤ s.pkg.time then { c with run := .waiting { w with timedOut := true } } else c
      | none => c
    | _ => c

/-- BARW_TIMEOUT (R260). -/
def execBarwTimeout (x : Nat) (s : State) : Out := .next (timeOut x .barw s)

end Sys2Proof.Machine
end

