-- ==== Sys2Proof/Machine/Engine.lean ====
section
/-! DEFINITION. What the queued engines share: sending a command, its refusals, the completion reply, and waiting for completions
(R267 to R270, R291, R296, R297, R308, R331). -/

namespace Sys2Proof.Machine

/-- The command status of a context for an engine: `y.mstat`, `y.spstat`, `y.rqstat`. -/
def Ctx.eng (c : Ctx) (u : UnitKind) : EngStat :=
  match u with
  | .mxe => c.mstat
  | .spe => c.spstat
  | .rqu => c.rqstat

/-- Replace the command status of a context for an engine. -/
def Ctx.setEng (c : Ctx) (u : UnitKind) (e : EngStat) : Ctx :=
  match u with
  | .mxe => { c with mstat := e }
  | .spe => { c with spstat := e }
  | .rqu => { c with rqstat := e }

/-- The limit of unfinished commands of one context (R269, R297, R331). -/
def unitLimit (u : UnitKind) : Nat :=
  match u with
  | .mxe => 32
  | _ => 16

/-- The number that a wait at the limit keeps of its engine. -/
def unitNo (u : UnitKind) : Nat :=
  match u with
  | .mxe => 0
  | .spe => 1
  | .rqu => 2

/-- The engine of a number. -/
def unitOf (n : Nat) : UnitKind :=
  match n with
  | 0 => .mxe
  | 1 => .spe
  | _ => .rqu

/-- A command with everything that its issue reads (R267, R296, R329). -/
def buildCmd (x : Nat) (i : Instr) (f : Fields) (lr : Option Nat) (vec : List VReg) (mask : Word) (s : State) : EngCmd :=
  let c := s.ctx x
  { opc := i.opcode.getD 0
    x := x
    core := coreOf x
    pc := c.pc
    f := f
    wd := c.w f.d.num
    wa := srcZ c [] f.a
    wa1 := c.w (f.a.num + 1)
    wb := srcZ c [] f.b
    wb1 := c.w (f.b.num + 1)
    vec := vec
    mask := mask
    lr := lr
    cap := (s.core (coreOf x)).mcap
    pri := c.pri
    ectx := c.ectx
    pid := c.pid }

/-- Do two messages come from one context and go to one engine. -/
def CmdMsg.follows (a b : CmdMsg) : Bool := a.unit == b.unit && a.target == b.target && a.cmd.x == b.cmd.x

/-- The queue of an SPE or an RQU takes a command; none where it is full (R296, R326). -/
def takeCmd (u : UnitKind) (q : Nat) (cmd : EngCmd) (s : State) : Option State :=
  let c := s.cluster q
  match u with
  | .spe => if c.spe.queue.length < 16 then some (s.modCluster q fun c => { c with spe := { c.spe with queue := c.spe.queue ++ [cmd] } }) else none
  | .rqu => if c.rqu.queue.length < 16 then some (s.modCluster q fun c => { c with rqu := { c.rqu with queue := c.rqu.queue ++ [cmd] } }) else none
  | .mxe => none

/-- A command leaves its context: a matrix command travels; an SPE's or RQU's reaches its queue, or its mesh stop keeps it (R268, R296). -/
def deliverCmd (m : CmdMsg) (s : State) : State :=
  match m.unit, m.target with
  | .mxe, _ => { s with cmds := s.cmds ++ [m] }
  | u, some q =>
    match (if s.cmds.any fun e => e.follows m then none else takeCmd u q m.cmd s) with
    | some t => t
    | none => { s with cmds := s.cmds ++ [{ m with refused := true }] }
  | _, none => s

/-- Send a command of context `x`: at the limit the context waits, else the command counts as unfinished and leaves (R269, R297, R331). -/
def engSend (x : Nat) (i : Instr) (f : Fields) (u : UnitKind) (target : Option Nat) (dst : Option LongDst) (vec : List VReg) (mask : Word)
    (s : State) : Eff :=
  let e := (s.ctx x).eng u
  if unitLimit u ≤ e.unf then .leave (waitKeyed x i .engine none (unitNo u) s)
  else
    let cmd := buildCmd x i f none vec mask s
    let (lr, s1) : Option Nat × State := match dst with
      | some d =>
        let (id, t) := startLong x d none s
        (some id, t)
      | none => (none, s)
    let s2 := s1.modCtx x fun c => c.setEng u { e with unf := e.unf + 1 }
    .done (deliverCmd ⟨u, target, { cmd with lr := lr }, false⟩ s2)

/-- A long result that is never written: the register keeps its value (R267, R303). -/
def dropLong (x id : Nat) (s : State) : State :=
  (replyTo x s).foldl (fun t y => t.modCtx y fun c => { c with outstanding := c.outstanding.filter fun r => r.id != id }) s

/-- A command of a context is finished: UNF falls, the first failure is recorded, and a context that waited for its completions may be bound
again (R269, R297, R331). A thread that has ended hears nothing of it. -/
def Ctx.engDone (c : Ctx) (u : UnitKind) (q opc stat : Nat) : Ctx :=
  let e := c.eng u
  let e1 := { e with unf := e.unf - 1 }
  let e2 := if stat ≠ 0 ∧ e.err = false ∧ c.occupied then
      { e1 with err := true, stat := stat, fopc := opc, fdie := if u = .mxe then q / 96 else 0, fcln := if u = .mxe then q % 96 else 0 }
    else e1
  let c1 := c.setEng u e2
  { c1 with closing := c1.closing && c1.mstat.unf + c1.spstat.unf + c1.rqstat.unf != 0 }

/-- A refused matrix command (R267): a response trap, no register written, and it counts as finished. -/
def refuseCmd (m : CmdMsg) (cause : Nat) (info : Word) (s : State) : State :=
  let x := m.cmd.x
  let s1 := match m.cmd.lr with
    | some id => dropLong x id s
    | none => s
  let s2 := (replyTo x s1).foldl (fun t y => t.modCtx y fun c => c.engDone m.unit 0 0 0) s1
  if (s2.ctx x).occupied then postTrap x ⟨cause, none, m.cmd.pc, some 0, info⟩ s2 else s2

/-- An engine ends a command: the completion reply goes to its context (R268, R296). -/
def engReply (u : UnitKind) (q : Nat) (cmd : EngCmd) (stat : Nat) (lval : Option Nat) (notice : Option Rec) (s : State) : State :=
  { s with replies := s.replies ++ [⟨u, cmd.x, cmd.core, q, cmd.opc, stat, cmd.lr, lval, notice⟩] }

/-- Reply number `i` reaches its context, unless an earlier one of its engine is still on the way, or the core's mesh stop holds it
(R268, R286, R297, R313). -/
def replyArrives (u : UnitKind) (i : Nat) (s : State) : State :=
  match s.replies[i]? with
  | none => s
  | some r =>
    let k := r.core
    if r.unit ≠ u ∨ ((s.replies.take i).any fun e => e.unit == r.unit && e.q == r.q && e.x == r.x) ∨ (s.core k).droopAt.isSome then s
    else
      let s0 := { s with replies := dropAt s.replies i }
      if (s.core k).killed then s0
      else
        let s1 := (replyTo r.x s0).foldl (fun t y => t.modCtx y fun c => c.engDone u r.q r.opc r.stat) s0
        let s2 := match r.lr, r.lval with
          | some id, some v => fillLong r.x id (.ok v) s1
          | some id, none => dropLong r.x id s1
          | none, _ => s1
        match r.notice with
        | some n => postNotice k n s2
        | none => s2

/-- The kind-9 record of an SPE or RQU command with NTF (R308, R330): `sub` is EN for the SPE. -/
def engNotice (unit sub : Nat) (cmd : EngCmd) (stat : Nat) (s : State) : Rec × State :=
  let (sq, s1) := s.free
  ({ w0 := put 9 0 4 ||| put cmd.pri 8 2
     w1 := 0
     w2 := put unit 0 8 ||| put cmd.opc 8 8 ||| put stat 16 8 ||| put sub 24 8
     w3 := put (ctxNo cmd.x) 0 3
     w4 := 0
     w5 := 0
     w6 := 0
     w7 := put (fld sq 0 32) 0 32 }, s1)

/-- EN and NTF of a command of the SPE or the RQU (R299, R329). -/
def EngCmd.en (e : EngCmd) : Nat := e.f.subBits 0 4
def EngCmd.ntf (e : EngCmd) : Bool := e.f.subBit 5

/-- A command of the SPE or the RQU ends, with its reply and, where NTF asks for one, its kind-9 record (R308, R330). -/
def endCmd (u : UnitKind) (q : Nat) (e : EngCmd) (stat : Nat) (lval : Option Nat) (s : State) : State :=
  if e.ntf && (e.opc == 0xB3 || e.opc == 0xB4) then
    let (r, s1) := engNotice 1 e.en e stat s
    engReply u q e stat lval (some r) s1
  else if e.ntf && (e.opc == 0xBD || e.opc == 0xBE) then
    let (r, s1) := engNotice 2 0 e stat s
    engReply u q e stat lval (some r) s1
  else engReply u q e stat lval none s

/-- MWAIT, SPWAIT and RQWAIT (R291, R308, R331): wait until UNF is at most the bound; then the predicate, and with TRAP the trap. -/
def engWait (x : Nat) (i : Instr) (f : Fields) (u : UnitKind) (kind : WaitKind) (s : State) : Eff :=
  let c := s.ctx x
  let n := match c.wait? with
    | some w => w.key
    | none => (srcZ c [] f.a).toNat
  let e := c.eng u
  if n < e.unf then .leave (waitKeyed x i kind none n s)
  else
    let s1 := s.modCtx x fun d => d.writeD f.d (allOf (!e.err))
    if f.xBits 30 1 = 1 ∧ e.err then
      .after ⟨0x0D, none, c.pc, none, flag true 63 ||| put e.fopc 8 8 ||| put e.stat 0 8⟩ s1
    else .done s1

/-- An uncorrected error record of an engine (R358 to R360): its source is the cluster, by the coordinate of its core 0. -/
def engError (q unit : Nat) (s : State) : State :=
  postErrorOpen (q / 96) 14 ⟨3, 0x08, false, false, false, false, 0, 0, errSource s (clusterCore q 0) unit none, 0⟩ s

/-- A mesh stop sends a command again that a full queue refused (R268, R296): the SPE's and the RQU's. -/
def retryCmd (i : Nat) (s : State) : State :=
  match s.cmds[i]? with
  | none => s
  | some m =>
    if m.refused = false ∨ ((s.cmds.take i).any fun e => e.follows m) then s
    else match m.unit, m.target with
      | .mxe, _ => { s with cmds := s.cmds.set i { m with refused := false } }
      | u, some q =>
        match takeCmd u q m.cmd { s with cmds := dropAt s.cmds i } with
        | some t => t
        | none => s
      | _, none => s

/-! ### Commands in an image (R288, R314) -/

/-- `n` free words. -/
def freeWords : Nat → State → List Word × State
  | 0, s => ([], s)
  | n + 1, s =>
    let (w, s1) := s.free
    let (ws, s2) := freeWords n s1
    (w :: ws, s2)

/-- The 64 bytes of each command, one after the other: free words, which the device knows again (log entry 14). -/
def imageCmds : List EngCmd → State → List Word × State
  | [], s => ([], s)
  | e :: rest, s =>
    let (ws, s1) := freeWords 8 s
    let (more, s2) := imageCmds rest (s1.modPkg fun p => { p with engImages := ⟨ws, e⟩ :: p.engImages })
    (ws ++ more, s2)

/-- The command that 64 bytes of an image stand for. -/
def imageCmd (s : State) (ws : List Word) : Option EngCmd := (s.pkg.engImages.find? fun e => e.bytes == ws).map fun e => e.cmd

/-- The commands that the entries of a queue in an image stand for, oldest first. -/
def imageQueue (s : State) (depth : Nat) (ws : List Word) : List EngCmd :=
  (List.range depth).filterMap fun i => imageCmd s ((ws.drop (8 * i)).take 8)

/-- MESH_RETRY (R268, R296): refused command `i` is sent again. -/
def execMeshRetry (i : Nat) (s : State) : Out := .next (retryCmd i s)

end Sys2Proof.Machine
end

