-- ==== Sys2Proof/Machine/MemInstr.lean ====
section
/-! DEFINITION. The memory instructions of a thread, 0x40 to 0x5A: loads, stores, tagged words, WAITA, sync objects, fences, atomics,
prefetch, cache flushes and NSEND (R164 to R191). -/

namespace Sys2Proof.Machine

/-! ### Shared operations -/

/-- The cache policy of an access: normal accesses of a dual-dispatched copy are bypass (R365). -/
def policyOf (c : Ctx) (f : Fields) : Nat := if f.x.cp = 0 then c.normal else f.x.cp

/-- An access of `n` bytes (R36, R157, R158, R162, R167, R180): its checks, the thread's earlier requests to the word, its pending acquires,
and with `mig` the automatic migration of R30; then the effect for its space. -/
def access (x : Nat) (i : Instr) (a : Word) (n : Nat) (mig : Bool) (s : State) (spad : Nat → Nat → State → Eff) (dev : Nat → State → Eff) :
    Eff :=
  match accessSpace s x (s.ctx x).pc a n with
  | .error e => .trap e s
  | .ok sp =>
    let s1 := flushOwn x a s
    if acquirePending s1 x then .leave (holdHere x i s1)
    else match sp with
      | .spad k off =>
        match (if mig && k != coreOf x then autoMigrate x i k s1 else none) with
        | some s2 => .leave s2
        | none => spad k off s1
      | .dev va => dev va s1
      | .bad => .trap (malformedTrap (s.ctx x).pc a) s1

/-- Send a request whose reply is a long result of D. -/
def longReq (x : Nat) (dst : LongDst) (r : Req) (s : State) : State :=
  let (id, s1) := startLong x dst none s
  launchReq { r with lr := some id } s1

/-- A store whose translation failed is kept until the thread's next marker, REL or FENCE (R35). -/
def deferStore (x : Nat) (pc a info : Word) (n v cp : Nat) (atom : Option (AtomKind × Nat)) (group elem : Nat) (s : State) :
    State :=
  s.modCtx x fun c => { c with deferred := c.deferred ++ [⟨pc, a, info, n, v, cp, atom, false, group, elem⟩] }

/-- A store of `n` bytes to device memory by a thread (R165, R169, R345). -/
def devStoreFor (x : Nat) (cp : Nat) (a : Word) (n v group : Nat) (s : State) : State :=
  let c := s.ctx x
  match devStore (inOrder (coreOf x) c.pid cp a.toNat .write s) (coreOf x) (some x) c.pid cp a.toNat n v with
  | (.ok _, s1) => s1
  | (.error (.xlate e), s1) => deferStore x c.pc a (BitVec.ofNat 64 e) n v cp none group 0 s1
  | (.error e, s1) => postTrap x (e.trap c.pc a) s1

/-- The trap of a tagged access to device memory (R169). -/
def tagTrap (pc a : Word) : TrapInfo := misalignedTrap pc a 2

/-- Does a request write inside the ranges, or to a neighbour (R181, R190). -/
def Req.writesIn (r : Req) (k : Nat) (rs : List (Nat × Nat)) : Bool :=
  match r.op with
  | .link _ _ => true
  | op => op.changes && rs.any fun e => e.1 < (globalOf k r.va).toNat + r.size && (globalOf k r.va).toNat < e.1 + e.2

/-- The steps of Release(obj, S) before its write (R181): the thread's writes to the bound regions are performed and the dirty lines written
back; none while a write is held at its home. -/
def releaseSteps (x sc obj : Nat) (s : State) : Option State :=
  let k := coreOf x
  let pid := (s.ctx x).pid
  let rs := boundRanges s (coreDie k) pid obj
  let s1 := flushReqs (fun r => r.x == x && r.writesIn k rs) s
  if s1.reqs.any (fun r => r.x == x && r.writesIn k rs) then none else some (releaseVia s1 k pid sc (some rs))

/-- A tagged access that waits for its reply (R171): LDF, LDFF, STE, STF. -/
def taggedEff (x : Nat) (i : Instr) (f : Fields) (op : ReqOp) (kind : WaitKind) (release : Bool) (acq val : Nat) (s : State)
    (fin : Nat → State → State) : Eff :=
  let c := s.ctx x
  let a := c.ea f
  let go := fun (home : Home) (u : State) =>
    waitReply x i kind none (mkReq x c op home 8 7 val a) u fun v w => match v with
      | .ok n => .done (fin n (acquireObj w (coreOf x) c.pid acq (globalOf (coreOf x) a).toNat))
      | .fail tr => .done (postTrap x tr w)
  if c.wait?.isSome then go (.dev 0) s
  else access x i a 8 true s
    (fun k off t =>
      if release then
        match releaseSteps x f.x.sc (globalOf (coreOf x) a).toNat t with
        | some t1 => go (.spad k off) t1
        | none => .leave (holdHere x i t)
      else go (.spad k off) t)
    (fun _ t => .trap (tagTrap c.pc a) t)

/-- An atomic (R183 to R186): `v` the operand, `cmp` the value that ACAS compares with. -/
def atomicEff (x : Nat) (i : Instr) (f : Fields) (op : AtomKind) (v cmp : Word) (s : State) : Eff :=
  let c := s.ctx x
  let a := c.ea f
  let n := tyBytes f.ty
  let nr := f.subBit 5
  let r : Req := { mkReq x c (.atom op) (.dev 0) n f.ty v.toNat a with
    cmp := cmp.toNat, acq := (if f.subBit 4 then f.x.sc else 0), ord := f.x.ord }
  let send := fun (home : Home) (u : State) =>
    if nr then launchReq { r with home := home } u else longReq x (c.longDst f.d) { r with home := home } u
  let released := fun (u : State) => if f.subBit 3 then releaseSteps x f.x.sc (globalOf (coreOf x) a).toNat u else some u
  access x i a n true s
    (fun k off t => match released t with
      | some t1 => .done (send (.spad k off) t1)
      | none => .leave (holdHere x i t))
    (fun va t => match released t with
      | some t1 =>
        match devHome t1 (coreOf x) c.pid va .write with
        | (.ok home, t2) => .done (send home (noteWrote (some x) (lineOf va) t2))
        | (.error e, t2) =>
          if nr then .done (deferStore x c.pc a (BitVec.ofNat 64 e) n v.toNat 0 (some (op, f.ty)) t2.nextId 0 t2.fresh.2)
          else .done (startLong x (c.longDst f.d) (some (.fail ⟨0x05, none, c.pc, some a, BitVec.ofNat 64 e⟩)) t2).2
      | none => .leave (holdHere x i t))

/-! ### Loads and stores (R170) -/

/-- LD: a long result, extended by TY. -/
def execLd (h : Hdr) (f : Fields) (s : State) : Out :=
  issue (.ld h f) false false (fun x c t =>
    let a := c.ea f
    let n := tyBytes f.ty
    access x (.ld h f) a n true t
      (fun k off u => .done (longReq x (c.longDst f.d) (mkReq x c .load (.spad k off) n f.ty 0 a) u))
      (fun va u => match devLoad (inOrder (coreOf x) c.pid (policyOf c f) va .read u) (coreOf x) c.pid (policyOf c f) va n with
        | (.ok v, u1) => .done (startLong x (c.longDst f.d) (some (.ok (extendTy f.ty v).toNat)) u1).2
        | (.error e, u1) => .done (startLong x (c.longDst f.d) (some (.fail (e.trap c.pc a))) u1).2)) s

/-- ST: the low bytes of the source; tags stay. -/
def execSt (h : Hdr) (f : Fields) (s : State) : Out :=
  issue (.st h f) false false (fun x c t =>
    let a := c.ea f
    let n := tyBytes f.ty
    let v := (c.dVal f.d).toNat % 2 ^ (8 * n)
    access x (.st h f) a n true t
      (fun k off u => .done (launchReq (mkReq x c .store (.spad k off) n f.ty v a) u))
      (fun _ u => .done (devStoreFor x (policyOf c f) a n v u.nextId u.fresh.2))) s

/-! ### Tagged words (R171) -/

/-- LDF: wait for full, read, empty, acquire. -/
def execLdf (h : Hdr) (f : Fields) (s : State) : Out :=
  issue (.ldf h f) false false (fun x _ t =>
    taggedEff x (.ldf h f) f .ldf .tagged false f.x.sc 0 t fun n w => w.modCtx x fun d => d.writeD f.d (BitVec.ofNat 64 n)) s

/-- LDFF: wait for full, read, leave full, acquire. -/
def execLdff (h : Hdr) (f : Fields) (s : State) : Out :=
  issue (.ldff h f) false false (fun x _ t =>
    taggedEff x (.ldff h f) f .ldff .tagged false f.x.sc 0 t fun n w => w.modCtx x fun d => d.writeD f.d (BitVec.ofNat 64 n)) s

/-- STE: release, wait for empty, write, set full. -/
def execSte (h : Hdr) (f : Fields) (s : State) : Out :=
  issue (.ste h f) false false (fun x c t =>
    taggedEff x (.ste h f) f .ste .tagged true 0 (c.dVal f.d).toNat t fun _ w => w) s

/-- STF: release, write, set full. -/
def execStf (h : Hdr) (f : Fields) (s : State) : Out :=
  issue (.stf h f) false false (fun x c t =>
    taggedEff x (.stf h f) f .stf .reply true 0 (c.dVal f.d).toNat t fun _ w => w) s

/-- TAGR: read the tag, as a long result. -/
def execTagr (h : Hdr) (f : Fields) (s : State) : Out :=
  issue (.tagr h f) false false (fun x c t =>
    let a := c.ea f
    access x (.tagr h f) a 8 true t
      (fun k off u => .done (longReq x (c.longDst f.d) (mkReq x c .tagr (.spad k off) 8 7 0 a) u))
      (fun _ u => .trap (tagTrap c.pc a) u)) s

/-- TAGW: write the tag; the word is unchanged. -/
def execTagw (h : Hdr) (f : Fields) (s : State) : Out :=
  issue (.tagw h f) false false (fun x c t =>
    let a := c.ea f
    access x (.tagw h f) a 8 true t
      (fun k off u => .done (launchReq (mkReq x c .tagw (.spad k off) 8 7 (c.dVal f.d).toNat a) u))
      (fun _ u => .trap (tagTrap c.pc a) u)) s

/-! ### WAITA (R174) -/

/-- WAITA: wait at the home for a word to satisfy a condition, or for the timeout. -/
def execWaita (h : Hdr) (f : Fields) (s : State) : Out :=
  issue (.waita h f) false false (fun x c t =>
    let a := c.ea f
    let n := tyBytes f.ty
    let ns := (c.w (f.d.num + 1)).toNat
    let go := fun (home : Home) (u : State) =>
      let r := mkReq x c (.waita (f.subBits 5 2)) home n f.ty (c.dVal f.d).toNat a
      waitReply x (.waita h f) .waita (if ns = 0 then none else some (t.pkg.time + ns)) r u fun v w =>
        let late := match (w.ctx x).wait? with
          | some q => q.timedOut
          | none => false
        match v with
        | .fail tr => .done (postTrap x tr w)
        | .ok m =>
          let w0 := if late then w else acquireObj w (coreOf x) c.pid f.x.sc (globalOf (coreOf x) a).toNat
          let w1 := w0.modCtx x fun d => (d.writeD f.d (extendTy f.ty m)).setPred (f.subBits 7 3) (allOf (!late))
          if late && f.subBit 4 then .after ⟨0x12, none, c.pc, none, 0⟩ w1 else .done w1
    if c.wait?.isSome then go (.dev 0) t
    else access x (.waita h f) a n false t
      (fun k off u => go (.spad k off) u)
      (fun va u => match devHome u (coreOf x) c.pid va .read with
        | (.ok home, u1) => go home u1
        | (.error e, u1) => .done (postTrap x ⟨0x05, none, c.pc, some a, BitVec.ofNat 64 e⟩ u1))) s

/-! ### Sync objects (R177 to R182) -/

/-- ACQ (R180): read the object at the point of coherence of the scope, then acquire. -/
def execAcq (h : Hdr) (f : Fields) (s : State) : Out :=
  issue (.acq h f) false false (fun x c t =>
    let k := coreOf x
    let a := c.ea f
    access x (.acq h f) a 8 false t
      (fun m off u =>
        let r := { mkReq x c .load (.spad m off) 8 7 0 a with acq := f.x.sc }
        .done (if f.d.isNone then launchReq r u else longReq x (c.longDst f.d) r u))
      (fun va u =>
        let cp := scopePolicy (u.cluster (clusterOf k)).fused f.x.sc
        match devLoad (inOrder k c.pid cp va .read u) k c.pid cp va 8 with
        | (.ok v, u1) =>
          let u2 := acquireObj u1 k c.pid f.x.sc a.toNat
          .done (if f.d.isNone then u2 else (startLong x (c.longDst f.d) (some (.ok v)) u2).2)
        | (.error e, u1) =>
          .done (if f.d.isNone then postTrap x (e.trap c.pc a) u1
            else (startLong x (c.longDst f.d) (some (.fail (e.trap c.pc a))) u1).2))) s

/-- REL (R25, R181): the marker, the release steps, then the write at the point of coherence of the scope. -/
def execRel (h : Hdr) (f : Fields) (s : State) : Out :=
  issue (.rel h f) false false (fun x c t =>
    let k := coreOf x
    let a := c.ea f
    let v := (c.dVal f.d).toNat
    match accessSpace t x c.pc a 8 with
    | .error e => .trap e t
    | .ok _ => match marker x (.rel h f) false t with
      | some t1 => .leave t1
      | none => access x (.rel h f) a 8 false t
          (fun m off u => match releaseSteps x f.x.sc (globalOf k a).toNat u with
            | some u1 => .done (launchReq (mkReq x c .store (.spad m off) 8 7 v a) u1)
            | none => .leave (holdHere x (.rel h f) u))
          (fun va u => match releaseSteps x f.x.sc va u with
            | some u1 => .done (devStoreFor x (scopePolicy (u1.cluster (clusterOf k)).fused f.x.sc) a 8 v u1.nextId u1.fresh.2)
            | none => .leave (holdHere x (.rel h f) u))) s

/-- FENCE (R25, R182): release, acquire or both over every address. -/
def execFence (h : Hdr) (f : Fields) (s : State) : Out :=
  issue (.fence h f) false false (fun x c t =>
    let k := coreOf x
    let sc := f.x.sc
    match marker x (.fence h f) (f.subBit 3) t with
    | some t1 => .leave t1
    | none =>
      let t1 := flushReqs (fun r => r.x == x && r.acq != 0) t
      if f.subBit 4 && acquirePending t1 x then .leave (holdHere x (.fence h f) t1)
      else
        let t2 := if f.subBit 3 then releaseVia t1 k c.pid sc none else t1
        .done (if f.subBit 4 then acquireLines t2 k c.pid sc none else t2)) s

/-! ### Bindings (R178, R351) -/

/-- Write an entry of a region table at its home slices: valid with an object, a start and a length, or all zero. -/
def putRegion (s : State) (table idx : Nat) (e : Option (Nat × Nat × Nat)) : State :=
  let a := table + 32 * idx
  match e with
  | some (obj, start, len) => homeWrite (homeWrite (homeWrite (homeWrite s (a + 8) 8 start) (a + 16) 8 len) (a + 24) 8 0) a 8 (2 ^ 63 + obj)
  | none => homeWrite (homeWrite (homeWrite (homeWrite s (a + 8) 8 0) (a + 16) 8 0) (a + 24) 8 0) a 8 0

/-- Does a range wrap, or leave its space (R178). -/
def rangeBad (start : Word) (len : Nat) : Bool :=
  len == 0 || decide (2 ^ 64 < start.toNat + len)
    || (if bitAt start 53 then decide (2 ^ 54 < start.toNat + len) else decide (2 ^ 53 < start.toNat + len))

/-- BIND (R178): a status in W[D + 1] as a long result. -/
def execBind (h : Hdr) (f : Fields) (s : State) : Out :=
  issue (.bind h f) false false (fun x c t =>
    let k := coreOf x
    let a := c.ea f
    let o := c.dVal f.d
    let len := (c.w (f.d.num + 1)).toNat
    match resolve k a, resolve k o with
    | .bad, _ => .trap (malformedTrap c.pc a) t
    | _, .bad => .trap (malformedTrap c.pc o) t
    | _, _ =>
      if o.toNat % 8 ≠ 0 then .trap (misalignedTrap c.pc o 0) t
      else
        let start := globalOf k a
        let obj := (globalOf k o).toNat
        let answer := fun (v : LongVal) (u : State) => Eff.done (startLong x (.w (c.entry (f.d.num + 1))) (some v) u).2
        if rangeBad start len then answer (.ok 3) t
        else match readDesc t (coreDie k) c.pid with
          | (.error e, t1) => answer (.fail ⟨0x05, none, c.pc, some a, BitVec.ofNat 64 e⟩) t1
          | (.ok (_, table), t1) =>
            let es := regionEntries t1 table
            let mine := es.filter fun e => e.2.1 == obj
            if mine.any fun e => e.2.2.1 == start.toNat && e.2.2.2 == len then answer (.ok 0) t1
            else if 15 ≤ mine.length then answer (.ok 1) t1
            else match (List.range 4096).find? (fun j => !(es.any fun e => e.1 == j)) with
              | none => answer (.ok 2) t1
              | some j => answer (.ok 0) (putRegion t1 table j (some (obj, start.toNat, len)))) s

/-- UNBIND (R178): remove the binding that starts at the address, or with `.all` every binding of the object. -/
def execUnbind (h : Hdr) (f : Fields) (s : State) : Out :=
  issue (.unbind h f) false false (fun x c t =>
    let k := coreOf x
    let a := c.ea f
    let o := c.dVal f.d
    let all := f.subBit 3
    match (if all then .dev 0 else resolve k a), resolve k o with
    | .bad, _ => .trap (malformedTrap c.pc a) t
    | _, .bad => .trap (malformedTrap c.pc o) t
    | _, _ =>
      if o.toNat % 8 ≠ 0 then .trap (misalignedTrap c.pc o 0) t
      else match readDesc t (coreDie k) c.pid with
        | (.error e, t1) => .done (postTrap x ⟨0x05, none, c.pc, some a, BitVec.ofNat 64 e⟩ t1)
        | (.ok (_, table), t1) =>
          let obj := (globalOf k o).toNat
          let start := (globalOf k a).toNat
          .done (((regionEntries t1 table).filter fun e => e.2.1 == obj && (all || e.2.2.1 == start)).foldl
            (fun u e => putRegion u table e.1 none) t1)) s

/-! ### Atomics (R184, R185) -/

/-- AADD (R184). -/
def execAadd (h : Hdr) (f : Fields) (s : State) : Out :=
  issue (.aadd h f) false false (fun x c t => atomicEff x (.aadd h f) f .add (c.dVal f.d) 0 t) s

/-- AFADD (R184). -/
def execAfadd (h : Hdr) (f : Fields) (s : State) : Out :=
  issue (.afadd h f) false false (fun x c t => atomicEff x (.afadd h f) f .fadd (c.dVal f.d) 0 t) s

/-- AMIN (R184). -/
def execAmin (h : Hdr) (f : Fields) (s : State) : Out :=
  issue (.amin h f) false false (fun x c t => atomicEff x (.amin h f) f .min (c.dVal f.d) 0 t) s

/-- AMAX (R184). -/
def execAmax (h : Hdr) (f : Fields) (s : State) : Out :=
  issue (.amax h f) false false (fun x c t => atomicEff x (.amax h f) f .max (c.dVal f.d) 0 t) s

/-- AAND (R184). -/
def execAand (h : Hdr) (f : Fields) (s : State) : Out :=
  issue (.aand h f) false false (fun x c t => atomicEff x (.aand h f) f .and (c.dVal f.d) 0 t) s

/-- AOR (R184). -/
def execAor (h : Hdr) (f : Fields) (s : State) : Out :=
  issue (.aor h f) false false (fun x c t => atomicEff x (.aor h f) f .or (c.dVal f.d) 0 t) s

/-- AXOR (R184). -/
def execAxor (h : Hdr) (f : Fields) (s : State) : Out :=
  issue (.axor h f) false false (fun x c t => atomicEff x (.axor h f) f .xor (c.dVal f.d) 0 t) s

/-- ASWP (R184). -/
def execAswp (h : Hdr) (f : Fields) (s : State) : Out :=
  issue (.aswp h f) false false (fun x c t => atomicEff x (.aswp h f) f .swp (c.dVal f.d) 0 t) s

/-- ACAS (R185): compares with W[D], writes W[D + 1]. -/
def execAcas (h : Hdr) (f : Fields) (s : State) : Out :=
  issue (.acas h f) false false (fun x c t => atomicEff x (.acas h f) f .cas (c.w (f.d.num + 1)) (c.dVal f.d) t) s

/-! ### Prefetch and cache operations (R188, R189) -/

/-- PREF (R188): no architectural effect. -/
def execPref (h : Hdr) (f : Fields) (s : State) : Out := issue (.pref h f) false false (fun _ _ t => .done t) s

/-- Write a line back to the point of coherence of a scope; with `drop`, the copies between a core and that point go (R189). -/
def flushLine (k pid vln sc : Nat) (drop : Bool) (s : State) : Except Nat State :=
  match translate s (coreDie k) pid (128 * vln) .read with
  | (.error e, _) => .error e
  | (.ok p, s0) =>
    if scopeAtDie (s0.cluster (clusterOf k)).fused sc || scopeAtHome sc then
      let s1 := (l1Cores s0 k).foldl (fun t m => if drop then l1Flush t m pid vln else l1Clean t m pid vln) s0
      .ok (if scopeAtHome sc && !p.priv then
          (if drop then llcDrop s1 (coreDie k) (lineOf p.pa) else llcClean s1 (coreDie k) (lineOf p.pa))
        else s1)
    else .ok s0

/-- CFLUSH and CINV (R189); of every line, one whose translation fails loses its dirty bytes, with the deferred record of R355. -/
def cacheEff (x : Nat) (f : Fields) (drop : Bool) (s : State) : Eff :=
  let c := s.ctx x
  let k := coreOf x
  if f.subBit 3 then
    let s1 := flushReqs (fun r => r.x == x) s
    let reach := scopeAtDie (s1.cluster (clusterOf k)).fused f.x.sc || scopeAtHome f.x.sc
    .done ((l1Cores s1 k).foldl (fun t m => (t.core m).l1.foldl (fun u l =>
      match flushLine k l.pid l.vln f.x.sc drop u with
      | .ok v => v
      | .error _ => if reach then (if drop then l1Flush u m l.pid l.vln else l1Clean u m l.pid l.vln) else u) t) s1)
  else
    let a := c.ea f
    match resolve k a with
    | .bad => .trap (malformedTrap c.pc a) s
    | .spad _ _ => .done s
    | .dev va =>
      match flushLine k c.pid (lineOf va) f.x.sc drop (flushReqs (fun r => r.x == x && lineOf r.va.toNat == lineOf va) s) with
      | .ok s1 => .done s1
      | .error e => .done (postTrap x ⟨0x05, none, c.pc, some a, BitVec.ofNat 64 e⟩ s)

/-- CFLUSH: write back, stay clean. -/
def execCflush (h : Hdr) (f : Fields) (s : State) : Out := issue (.cflush h f) false false (fun x _ t => cacheEff x f false t) s

/-- CINV: write back, then drop. -/
def execCinv (h : Hdr) (f : Fields) (s : State) : Out := issue (.cinv h f) false false (fun x _ t => cacheEff x f true t) s

/-! ### NSEND (R190) -/

/-- NSEND: a value to a receive register of a neighbour; no neighbour, or an offline one, is an error response. -/
def execNsend (h : Hdr) (f : Fields) (s : State) : Out :=
  issue (.nsend h f) false false (fun x c t =>
    let k := coreOf x
    let rel := f.subBit 2
    let v := (srcS c [] f.a).toNat
    match (if rel then marker x (.nsend h f) true t else none) with
    | some t1 => .leave t1
    | none =>
      let t1 := if rel then releaseVia t k c.pid 3 none else t
      match ((neighbours k).getD (f.subBits 0 2) none) with
      | some m =>
        if (t1.core m).offline || (t1.core m).killed then .done (postTrap x ⟨0x0C, none, c.pc, none, 1⟩ t1)
        else .done (sendReq (mkReq x c (.link f.d.num rel) (.spad m (2 ^ 18 + 8 * f.d.num)) 8 7 v 0) t1)
      | none => .done (postTrap x ⟨0x0C, none, c.pc, none, 1⟩ t1)) s

end Sys2Proof.Machine
end

