-- ==== Sys2Proof/Machine/Transcend.lean ====
section
/-! DEFINITION. The transcendental algorithms VEXP2, VLOG2, VRCP and VRSQ with their tables (R124 to R128). -/

namespace Sys2Proof.Machine

/-- TX[i] = Round(2^(i/64), RNE) (R125). -/
def tabTX : List Nat :=
  [0x3F800000, 0x3F8164D2, 0x3F82CD87, 0x3F843A29, 0x3F85AAC3, 0x3F871F62, 0x3F88980F, 0x3F8A14D5] ++
  [0x3F8B95C2, 0x3F8D1ADF, 0x3F8EA43A, 0x3F9031DC, 0x3F91C3D3, 0x3F935A2B, 0x3F94F4F0, 0x3F96942D] ++
  [0x3F9837F0, 0x3F99E046, 0x3F9B8D3A, 0x3F9D3EDA, 0x3F9EF532, 0x3FA0B051, 0x3FA27043, 0x3FA43516] ++
  [0x3FA5FED7, 0x3FA7CD94, 0x3FA9A15B, 0x3FAB7A3A, 0x3FAD583F, 0x3FAF3B79, 0x3FB123F6, 0x3FB311C4] ++
  [0x3FB504F3, 0x3FB6FD92, 0x3FB8FBAF, 0x3FBAFF5B, 0x3FBD08A4, 0x3FBF179A, 0x3FC12C4D, 0x3FC346CD] ++
  [0x3FC5672A, 0x3FC78D75, 0x3FC9B9BE, 0x3FCBEC15, 0x3FCE248C, 0x3FD06334, 0x3FD2A81E, 0x3FD4F35B] ++
  [0x3FD744FD, 0x3FD99D16, 0x3FDBFBB8, 0x3FDE60F5, 0x3FE0CCDF, 0x3FE33F89, 0x3FE5B907, 0x3FE8396A] ++
  [0x3FEAC0C7, 0x3FED4F30, 0x3FEFE4BA, 0x3FF28177, 0x3FF5257D, 0x3FF7D0DF, 0x3FFA83B3, 0x3FFD3E0C]

/-- RC[j] = Round(1 / (1 + (2j + 1) / 128), RNE) (R126). -/
def tabRC : List Nat :=
  [0x3F7E03F8, 0x3F7A232D, 0x3F76603E, 0x3F72B9D6, 0x3F6F2EB7, 0x3F6BBDB3, 0x3F6865AC, 0x3F652598] ++
  [0x3F61FC78, 0x3F5EE95C, 0x3F5BEB62, 0x3F5901B2, 0x3F562B81, 0x3F53680D, 0x3F50B6A0, 0x3F4E168A] ++
  [0x3F4B8728, 0x3F4907DA, 0x3F46980C, 0x3F443730, 0x3F41E4BC, 0x3F3FA030, 0x3F3D6910, 0x3F3B3EE7] ++
  [0x3F392144, 0x3F370FBB, 0x3F3509E7, 0x3F330F63, 0x3F311FD4, 0x3F2F3ADE, 0x3F2D602B, 0x3F2B8F6A] ++
  [0x3F29C84A, 0x3F280A81, 0x3F2655C4, 0x3F24A9CF, 0x3F23065E, 0x3F216B31, 0x3F1FD80A, 0x3F1E4CAD] ++
  [0x3F1CC8E1, 0x3F1B4C70, 0x3F19D723, 0x3F1868C8, 0x3F17012E, 0x3F15A025, 0x3F144581, 0x3F12F114] ++
  [0x3F11A2B4, 0x3F105A38, 0x3F0F177A, 0x3F0DDA52, 0x3F0CA29C, 0x3F0B7034, 0x3F0A42F8, 0x3F091AC7] ++
  [0x3F07F781, 0x3F06D905, 0x3F05BF37, 0x3F04A9FA, 0x3F039930, 0x3F028CC0, 0x3F01848E, 0x3F008081]

/-- LG[j] = Round(−log2(RC[j]), RNE) (R126). -/
def tabLG : List Nat :=
  [0x3C37F28B, 0x3D08E68D, 0x3D626FCC, 0x3D9D5182, 0x3DC8C50D, 0x3DF3975C, 0x3E0EE690, 0x3E23B551] ++
  [0x3E383A17, 0x3E4C76EA, 0x3E606DB6, 0x3E74205F, 0x3E83C856, 0x3E8D602E, 0x3E96D887, 0x3EA03234] ++
  [0x3EA96DEF, 0x3EB28C80, 0x3EBB8E97, 0x3EC474E2, 0x3ECD4011, 0x3ED5F0C3, 0x3EDE8798, 0x3EE70525] ++
  [0x3EEF69FF, 0x3EF7B6B5, 0x3EFFEBCB, 0x3F0404E8, 0x3F08089D, 0x3F0C0146, 0x3F0FEF1F, 0x3F13D260] ++
  [0x3F17AB44, 0x3F1B79FF, 0x3F1F3ECA, 0x3F22F9D5, 0x3F26AB53, 0x3F2A5375, 0x3F2DF268, 0x3F31885D] ++
  [0x3F35157E, 0x3F3899F4, 0x3F3C15EE, 0x3F3F8991, 0x3F42F506, 0x3F465873, 0x3F49B3FA, 0x3F4D07C5] ++
  [0x3F5053F6, 0x3F5398AF, 0x3F56D60F, 0x3F5A0C3A, 0x3F5D3B4E, 0x3F60636B, 0x3F6384AF, 0x3F669F36] ++
  [0x3F69B31C, 0x3F6CC084, 0x3F6FC782, 0x3F72C831, 0x3F75C2B1, 0x3F78B713, 0x3F7BA577, 0x3F7E8DF1]

/-- RQ[j] = Round(1 / √((1 + (2k + 1) / 64) × 2^a), RNE) for j = 32a + k (R128). -/
def tabRQ : List Nat :=
  [0x3F7E05EC, 0x3F7A33F9, 0x3F768CDC, 0x3F730D8A, 0x3F6FB345, 0x3F6C7B90, 0x3F69642A, 0x3F666B02] ++
  [0x3F638E39, 0x3F60CC16, 0x3F5E2305, 0x3F5B9193, 0x3F59166B, 0x3F56B051, 0x3F545E22, 0x3F521ED0] ++
  [0x3F4FF162, 0x3F4DD4ED, 0x3F4BC89B, 0x3F49CBA2, 0x3F47DD45, 0x3F45FCD6, 0x3F4429AF, 0x3F426337] ++
  [0x3F40A8DE, 0x3F3EFA1C, 0x3F3D5671, 0x3F3BBD67, 0x3F3A2E8C, 0x3F38A975, 0x3F372DBF, 0x3F35BB09] ++
  [0x3F339F19, 0x3F30EB96, 0x3F2E565C, 0x3F2BDD46, 0x3F297E62, 0x3F2737F0, 0x3F250855, 0x3F22EE1D] ++
  [0x3F20E7F5, 0x3F1EF4A4, 0x3F1D130E, 0x3F1B422C, 0x3F19810C, 0x3F17CED0, 0x3F162AA9, 0x3F1493D9] ++
  [0x3F1309AF, 0x3F118B87, 0x3F1018C6, 0x3F0EB0E0, 0x3F0D534F, 0x3F0BFF97, 0x3F0AB544, 0x3F0973E8] ++
  [0x3F083B1E, 0x3F070A87, 0x3F05E1C7, 0x3F04C08B, 0x3F03A682, 0x3F029362, 0x3F0186E2, 0x3F0080C1]

/-- RQ2[j] = Round(RQ[j]², RNE) (R128). -/
def tabRQ2 : List Nat :=
  [0x3F7C0FC0, 0x3F74898D, 0x3F6D7304, 0x3F66C2B5, 0x3F607038, 0x3F5A740D, 0x3F54C77C, 0x3F4F6474] ++
  [0x3F4A4588, 0x3F4565C9, 0x3F40C0C1, 0x3F3C5264, 0x3F381703, 0x3F340B41, 0x3F302C0B, 0x3F2C7691] ++
  [0x3F28E840, 0x3F257EB5, 0x3F2237C3, 0x3F1F1166, 0x3F1C09C1, 0x3F191F1B, 0x3F164FDB, 0x3F139A86] ++
  [0x3F10FDBC, 0x3F0E7836, 0x3F0C08C0, 0x3F09AE41, 0x3F0767AC, 0x3F053408, 0x3F03126F, 0x3F010203] ++
  [0x3EFC0FC0, 0x3EF4898E, 0x3EED7304, 0x3EE6C2B6, 0x3EE07038, 0x3EDA740F, 0x3ED4C77C, 0x3ECF6474] ++
  [0x3ECA4589, 0x3EC565C8, 0x3EC0C0C1, 0x3EBC5265, 0x3EB81703, 0x3EB40B41, 0x3EB02C0A, 0x3EAC7691] ++
  [0x3EA8E83F, 0x3EA57EB6, 0x3EA237C2, 0x3E9F1165, 0x3E9C09C0, 0x3E991F1A, 0x3E964FDB, 0x3E939A86] ++
  [0x3E90FDBB, 0x3E8E7836, 0x3E8C08C0, 0x3E89AE40, 0x3E8767AB, 0x3E853409, 0x3E83126E, 0x3E810204]

/-- fma in FP32, rounded RNE (R124). -/
def fma32 (a b c : Nat) : Nat := fMulAdd fFP32 0 false false a b c

/-- A finite FP32 code's magnitude and exponent. -/
def mag32 (c : Nat) : Nat × Int :=
  match fFP32.read c with
  | .fin _ m e => (m, e)
  | _ => (0, 0)

/-- The product of two positive FP32 values, scaled by 2^n and rounded once under `rm` with a sign. -/
def scaleProduct (rm : Nat) (neg : Bool) (a b : Nat) (n : Int) : Nat :=
  let x := mag32 a
  let y := mag32 b
  fFP32.round rm neg (x.1 * y.1) (x.2 + y.2 + n) false

/-- x = s × 2^e with s in [1, 2): the 24-bit significand of s and e (R126 to R128). -/
def normal32 (m : Nat) (e : Int) : Nat × Int :=
  let l := Nat.log2 m
  (m <<< (23 - l), e + l)

/-- The FP32 code of s in [1, 2) from its 24-bit significand. -/
def unit32 (sig : Nat) : Nat := 0x3F800000 + (sig - 2 ^ 23)

/-- VEXP2 (R125). -/
def fExp2 (rm x : Nat) : Nat :=
  match fFP32.read x with
  | .nan c => fFP32.quiet c
  | .inf neg => if neg then 0 else 0x7F800000
  | .fin neg m e =>
    let v := signedMag neg m e (min e 0)
    if 128 * ((2 ^ (0 - min e 0).toNat : Nat) : Int) ≤ v then fFP32.overflow rm false
    else if v < -150 * ((2 ^ (0 - min e 0).toNat : Nat) : Int) then fFP32.round rm false 1 (-151) false
    else
      let n0 : Int := (roundAt 0 neg m (e + 6) false 0 : Nat)
      let k := if neg then -n0 else n0
      let r := match (FV.fin neg m e).add 0 (.fin (0 < k) k.natAbs (-6)) with
        | some d => fFP32.write 0 d
        | none => 0
      let i := (k % 64).toNat
      let t := fma32 0x3D635847 r 0x3E75FDF0
      let t1 := fma32 t r 0x3F317218
      let p := fma32 t1 r 0x3F800000
      scaleProduct rm false (tabTX.getD i 0) p (k / 64)

/-- VLOG2 (R126). -/
def fLog2 (rm x : Nat) : Nat :=
  match fFP32.read x with
  | .nan c => fFP32.quiet c
  | .inf neg => if neg then fFP32.canon else 0x7F800000
  | .fin neg m e0 =>
    if m = 0 then 0xFF800000
    else if neg then fFP32.canon
    else
      let (sig, e) := normal32 m e0
      if sig = 2 ^ 23 then (if e = 0 then 0 else fFP32.round rm (e < 0) e.natAbs 0 false)
      else
        let j := sig / 2 ^ 17 % 64
        let r := fma32 (unit32 sig) (tabRC.getD j 0) 0xBF800000
        let t := fma32 0xBEB8AA3B r 0x3EF6384F
        let t1 := fma32 t r 0xBF38AA3B
        let t2 := fma32 t1 r 0x3FB8AA3B
        let q := fMul fFP32 0 t2 r
        let two := ((FV.fin (e < 0) e.natAbs 0).add rm (fFP32.read (tabLG.getD j 0))).bind fun z => z.add rm (fFP32.read q)
        fFP32.finish rm two

/-- VRCP (R127). -/
def fRcp (rm x : Nat) : Nat :=
  match fFP32.read x with
  | .nan c => fFP32.quiet c
  | .inf neg => fFP32.code neg 0 0
  | .fin neg m e0 =>
    if m = 0 then fFP32.infinity neg
    else
      let (sig, e) := normal32 m e0
      if sig = 2 ^ 23 then fFP32.round rm neg 1 (-e) false
      else
        let rc := tabRC.getD (sig / 2 ^ 17 % 64) 0
        let r := fma32 (unit32 sig) rc 0xBF800000
        let t := fma32 0xBF800000 r 0x3F800000
        let t1 := fma32 t r 0xBF800000
        let p := fma32 t1 r 0x3F800000
        scaleProduct rm neg rc p (-e)

/-- VRSQ (R128). -/
def fRsq (rm x : Nat) : Nat :=
  match fFP32.read x with
  | .nan c => fFP32.quiet c
  | .inf neg => if neg then fFP32.canon else 0
  | .fin neg m e0 =>
    if m = 0 then fFP32.infinity neg
    else if neg then fFP32.canon
    else
      let (sig, e) := normal32 m e0
      let a := (e % 2).toNat
      let h := (e - a) / 2
      if sig = 2 ^ 23 ∧ a = 0 then fFP32.round rm false 1 (-h) false
      else
        let j := 32 * a + sig / 2 ^ 18 % 32
        let u := unit32 sig + a * 2 ^ 23
        let r := fma32 u (tabRQ2.getD j 0) 0xBF800000
        let t := fma32 0xBEA00000 r 0x3EC00000
        let t1 := fma32 t r 0xBF000000
        let p := fma32 t1 r 0x3F800000
        scaleProduct rm false (tabRQ.getD j 0) p (-h)

end Sys2Proof.Machine
end

