-- ==== Sys2Proof/Machine/Vector.lean ====
section
/-! DEFINITION. The vector instructions, 0x60 to 0x8F: lanes, masks, arithmetic, comparisons, moves, reductions, conversions, and the
vector loads and stores (R129 to R156). -/

namespace Sys2Proof.Machine

/-! ### Lanes (R129 to R131, R133) -/

/-- Lanes of `w` bits packed from the lowest; the bits above them are zero. -/
def lanePack (w : Nat) : List Nat → Nat
  | [] => 0
  | n :: rest => n % 2 ^ w + 2 ^ w * lanePack w rest

/-- The register of `n` lanes of `w` bits. -/
def lanesOf (w n : Nat) (g : Nat → Nat) : VReg := BitVec.ofNat 512 (lanePack w ((List.range n).map g))

/-- The register with the first `n` lanes of `w` bits replaced. -/
def laneSet (v : VReg) (w i x : Nat) : VReg :=
  (v &&& ~~~(BitVec.ofNat 512 ((2 ^ w - 1) <<< (w * i)))) ||| BitVec.ofNat 512 ((x % 2 ^ w) <<< (w * i))

/-- Does the mask field enable a lane (R131). -/
def laneOn (c : Ctx) (f : Fields) (i : Nat) : Bool := !f.x.mkEn || bitAt (c.pred f.x.mkP) i

/-- Lane `i` of a source: a lane of a `v`, the low bits of a `w`, or an immediate sign-extended (R133). -/
def laneSrc (c : Ctx) (o : Opnd) (w i : Nat) : Nat :=
  match o with
  | .v n => laneGet (c.vec n.toNat) w i
  | o => (srcS c [] o).toNat % 2 ^ w

/-- A shift count in lane `i`: a lane read unsigned, a whole `w`, or an immediate from 0 to 127 (R139). -/
def laneCnt (c : Ctx) (o : Opnd) (w i : Nat) : Nat :=
  match o with
  | .v n => laneGet (c.vec n.toNat) w i
  | o => (srcZ c [] o).toNat

/-- A register whose lanes that are `on` are replaced. Where every lane of an LNS6 register is, the bits above the lanes are zero; else they stay
(R129, R131). -/
def laneMerge (d : VReg) (w n : Nat) (on : Nat → Bool) (g : Nat → Nat) : VReg :=
  lanesOf w n (fun i => if on i then g i else laneGet d w i) |||
    (if w = 6 && !((List.range n).all on) then (d >>> 384) <<< 384 else 0)

/-- D after a lane-wise instruction: masked lanes keep their value (R129, R131). -/
def laneResult (c : Ctx) (f : Fields) (g : Nat → Nat) : VReg :=
  laneMerge (c.vec f.d.num) (tyBits f.ty) (laneCount f.ty) (laneOn c f) g

/-- A vector instruction that writes D lane by lane. -/
def vecOp (i : Instr) (f : Fields) (g : Ctx → Nat → Nat) (s : State) : Out :=
  issue i false false (fun x _ t => .done (t.modCtx x fun c => c.setVec f.d.num (laneResult c f (g c)))) s

/-- A vector instruction whose lanes are long results (R22, R24). -/
def longVecOp (i : Instr) (f : Fields) (g : Ctx → Nat → Nat) (s : State) : Out :=
  issue i false false (fun x c t =>
    let w := tyBits f.ty
    let lanes := (List.range (laneCount f.ty)).filter fun j => laneOn c f j
    .done ((lanes.foldl (fun u j => (startLong x (.v f.d.num (w * j) w) (some (.ok (g c j))) u).2) t).modCtx x fun d =>
      { d with vl := true })) s

/-- A vector instruction that writes a predicate: bit i for lane i, zero above, masked lanes keep their bit (R130, R140). -/
def predOp (i : Instr) (f : Fields) (g : Ctx → Nat → Bool) (s : State) : Out :=
  issue i false false (fun x _ t => .done (t.modCtx x fun c =>
    let old := c.pred f.d.num
    let bits := (List.range (laneCount f.ty)).map fun j => if (if laneOn c f j then g c j else bitAt old j) then 1 else 0
    { c.setPred f.d.num (BitVec.ofNat 64 (lanePack 1 bits)) with vl := true })) s

/-! ### Float lanes (R134 to R137) -/

/-- VADD (R134). -/
def execVadd (h : Hdr) (f : Fields) (s : State) : Out :=
  vecOp (.vadd h f) f (fun c j => fAdd (tyFmt f.ty) f.x.rm (laneSrc c f.a (tyBits f.ty) j) (laneSrc c f.b (tyBits f.ty) j)) s

/-- VSUB (R134). -/
def execVsub (h : Hdr) (f : Fields) (s : State) : Out :=
  vecOp (.vsub h f) f (fun c j => fSub (tyFmt f.ty) f.x.rm (laneSrc c f.a (tyBits f.ty) j) (laneSrc c f.b (tyBits f.ty) j)) s

/-- VMUL (R134). -/
def execVmul (h : Hdr) (f : Fields) (s : State) : Out :=
  vecOp (.vmul h f) f (fun c j => fMul (tyFmt f.ty) f.x.rm (laneSrc c f.a (tyBits f.ty) j) (laneSrc c f.b (tyBits f.ty) j)) s

/-- VFMA (R134). -/
def execVfma (h : Hdr) (f : Fields) (s : State) : Out :=
  vecOp (.vfma h f) f (fun c j => fMulAdd (tyFmt f.ty) f.x.rm false false (laneSrc c f.a (tyBits f.ty) j) (laneSrc c f.b (tyBits f.ty) j) (laneGet (c.vec f.d.num) (tyBits f.ty) j)) s

/-- VFMS (R134). -/
def execVfms (h : Hdr) (f : Fields) (s : State) : Out :=
  vecOp (.vfms h f) f (fun c j => fMulAdd (tyFmt f.ty) f.x.rm false true (laneSrc c f.a (tyBits f.ty) j) (laneSrc c f.b (tyBits f.ty) j) (laneGet (c.vec f.d.num) (tyBits f.ty) j)) s

/-- VFNMA (R134). -/
def execVfnma (h : Hdr) (f : Fields) (s : State) : Out :=
  vecOp (.vfnma h f) f (fun c j => fMulAdd (tyFmt f.ty) f.x.rm true false (laneSrc c f.a (tyBits f.ty) j) (laneSrc c f.b (tyBits f.ty) j) (laneGet (c.vec f.d.num) (tyBits f.ty) j)) s

/-- Minimum or maximum of a lane, float or integer (R135). -/
def minMax (ty : Nat) (hi : Bool) (a b : Nat) : Nat :=
  if tyFloat ty then fMinMax (tyFmt ty) hi a b
  else if intCond 2 (tySigned ty) (tyBits ty) (if hi then a else b) (if hi then b else a) then b else a

/-- Absolute value or negation of a lane (R136). -/
def signOp (ty : Nat) (negate : Bool) (a : Nat) : Nat :=
  if tyFloat ty then fSign (tyFmt ty) negate a
  else if negate || (tySigned ty && 2 ^ (tyBits ty - 1) ≤ a) then (2 ^ tyBits ty - a) % 2 ^ tyBits ty else a

/-- VMIN (R135). -/
def execVmin (h : Hdr) (f : Fields) (s : State) : Out :=
  vecOp (.vmin h f) f (fun c j => minMax f.ty false (laneSrc c f.a (tyBits f.ty) j) (laneSrc c f.b (tyBits f.ty) j)) s

/-- VMAX (R135). -/
def execVmax (h : Hdr) (f : Fields) (s : State) : Out :=
  vecOp (.vmax h f) f (fun c j => minMax f.ty true (laneSrc c f.a (tyBits f.ty) j) (laneSrc c f.b (tyBits f.ty) j)) s

/-- VABS (R136). -/
def execVabs (h : Hdr) (f : Fields) (s : State) : Out :=
  vecOp (.vabs h f) f (fun c j => signOp f.ty false (laneSrc c f.a (tyBits f.ty) j)) s

/-- VNEG (R136). -/
def execVneg (h : Hdr) (f : Fields) (s : State) : Out :=
  vecOp (.vneg h f) f (fun c j => signOp f.ty true (laneSrc c f.a (tyBits f.ty) j)) s

/-- VDIV (R134). -/
def execVdiv (h : Hdr) (f : Fields) (s : State) : Out :=
  longVecOp (.vdiv h f) f (fun c j => fDiv (tyFmt f.ty) f.x.rm (laneSrc c f.a (tyBits f.ty) j) (laneSrc c f.b (tyBits f.ty) j)) s

/-- VSQRT (R134). -/
def execVsqrt (h : Hdr) (f : Fields) (s : State) : Out :=
  longVecOp (.vsqrt h f) f (fun c j => fSqrt (tyFmt f.ty) f.x.rm (laneSrc c f.a (tyBits f.ty) j)) s

/-- VRCP (R127, R137). -/
def execVrcp (h : Hdr) (f : Fields) (s : State) : Out :=
  longVecOp (.vrcp h f) f (fun c j => fRcp f.x.rm (laneSrc c f.a (tyBits f.ty) j)) s

/-- VRSQ (R128, R137). -/
def execVrsq (h : Hdr) (f : Fields) (s : State) : Out :=
  longVecOp (.vrsq h f) f (fun c j => fRsq f.x.rm (laneSrc c f.a (tyBits f.ty) j)) s

/-- VEXP2 (R125, R137). -/
def execVexp2 (h : Hdr) (f : Fields) (s : State) : Out :=
  longVecOp (.vexp2 h f) f (fun c j => fExp2 f.x.rm (laneSrc c f.a (tyBits f.ty) j)) s

/-- VLOG2 (R126, R137). -/
def execVlog2 (h : Hdr) (f : Fields) (s : State) : Out :=
  longVecOp (.vlog2 h f) f (fun c j => fLog2 f.x.rm (laneSrc c f.a (tyBits f.ty) j)) s

/-! ### Integer lanes (R138, R139) -/

/-- A lane as an exact integer: signed for i types. -/
def laneInt (ty n : Nat) : Int := if tySigned ty then signedOf (tyBits ty) n else ((n % 2 ^ tyBits ty : Nat) : Int)

/-- An exact integer result: wrapped, or clamped to the range of TY (R138). -/
def satLane (ty : Nat) (sat : Bool) (r : Int) : Nat :=
  wrapInt (tyBits ty) (if sat then satInt (tySigned ty) (tyBits ty) r else r)

/-- A lane shift (R64, R139): left, logical right, or arithmetic right. -/
def shiftLane (kind w a cnt : Nat) : Nat :=
  if w ≤ cnt then (if kind = 2 && 2 ^ (w - 1) ≤ a % 2 ^ w then 2 ^ w - 1 else 0)
  else match kind with
    | 0 => a <<< cnt % 2 ^ w
    | 1 => (a % 2 ^ w) >>> cnt
    | _ => wrapInt w (signedOf w a / (2 ^ cnt : Nat))

/-- Number of 1 bits below bit `n`. -/
def onesBelow (a : Nat) : Nat → Nat
  | 0 => 0
  | n + 1 => onesBelow a n + (a >>> n) % 2

/-- VIADD (R138). -/
def execViadd (h : Hdr) (f : Fields) (s : State) : Out :=
  vecOp (.viadd h f) f (fun c j => satLane f.ty (f.subBit 0) (laneInt f.ty (laneSrc c f.a (tyBits f.ty) j) + laneInt f.ty (laneSrc c f.b (tyBits f.ty) j))) s

/-- VISUB (R138). -/
def execVisub (h : Hdr) (f : Fields) (s : State) : Out :=
  vecOp (.visub h f) f (fun c j => satLane f.ty (f.subBit 0) (laneInt f.ty (laneSrc c f.a (tyBits f.ty) j) - laneInt f.ty (laneSrc c f.b (tyBits f.ty) j))) s

/-- VIMUL (R138). -/
def execVimul (h : Hdr) (f : Fields) (s : State) : Out :=
  vecOp (.vimul h f) f (fun c j => (laneSrc c f.a (tyBits f.ty) j) * (laneSrc c f.b (tyBits f.ty) j)) s

/-- VIMULH (R138). -/
def execVimulh (h : Hdr) (f : Fields) (s : State) : Out :=
  vecOp (.vimulh h f) f (fun c j => wrapInt (tyBits f.ty) (laneInt f.ty (laneSrc c f.a (tyBits f.ty) j) * laneInt f.ty (laneSrc c f.b (tyBits f.ty) j) / (2 ^ tyBits f.ty : Nat))) s

/-- VIMAD (R138). -/
def execVimad (h : Hdr) (f : Fields) (s : State) : Out :=
  vecOp (.vimad h f) f (fun c j => (laneGet (c.vec f.d.num) (tyBits f.ty) j) + (laneSrc c f.a (tyBits f.ty) j) * (laneSrc c f.b (tyBits f.ty) j)) s

/-- VSHL (R139). -/
def execVshl (h : Hdr) (f : Fields) (s : State) : Out :=
  vecOp (.vshl h f) f (fun c j => shiftLane 0 (tyBits f.ty) (laneSrc c f.a (tyBits f.ty) j) (laneCnt c f.b (tyBits f.ty) j)) s

/-- VSHR (R139). -/
def execVshr (h : Hdr) (f : Fields) (s : State) : Out :=
  vecOp (.vshr h f) f (fun c j => shiftLane 1 (tyBits f.ty) (laneSrc c f.a (tyBits f.ty) j) (laneCnt c f.b (tyBits f.ty) j)) s

/-- VSRA (R139). -/
def execVsra (h : Hdr) (f : Fields) (s : State) : Out :=
  vecOp (.vsra h f) f (fun c j => shiftLane 2 (tyBits f.ty) (laneSrc c f.a (tyBits f.ty) j) (laneCnt c f.b (tyBits f.ty) j)) s

/-- VAND (R138). -/
def execVand (h : Hdr) (f : Fields) (s : State) : Out :=
  vecOp (.vand h f) f (fun c j => (laneSrc c f.a (tyBits f.ty) j) &&& (laneSrc c f.b (tyBits f.ty) j)) s

/-- VOR (R138). -/
def execVor (h : Hdr) (f : Fields) (s : State) : Out :=
  vecOp (.vor h f) f (fun c j => (laneSrc c f.a (tyBits f.ty) j) ||| (laneSrc c f.b (tyBits f.ty) j)) s

/-- VXOR (R138). -/
def execVxor (h : Hdr) (f : Fields) (s : State) : Out :=
  vecOp (.vxor h f) f (fun c j => (laneSrc c f.a (tyBits f.ty) j) ^^^ (laneSrc c f.b (tyBits f.ty) j)) s

/-- VANDN (R138). -/
def execVandn (h : Hdr) (f : Fields) (s : State) : Out :=
  vecOp (.vandn h f) f (fun c j => (laneSrc c f.a (tyBits f.ty) j) &&& ((laneSrc c f.b (tyBits f.ty) j) ^^^ (2 ^ tyBits f.ty - 1))) s

/-- VPOPC (R138). -/
def execVpopc (h : Hdr) (f : Fields) (s : State) : Out :=
  vecOp (.vpopc h f) f (fun c j => onesBelow (laneSrc c f.a (tyBits f.ty) j) (tyBits f.ty)) s

/-- VCLZ (R138). -/
def execVclz (h : Hdr) (f : Fields) (s : State) : Out :=
  vecOp (.vclz h f) f (fun c j => if (laneSrc c f.a (tyBits f.ty) j) = 0 then tyBits f.ty else tyBits f.ty - 1 - Nat.log2 (laneSrc c f.a (tyBits f.ty) j)) s

/-! ### Comparisons (R140, R141) -/

/-- VFCMP (R140). -/
def execVfcmp (h : Hdr) (f : Fields) (s : State) : Out :=
  predOp (.vfcmp h f) f (fun c j => floatCond (tyFmt f.ty) (f.subBits 0 3) (laneSrc c f.a (tyBits f.ty) j) (laneSrc c f.b (tyBits f.ty) j)) s

/-- VICMP (R141). -/
def execVicmp (h : Hdr) (f : Fields) (s : State) : Out :=
  predOp (.vicmp h f) f (fun c j => intCond (f.subBits 0 3) (tySigned f.ty) (tyBits f.ty) (laneSrc c f.a (tyBits f.ty) j) (laneSrc c f.b (tyBits f.ty) j)) s

/-! ### Moves and permutations (R142 to R147) -/

/-- VMOV (R142). -/
def execVmov (h : Hdr) (f : Fields) (s : State) : Out :=
  vecOp (.vmov h f) f (fun c j => (laneSrc c f.a (tyBits f.ty) j)) s

/-- VMOV.CLR (R142): the marker, then every `v` register reads zero and VL is clear. -/
def execVmovClr (h : Hdr) (f : Fields) (s : State) : Out :=
  issue (.vmovClr h f) false false (fun x _ t =>
    match marker x (.vmovClr h f) false t with
    | some t1 => .leave t1
    | none => .done (t.modCtx x fun c => { c with v := [], vl := false })) s

/-- VBCST (R143): every enabled lane; under LNS6 the bits above the lanes become zero whatever the mask. -/
def execVbcst (h : Hdr) (f : Fields) (s : State) : Out :=
  issue (.vbcst h f) false false (fun x _ t => .done (t.modCtx x fun c =>
    let w := tyBits f.ty
    c.setVec f.d.num (lanesOf w (laneCount f.ty) fun j => if laneOn c f j then laneSrc c f.a w j else laneGet (c.vec f.d.num) w j))) s

/-- A lane index: W[B] read unsigned or an immediate from 0 to 127, modulo the lanes (R143). -/
def laneIdx (c : Ctx) (f : Fields) : Nat := (srcZ c [] f.b).toNat % laneCount f.ty

/-- VINS (R143): one lane; every other bit of D is unchanged. -/
def execVins (h : Hdr) (f : Fields) (s : State) : Out :=
  issue (.vins h f) false false (fun x _ t => .done (t.modCtx x fun c =>
    c.setVec f.d.num (laneSet (c.vec f.d.num) (tyBits f.ty) (laneIdx c f) (srcS c [] f.a).toNat))) s

/-- VEXT (R143): one lane to a `w`, sign-extended for i types. -/
def execVext (h : Hdr) (f : Fields) (s : State) : Out :=
  issue (.vext h f) false false (fun x _ t => .done (t.modCtx x fun c =>
    c.writeD f.d (extendTy f.ty (laneGet (c.vec f.a.num) (tyBits f.ty) (laneIdx c f))))) s

/-- VPERM (R144). -/
def execVperm (h : Hdr) (f : Fields) (s : State) : Out :=
  vecOp (.vperm h f) f (fun c j => laneGet (c.vec f.a.num) (tyBits f.ty) ((laneSrc c f.b (tyBits f.ty) j) % laneCount f.ty)) s

/-- VSHUF (R145): the place, in A's lanes followed by B's, that lane `i` of `n` takes. -/
def shufflePlace (sub n i : Nat) : Nat :=
  match sub with
  | 0 => if i % 2 = 0 then i / 2 else n + i / 2
  | 1 => if i % 2 = 0 then n / 2 + i / 2 else n + n / 2 + i / 2
  | 2 => 2 * i
  | 3 => 2 * i + 1
  | m => i + m % 64

/-- VSHUF (R145). -/
def execVshuf (h : Hdr) (f : Fields) (s : State) : Out :=
  vecOp (.vshuf h f) f (fun c j => let n := laneCount f.ty; let p := shufflePlace f.sub.toNat n j; laneGet (c.vec (if p < n then f.a.num else f.b.num)) (tyBits f.ty) (p % n)) s

/-- The lanes that a selection predicate names, in order. -/
def selected (m : Word) (n : Nat) : List Nat := (List.range n).filter fun i => bitAt m i

/-- VCOMP (R146): the selected lanes go to the bottom, zeros above. -/
def execVcomp (h : Hdr) (f : Fields) (s : State) : Out :=
  issue (.vcomp h f) false false (fun x _ t => .done (t.modCtx x fun c =>
    let w := tyBits f.ty
    let n := laneCount f.ty
    let l := (selected (c.pred f.b.num) n).map fun i => laneGet (c.vec f.a.num) w i
    c.setVec f.d.num (lanesOf w n fun i => l.getD i 0))) s

/-- VEXPD (R146): consecutive lanes go to the selected ones; the others stay. -/
def execVexpd (h : Hdr) (f : Fields) (s : State) : Out :=
  issue (.vexpd h f) false false (fun x _ t => .done (t.modCtx x fun c =>
    let w := tyBits f.ty
    let n := laneCount f.ty
    let m := c.pred f.b.num
    c.setVec f.d.num (laneMerge (c.vec f.d.num) w n (bitAt m) fun i => laneGet (c.vec f.a.num) w (onesBelow m.toNat i)))) s

/-- VSEL (R147). -/
def execVsel (h : Hdr) (f : Fields) (s : State) : Out :=
  vecOp (.vsel h f) f (fun c j => if bitAt (c.pred (f.subBits 0 3)) j then (laneSrc c f.a (tyBits f.ty) j) else (laneSrc c f.b (tyBits f.ty) j)) s

/-- VIOTA (R147). -/
def execViota (h : Hdr) (f : Fields) (s : State) : Out :=
  vecOp (.viota h f) f (fun c j => if f.subBit 0 then onesBelow (c.pred f.a.num).toNat j else j) s

/-! ### Reduction (R148) -/

/-- One level of the tree: neighbours are joined. -/
def treeLevel (op : Nat → Nat → Nat) : List Nat → List Nat
  | a :: b :: rest => op a b :: treeLevel op rest
  | l => l

/-- The pairwise tree over at most 2^`k` values. -/
def treeFold (op : Nat → Nat → Nat) : Nat → List Nat → Nat
  | 0, l => l.headD 0
  | k + 1, l => treeFold op k (treeLevel op l)

/-- The operation of a reduction. -/
def redOp (sub ty rm a b : Nat) : Nat :=
  match sub with
  | 0 => (a + b) % 2 ^ tyBits ty
  | 1 => minMax ty false a b
  | 2 => minMax ty true a b
  | 3 => a &&& b
  | 4 => a ||| b
  | 5 => a ^^^ b
  | 8 => fAdd (tyFmt ty) rm a b
  | 9 => minMax ty false a b
  | _ => minMax ty true a b

/-- The identity of a reduction. -/
def redIdentity (sub ty : Nat) : Nat :=
  let w := tyBits ty
  match sub with
  | 1 => if tySigned ty then 2 ^ (w - 1) - 1 else 2 ^ w - 1
  | 2 => if tySigned ty then 2 ^ (w - 1) else 0
  | 3 => 2 ^ w - 1
  | 9 => (tyFmt ty).infinity false
  | 10 => (tyFmt ty).infinity true
  | _ => 0

/-- VRED (R148). -/
def execVred (h : Hdr) (f : Fields) (s : State) : Out :=
  issue (.vred h f) false false (fun x _ t => .done (t.modCtx x fun c =>
    let w := tyBits f.ty
    let n := laneCount f.ty
    let sub := f.subBits 0 4
    let vals := (List.range n).map fun i => if laneOn c f i then laneGet (c.vec f.a.num) w i else redIdentity sub f.ty
    let r := treeFold (redOp sub f.ty f.x.rm) (Nat.log2 n) vals
    match f.d with
    | .v m => c.setVec m.toNat (BitVec.ofNat 512 (r % 2 ^ w))
    | d => c.writeD d (extendTy f.ty r))) s

/-! ### Conversions (R149, R150) -/

/-- VCVT (R150). A result that no rule states is a free value (log entry 7). -/
def execVcvt (h : Hdr) (f : Fields) (s : State) : Out :=
  issue (.vcvt h f) false false (fun x _ t =>
    let dst := f.subBits 5 5
    let src := f.subBits 0 5
    let ns := cvtLanes src
    let nd := cvtLanes dst
    let l := min ns nd
    let p := (srcZ (t.ctx x) [] f.b).toNat
    let t1 := t.modCtx x fun c =>
      let a := c.vec f.a.num
      let d := c.vec f.d.num
      let one := fun i => (convert src dst f.x.rm (laneGet a (cvtBits src) (if nd < ns then p * l + i else i))).getD
        (Config.freeWord (t.freeCtr + i)).toNat
      let at0 := if ns < nd then p * l else 0
      c.setVec f.d.num
        (if nd = l then laneMerge d (cvtBits dst) nd (laneOn c f) one
         else (List.range l).foldl (fun v i => if laneOn c f i then laneSet v (cvtBits dst) (at0 + i) (one i) else v) d)
    .done { t1 with freeCtr := t1.freeCtr + l }) s

/-! ### Dot products and block scales (R151, R152) -/

/-- The exact sum of products of a group, added to an accumulator value; none where an operation is invalid. -/
def dotSum (g : FFmt) (rm : Nat) (d : FV) : List (Nat × Nat) → Option FV
  | [] => some d
  | (a, b) :: rest => ((dotSum g rm d rest).bind fun acc => ((g.read a).mul (g.read b)).bind fun p => p.add rm acc)

/-- A float lane of VDOT: NaNs of A, then of B, then D; one rounding. -/
def dotFloat (g : FFmt) (rm d : Nat) (ps : List (Nat × Nat)) : Nat :=
  let quiet := fun c => nanTo g fFP32 c
  match (ps.map (·.1) ++ ps.map (·.2)).find? fun c => (g.read c).isNan with
  | some c => quiet c
  | none =>
    match fFP32.read d with
    | .nan c => fFP32.quiet c
    | v => fFP32.finish rm (dotSum g rm v ps)

/-- A lane of VDOT (R151). -/
def dotLane (ty rm d : Nat) (ps : List (Nat × Nat)) : Nat :=
  if tyFloat ty then dotFloat (tyFmt ty) rm d ps
  else wrapInt 32 (ps.foldl (fun acc e => acc + laneInt ty e.1 * laneInt ty e.2) (signedOf 32 d))

/-- VDOT (R151): sixteen lanes of 32 bits. -/
def execVdot (h : Hdr) (f : Fields) (s : State) : Out :=
  issue (.vdot h f) false false (fun x _ t => .done (t.modCtx x fun c =>
    let w := tyBits f.ty
    let g := 32 / w
    c.setVec f.d.num (lanesOf 32 16 fun i =>
      let d := laneGet (c.vec f.d.num) 32 i
      if laneOn c f i then
        dotLane f.ty f.x.rm d ((List.range g).map fun j => (laneGet (c.vec f.a.num) w (g * i + j), natBits (laneSrc c f.b 32 i) (w * j) w))
      else d))) s

/-- A block-scale code (R120): E8M0, or E4M3. -/
def scaleValue (e4m3 : Bool) (c : Nat) : FV :=
  if e4m3 then fE4M3.read c else if c = 255 then .nan c else .fin false 1 ((c : Int) - 127)

/-- A lane of VSCA (R152). -/
def scaleLane (acc e1 e0 : Bool) (rm c0 c1 a d : Nat) : Nat :=
  match fFP32.read a, scaleValue e0 c0, scaleValue e1 c1 with
  | .nan c, _, _ => fFP32.quiet c
  | _, .nan _, _ => fFP32.canon
  | _, _, .nan _ => fFP32.canon
  | v, x, y =>
    let p := (x.mul y).bind fun q => v.mul q
    if acc then
      match fFP32.read d with
      | .nan c => fFP32.quiet c
      | z => fFP32.finish rm (p.bind fun q => q.add rm z)
    else fFP32.finish rm p

/-- VSCA (R152). -/
def execVsca (h : Hdr) (f : Fields) (s : State) : Out :=
  vecOp (.vsca h f) f (fun c j => scaleLane (f.subBit 2) (f.subBit 1) (f.subBit 0) f.x.rm (fld (srcS c [] f.b) 0 8) (fld (srcS c [] f.b) 8 8) (laneSrc c f.a (tyBits f.ty) j) (laneGet (c.vec f.d.num) (tyBits f.ty) j)) s

/-! ### Vector loads and stores (R153 to R156) -/

/-- The first trap that the elements raise, malformed before misaligned before not resident (R36, R155). -/
def vecTrap (s : State) (x : Nat) (pc : Word) (sz : Nat) (as : List Word) : Option TrapInfo :=
  let k := coreOf x
  match as.find? fun a => resolve k a == .bad with
  | some a => some (malformedTrap pc a)
  | none =>
    match as.find? fun a => a.toNat % sz != 0 with
    | some a => some (misalignedTrap pc a 0)
    | none =>
      match as.find? fun a => (match resolve k a with | .spad m off => m == k && !(resident s k off) | _ => false) with
      | some a => some (syncTrap 0x06 pc (some a) (BitVec.ofNat 64 (slotOf a.toNat)))
      | none => none

/-- A vector access: its traps, the thread's earlier requests and acquires, and the automatic migration of the first element that starts
one; then the effect. -/
def vecAccess (x : Nat) (i : Instr) (f : Fields) (s : State) (eff : List (Nat × Word) → State → Eff) : Eff :=
  let c := s.ctx x
  let es := vecAddrs c f
  match vecTrap s x c.pc (vecElems f.ty).1 (es.map (·.2)) with
  | some e => .trap e s
  | none =>
    let s1 := es.foldl (fun t e => flushOwn x e.2 t) s
    if acquirePending s1 x then .leave (holdHere x i s1)
    else
      let far := es.find? fun e => match resolve (coreOf x) e.2 with
        | .spad k _ => k != coreOf x && autoMigrates s1 x k
        | _ => false
      match far.bind fun e => (match resolve (coreOf x) e.2 with | .spad k _ => autoMigrate x i k s1 | _ => none) with
      | some s2 => .leave s2
      | none => eff es s1

/-- Put the long result numbered `id` of a context into a group. -/
def inGroup (x group id : Nat) (s : State) : State := s.modCtx x fun d =>
  { d with outstanding := d.outstanding.map fun r => if r.id = id then { r with group := group } else r }

/-- One element of a VLD: its access, as a long result of its lane in the group. -/
def vecLoadOne (x : Nat) (f : Fields) (group : Nat) (e : Nat × Word) (s : State) : State :=
  let c := s.ctx x
  let sz := (vecElems f.ty).1
  let dst := if f.ty = 14 then LongDst.v6 f.d.num (8 * e.1) else LongDst.v f.d.num (8 * sz * e.1) (8 * sz)
  let tag := inGroup x group s.nextId
  match resolve (coreOf x) e.2 with
  | .spad k off =>
    let (id, s1) := startLong x dst none s
    launchReq { mkReq x c .load (.spad k off) sz 7 0 e.2 with lr := some id } (tag s1)
  | .dev va => match devLoad (inOrder (coreOf x) c.pid (policyOf c f) va .read s) (coreOf x) c.pid (policyOf c f) va sz with
    | (.ok v, s1) => tag (startLong x dst (some (.ok v)) s1).2
    | (.error er, s1) => tag (startLong x dst (some (.fail (er.trap c.pc e.2))) s1).2
  | .bad => s

/-- VLD (R153 to R155): one access per enabled element; the lanes of D are long results. -/
def execVld (h : Hdr) (f : Fields) (s : State) : Out :=
  issue (.vld h f) false false (fun x _ t =>
    vecAccess x (.vld h f) f t fun es u =>
      let group := u.nextId + 1
      let u1 := es.foldl (fun w e => vecLoadOne x f group e w) { u with nextId := u.nextId + 2 }
      let u2 := if f.ty = 14 then inGroup x group u1.nextId (startLong x (.v f.d.num 384 128) (some (.ok 0)) u1).2 else u1
      .done (if es.isEmpty then u2.modCtx x fun c => { c with vl := true } else u2)) s

/-- One element of a VST: a failed translation is deferred, an error response counts for the VST as a whole (R155). An element in the core's own
scratchpad is stored at once. -/
def vecStoreOne (x : Nat) (f : Fields) (group : Nat) (e : Nat × Word) (s : State) : State :=
  let c := s.ctx x
  let sz := (vecElems f.ty).1
  let v := laneGet (c.vec f.d.num) (8 * sz) e.1
  match resolve (coreOf x) e.2 with
  | .spad k off =>
    if k = coreOf x then
      match portStore s 0 (coreDie k) k off sz v with
      | (.ok _, s1) => s1
      | (.error er, s1) => vstFail x group e.1 (er.trap c.pc e.2) s1
    else sendReq { mkReq x c .store (.spad k off) sz 7 v e.2 with vst := some (group, e.1) } s
  | .dev va => match devStore (inOrder (coreOf x) c.pid (policyOf c f) va .write s) (coreOf x) (some x) c.pid (policyOf c f) va sz v with
    | (.ok _, s1) => s1
    | (.error (.xlate n), s1) => deferStore x c.pc e.2 (BitVec.ofNat 64 n) sz v (policyOf c f) none group e.1 s1
    | (.error er, s1) => vstFail x group e.1 (er.trap c.pc e.2) s1
  | .bad => s

/-- VST (R153 to R156): the elements are stored from the lowest lane, so the highest one remains. -/
def execVst (h : Hdr) (f : Fields) (s : State) : Out :=
  issue (.vst h f) false false (fun x _ t =>
    vecAccess x (.vst h f) f t fun es u =>
      let group := u.nextId
      .done (vstSettle x group (es.foldl (fun w e => vecStoreOne x f group e w) u.fresh.2))) s

end Sys2Proof.Machine
end

