-- ==== Sys2Proof/Machine/Mxe.lean ====
section
/-! DEFINITION. The matrix engine: its commands, their checks and steps, its pre-emption and its image (R263 to R291, and R119 to R123). -/

namespace Sys2Proof.Machine

/-! ### Formats (R121, R264, R278, R280) -/

/-- Bits of an element of an engine format. -/
def engBits (c : Nat) : Nat :=
  match c with
  | 0 | 1 => 32
  | 2 | 3 => 16
  | 6 | 7 | 9 => 6
  | 8 | 12 | 13 => 4
  | _ => 8

/-- Elements that a slot row holds at most (R264). -/
def engKmax (c : Nat) : Nat :=
  match engBits c with
  | 32 => 64
  | 16 => 128
  | 4 => 512
  | _ => 256

/-- Does an engine of the class accept the format (R121). -/
def engAccepts (low : Bool) (c : Nat) : Bool :=
  if low then 4 ≤ c && c ≤ 13 else c ≤ 5 || c == 10 || c == 11

/-- The float format of an engine code 0 to 8. -/
def engFloat (c : Nat) : FFmt :=
  match c with
  | 0 => fFP32
  | 1 => fF19
  | 2 => fBF16
  | 3 => fFP16
  | 4 => fE4M3
  | 5 => fE5M2
  | 6 => fE3M2
  | 7 => fE2M3
  | _ => fE2M1

/-- Is the code an integer format. -/
def engIntCode (c : Nat) : Bool := 10 ≤ c && c ≤ 13

/-- Is the pair permitted (R278). -/
def engPair (a b : Nat) : Bool := (a ≤ 8 && b ≤ 8) || (a == 9 && b == 9) || (engIntCode a && engIntCode b)

/-- Products per cycle of a format on its class (R280). -/
def engRate (low : Bool) (c : Nat) : Nat :=
  match c with
  | 0 => 256
  | 1 => 512
  | 2 | 3 => 1024
  | 6 | 7 => 2048
  | 8 | 9 | 12 | 13 => 4096
  | _ => if low then 1024 else 2048

/-- The block of a step: rows and columns (R283). -/
def engBlock (outputs : Nat) : Nat × Nat :=
  match outputs with
  | 8 => (2, 4)
  | 16 => (4, 4)
  | 32 => (4, 8)
  | 64 => (8, 8)
  | 128 => (8, 16)
  | _ => (16, 16)

/-- A number divided by another, rounded up. -/
def ceilDiv (a b : Nat) : Nat := (a + b - 1) / b

/-! ### Engine arithmetic (R109, R113, R122, R123) -/

/-- The engine's NaN. -/
def engNan : Nat := 0x7FC00000

/-- A sum of FP32 values. -/
def engAdd (a b : Nat) : Nat :=
  if (fFP32.read a).isNan || (fFP32.read b).isNan then engNan
  else fFP32.finish 0 ((fFP32.read a).add 0 (fFP32.read b))

/-- A product of two float codes as an FP32 value. -/
def engMul (g h : FFmt) (a b : Nat) : Nat :=
  if (g.read a).isNan || (h.read b).isNan then engNan
  else fFP32.finish 0 ((g.read a).mul (h.read b))

/-- The table T4 (R113). -/
def tabT4 (f : Nat) : Nat :=
  match f with
  | 0 => 0x3F800000
  | 1 => 0x3F9837F0
  | 2 => 0x3FB504F3
  | _ => 0x3FD744FD

/-- The product of two LNS6 codes (R113): an FP32 value. -/
def lnsMul (a b : Nat) : Nat :=
  if lnsZero a || lnsZero b then 0
  else
    let q : Int := ((a % 32 : Nat) : Int) + ((b % 32 : Nat) : Int) - 32
    let n := q / 4
    let neg := (a / 32 + b / 32) % 2 == 1
    (if neg then 2 ^ 31 else 0) + (((tabT4 (q % 4).toNat : Nat) : Int) + n * 2 ^ 23).toNat

/-- A product of two elements of a float pair. -/
def engProduct (fa fb a b : Nat) : Nat := if fa = 9 then lnsMul a b else engMul (engFloat fa) (engFloat fb) a b

/-- An element of an integer format. -/
def engInt (c n : Nat) : Int :=
  if c = 10 ∨ c = 12 then signedOf (engBits c) n else ((n % 2 ^ engBits c : Nat) : Int)

/-! ### Slots and tiles -/

/-- Row `r` of slot `n`. -/
def Mxe.row (m : Mxe) (n r : Nat) : Nat := (m.rows.getD (64 * n + r) 0).toNat

/-- Replace `len` bits of a slot row at bit `lo`. -/
def Mxe.setRow (m : Mxe) (n r lo len v : Nat) : Mxe :=
  let w := m.rows.getD (64 * n + r) 0
  let mask : BitVec 2048 := BitVec.ofNat 2048 ((2 ^ len - 1) <<< lo)
  { m with rows := m.rows.putD (64 * n + r) 0 ((w &&& ~~~mask) ||| BitVec.ofNat 2048 ((v % 2 ^ len) <<< lo)) }

/-- Element `k` of a slot row in a format (R102, R264). -/
def Mxe.elem (m : Mxe) (n r c k : Nat) : Nat := natBits (m.row n r) (engBits c * k) (engBits c)

/-- Is the slot claimed. -/
def Mxe.claimed (m : Mxe) (n : Nat) : Bool := m.claim.getLsbD n

/-- Element (i, j) of a tile. -/
def Mxe.cell (m : Mxe) (t i j : Nat) : Nat := (m.acc.getD (4096 * t + 64 * i + j) 0).toNat

/-- Write element (i, j) of a tile; its mark goes, or comes with a value computed from bad data (R291). -/
def Mxe.setCell (m : Mxe) (t i j v : Nat) (bad : Bool) : Mxe :=
  let e := 4096 * t + 64 * i + j
  { m with acc := m.acc.putD e 0 (BitVec.ofNat 32 v), badAcc := if bad then m.badAcc.put e true else m.badAcc.erase e }

/-- Is an element of a tile bad. -/
def Mxe.cellBad (m : Mxe) (t i j : Nat) : Bool := (m.badAcc.get? (4096 * t + 64 * i + j)).isSome

/-- Is a bit range of a slot row bad. -/
def Mxe.rowBad (m : Mxe) (n r lo len : Nat) : Bool :=
  !m.badRows.isEmpty && ((m.badRows.get? (32 * (64 * n + r) + lo / 64)).isSome || (m.badRows.get? (32 * (64 * n + r) + (lo + len - 1) / 64)).isSome)

/-- The bad words and elements that a step has read are found, and marked (R291): `rows` are ranges of slot rows as slot, row, first bit and
length, `cells` elements of tiles. -/
def Mxe.markRead (m : Mxe) (rows : List (Nat × Nat × Nat × Nat)) (cells : List (Nat × Nat × Nat)) : Mxe :=
  { m with
    badRows := m.badRows.map fun e => (e.1, e.2 || rows.any fun r =>
      32 * (64 * r.1 + r.2.1) + r.2.2.1 / 64 ≤ e.1 && e.1 ≤ 32 * (64 * r.1 + r.2.1) + (r.2.2.1 + r.2.2.2 - 1) / 64)
    badAcc := m.badAcc.map fun e => (e.1, e.2 || cells.any fun c => 4096 * c.1 + 64 * c.2.1 + c.2.2 == e.1) }

/-- M, N, K and ALAY of the TCSB (R266). -/
def Mxe.dimM (m : Mxe) : Nat := fld m.tcsb 0 6 + 1
def Mxe.dimN (m : Mxe) : Nat := fld m.tcsb 8 6 + 1
def Mxe.dimK (m : Mxe) : Nat := fld m.tcsb 16 9 + 1
def Mxe.colMajor (m : Mxe) : Bool := bitAt m.tcsb 32

/-- The launch-start state (R263): slots, claims, accumulators, TCSB and queue; the recorded occupant and `y.msave` stay. -/
def Mxe.launchStart (m : Mxe) : Mxe :=
  { Mxe.reset with
    occLid := m.occLid, occKey := m.occKey, occV := m.occV, paused := m.paused,
    saveBsy := m.saveBsy, saveErr := m.saveErr, saveAddr := m.saveAddr, saveOp := m.saveOp, savePid := m.savePid,
    saveCore := m.saveCore }

/-! ### Fields of a matrix command (R271) -/

/-- Format of A, or the destination format of ACVT. -/
def EngCmd.fa (e : EngCmd) : Nat := e.f.ty
/-- Format of B. -/
def EngCmd.fb (e : EngCmd) : Nat := e.f.xBits 27 4
/-- Kept values of a sparse group (R279). -/
def EngCmd.kept (e : EngCmd) : Nat := if e.f.xBits 26 1 = 1 then 16 else 8
/-- Is the command MMAS. -/
def EngCmd.sparse (e : EngCmd) : Bool := e.opc == 0xA8
/-- The mask slot. -/
def EngCmd.maskSlot (e : EngCmd) : Nat := e.f.xBits 20 6
/-- ROW0, NROW and LEN of KLD. -/
def EngCmd.row0 (e : EngCmd) : Nat := e.f.xBits 24 6
def EngCmd.nrow (e : EngCmd) : Nat := e.f.xBits 16 6 + 1
def EngCmd.len (e : EngCmd) : Nat := e.f.xBits 8 5 + 1
/-- Scale slot and row of ASCA. -/
def EngCmd.scaleSlot (e : EngCmd) : Nat := e.f.xBits 24 6
def EngCmd.scaleRow (e : EngCmd) : Nat := e.f.xBits 18 6

/-- The address of word or element (i, j) of a transfer (R275, R277). -/
def EngCmd.addr (e : EngCmd) (m : Mxe) (i j : Nat) : Word :=
  let p : Word := if e.f.b.isNone then
      (if e.opc = 0xA3 then BitVec.ofNat 64 (8 * e.len) else BitVec.ofNat 64 (4 * (if m.colMajor then m.dimM else m.dimN)))
    else e.wb
  if e.opc = 0xA3 then e.wa + BitVec.ofNat 64 i * p + BitVec.ofNat 64 (8 * j)
  else if m.colMajor then e.wa + BitVec.ofNat 64 j * p + BitVec.ofNat 64 (4 * i)
  else e.wa + BitVec.ofNat 64 i * p + BitVec.ofNat 64 (4 * j)

/-- Is an address or the pitch malformed or misaligned (status 7). -/
def EngCmd.badAddr (e : EngCmd) (m : Mxe) : Bool :=
  let g := if e.opc = 0xA3 then 8 else 4
  let rows := if e.opc = 0xA3 then e.nrow else m.dimM
  let cols := if e.opc = 0xA3 then e.len else m.dimN
  e.wa.toNat % g != 0 || (!e.f.b.isNone && e.wb.toNat % g != 0)
    || (List.range rows).any fun i => (List.range cols).any fun j => resolve e.core (e.addr m i j) == .bad

/-- The blocks of a product: rows, columns, block rows, block columns (R283). -/
def EngCmd.blocks (e : EngCmd) (low : Bool) (m : Mxe) : Nat × Nat × Nat × Nat :=
  let r := min (engRate low e.fa) (engRate low e.fb)
  let (br, bc) := engBlock (r / (if e.sparse then 16 else 32))
  (br, bc, ceilDiv m.dimM br, ceilDiv m.dimN bc)

/-- A bad mask population (status 4). -/
def EngCmd.badMask (e : EngCmd) (m : Mxe) : Bool :=
  (List.range m.dimM).any fun i => (List.range (m.dimK / 32)).any fun g =>
    ((List.range 32).filter fun t => (natBits (m.row e.maskSlot i) (32 * g) 32).testBit t).length != e.kept

/-- The checks made before any step, in the order of R270, and the number of steps (R283). -/
def EngCmd.check (e : EngCmd) (low : Bool) (m : Mxe) : Nat × Nat :=
  let a := e.f.a.num
  let d := e.f.d.num
  let k := m.dimK
  match e.opc with
  | 0xA0 => (if fld e.wa 33 31 ≠ 0 ∨ fld e.wa 25 7 ≠ 0 ∨ fld e.wa 14 2 ≠ 0 ∨ fld e.wa 6 2 ≠ 0 then 9 else 0, 1)
  | 0xA2 => (if e.wb = 0 ∨ 64 < a + e.wb.toNat then 3 else 0, 1)
  | 0xA3 =>
    (if !(m.claimed d) then 2 else if 64 < e.row0 + e.nrow then 3 else if e.badAddr m then 7 else 0, e.nrow)
  | 0xA4 => (if e.badAddr m then 7 else 0, m.dimM)
  | 0xA5 => (if e.badAddr m then 7 else 0, m.dimM)
  | 0xA7 =>
    let (_, _, nr, nc) := e.blocks low m
    (if !(engAccepts low e.fa && engAccepts low e.fb) then 1
     else if !(engPair e.fa e.fb) then 8
     else if !(m.claimed a && m.claimed e.f.b.num) then 2
     else if engKmax e.fa < k ∨ engKmax e.fb < k then 3 else 0, ceilDiv k 32 * nr * nc)
  | 0xA8 =>
    let (_, _, nr, nc) := e.blocks low m
    (if !(engAccepts low e.fa && engAccepts low e.fb) then 1
     else if !(engPair e.fa e.fb) then 8
     else if !(m.claimed a && m.claimed e.f.b.num && m.claimed e.maskSlot) then 2
     else if k % 32 ≠ 0 ∨ engKmax e.fa < k * e.kept / 32 ∨ engKmax e.fb < k then 3
     else if e.badMask m then 4 else 0, ceilDiv k 32 * nr * nc)
  | 0xA9 => (if !(m.claimed e.scaleSlot) then 2 else if 62 < e.scaleRow then 3 else 0, m.dimM)
  | 0xAA => (if !(m.claimed d) then 2 else 0, m.dimM)
  | _ => (0, 1)

/-! ### The steps (R273 to R283) -/

/-- A step's result: a status, where it failed, and the engine. -/
structure MxeOut where
  m : Mxe
  stat : Nat

/-- Claim or release a range (R274): the status. -/
def EngCmd.claimStep (e : EngCmd) (m : Mxe) : Mxe × Nat :=
  let a := e.f.a.num
  let n := e.wb.toNat
  if n = 0 ∨ 64 < a + n then (m, 2)
  else
    let range : BitVec 64 := BitVec.ofNat 64 ((2 ^ n - 1) <<< a)
    if e.opc = 0xA2 then ({ m with claim := m.claim &&& ~~~range }, 0)
    else if m.claim &&& range ≠ 0 then (m, 1)
    else ({ m with claim := m.claim ||| range }, 0)

/-- The position of A's element for logical position `t` of chunk `c`: none where it is pruned or beyond K (R119, R122). -/
def EngCmd.kept? (e : EngCmd) (m : Mxe) (i c t : Nat) : Option Nat :=
  if m.dimK ≤ 32 * c + t then none
  else if e.sparse then
    let mask := natBits (m.row e.maskSlot i) (32 * c) 32
    if mask.testBit t then some (e.kept * c + ((List.range t).filter fun u => mask.testBit u).length) else none
  else some (32 * c + t)

/-- The ranges of slot rows that one output of a product step reads: slot, row, first bit, length. -/
def EngCmd.mmaReads (e : EngCmd) (m : Mxe) (i j c : Nat) : List (Nat × Nat × Nat × Nat) :=
  (if e.sparse then [(e.maskSlot, i, 32 * c, 32)] else []) ++ (List.range 32).flatMap fun t => match e.kept? m i c t with
    | some k => [(e.f.a.num, i, engBits e.fa * k, engBits e.fa), (e.f.b.num, j, engBits e.fb * (32 * c + t), engBits e.fb)]
    | none => []

/-- One output of a product step (R122, R123): chunk `c` added to element (i, j), and whether bad data entered it. -/
def EngCmd.mmaCell (e : EngCmd) (m : Mxe) (i j c : Nat) : Nat × Bool :=
  let a := e.f.a.num
  let b := e.f.b.num
  let ws := (List.range 32).map fun t => (t, e.kept? m i c t)
  let bad := m.cellBad e.f.d.num i j || (e.mmaReads m i j c).any fun r => m.rowBad r.1 r.2.1 r.2.2.1 r.2.2.2
  let old := m.cell e.f.d.num i j
  let pair := fun (p : Nat × Option Nat) (k : Nat) => (m.elem a i e.fa k, m.elem b j e.fb (32 * c + p.1))
  let new := if engIntCode e.fa then
      wrapInt 32 (ws.foldl (fun acc p => match p.2 with
        | some k => acc + engInt e.fa (pair p k).1 * engInt e.fb (pair p k).2
        | none => acc) (signedOf 32 old))
    else engAdd old (treeFold engAdd 5 (ws.map fun p => match p.2 with
      | some k => engProduct e.fa e.fb (pair p k).1 (pair p k).2
      | none => 0))
  (new, bad)

/-- Step `n` of a product (R283). -/
def EngCmd.mmaStep (e : EngCmd) (low : Bool) (m : Mxe) (n : Nat) : MxeOut :=
  let (br, bc, nr, nc) := e.blocks low m
  let c := n / (nr * nc)
  let bi := n % (nr * nc) / nc
  let bj := n % nc
  let cells := (List.range br).flatMap fun i => (List.range bc).filterMap fun j =>
    if br * bi + i < m.dimM ∧ bc * bj + j < m.dimN then some (br * bi + i, bc * bj + j) else none
  let new := cells.map fun p => (p, e.mmaCell m p.1 p.2 c)
  let m1 := new.foldl (fun u q => u.setCell e.f.d.num q.1.1 q.1.2 q.2.1 q.2.2) m
  if new.any fun q => q.2.2 then ⟨m1.markRead (cells.flatMap fun p => e.mmaReads m p.1 p.2 c) [], 10⟩ else ⟨m1, 0⟩

/-- Step `i` of ASCA: row `i` (R281). -/
def EngCmd.scaleStep (e : EngCmd) (m : Mxe) (i : Nat) : MxeOut :=
  let d := e.f.d.num
  let one := fun j =>
    let a := m.cell e.f.a.num i j
    let v : FV := if e.f.subBit 0 then
        (let n := signedOf 32 a
         .fin (n < 0) n.natAbs 0)
      else fFP32.read a
    let sa := scaleValue (e.f.xBits 17 1 == 1) (natBits (m.row e.scaleSlot e.scaleRow) (8 * i) 8)
    let sb := scaleValue (e.f.xBits 16 1 == 1) (natBits (m.row e.scaleSlot (e.scaleRow + 1)) (8 * j) 8)
    let old := fFP32.read (m.cell d i j)
    let set := e.f.subBit 1
    let r := if v.isNan || sa.isNan || sb.isNan || (!set && old.isNan) then engNan
      else
        let p := (sa.mul sb).bind fun q => v.mul q
        fFP32.finish 0 (if set then p else p.bind fun q => old.add 0 q)
    let bad := m.cellBad e.f.a.num i j || (!set && m.cellBad d i j) || m.rowBad e.scaleSlot e.scaleRow (8 * i) 8
      || m.rowBad e.scaleSlot (e.scaleRow + 1) (8 * j) 8
    (r, bad)
  let new := (List.range m.dimN).map fun j => (j, one j)
  let m1 := new.foldl (fun u q => u.setCell d i q.1 q.2.1 q.2.2) m
  if new.any fun q => q.2.2 then
    ⟨m1.markRead ((e.scaleSlot, e.scaleRow, 8 * i, 8) :: (List.range m.dimN).map fun j => (e.scaleSlot, e.scaleRow + 1, 8 * j, 8))
      ((List.range m.dimN).map fun j => (e.f.a.num, i, j)), 10⟩
  else ⟨m1, 0⟩

/-- The format code of VCVT for an engine format (R111, R149). -/
def engCvt (c : Nat) : Nat :=
  match c with
  | 0 => 8
  | 1 => 11
  | 2 => 9
  | 3 => 10
  | 4 => 12
  | 5 => 13
  | 6 => 16
  | 7 => 17
  | 8 => 18
  | 9 => 14
  | 10 => 0
  | 11 => 1
  | 12 => 19
  | _ => 20

/-- One element converted (R282); a NaN in FP32 is the engine's (R109), one in another format keeps its sign and payload as a conversion does (log
entry 25). -/
def engConvert (int : Bool) (dst rm a : Nat) : Nat :=
  if !int && dst == 0 && (fFP32.read a).isNan then engNan
  else (convert (if int then 4 else 8) (engCvt dst) rm a).getD 0

/-- Step `i` of ACVT: tile row `i` (R282). A result computed from bad data marks the whole 64-bit slot word that holds it (log entry 83). -/
def EngCmd.cvtStep (e : EngCmd) (m : Mxe) (i : Nat) : MxeOut :=
  let d := e.f.d.num
  let w := engBits e.fa
  let tr := e.f.xBits 27 1 == 1
  let m1 := (List.range m.dimN).foldl (fun u j =>
    let v := engConvert (e.f.subBit 0) e.fa (e.f.xBits 28 3) (m.cell e.f.a.num i j)
    let r := if tr then j else i
    let lo := w * (if tr then i else j)
    let u1 := u.setRow d r lo w v
    if m.cellBad e.f.a.num i j then { u1 with badRows := u1.badRows.put (32 * (64 * d + r) + lo / 64) true } else u1) m
  if (List.range m.dimN).any fun j => m.cellBad e.f.a.num i j then
    ⟨m1.markRead [] ((List.range m.dimN).map fun j => (e.f.a.num, i, j)), 10⟩
  else ⟨m1, 0⟩

/-- The status of a failed access on path M (R270): none while it is held. -/
def engStat (xlate resp : Nat) (e : AccErr) : Option Nat :=
  match e with
  | .xlate _ => some xlate
  | .resp _ => some resp
  | .held => none

/-- The words of one row of KLD from word `b` on (R275): the status so far; none where an access is held. -/
def kldWords (q : Nat) (e : EngCmd) (i : Nat) : Nat → Nat → State → Option Nat × State
  | 0, _, s => (some 0, s)
  | n + 1, b, s =>
    match pathLoad s 2 (q / 96) e.core e.pid (e.addr (s.cluster q).mxe i b) 8 with
    | (.error er, s1) => (engStat 5 6 er, s1)
    | (.ok v, s1) =>
      let r := e.row0 + i
      kldWords q e i n (b + 1) (s1.modCluster q fun c =>
        { c with mxe := { c.mxe.setRow e.f.d.num r (64 * b) 64 v with badRows := c.mxe.badRows.erase (32 * (64 * e.f.d.num + r) + b) } })

/-- The elements of one row of ALD from column `j` on (R277). -/
def aldCells (q : Nat) (e : EngCmd) (i : Nat) : Nat → Nat → State → Option Nat × State
  | 0, _, s => (some 0, s)
  | n + 1, j, s =>
    match pathLoad s 2 (q / 96) e.core e.pid (e.addr (s.cluster q).mxe i j) 4 with
    | (.error er, s1) => (engStat 5 6 er, s1)
    | (.ok v, s1) => aldCells q e i n (j + 1) (s1.modCluster q fun c => { c with mxe := c.mxe.setCell e.f.d.num i j v false })

/-- A unit's write carries a poison mark: the line of device memory, or the word of a scratchpad, is poisoned after it (R291, R315). -/
def poisonAt (d pid k : Nat) (a : Word) (s : State) : State :=
  match resolve k a with
  | .dev va => match translate s d pid va .write with
    | (.ok p, s1) => poisonLine s1 p.pa
    | (.error _, s1) => s1
  | .spad c off => spadPoison s c off
  | .bad => s

/-- The elements of one row of AST from column `j` on (R277); a bad element not found before ends the command, a marked one is written with
its mark (R291). -/
def astCells (q : Nat) (e : EngCmd) (i : Nat) : Nat → Nat → State → Option Nat × State
  | 0, _, s => (some 0, s)
  | n + 1, j, s =>
    let m := (s.cluster q).mxe
    let mark := m.badAcc.get? (4096 * e.f.d.num + 64 * i + j)
    if mark = some false then (some 10, s.modCluster q fun c => { c with mxe := c.mxe.markRead [] [(e.f.d.num, i, j)] })
    else
      let a := e.addr m i j
      match pathStore s 2 (q / 96) e.core e.pid a 4 (m.cell e.f.d.num i j) with
      | (.error er, s1) => (engStat 5 6 er, s1)
      | (.ok _, s1) => astCells q e i n (j + 1) (if mark.isSome then poisonAt (q / 96) e.pid e.core a s1 else s1)

/-- The engine's part of a step, for the commands that touch no memory. -/
def EngCmd.pureStep (e : EngCmd) (low : Bool) (m : Mxe) (n : Nat) : MxeOut :=
  match e.opc with
  | 0xA0 => ⟨{ m with tcsb := e.wa, acc := [], badAcc := [] }, 0⟩
  | 0xA1 => ⟨(e.claimStep m).1, 0⟩
  | 0xA2 => ⟨(e.claimStep m).1, 0⟩
  | 0xA6 => ⟨(List.range 64).foldl (fun u i => (List.range 64).foldl (fun v j => v.setCell e.f.d.num i j 0 false) u) m, 0⟩
  | 0xA9 => e.scaleStep m n
  | 0xAA => e.cvtStep m n
  | _ => e.mmaStep low m n

/-- One step of the command in progress: its status, none where an access is held. -/
def mxeStepOf (q : Nat) (e : EngCmd) (n : Nat) (s : State) : Option Nat × State :=
  let m := (s.cluster q).mxe
  match e.opc with
  | 0xA3 => kldWords q e n e.len 0 s
  | 0xA4 => aldCells q e n m.dimN 0 s
  | 0xA5 => astCells q e n m.dimN 0 s
  | _ =>
    let r := e.pureStep (clusterL q) m n
    (some r.stat, s.modCluster q fun c => { c with mxe := r.m })

/-! ### The sequencer (R268, R283 to R286) -/

/-- Change the matrix engine of a cluster. -/
def State.modMxe (s : State) (q : Nat) (g : Mxe → Mxe) : State := s.modCluster q fun c => { c with mxe := g c.mxe }

/-- Begin the oldest queued command where none is in progress: a check that fails ends it without a step (R270). -/
def mxeBegin (q : Nat) (s : State) : State :=
  let m := (s.cluster q).mxe
  match m.cur, m.queue with
  | none, e :: rest =>
    let (stat, tot) := e.check (clusterL q) m
    let s1 := s.modMxe q fun u => { u with queue := rest }
    if stat ≠ 0 then engReply .mxe q e stat none none s1
    else s1.modMxe q fun u => { u with cur := some e, done := 0, tot := tot, lastOpc := e.opc }
  | _, _ => s

/-- Does the engine stop for a pre-emption: between commands, or at a multiple of 64 steps of a command of more than 64 (R284, R285). -/
def Mxe.atPoint (m : Mxe) : Bool := m.cur.isNone || (64 < m.tot && m.done % 64 == 0)

/-- One step of the command in progress, and the command's end (R283, R284, R285). -/
def mxeAdvance (q : Nat) (s : State) : State :=
  let m := (s.cluster q).mxe
  match m.cur with
  | none => s
  | some e =>
    match mxeStepOf q e m.done s with
    | (none, _) => s
    | (some stat, s1) =>
      let s2 := if stat = 0 then s1.modMxe q fun u => { u with done := u.done + 1 } else s1
      let s3 := if stat = 10 then engError q 3 s2 else s2
      let s4 := if stat ≠ 0 ∨ m.done + 1 = m.tot then
          engReply .mxe q e stat (if e.opc = 0xA1 then some (e.claimStep m).2 else none) none (s3.modMxe q fun u => { u with cur := none })
        else s3
      s4.modMxe q fun u => if u.stopReq && u.atPoint then { u with stopReq := false, stopped := true } else u

/-- The energy of a step goes to the sender's energy context (R286, R449). -/
def chargeMxe (q : Nat) (s : State) : State :=
  match (s.cluster q).mxe.cur with
  | none => s
  | some e => chargeStep (q / 96) e.ectx s

/-- An engine of whose cluster every core is offline refuses the commands that it holds (R291). -/
def mxeOffline (q : Nat) (s : State) : State :=
  let m := (s.cluster q).mxe
  (m.cur.toList ++ m.queue).foldl (fun t e => refuseCmd ⟨.mxe, some q, e, false⟩ 0x0D 2 t) (s.modMxe q fun u => { u with cur := none, queue := [] })

/-- MXE_STEP (R283): the next queued command begins where none is in progress, and one step of it is made; nothing while the engine is
stopped or paused. An offline engine refuses what it holds (R291). -/
def execMxeStep (q : Nat) (s : State) : Out :=
  let m := (s.cluster q).mxe
  if clusterDark s q then .next (mxeOffline q s)
  else if m.stopped || m.paused then .next s else .next (mxeAdvance q (chargeMxe q (mxeBegin q s)))

/-! ### Commands (R238, R267, R271) -/

/-- The target cluster of a matrix command: the own one, or the one that W[ER] names (R267). -/
def mxeTarget (x : Nat) (c : Ctx) (f : Fields) : Option Nat :=
  if f.xBits 35 1 = 1 then clusterNamed (c.w (f.xBits 31 4)) else some (clusterOf (coreOf x))

/-- Does the engine of a cluster accept the capability (R238). -/
def Mxe.allows (m : Mxe) (cap : Word) : Bool := bitAt cap 63 && m.occV && fld cap 32 16 == m.occLid && fld cap 0 32 == m.occKey

/-- A matrix command reaches its engine (R267, R268): offline, a full queue, the capability, the queue; a full queue refuses it before its capability
is looked at (log entry 82). -/
def mxeArrive (i : Nat) (m : CmdMsg) (s : State) : State :=
  let gone := { s with cmds := dropAt s.cmds i }
  match m.target with
  | none => refuseCmd m 0x0D 2 gone
  | some q =>
    let e := (s.cluster q).mxe
    if fencedFrom s (coreDie m.cmd.core) (q / 96) then refuseCmd m 0x0C 5 gone
    else if clusterDark s q then refuseCmd m 0x0D 2 gone
    else if 32 ≤ e.queue.length then { s with cmds := s.cmds.set i { m with refused := true } }
    else if !(e.allows m.cmd.cap) then refuseCmd m 0x0B (put (q / 96) 7 1 ||| put (q % 96) 0 7) gone
    else gone.modMxe q fun u => { u with queue := u.queue ++ [m.cmd] }

/-- MXE_COMMAND_ARRIVAL (R267): command `i` on its way arrives, unless an earlier one of its context to the same engine is still on the way. -/
def execMxeCommandArrival (i : Nat) (s : State) : Out :=
  match s.cmds[i]? with
  | none => .next s
  | some m =>
    if m.unit ≠ .mxe ∨ m.refused ∨ ((s.cmds.take i).any fun e => e.follows m) then .next s else .next (mxeArrive i m s)

/-- MXE_COMPLETION_REPLY (R268, R269). -/
def execMxeCompletionReply (i : Nat) (s : State) : Out := .next (replyArrives .mxe i s)

/-- Send a matrix command without a register result. -/
def mxeSend (i : Instr) (f : Fields) (x : Nat) (c : Ctx) (s : State) : Eff :=
  engSend x i f .mxe (mxeTarget x c f) none [] 0 s

/-- TCFG (R273). -/
def execTcfg (h : Hdr) (f : Fields) (s : State) : Out := issue (.tcfg h f) false false (mxeSend (.tcfg h f) f) s
/-- KCLM (R274): its status is a long result. -/
def execKclm (h : Hdr) (f : Fields) (s : State) : Out :=
  issue (.kclm h f) false false (fun x c t => engSend x (.kclm h f) f .mxe (mxeTarget x c f) (some (c.longDst f.d)) [] 0 t) s
/-- KREL (R274). -/
def execKrel (h : Hdr) (f : Fields) (s : State) : Out := issue (.krel h f) false false (mxeSend (.krel h f) f) s
/-- KLD (R275). -/
def execKld (h : Hdr) (f : Fields) (s : State) : Out := issue (.kld h f) false false (mxeSend (.kld h f) f) s
/-- ALD (R277). -/
def execAld (h : Hdr) (f : Fields) (s : State) : Out := issue (.ald h f) false false (mxeSend (.ald h f) f) s
/-- AST (R277). -/
def execAst (h : Hdr) (f : Fields) (s : State) : Out := issue (.ast h f) false false (mxeSend (.ast h f) f) s
/-- AZERO (R276). -/
def execAzero (h : Hdr) (f : Fields) (s : State) : Out := issue (.azero h f) false false (mxeSend (.azero h f) f) s
/-- MMA (R278). -/
def execMma (h : Hdr) (f : Fields) (s : State) : Out := issue (.mma h f) false false (mxeSend (.mma h f) f) s
/-- MMAS (R279). -/
def execMmas (h : Hdr) (f : Fields) (s : State) : Out := issue (.mmas h f) false false (mxeSend (.mmas h f) f) s
/-- ASCA (R281). -/
def execAsca (h : Hdr) (f : Fields) (s : State) : Out := issue (.asca h f) false false (mxeSend (.asca h f) f) s
/-- ACVT (R282). -/
def execAcvt (h : Hdr) (f : Fields) (s : State) : Out := issue (.acvt h f) false false (mxeSend (.acvt h f) f) s
/-- MWAIT (R291). -/
def execMwait (h : Hdr) (f : Fields) (s : State) : Out :=
  issue (.mwait h f) false false (fun x _ t => engWait x (.mwait h f) f .mxe .mwait t) s

/-! ### The image (R288) -/

/-- The parts of an engine image, each an offset and its words, written by a path in this order. -/
def putParts (s : State) (p d k pid : Nat) (a : Word) : List (Nat × List Word) → Except AccErr Unit × State
  | [] => (.ok (), s)
  | (off, ws) :: rest =>
    match pathPutWords s p d k pid (a + BitVec.ofNat 64 off) ws with
    | (.error e, s1) => (.error e, s1)
    | (.ok _, s1) => putParts s1 p d k pid a rest

/-- The words of parts of an image, each given by its offset and its length, read by a path. -/
def getParts (s : State) (p d k pid : Nat) (a : Word) : List (Nat × Nat) → Except AccErr (List (List Word)) × State
  | [] => (.ok [], s)
  | (off, n) :: rest =>
    match pathWords s p d k pid (a + BitVec.ofNat 64 off) n with
    | (.error e, s1) => (.error e, s1)
    | (.ok ws, s1) =>
      match getParts s1 p d k pid a rest with
      | (.error e, s2) => (.error e, s2)
      | (.ok more, s2) => (.ok (ws :: more), s2)

/-- The LID that occupies a cluster. -/
def clusterLid (s : State) (q : Nat) : Nat := ((s.core (clusterCore q 0)).lid).getD 0

/-- The words of the slots and of the tiles. -/
def Mxe.slotWords (m : Mxe) : List Word :=
  (List.range 4096).flatMap fun i => (List.range 32).map fun w => (m.rows.getD i 0).extractLsb' (64 * w) 64
def Mxe.tileWords (m : Mxe) : List Word :=
  (List.range 16384).map fun i => BitVec.ofNat 64 ((m.acc.getD (2 * i) 0).toNat + 2 ^ 32 * (m.acc.getD (2 * i + 1) 0).toNat)

/-- May `y.msave` act: an operation of its kind waits. -/
def Mxe.saving (m : Mxe) (op : Nat) : Bool := m.saveBsy && m.saveOp == op

/-- Is the engine stopped or idle (R288). -/
def Mxe.still (m : Mxe) : Bool := m.stopped || (m.cur.isNone && m.queue.isEmpty)

/-- The parts of the image of the matrix engine: the command in progress lies in the bytes that the spec gives no content (log entry 14). -/
def mxeImage (q : Nat) (s : State) : List (Nat × List Word) × State :=
  let m := (s.cluster q).mxe
  let (v, s1) := s.free
  let prog := (if m.cur.isSome then put (v.toNat % 255) 56 8 else put 0xFF 56 8) ||| put m.done 0 16
  let (cw, s2) := imageCmds m.cur.toList s1
  let (fill, s3) := freeWords (252 - cw.length) s2
  let (qw, s4) := imageCmds m.queue s3
  let (rest, s5) := freeWords (256 - qw.length) s4
  ([(0, [m.tcsb, m.claim, prog, put (clusterLid s q) 32 16 ||| put m.queue.length 0 6]), (0x20, cw ++ fill),
    (0x800, qw ++ rest), (0x1000, m.slotWords), (0x101000, m.tileWords)], s5)

/-- MSAVE_SAVE (R288): the image is written, and the engine is then as at the start of a launch. While an access is held at its home, BSY stays (R162). -/
def execMsaveSave (q : Nat) (s : State) : Out :=
  let m := (s.cluster q).mxe
  if !(m.saving 1) then .next s
  else if !m.still then .next (s.modMxe q fun u => { u with saveBsy := false, saveErr := true })
  else
    let (parts, s1) := mxeImage q s
    match putParts s1 2 (q / 96) m.saveCore m.savePid m.saveAddr parts with
    | (.error .held, _) => .next s
    | (.error _, s2) => .next (s2.modMxe q fun u => { u with saveBsy := false, saveErr := true })
    | (.ok _, s2) => .next (s2.modMxe q fun u => { u.launchStart with saveBsy := false, saveErr := false })

/-- The matrix engine that the parts of an image give: it is stopped (R288). -/
def Mxe.ofImage (u : Mxe) (low : Bool) (s : State) (hd sl tl : List Word) : Mxe :=
  let cur := if fld (hd.getD 2 0) 56 8 = 0xFF then none else imageCmd s ((hd.drop 4).take 8)
  let v := { u.launchStart with
    tcsb := put (fld (hd.getD 0 0) 32 1) 32 1 ||| put (fld (hd.getD 0 0) 16 9) 16 9 ||| put (fld (hd.getD 0 0) 8 6) 8 6
      ||| put (fld (hd.getD 0 0) 0 6) 0 6
    claim := hd.getD 1 0
    rows := (List.range 4096).foldl (fun (acc : SMap (BitVec 2048)) i =>
      acc.putD i 0 (BitVec.ofNat 2048 (((sl.drop (32 * i)).take 32).foldr (fun (w : Word) n => w.toNat + 2 ^ 64 * n) 0))) []
    acc := (List.range 32768).foldl (fun (a : SMap (BitVec 32)) i =>
      a.putD i 0 (BitVec.ofNat 32 (fld (tl.getD (i / 2) 0) (32 * (i % 2)) 32))) []
    queue := imageQueue s (min 32 (fld (hd.getD 3 0) 0 6)) (hd.drop 256)
    cur := cur
    done := fld (hd.getD 2 0) 0 16
    stopped := true
    saveBsy := false
    saveErr := false }
  { v with tot := (cur.map fun e => (e.check low v).2).getD 0, lastOpc := (cur.map fun e => e.opc).getD 0 }

/-- The places and lengths in words of the parts that a restore of the matrix engine reads (R288). -/
def mxeParts : List (Nat × Nat) := [(0, 512), (0x1000, 131072), (0x101000, 16384)]

/-- MSAVE_RESTORE (R288): the engine is left stopped for the restored launch; BSY stays while an access is held. -/
def execMsaveRestore (q : Nat) (s : State) : Out :=
  let m := (s.cluster q).mxe
  let fail := fun (t : State) => Host.Outcome.next (t.modMxe q fun u => { u with saveBsy := false, saveErr := true })
  if !(m.saving 2) then .next s
  else if !m.still then fail s
  else match getParts s 2 (q / 96) m.saveCore m.savePid m.saveAddr mxeParts with
    | (.error .held, _) => .next s
    | (.error _, s1) => fail s1
    | (.ok ws, s1) => .next (s1.modMxe q fun u => u.ofImage (clusterL q) s (ws.getD 0 []) (ws.getD 1 []) (ws.getD 2 []))

end Sys2Proof.Machine
end

