-- ==== Sys2Proof/Machine/Spe.lean ====
section
/-! DEFINITION. The sum-product engine: its commands and their execution, bank timing, and its image (R292 to R315). -/

namespace Sys2Proof.Machine

/-! ### Arithmetic (R116, R117, R293, R305) -/

/-- A value computed by the engine, with the flags it sets. -/
structure SpVal where
  code : Nat
  of : Bool
  uf : Bool
  deriving DecidableEq, Repr

/-- A value that sets no flag. -/
def SpVal.plain (c : Nat) : SpVal := ⟨c, false, false⟩

/-- A PS result. -/
def PSOut.val (p : PSOut) : SpVal := ⟨p.code, p.of, p.uf⟩

/-- An exact non-negative product m × 2^−e. -/
structure PSProd where
  m : Nat
  e : Nat
  deriving DecidableEq, Repr

/-- The exact product of two PS codes. -/
def psProd (a b : Nat) : PSProd := ⟨(psRead a).m * (psRead b).m, (psRead a).e + (psRead b).e + 80⟩

/-- Is an exact product below another. -/
def PSProd.lt (a b : PSProd) : Bool :=
  if b.m = 0 then false
  else if a.m = 0 then true
  else
    let la : Int := (Nat.log2 a.m : Int) - a.e
    let lb : Int := (Nat.log2 b.m : Int) - b.e
    if la ≠ lb then la < lb else decide (a.m <<< (b.e - a.e) < b.m <<< (a.e - b.e))

/-- RoundPS of an exact product. -/
def PSProd.round (a : PSProd) : PSOut := roundPS a.m (-(a.e : Int)) false

/-- RoundPS of the sum of two exact products: one far below the other is only a rest. -/
def PSProd.addRound (a b : PSProd) : PSOut :=
  if a.m = 0 then b.round
  else if b.m = 0 then a.round
  else
    let lo := min a.e b.e
    let hi := max a.e b.e
    if 256 ≤ hi - lo then roundPS ((if a.e ≤ b.e then a.m else b.m) <<< 96) (-((lo : Int) + 96)) true
    else roundPS ((a.m <<< (hi - a.e)) + (b.m <<< (hi - b.e))) (-(hi : Int)) false

/-- The sum wl × l + wr × r of FP32 values with one rounding (R305). -/
def spFma (wl l wr r : Nat) : Nat :=
  if [wl, l, wr, r].any fun c => (fFP32.read c).isNan then engNan
  else fFP32.finish 0
    (((fFP32.read wl).mul (fFP32.read l)).bind fun p => ((fFP32.read wr).mul (fFP32.read r)).bind fun q => p.add 0 q)

/-- The low half of a register: its FP32 value (R293). -/
def lowHalf (c : Nat) : Nat := c % 2 ^ 32

/-- Does the right side of a max win: not on equal values, nor with a NaN (R305). -/
def spRight (mode l r : Nat) : Bool :=
  if mode = 0 then
    (let x := fFP32.read (lowHalf l)
     let y := fFP32.read (lowHalf r)
     !x.isNan && !y.isNan && x.below y)
  else psLt l r

/-- Max (R305, R117). -/
def spMax (mode l r : Nat) : Nat :=
  if mode = 0 then
    if (fFP32.read (lowHalf l)).isNan || (fFP32.read (lowHalf r)).isNan then engNan
    else if spRight 0 l r then lowHalf r else lowHalf l
  else if spRight mode l r then r else l

/-- The sum of two registers by mode; in max-product mode the larger. -/
def spAdd (mode l r : Nat) : SpVal :=
  match mode with
  | 0 => .plain (engAdd (lowHalf l) (lowHalf r))
  | 1 => (psAdd l r).val
  | _ => .plain (spMax mode l r)

/-- The product of two registers by mode. -/
def spMul (mode l r : Nat) : SpVal :=
  if mode = 0 then .plain (engMul fFP32 fFP32 (lowHalf l) (lowHalf r)) else (psMul l r).val

/-- The value of a node (R305); `fr` stands for the operations that no entry of SPSHP has. -/
def spNode (mode op l r wl wr fr : Nat) : SpVal :=
  let keep := fun c => SpVal.plain (if mode = 0 then lowHalf c else c)
  match op with
  | 0 => keep l
  | 1 => keep r
  | 2 => spAdd mode l r
  | 3 => spMul mode l r
  | 4 => .plain (spMax mode l r)
  | 5 =>
    if mode = 0 then .plain (spFma (lowHalf wl) (lowHalf l) (lowHalf wr) (lowHalf r))
    else if mode = 1 then ((psProd wl l).addRound (psProd wr r)).val
    else (if (psProd wl l).lt (psProd wr r) then psProd wr r else psProd wl l).round.val
  | _ => .plain fr

/-! ### Shapes (R294, R295) -/

/-- A shape entry's words. -/
abbrev Shape := List Word

/-- Operation of a node, offset of a leaf, weight register of a node. -/
def shapeOp (sh : Shape) (n : Nat) : Nat := fld (sh.getD 0 0) (3 * n) 3
def shapeOff (sh : Shape) (l : Nat) : Nat := fld (sh.getD (1 + l / 8) 0) (8 * (l % 8)) 8
def shapeWt (sh : Shape) (n : Nat) : Nat := fld (sh.getD (3 + n / 4) 0) (16 * (n % 4)) 10

/-- Does an entry break the rules of R294 (status 1). -/
def shapeBad (sh : Shape) : Bool :=
  fld (sh.getD 0 0) 45 19 != 0 || ((List.range 15).any fun n => 6 ≤ shapeOp sh n)
    || ((List.range 16).any fun n => fld (sh.getD (3 + n / 4) 0) (16 * (n % 4) + 10) 6 != 0)
    || shapeWt sh 15 != 0 || sh.getD 7 0 != 0

/-- An entry of the table. -/
def Spe.shape (e : Spe) (n : Nat) : Shape := (List.range 8).map fun k => e.shapes.getD (8 * n + k) 0

/-- A register. -/
def Spe.reg (e : Spe) (n : Nat) : Nat := (e.q.getD (n % 1024) 0).toNat

/-- Write a register; its mark goes. -/
def Spe.setReg (e : Spe) (n v : Nat) : Spe :=
  { e with q := e.q.putD (n % 1024) 0 (BitVec.ofNat 64 v), badQ := e.badQ.erase (n % 1024) }

/-- Write a register with the flags of the value. -/
def Spe.putVal (e : Spe) (n : Nat) (v : SpVal) : Spe := { e.setReg n v.code with oflow := e.oflow || v.of, uflow := e.uflow || v.uf }

/-- The launch-start state (R292); `y.spsave` stays. -/
def Spe.launchStart (e : Spe) : Spe :=
  { Spe.reset with
    paused := e.paused, saveBsy := e.saveBsy, saveErr := e.saveErr, saveAddr := e.saveAddr, saveOp := e.saveOp, savePid := e.savePid,
    saveCore := e.saveCore }

/-! ### Fields of a command (R299, R304, R306) -/

/-- QN. -/
def EngCmd.qn (e : EngCmd) : Nat := e.f.xBits 26 10

/-- The enabled trees, in order. -/
def EngCmd.trees (e : EngCmd) : List Nat := (List.range 4).filter fun t => e.en.testBit t

/-- Shape entry, leaf base, output base of W[B], derivative base of W[B+1] and root derivative of W[D] for a tree. -/
def EngCmd.sh (e : EngCmd) (t : Nat) : Nat := fld e.wa (8 * t) 8
def EngCmd.lb (e : EngCmd) (t : Nat) : Nat := fld e.wa1 (16 * t) 10
def EngCmd.ob (e : EngCmd) (t : Nat) : Nat := fld e.wb (16 * t) 10
def EngCmd.db (e : EngCmd) (t : Nat) : Nat := fld e.wb1 (16 * t) 10
def EngCmd.rd (e : EngCmd) (t : Nat) : Nat := fld e.wd (16 * t) 10

/-- The count of SPLD, SPST and SPNORM: of W[B] or W[A]. -/
def EngCmd.count (e : EngCmd) : Nat := if e.opc = 0xB6 then e.wa.toNat else e.wb.toNat

/-! ### Registers read and written, and bank timing (R309, R310) -/

/-- Leaves of the sides that level-0 operations read. -/
def leafSet (sh : Shape) : List Nat :=
  (List.range 8).flatMap fun n => match shapeOp sh n with
    | 0 => [2 * n]
    | 1 => [2 * n + 1]
    | _ => [2 * n, 2 * n + 1]

/-- Registers that SPUP reads for a tree. -/
def upReads (sh : Shape) (lb : Nat) : List Nat :=
  (leafSet sh).map (fun l => (lb + shapeOff sh l) % 1024)
    ++ ((List.range 15).filter fun n => shapeOp sh n == 5).flatMap fun n => [shapeWt sh n, (shapeWt sh n + 1) % 1024]

/-- Registers of a saved block. -/
def blockRegs (o : Nat) : List Nat := (List.range 15).map fun i => (o + i) % 1024

/-- Derivative registers of a tree. -/
def derivRegs (sh : Shape) (db : Nat) : List Nat := (leafSet sh).map fun l => (db + shapeOff sh l) % 1024

/-- Registers that a command reads. -/
def EngCmd.spReads (e : EngCmd) (u : Spe) : List Nat :=
  match e.opc with
  | 0xB1 => (List.range e.count).map fun i => (e.qn + i) % 1024
  | 0xB6 => (List.range e.count).map fun i => (e.qn + i) % 1024
  | 0xB3 => e.trees.flatMap fun t => upReads (u.shape (e.sh t)) (e.lb t)
  | 0xB4 => e.trees.flatMap fun t =>
      let sh := u.shape (e.sh t)
      upReads sh (e.lb t) ++ [e.rd t] ++ blockRegs (e.ob t) ++ derivRegs sh (e.db t)
  | _ => []

/-- Registers that SPUP or SPDN writes. -/
def EngCmd.spWrites (e : EngCmd) (u : Spe) : List Nat :=
  e.trees.flatMap fun t =>
    if e.opc = 0xB3 then (if e.f.subBit 4 then blockRegs (e.ob t) else [e.ob t]) else derivRegs (u.shape (e.sh t)) (e.db t)

/-- The largest number of distinct registers in one bank, divided and rounded up; at least 1. -/
def bankCycles (regs : List Nat) (per : Nat) : Nat :=
  let d := regs.foldl (fun l r => if l.contains r then l else r :: l) []
  (List.range 16).foldl (fun m b => max m (ceilDiv (d.filter fun r => r % 16 == b).length per)) 1

/-- Add the stall cycles of an SPUP or SPDN (R310). -/
def EngCmd.addStall (e : EngCmd) (u0 u : Spe) : Spe :=
  { u with stall := (u.stall + (bankCycles (e.spReads u0) 2 - 1) + (bankCycles (e.spWrites u0) 1 - 1)) % 2 ^ 32 }

/-! ### SPUP (R304) -/

/-- The values of the nodes of a tree in order, so far, for one more node. -/
def upNode (u0 : Spe) (sh : Shape) (lb fr : Nat) (vs : List SpVal) (n : Nat) : List SpVal :=
  let side := fun r => if n < 8 then u0.reg (lb + shapeOff sh (2 * n + r)) else (vs.getD (2 * (n - 8) + r) (.plain 0)).code
  vs ++ [spNode u0.mode (shapeOp sh n) (side 0) (side 1) (u0.reg (shapeWt sh n)) (u0.reg (shapeWt sh n + 1)) fr]

/-- The fifteen node values of a tree. -/
def upTree (u0 : Spe) (sh : Shape) (lb fr : Nat) : List SpVal := (List.range 15).foldl (upNode u0 sh lb fr) []

/-- SPUP: every tree is evaluated on the registers before, then the writes in order. -/
def EngCmd.spUp (e : EngCmd) (u0 : Spe) (fr : Nat) : Spe :=
  let all := e.trees.map fun t => (e.ob t, upTree u0 (u0.shape (e.sh t)) (e.lb t) fr)
  let flags := all.foldl (fun u p => { u with oflow := u.oflow || p.2.any (·.of), uflow := u.uflow || p.2.any (·.uf) }) u0
  let u1 := all.foldl (fun u p =>
    let v := fun n => (p.2.getD n (.plain 0)).code
    let u2 := u.setReg p.1 (v 14)
    if e.f.subBit 4 then (List.range 14).foldl (fun w n => w.setReg (p.1 + 1 + n) (v n)) u2 else u2) flags
  e.addStall u0 u1

/-! ### SPDN (R306) -/

/-- The derivatives of both sides of a node: none where a side receives none. -/
def spBack (mode op : Nat) (d l r wl wr : Nat) : Option SpVal × Option SpVal :=
  let keep := some (SpVal.plain d)
  match op with
  | 0 => (keep, none)
  | 1 => (none, keep)
  | 2 => if mode = 2 then (if spRight mode l r then (none, keep) else (keep, none)) else (keep, keep)
  | 3 => (some (spMul mode d r), some (spMul mode d l))
  | 4 => if spRight mode l r then (none, keep) else (keep, none)
  | 5 =>
    if mode = 2 then
      if (psProd wl l).lt (psProd wr r) then (none, some (spMul mode d wr)) else (some (spMul mode d wl), none)
    else (some (spMul mode d wl), some (spMul mode d wr))
  | _ => (none, none)

/-- The accumulation into a derivative register. -/
def spAcc (mode g x : Nat) : SpVal := spAdd mode g x

/-- One node of the descent: `ds` the derivatives by node, `ls` those of the leaves. -/
def dnNode (u0 : Spe) (sh : Shape) (lb ob : Nat) (acc : SMap SpVal × SMap SpVal) (n : Nat) : SMap SpVal × SMap SpVal :=
  match acc.1.get? n with
  | none => acc
  | some d =>
    let val := fun r => if n < 8 then u0.reg (lb + shapeOff sh (2 * n + r)) else u0.reg (ob + 1 + (2 * (n - 8) + r))
    let (dl, dr) := spBack u0.mode (shapeOp sh n) d.code (val 0) (val 1) (u0.reg (shapeWt sh n)) (u0.reg (shapeWt sh n + 1))
    let give := fun (a : SMap SpVal × SMap SpVal) (r : Nat) (o : Option SpVal) => match o with
      | none => a
      | some v => if n < 8 then (a.1, a.2.put (2 * n + r) v) else (a.1.put (2 * (n - 8) + r) v, a.2)
    give (give acc 0 dl) 1 dr

/-- The derivatives of the leaves of a tree. -/
def dnTree (u0 : Spe) (sh : Shape) (lb ob rd : Nat) : SMap SpVal × SMap SpVal :=
  (List.range 15).reverse.foldl (dnNode u0 sh lb ob) (SMap.put [] 14 (.plain (if u0.mode = 0 then lowHalf (u0.reg rd) else u0.reg rd)), [])

/-- SPDN: tree by tree, leaf by leaf, into the running registers. -/
def EngCmd.spDn (e : EngCmd) (u0 : Spe) : Spe :=
  let u1 := e.trees.foldl (fun u t =>
    let sh := u0.shape (e.sh t)
    let (ds, ls) := dnTree u0 sh (e.lb t) (e.ob t) (e.rd t)
    let seen := ds.map (·.2) ++ ls.map (·.2)
    let u2 := { u with oflow := u.oflow || seen.any (·.of), uflow := u.uflow || seen.any (·.uf) }
    (List.range 16).foldl (fun w l => match ls.get? l with
      | none => w
      | some x =>
        let g := e.db t + shapeOff sh l
        w.putVal g (spAcc u0.mode (w.reg g) x.code)) u2) u0
  e.addStall u0 u1

/-! ### SPMODE and SPNORM (R303, R307) -/

/-- The exponent of a PS value after exact normalisation. -/
def psNorm (c : Nat) : Int := ((psRead c).e : Int) + 39 - (Nat.log2 (psRead c).m : Nat)

/-- The common exponent of a set, and whether anything is written. -/
def normExp (codes : List Nat) : Nat × Bool :=
  if codes.any fun c => c == psOne then (0, true)
  else match codes.filter fun c => (psRead c).m != 0 with
    | [] => (0, false)
    | c :: rest => ((min (2 ^ 24 - 1 : Int) (rest.foldl (fun m d => min m (psNorm d)) (psNorm c))).toNat, true)

/-- One value aligned to the common exponent. -/
def normOne (sc : Bool) (ce code : Nat) : SpVal :=
  let v := psRead code
  let sh : Int := (ce : Int) - v.e
  let m := if sh < -64 then 0 else roundAt 0 false v.m sh false 0
  if m = 0 then ⟨0, false, true⟩ else .plain (m * 2 ^ 24 + (if sc then 0 else ce))

/-- SPNORM on the set of registers: C with the engine. -/
def EngCmd.spNorm (e : EngCmd) (u : Spe) : Nat × Spe :=
  let regs := (List.range e.count).map fun i => (e.qn + i) % 1024
  let (ce, go) := normExp (regs.map u.reg)
  if go then
    (ce, regs.foldl (fun w r =>
      let c := u.reg r
      if (psRead c).m = 0 ∨ c = psOne then w else w.putVal r (normOne (e.f.subBit 0) ce c)) u)
  else (ce, u)

/-! ### Memory commands (R301, R302, R311) -/

/-- Bytes of an element of SPLD and SPST. -/
def EngCmd.esize (e : EngCmd) : Nat := if e.f.ty = 15 then 8 else 4

/-- Address of an element. -/
def EngCmd.eaddr (e : EngCmd) (i : Nat) : Word := e.wa + BitVec.ofNat 64 (i * e.esize)

/-- A memory element as a register, by mode (R301). -/
def spLoad (mode ty v : Nat) : SpVal :=
  match mode == 0, ty == 15 with
  | true, false => .plain (lowHalf v)
  | true, true => .plain (psToFloat 0 v)
  | false, false => (floatToPS (fFP32.read v)).val
  | false, true => .plain v

/-- A register as a memory element, by mode (R301). -/
def spStore (mode ty v : Nat) : SpVal :=
  match mode == 0, ty == 15 with
  | true, false => .plain (lowHalf v)
  | true, true => (floatToPS (fFP32.read (lowHalf v))).val
  | false, false => .plain (psToFloat 0 v)
  | false, true => .plain v

/-- Change the SPE of a cluster. -/
def State.modSpe (s : State) (q : Nat) (g : Spe → Spe) : State := s.modCluster q fun c => { c with spe := g c.spe }

/-- The elements of SPLD from element `i` on: the status, none where an access is held. -/
def spLoads (q : Nat) (e : EngCmd) : Nat → Nat → State → Option Nat × State
  | 0, _, s => (some 0, s)
  | n + 1, i, s =>
    match pathLoad s 4 (q / 96) e.core e.pid (e.eaddr i) e.esize with
    | (.error er, s1) => (engStat 4 5 er, s1)
    | (.ok v, s1) => spLoads q e n (i + 1) (s1.modSpe q fun u => u.putVal (e.qn + i) (spLoad u.mode e.f.ty v))

/-- The elements of SPST from element `i` on; a marked register is written with its mark (R315). -/
def spStores (q : Nat) (e : EngCmd) : Nat → Nat → State → Option Nat × State
  | 0, _, s => (some 0, s)
  | n + 1, i, s =>
    let u := (s.cluster q).spe
    let v := spStore u.mode e.f.ty (u.reg (e.qn + i))
    let s0 := s.modSpe q fun u => { u with oflow := u.oflow || v.of, uflow := u.uflow || v.uf }
    match pathStore s0 4 (q / 96) e.core e.pid (e.eaddr i) e.esize v.code with
    | (.error er, s1) => (engStat 4 5 er, s1)
    | (.ok _, s1) =>
      spStores q e n (i + 1) (if (u.badQ.get? ((e.qn + i) % 1024)).isSome then poisonAt (q / 96) e.pid e.core (e.eaddr i) s1 else s1)

/-- Is the address of a memory command malformed or misaligned (status 6). -/
def EngCmd.spAddrBad (e : EngCmd) : Bool :=
  let n := if e.opc = 0xB2 then 8 else e.count
  let g := if e.opc = 0xB2 then 8 else e.esize
  e.wa.toNat % g != 0 || (List.range n).any fun i => resolve e.core (e.wa + BitVec.ofNat 64 (i * g)) == .bad

/-! ### Execution (R296, R298, R315) -/

/-- The status found before any effect, in the order of R298. -/
def EngCmd.spCheck (e : EngCmd) (u : Spe) : Nat :=
  match e.opc with
  | 0xB0 => if e.count = 0 ∨ 64 < e.count then 3 else if e.spAddrBad then 6 else 0
  | 0xB1 => if e.count = 0 ∨ 64 < e.count then 3 else if e.spAddrBad then 6 else 0
  | 0xB2 => if 255 < e.wb.toNat then 3 else if e.spAddrBad then 6 else 0
  | 0xB5 => if fld e.wa 0 2 = 3 then 8 else 0
  | 0xB6 => if u.mode = 0 then 2 else if e.count = 0 ∨ 64 < e.count then 3 else 0
  | _ => 0

/-- Does the command read a bad register or entry: found now, or marked; an SPST carries a mark on (R315). -/
def EngCmd.spBad (e : EngCmd) (u : Spe) : Bool :=
  let hit := fun (m : Option Bool) => match m with
    | some found => !(e.opc == 0xB1 && found)
    | none => false
  (!u.badQ.isEmpty && (e.spReads u).any fun r => hit (u.badQ.get? r))
    || ((e.opc == 0xB3 || e.opc == 0xB4) && e.trees.any fun t => (u.badShape.get? (e.sh t)).isSome)

/-- Execute a command: its status, none where an access is held, and the long result (R301 to R307). -/
def speRun (q : Nat) (e : EngCmd) (s : State) : Option Nat × Option Nat × State :=
  let u := (s.cluster q).spe
  let st := e.spCheck u
  if st ≠ 0 then (some st, none, s)
  else if e.spBad u then
    (some 7, none, engError q 4 (s.modSpe q fun v => { v with
      badQ := v.badQ.map fun b => (b.1, b.2 || (e.spReads u).contains b.1)
      badShape := v.badShape.map fun b => (b.1, b.2 || e.trees.any fun t => e.sh t == b.1) }))
  else match e.opc with
    | 0xB0 =>
      let (r, t) := spLoads q e e.count 0 s
      (r, none, t)
    | 0xB1 =>
      let (r, t) := spStores q e e.count 0 s
      (r, none, t)
    | 0xB2 => match pathWords s 4 (q / 96) e.core e.pid e.wa 8 with
      | (.error er, t) => (engStat 4 5 er, none, t)
      | (.ok ws, t) =>
        if shapeBad ws then (some 1, none, t)
        else
          let n := e.wb.toNat
          (some 0, none, t.modSpe q fun v =>
            { v with shapes := (List.range 8).foldl (fun m k => m.putD (8 * n + k) 0 (ws.getD k 0)) v.shapes, badShape := v.badShape.erase n })
    | 0xB3 => (some 0, none, s.free.2.modSpe q fun v => e.spUp v s.free.1.toNat)
    | 0xB4 => (some 0, none, s.modSpe q fun v => e.spDn v)
    | 0xB5 =>
      (some 0, some (u.cfgWord 0).toNat, s.modSpe q fun v =>
        let w := { v with mode := fld e.wa 0 2 }
        if e.f.subBit 0 then { w with oflow := false, uflow := false } else w)
    | _ =>
      let (ce, v) := e.spNorm u
      (some 0, some ce, s.modSpe q fun _ => v)

/-- SPE_COMMAND_EXECUTE (R296, R313): the oldest queued command is executed in full, its energy goes to the sender's energy context, and its
reply is sent. -/
def execSpeCommandExecute (q : Nat) (s : State) : Out :=
  let u := (s.cluster q).spe
  match u.queue with
  | [] => .next s
  | e :: rest =>
    if u.stopped || u.paused || clusterDark s q then .next s
    else match speRun q e s with
      | (none, _, _) => .next s
      | (some st, lval, s1) =>
        .next (endCmd .spe q e st lval ((chargeStep (q / 96) e.ectx s1).modSpe q fun v => { v with queue := rest }))

/-- SPE_COMPLETION_REPLY (R296, R297). -/
def execSpeCompletionReply (i : Nat) (s : State) : Out := .next (replyArrives .spe i s)

/-! ### Instructions (R299) -/

/-- Send an SPE command of context `x`. -/
def speSend (i : Instr) (f : Fields) (x : Nat) (_ : Ctx) (s : State) : Eff :=
  engSend x i f .spe (some (clusterOf (coreOf x))) none [] 0 s

/-- Send an SPE command with a long result where D is present. -/
def speSendD (i : Instr) (f : Fields) (x : Nat) (c : Ctx) (s : State) : Eff :=
  engSend x i f .spe (some (clusterOf (coreOf x))) (if f.d.isNone then none else some (c.longDst f.d)) [] 0 s

/-- SPLD (R301). -/
def execSpld (h : Hdr) (f : Fields) (s : State) : Out := issue (.spld h f) false false (speSend (.spld h f) f) s
/-- SPST (R301). -/
def execSpst (h : Hdr) (f : Fields) (s : State) : Out := issue (.spst h f) false false (speSend (.spst h f) f) s
/-- SPSHP (R302). -/
def execSpshp (h : Hdr) (f : Fields) (s : State) : Out := issue (.spshp h f) false false (speSend (.spshp h f) f) s
/-- SPUP (R304). -/
def execSpup (h : Hdr) (f : Fields) (s : State) : Out := issue (.spup h f) false false (speSend (.spup h f) f) s
/-- SPDN (R306). -/
def execSpdn (h : Hdr) (f : Fields) (s : State) : Out := issue (.spdn h f) false false (speSend (.spdn h f) f) s
/-- SPMODE (R303). -/
def execSpmode (h : Hdr) (f : Fields) (s : State) : Out := issue (.spmode h f) false false (speSendD (.spmode h f) f) s
/-- SPNORM (R307). -/
def execSpnorm (h : Hdr) (f : Fields) (s : State) : Out := issue (.spnorm h f) false false (speSendD (.spnorm h f) f) s
/-- SPWAIT (R308). -/
def execSpwait (h : Hdr) (f : Fields) (s : State) : Out :=
  issue (.spwait h f) false false (fun x _ t => engWait x (.spwait h f) f .spe .spwait t) s

/-! ### The image (R314) -/

/-- May `y.spsave` act. -/
def Spe.saving (u : Spe) (op : Nat) : Bool := u.saveBsy && u.saveOp == op

/-- Is the engine stopped or idle. -/
def Spe.still (u : Spe) : Bool := u.stopped || u.queue.isEmpty

/-- The parts of the image of the sum-product engine. -/
def speImage (q : Nat) (s : State) : List (Nat × List Word) × State :=
  let u := (s.cluster q).spe
  let (qw, s1) := imageCmds u.queue s
  let (rest, s2) := freeWords (128 - qw.length) s1
  ([(0, [flag u.oflow 63 ||| flag u.uflow 62 ||| put u.mode 0 2, put (clusterLid s q) 32 16 ||| put u.stall 0 32, put u.queue.length 0 5]),
    (0x400, qw ++ rest), (0x800, (List.range 1024).map fun i => u.q.getD i 0), (0x2800, (List.range 2048).map fun i => u.shapes.getD i 0)], s2)

/-- SPSAVE_SAVE (R314): the image is written, and the engine is then as at the start of a launch. While an access is held at its home, BSY stays (R162). -/
def execSpsaveSave (q : Nat) (s : State) : Out :=
  let u := (s.cluster q).spe
  if !(u.saving 1) then .next s
  else if !u.still then .next (s.modSpe q fun v => { v with saveBsy := false, saveErr := true })
  else
    let (parts, s1) := speImage q s
    match putParts s1 4 (q / 96) u.saveCore u.savePid u.saveAddr parts with
    | (.error .held, _) => .next s
    | (.error _, s2) => .next (s2.modSpe q fun v => { v with saveBsy := false, saveErr := true })
    | (.ok _, s2) => .next (s2.modSpe q fun v => { v.launchStart with saveBsy := false, saveErr := false })

/-- The sum-product engine that the parts of an image give: it is stopped (R314). -/
def Spe.ofImage (v : Spe) (s : State) (hd qs sh : List Word) : Spe :=
  { v.launchStart with
    oflow := bitAt (hd.getD 0 0) 63
    uflow := bitAt (hd.getD 0 0) 62
    mode := fld (hd.getD 0 0) 0 2
    stall := fld (hd.getD 1 0) 0 32
    q := (List.range 1024).foldl (fun m i => m.putD i 0 (qs.getD i 0)) []
    shapes := (List.range 2048).foldl (fun m i => m.putD i 0 (sh.getD i 0)) []
    queue := imageQueue s (min 16 (fld (hd.getD 2 0) 0 5)) (hd.drop 128)
    stopped := true
    saveBsy := false
    saveErr := false }

/-- The places and lengths in words of the parts that a restore of the sum-product engine reads (R314). -/
def speParts : List (Nat × Nat) := [(0, 256), (0x800, 1024), (0x2800, 2048)]

/-- SPSAVE_RESTORE (R314): the engine is left stopped; BSY stays while an access is held. -/
def execSpsaveRestore (q : Nat) (s : State) : Out :=
  let u := (s.cluster q).spe
  let fail := fun (t : State) => Host.Outcome.next (t.modSpe q fun v => { v with saveBsy := false, saveErr := true })
  if !(u.saving 2) then .next s
  else if !u.still then fail s
  else match getParts s 4 (q / 96) u.saveCore u.savePid u.saveAddr speParts with
    | (.error .held, _) => .next s
    | (.error _, s1) => fail s1
    | (.ok ws, s1) => .next (s1.modSpe q fun v => v.ofImage s (ws.getD 0 []) (ws.getD 1 []) (ws.getD 2 []))

end Sys2Proof.Machine
end

