-- ==== Sys2Proof/Machine/Weaver.lean ====
section
/-! DEFINITION. The weaver: its channels, the weaving of an event into a tile, closing, write-out and the flush record (R316 to R325). -/

namespace Sys2Proof.Machine

/-! ### Channels and buffers (R316 to R318) -/

/-- Channel `ch` of a cluster. -/
def wvChan (s : State) (q ch : Nat) : WvChan := (s.cluster q).wv.getD ch WvChan.reset

/-- Change channel `ch` of a cluster. -/
def modWv (q ch : Nat) (g : WvChan → WvChan) (s : State) : State :=
  s.modCluster q fun c => { c with wv := c.wv.put ch (g (c.wv.getD ch WvChan.reset)) }

/-- Buffer 0 or 1 of a channel. -/
def WvChan.buf (c : WvChan) (b : Nat) : WvBuf := if b = 0 then c.b0 else c.b1

/-- Replace buffer 0 or 1. -/
def WvChan.setBuf (c : WvChan) (b : Nat) (u : WvBuf) : WvChan := if b = 0 then { c with b0 := u } else { c with b1 := u }

/-- MODE of a channel. -/
def WvChan.mode (c : WvChan) : Nat := fld c.w0 0 2

/-- Columns and rows of a channel's tile. -/
def WvChan.cols (c : WvChan) : Nat := fld c.w0 14 6 + 1
def WvChan.rows (c : WvChan) : Nat := fld c.w0 8 6 + 1

/-- Bytes of a cell (R318). -/
def WvChan.cellBytes (c : WvChan) : Nat := if c.mode = 2 then 2 else 1

/-- The empty value of a cell (R318). -/
def WvChan.empty (c : WvChan) : Nat := if c.mode = 2 then 0xBC00 else 0

/-- The bytes of a row of the target: P (R321). -/
def WvChan.pitch (c : WvChan) : Nat := ceilDiv (c.cols * c.cellBytes) 8 * 8

/-- Add to a 16-bit counter that saturates. -/
def addSat16 (a n : Nat) : Nat := min 65535 (a + n)

/-- The number of the open buffer, if there is one. -/
def WvChan.openBuf (c : WvChan) : Option Nat := [0, 1].find? fun b => (c.buf b).st == .opened

/-- The number of a free buffer. -/
def WvChan.freeBuf (c : WvChan) : Option Nat := [c.turn, 1 - c.turn].find? fun b => (c.buf b).st == .free

/-- The CAUSE bits of the conditions that hold by themselves at a device time: the count has reached THR, TMO has passed (R320). -/
def WvChan.holds (c : WvChan) (u : WvBuf) (now : Nat) : Nat :=
  let thr := fld c.w3 0 16
  let tmo := fld c.w3 16 16
  (if thr ≠ 0 ∧ thr ≤ u.count then 1 else 0) + (if tmo ≠ 0 ∧ u.openedAt + 1000 * tmo ≤ now then 2 else 0)

/-- Close buffer `b`, once, with the bits of every condition that has arisen or holds (R320). -/
def WvChan.close (c : WvChan) (b now : Nat) : WvChan :=
  let u := c.buf b
  { c.setBuf b { u with st := .pending, cause := u.cause ||| c.holds u now, dueAt := none, closed := c.closings } with
    closings := c.closings + 1 }

/-- A condition with these CAUSE bits arises for buffer `b`: it closes at the end of the mesh cycle (R320). -/
def WvChan.due (c : WvChan) (b bits now : Nat) : WvChan :=
  let u := c.buf b
  c.setBuf b { u with cause := u.cause ||| bits, dueAt := some (u.dueAt.getD now) }

/-- Where TMO has passed for the open buffer, that condition arose when it did, or another one before it (R320). -/
def WvChan.timed (c : WvChan) (now : Nat) : WvChan :=
  match c.openBuf with
  | none => c
  | some b =>
    let u := c.buf b
    let t := u.openedAt + 1000 * fld c.w3 16 16
    if fld c.w3 16 16 ≠ 0 ∧ t ≤ now then c.setBuf b { u with dueAt := some (min (u.dueAt.getD t) t) } else c

/-- The open buffer closes, with the conditions of that moment, where one has arisen for it in an earlier mesh cycle than what comes next; `same`:
what comes next belongs to the same cycle where device time has not moved on. -/
def WvChan.settle (c0 : WvChan) (now : Nat) (same : Bool) : WvChan :=
  let c := c0.timed now
  match c.openBuf with
  | none => c
  | some b =>
    match (c.buf b).dueAt with
    | none => c
    | some t => if same && t == now then c else c.close b t

/-! ### The weaving of an event (R318 to R320) -/

/-- The age of an event in units of 1,024 ns as FP16: Round(((PMK − TB) mod 2^48) / 1,024, RNE), at most 65,504 (R318). -/
def eventAge (pmk tb : Nat) : Nat :=
  let n := (pmk + 2 ^ 48 - tb) % 2 ^ 48
  if n = 0 then 0 else min 0x7BFF (fFP16.round 0 false n (-10) false)

/-- A cell after an event (R318). -/
def WvChan.cellAfter (c : WvChan) (cell pmk tb : Nat) (pos : Bool) : Nat :=
  match c.mode with
  | 0 => min 127 (cell + 1)
  | 1 =>
    let v := signedOf 8 cell + (if pos then 1 else -1)
    wrapInt 8 (max (-127) (min 127 v))
  | _ =>
    let t := eventAge pmk tb
    if cell = 0xBC00 then t else max cell t

/-- PMK of an event (R197). -/
def Ev.pmk (e : Ev) : Nat := fld e.w0 16 48

/-- The cell, by 64 row + column, that an event maps to; none where it lies outside the tile (R319). -/
def WvChan.place (c : WvChan) (e : Ev) : Option Nat :=
  if bitAt c.w0 3 then
    let id := fld e.w1 32 24
    let idb := fld c.w2 32 24
    if id < idb ∨ c.rows * c.cols ≤ id - idb then none else some (64 * ((id - idb) / c.cols) + (id - idb) % c.cols)
  else
    let x := fld e.w1 52 12
    let y := fld e.w1 40 12
    let x0 := fld c.w2 0 12
    let y0 := fld c.w2 16 12
    let sh := fld c.w0 20 4
    if x < x0 ∨ y < y0 then none
    else
      let col := (x - x0) / 2 ^ sh
      let row := (y - y0) / 2 ^ sh
      if c.cols ≤ col ∨ c.rows ≤ row then none else some (64 * row + col)

/-- Weave an event at a cell into buffer `b`, at a device time; the buffer is to close where the count reaches THR (R320). -/
def WvChan.weaveInto (c : WvChan) (b cell : Nat) (e : Ev) (now : Nat) : WvChan :=
  let u := c.buf b
  let u1 := if u.st = .free then
      { WvBuf.reset with st := .opened, tb := e.pmk, grp := e.grp, window := e.win, openedAt := now }
    else u
  let u2 := { u1 with
    cells := u1.cells.putD cell c.empty (c.cellAfter (u1.cells.getD cell c.empty) e.pmk u1.tb (bitAt e.w1 16))
    lastPmk := e.pmk
    count := u1.count + 1 }
  let c1 := { c.setBuf b u2 with turn := if u.st = .free then 1 - b else c.turn }
  let thr := fld c.w3 0 16
  if thr ≠ 0 ∧ thr ≤ u2.count then c1.due b 0 now else c1

/-- An event of a later window closes the open buffer first, woven or not (R320). -/
def WvChan.laterWindow (c : WvChan) (e : Ev) (now : Nat) : WvChan :=
  match c.openBuf with
  | some b => if (c.buf b).grp.isSome ∧ (c.buf b).grp = e.grp ∧ (c.buf b).window < e.win then (c.due b 4 now).close b now else c
  | none => c

/-- An event reaches an enabled channel (R319, R320); a late event is dealt with at the stop (R392). `same`: it may come in the mesh cycle of a
condition that has just arisen. -/
def WvChan.take (c0 : WvChan) (e : Ev) (now : Nat) (same : Bool) : WvChan :=
  if c0.en = false then { c0 with drop := addSat16 c0.drop 1 }
  else
    let c := (c0.settle now same).laterWindow e now
    if e.drop then { c with drop := addSat16 c.drop 1 }
    else if fld c.w0 24 8 ≠ 0xFF ∧ fld e.w1 32 8 ≠ fld c.w0 24 8 then { c with out := addSat16 c.out 1 }
    else match c.place e with
      | none => { c with out := addSat16 c.out 1 }
      | some cell =>
        match (match c.openBuf with | some b => some b | none => c.freeBuf) with
        | none => { c with drop := addSat16 c.drop 1 }
        | some b => c.weaveInto b cell e now

/-- Change a channel at the present device time; whether that is the mesh cycle of a condition that has arisen at the same time is a free choice
(log entry 32). -/
def modWvNow (q ch : Nat) (g : Nat → Bool → WvChan → WvChan) (s : State) : State :=
  modWv q ch (g s.pkg.time (bitAt s.free.1 0)) s.free.2

/-- Windows of a group below `k` have closed at a weaver channel: the open buffer of such a window is to close (R320, R393). -/
def closeWindows (q ch ge k : Nat) (s : State) : State :=
  modWvNow q ch (fun now same c0 =>
    let c := c0.settle now same
    match c.openBuf with
    | some b => if (c.buf b).grp = some ge ∧ (c.buf b).window < k then c.due b 4 now else c
    | none => c) s

/-! ### Commands (R324) -/

/-- Does a descriptor install: the checks of R324. -/
def wvValid (ws : List Word) : Bool :=
  let w0 := ws.getD 0 0
  let c : WvChan := { WvChan.reset with w0 := w0 }
  fld w0 0 2 != 3 && fld w0 20 4 ≤ 11 && bitAt (ws.getD 4 0) 53 && fld (ws.getD 4 0) 44 5 ≤ 23
    && fld w0 32 32 == 0 && !(bitAt w0 7) && (bitAt w0 2 || fld (ws.getD 1 0) 6 58 == 0)
    && fld (ws.getD 2 0) 56 8 == 0 && fld (ws.getD 2 0) 28 4 == 0 && fld (ws.getD 2 0) 12 4 == 0
    && fld (ws.getD 3 0) 32 32 == 0 && fld (ws.getD 4 0) 54 10 == 0 && fld (ws.getD 4 0) 50 3 == 0 && fld (ws.getD 4 0) 0 39 == 0
    && ws.getD 5 0 == 0 && ws.getD 6 0 == 0 && ws.getD 7 0 == 0 && (bitAt w0 2 || decide (c.pitch ≤ 256))

/-- Both buffers of a channel are discarded (R324). -/
def WvChan.discard (c : WvChan) : WvChan := { c with b0 := WvBuf.reset, b1 := WvBuf.reset }

/-- A channel with a valid descriptor installed by core `k`. -/
def WvChan.install (c : WvChan) (k : Nat) (ws : List Word) : WvChan :=
  let w0 := ws.getD 0 0
  { c with
    en := bitAt w0 6
    w0 := w0
    target := if bitAt w0 2 then globalOf k (ws.getD 1 0) else ws.getD 1 0
    w2 := ws.getD 2 0
    w3 := ws.getD 3 0
    w4 := ws.getD 4 0
    arm := true
    drop := 0
    out := 0
    err := 0 }

/-- A status reaches D as a long result (R324). -/
def longStatus (x : Nat) (d : Opnd) (v : Nat) (s : State) : State :=
  if d.isNone then s else (startLong x ((s.ctx x).longDst d) (some (.ok v)) s).2

/-- The channel that a weaver command names. -/
def Fields.chan (f : Fields) : Nat := Fields.xBits f 32 2

/-- WVCFG (R324). -/
def execWvcfg (h : Hdr) (f : Fields) (s : State) : Out :=
  issue (.wvcfg h f) false false (fun x c t =>
    let k := coreOf x
    let q := clusterOf k
    let ch := Fields.chan f
    let a := srcS c [] f.a
    let fail := fun (n : Nat) (u : State) =>
      Eff.done (longStatus x f.d n (modWv q ch (fun w => { w.discard with en := false, err := n }) u))
    if a.toNat % 8 ≠ 0 then fail 2 t
    else match pathWords t 3 (coreDie k) k c.pid a 8 with
      | (.error .held, _) => .leave (holdHere x (.wvcfg h f) t)
      | (.error _, t1) => fail 3 t1
      | (.ok ws, t1) =>
        if wvValid ws then .done (longStatus x f.d 0 (modWv q ch (fun w => w.discard.install k ws) t1)) else fail 1 t1) s

/-- WVARM (R324). -/
def execWvarm (h : Hdr) (f : Fields) (s : State) : Out :=
  issue (.wvarm h f) false false (fun x c t =>
    .done (modWv (clusterOf (coreOf x)) (Fields.chan f) (fun w =>
      { w with
        arm := true
        target := if f.a.isNone then w.target
          else if bitAt w.w0 2 then globalOf (coreOf x) (srcS c [] f.a) else srcS c [] f.a }) t)) s

/-- WVFLSH (R320, R324). -/
def execWvflsh (h : Hdr) (f : Fields) (s : State) : Out :=
  issue (.wvflsh h f) false false (fun x _ t =>
    .done (modWvNow (clusterOf (coreOf x)) (Fields.chan f) (fun now same w0 =>
      let w := w0.settle now same
      match w.openBuf with
      | some b => w.due b 8 now
      | none => w) t)) s

/-- Is a buffer closed and not yet free. -/
def WvBuf.waiting (u : WvBuf) : Bool := u.st == .pending || u.st == .written

/-- The status word of a channel (R324). -/
def WvChan.status (c : WvChan) : Word :=
  flag c.en 63 ||| flag c.arm 62 ||| put ([c.b0, c.b1].countP WvBuf.waiting) 60 2 ||| put c.err 56 4 ||| put c.drop 32 16 ||| put c.out 16 16
    ||| put (match c.openBuf with | some b => addSat16 (c.buf b).count 0 | none => 0) 0 16

/-- WVSTAT (R324). -/
def execWvstat (h : Hdr) (f : Fields) (s : State) : Out :=
  issue (.wvstat h f) false false (fun x _ t =>
    let q := clusterOf (coreOf x)
    let ch := Fields.chan f
    let t0 := modWv q ch (fun w => w.settle t.pkg.time false) t
    let t1 := longStatus x f.d (wvChan t0 q ch).status.toNat t0
    .done (if f.subBit 0 then modWv q ch (fun w => { w with drop := 0, out := 0 }) t1 else t1)) s

/-! ### Closing, write-out and the record (R320 to R323) -/

/-- BUFFER_TIMEOUT (R320): TMO µs have passed since the first event of the open buffer. -/
def execBufferTimeout (q ch : Nat) (s : State) : Out :=
  .next (if clusterDark s q then s
    else modWvNow q ch (fun now same c0 =>
      let c := c0.settle now same
      match c.openBuf with
      | some b => if 2 ≤ c.holds (c.buf b) now then c.due b 0 now else c
      | none => c) s)

/-- Word `j` of row `r` of a closed tile: padding is zero (R321). -/
def WvChan.tileWord (c : WvChan) (u : WvBuf) (r j : Nat) : Nat :=
  let per := 8 / c.cellBytes
  (List.range per).foldl (fun n i =>
    let col := per * j + i
    n + (if col < c.cols then u.cells.getD (64 * r + col) c.empty else 0) * 2 ^ (8 * c.cellBytes * i)) 0

/-- The pending buffer that was closed first. -/
def WvChan.oldest (c : WvChan) : Option Nat :=
  match c.b0.st == .pending, c.b1.st == .pending with
  | true, true => some (if c.b0.closed < c.b1.closed then 0 else 1)
  | true, false => some 0
  | false, true => some 1
  | false, false => none

/-- The rows of a tile go to a slot of the matrix engine, at byte 256 × row (R321). -/
def Mxe.putTile (m : Mxe) (n : Nat) (c : WvChan) (u : WvBuf) : Mxe :=
  (List.range c.rows).foldl (fun t r =>
    (List.range (c.pitch / 8)).foldl (fun v j =>
      { v.setRow n r (64 * j) 64 (c.tileWord u r j) with badRows := v.badRows.erase (32 * (64 * n + r) + j) }) t) m

/-- The words of a tile at a scratchpad address, in rising order. -/
def WvChan.tileWords (c : WvChan) (u : WvBuf) : List Word :=
  (List.range (c.rows * (c.pitch / 8))).map fun i => BitVec.ofNat 64 (c.tileWord u (i / (c.pitch / 8)) (i % (c.pitch / 8)))

/-- Is the whole target of a scratchpad tile a range of one scratchpad, 8-byte aligned (R323, STAT 4). -/
def WvChan.targetOk (c : WvChan) : Bool :=
  match resolve 0 c.target with
  | .spad _ off => off % 8 == 0 && decide (off + c.rows * c.pitch ≤ 262144)
  | _ => false

/-- WRITE_OUT (R321, R323): the pending buffer that was closed first goes to the target; the record is posted afterwards. A weaver whose cluster
is offline does nothing. -/
def execWriteOut (q ch : Nat) (s0 : State) : Out :=
  let s := modWv q ch (fun w => w.settle s0.pkg.time false) s0
  let c := wvChan s q ch
  if clusterDark s0 q then .next s0
  else match (if c.arm then c.oldest else none) with
  | none => .next s
  | some b =>
    let u := c.buf b
    let done := fun (stat : Nat) (t : State) =>
      modWv q ch (fun w => { w.setBuf b { u with st := .written, stat := stat, tgt := c.target } with arm := false }) t
    if bitAt c.w0 2 then
      (if c.targetOk then
        match pathPutWords s 3 (q / 96) (clusterCore q 0) 0 c.target (c.tileWords u) with
        | (.error .held, _) => .next s
        | (.error _, t) => .next (done 5 t)
        | (.ok _, t) => .next (done 0 t)
      else .next (done 4 s))
    else if (s.cluster q).mxe.cur.isSome then .next s
    else if fld c.target 6 58 ≠ 0 then .next (done 4 s)
    else if (s.cluster q).mxe.claimed (fld c.target 0 6) then
      .next (done 0 (s.modMxe q fun m => m.putTile (fld c.target 0 6) c u))
    else .next (done 2 s)

/-- The kind-3 record of buffer `b` (R322); its SEQ is a free value. -/
def flushRecord (c : WvChan) (ch b : Nat) (s : State) : Rec × State :=
  let u := c.buf b
  let (sq, s1) := s.free
  ({ w0 := put 3 0 4 ||| put (fld c.w0 4 2) 8 2 ||| put ch 20 12
     w1 := 0
     w2 := put (if u.grp.isSome then u.window else 0) 32 32 ||| put (addSat16 u.count 0) 16 16 ||| put u.stat 12 4 ||| put u.cause 8 4
       ||| put b 2 1 ||| put ch 0 2
     w3 := put u.tb 0 48
     w4 := put u.lastPmk 0 48
     w5 := u.tgt
     w6 := 0
     w7 := put (fld sq 0 32) 0 32 }, s1)

/-- BUFFER_FREE (R321, R323): the record of a written buffer is accepted and the buffer is free; with NCORE offline or killed it is discarded
and the events count as dropped. -/
def execBufferFree (q ch b : Nat) (s : State) : Out :=
  let c := wvChan s q ch
  if (c.buf b).st ≠ .written ∨ clusterDark s q then .next s
  else
    let k := hintCore c.w4
    if coreOnline s k = false then
      .next (modWv q ch (fun w => { w.setBuf b WvBuf.reset with drop := addSat16 w.drop (c.buf b).count }) s)
    else
      let (r, s1) := flushRecord c ch b s
      match deliverNotice k r s1 with
      | none => .next s
      | some s2 => .next (modWv q ch (fun w => w.setBuf b WvBuf.reset) s2)

end Sys2Proof.Machine
end

