-- ==== Sys2Proof/Machine/Eiu.lean ====
section
/-! DEFINITION. The event ingress unit: sensor ports, source FIFOs, drop markers, window groups and their heartbeats, the destinations'
stops, late events and the window barrier (R197 to R199, R386 to R394). -/

namespace Sys2Proof.Machine

/-! ### Ports and sources (R386 to R389) -/

/-- The low 48 bits of device time. -/
def postmark (s : State) : Nat := s.pkg.time % 2 ^ 48

/-- Add to a 32-bit counter of a die that saturates (R387). -/
def addSat32 (m : SMap Nat) (k n : Nat) : SMap Nat := m.put k (min (2 ^ 32 - 1) (m.getD k 0 + n))

/-- Count discarded wire events of a port (R386, R387). -/
def badEvent (d port n : Nat) (s : State) : State := s.modDie d fun dd => { dd with badEvents := addSat32 dd.badEvents port n }

/-- The FIFO of a source. -/
def fifoOf (s : State) (d src : Nat) : List FifoItem := (s.die d).fifos.getD src []

/-- Events in a FIFO; heartbeats take no place. -/
def fifoCount (l : List FifoItem) : Nat := (l.filter fun i => i.hb.isNone).length

/-- Put an item at the end of a source's FIFO. -/
def fifoPush (d src : Nat) (i : FifoItem) (s : State) : State :=
  s.modDie d fun dd => { dd with fifos := dd.fifos.put src (dd.fifos.getD src [] ++ [i]) }

/-- The next SEQ of a source (R388). -/
def takeSeq (d src : Nat) (s : State) : Nat × State :=
  ((s.die d).seqs.getD src 0, s.modDie d fun dd => { dd with seqs := dd.seqs.put src ((dd.seqs.getD src 0 + 1) % 65536) })

/-- The two words of an event (R197). -/
def eventWords (pmk src kind addr val seq : Nat) (drop : Bool) : Ev :=
  ⟨put pmk 16 48 ||| put src 4 12 ||| put kind 0 4, put addr 32 32 ||| put val 16 16 ||| put seq 0 16, false, drop, 0, none, 0, 0⟩

/-- The entry of a source in its die's table. -/
def srcEntry (s : State) (d src : Nat) : Word := (s.die d).srcTab.getD src 0

/-- A drop marker enters a FIFO that has room after drops (R388). -/
def pushMarker (d src : Nat) (s : State) : State :=
  match (s.die d).drops.get? src with
  | none => s
  | some r =>
    if 256 ≤ fifoCount (fifoOf s d src) then s
    else
      let (seq, s1) := takeSeq d src (s.modDie d fun dd => { dd with drops := dd.drops.erase src })
      fifoPush d src ⟨eventWords (postmark s) src r.kind 0 (min 65535 r.count) seq true, srcEntry s d src, r.port, none⟩ s1

/-- A wire event of a valid source enters the source's FIFO, or is dropped and still consumes a SEQ (R388). -/
def wireIn (d port src : Nat) (w : Word) (s : State) : State :=
  let s1 := pushMarker d src s
  let kind := fld w 0 4
  let (seq, s2) := takeSeq d src s1
  if 256 ≤ fifoCount (fifoOf s1 d src) then
    s2.modDie d fun dd => { dd with drops := dd.drops.put src ⟨(dd.drops.getD src ⟨0, 0, 0⟩).count + 1, kind, port⟩ }
  else fifoPush d src ⟨eventWords (postmark s) src kind (fld w 32 32) (fld w 16 16) seq false, srcEntry s d src, port, none⟩ s2

/-- One wire event of a packet (R386, R389). -/
def wireEvent (d port src : Nat) (w : Word) (s : State) : State :=
  if 4095 < src ∨ fld w 4 12 ≠ 0 ∨ bitAt (srcEntry s d src) 63 = false then badEvent d port 1 s else wireIn d port src w s

/-- Little-endian words of a payload. -/
def payloadWords : List Byte → List Word
  | a :: b :: c :: d :: e :: f :: g :: h :: rest => (h ++ g ++ f ++ e ++ d ++ c ++ b ++ a) :: payloadWords rest
  | _ => []

/-- The source of a packet, where the port takes it: `chan` is 64 × virtual channel + data type on a camera port, the UDP port on a
network port (R386). -/
def packetSource (cfg : Word) (chan : Nat) : Option Nat :=
  if bitAt cfg 62 then
    let base := fld cfg 44 16
    if base ≤ chan ∧ chan ≤ base + 255 ∧ chan < 65536 then some (fld cfg 0 12 + (chan - base)) else none
  else
    let dt := chan % 64
    if 0x30 ≤ dt ∧ dt ≤ 0x37 ∧ chan < 1024 then some (fld cfg 0 12 + 8 * (chan / 64) + (dt - 0x30)) else none

/-- WIRE_PACKET_RECEIVE (R386, R388): device port `p` receives a packet; `good`: its CRC, FCS or checksum holds. -/
def execWirePacketReceive (p chan : Nat) (good : Bool) (bytes : List Byte) (s : State) : Out :=
  let d := p / 4
  let port := p % 4
  let cfg := (s.die d).portCfg.getD port 0
  if 8 ≤ p ∨ bitAt cfg 63 = false ∨ (bitAt cfg 62 = false ∧ fld cfg 60 2 = 3) ∨ (s.die d).run ≠ .running then .next s
  else match packetSource cfg chan with
    | none => .next s
    | some src =>
      if good = false ∨ bytes.length % 8 ≠ 0 then .next (s.modDie d fun dd => { dd with badPackets := addSat32 dd.badPackets port 1 })
      else .next ((payloadWords bytes).foldl (fun t w => wireEvent d port src w t) s)

/-- DROP_MARKER (R388). -/
def execDropMarker (d src : Nat) (s : State) : Out := .next (pushMarker d src s)

/-! ### Window groups (R390) -/

/-- Word `w` of group `g` of a die. -/
def grpWord (s : State) (d g w : Nat) : Word := (s.die d).groups.getD (8 * g + w) 0

/-- Destination `e` of a group, 16 bits. -/
def grpDst (s : State) (d g e : Nat) : Nat := fld (grpWord s d g (4 + e / 4)) (16 * (e % 4)) 16

/-- Fields of a destination. -/
def dstValid (v : Nat) : Bool := natBits v 15 1 == 1
def dstWeaver (v : Nat) : Option Nat := if natBits v 14 1 = 1 then some (natBits v 12 2) else none
def dstCore (v : Nat) : Nat := coreAt (natBits v 10 1) (natBits v 5 5) (natBits v 0 5)

/-- The place that an event or a destination names: a core, or a channel of a cluster. -/
def placeKey (core : Nat) (weaver : Option Nat) : Nat :=
  match weaver with
  | none => core
  | some ch => 10000 + 4 * clusterOf core + ch

/-- The sources of a group: valid entries of its die with GV set. -/
def grpSources (s : State) (d g : Nat) : List Nat :=
  ((s.die d).srcTab.filter fun e => bitAt e.2 63 && bitAt e.2 59 && fld e.2 53 6 == g).map (·.1)

/-- The numbers of the valid destinations of a group. -/
def grpDests (s : State) (d g : Nat) : List Nat := (List.range 16).filter fun e => dstValid (grpDst s d g e)

/-- How many groups with EN list a place as a destination. -/
def placeGroups (s : State) (key : Nat) : Nat :=
  ((List.range 128).filter fun n =>
    bitAt (grpWord s (n / 64) (n % 64) 0) 63
      && (grpDests s (n / 64) (n % 64)).any fun e =>
        let v := grpDst s (n / 64) (n % 64) e
        placeKey (dstCore v) (dstWeaver v) == key).length

/-- The length of a group's windows. -/
def grpLen (s : State) (d g : Nat) : Nat := fld (grpWord s d g 1) 0 32

/-- Is a group enabled: EN, and none of the limits of R390 is broken. -/
def grpEnabled (s : State) (d g : Nat) : Bool :=
  bitAt (grpWord s d g 0) 63 && 64 ≤ grpLen s d g && (grpSources s d g).length ≤ 64
    && (grpDests s d g).all fun e =>
      let v := grpDst s d g e
      natBits v 5 5 ≤ 23 && placeGroups s (placeKey (dstCore v) (dstWeaver v)) ≤ 4

/-- B_k: the first postmark of window `k` (R390). -/
def windowStart (s : State) (d g k : Nat) : Nat := (fld (grpWord s d g 0) 0 48 + k * grpLen s d g) % 2 ^ 48

/-- Does postmark `a` precede `b` (R390). -/
def precedes (a b : Nat) : Bool :=
  let x := (b + 2 ^ 48 - a) % 2 ^ 48
  1 ≤ x && x < 2 ^ 47

/-- The number of a group's destination at a place. -/
def grpDestOf (s : State) (d g key : Nat) : Option Nat :=
  (grpDests s d g).find? fun e => placeKey (dstCore (grpDst s d g e)) (dstWeaver (grpDst s d g e)) == key

/-- The key of a stop's state for destination `e` of group `g` of die `d`. -/
def stopKey (d g e : Nat) : Nat := 16 * (64 * d + g) + e

/-- The state of a stop on die `dd`. -/
def stopOf (s : State) (dd key : Nat) : StopState := (s.die dd).stops.getD key StopState.reset

/-- Replace the state of a stop. -/
def setStop (dd key : Nat) (st : StopState) (s : State) : State := s.modDie dd fun x => { x with stops := x.stops.put key st }

/-! ### From the FIFO to the destination (R389, R391) -/

/-- Is the route of a source stalled: one of its events stands at an online core whose inbox is full (R198). -/
def routeStalled (s : State) (d src : Nat) : Bool :=
  s.evs.any fun m => m.die == d && m.src == src && !m.heartbeat && m.weaver.isNone && coreOnline s m.core
    && decide (64 ≤ (s.core m.core).inbox.length)

/-- EVENT_SEND (R389): the first item of a source's FIFO leaves toward its destination's stop, unless the route is stalled (R198). -/
def execEventSend (d src : Nat) (s : State) : Out :=
  match fifoOf s d src with
  | [] => .next s
  | i :: rest =>
    if routeStalled s d src then .next s
    else
    let s1 := s.modDie d fun dd => { dd with fifos := dd.fifos.put src rest }
    let g := fld i.ent 53 6
    match i.hb with
    | some e =>
      let v := grpDst s d g e
      .next { s1 with evs := s1.evs ++ [⟨i.e, d, src, i.port, true, dstCore v, dstWeaver v, some (stopKey d g e), false⟩] }
    | none =>
      let core := hintCore i.ent
      let wv := if bitAt i.ent 62 then some (fld i.ent 60 2) else none
      let dest := if bitAt i.ent 59 && grpEnabled s d g then grpDestOf s d g (placeKey core wv) else none
      let s2 := match dest with
        | some e => s1.modDie d fun dd => { dd with hbSent := dd.hbSent.put (4096 * (16 * g + e) + src) s.pkg.time }
        | none => s1
      .next { s2 with evs := s2.evs ++ [⟨i.e, d, src, i.port, false, core, wv, dest.map (stopKey d g), false⟩] }

/-- HEARTBEAT (R391): nothing of a source has gone to destination `e` of group `g` for HBI ns. -/
def execHeartbeat (d g e src : Nat) (s : State) : Out :=
  let key := 4096 * (16 * g + e) + src
  let since := max ((s.die d).grpOn.getD g 0) ((s.die d).hbSent.getD key 0)
  if grpEnabled s d g && (grpSources s d g).contains src && (grpDests s d g).contains e
      && decide (since + fld (grpWord s d g 2) 32 32 ≤ s.pkg.time) then
    .next (fifoPush d src ⟨eventWords (postmark s) src 0 0 0 0 false, srcEntry s d src, 0, some e⟩
      (s.modDie d fun dd => { dd with hbSent := dd.hbSent.put key s.pkg.time }))
  else .next s

/-! ### The destination's stop (R391, R392) -/

/-- Does a message go to the place of another, from the same source of the same die. -/
def EvMsg.follows (a b : EvMsg) : Bool :=
  a.die == b.die && a.src == b.src && placeKey a.core a.weaver == placeKey b.core b.weaver

/-- Is message `i` the first of its source to its place. -/
def evFirst (s : State) (i : Nat) (m : EvMsg) : Bool := !((s.evs.take i).any fun e => e.follows m)

/-- Can the destination of a message take events at all: an online core, or a weaver of which a core is online (R229, R323). -/
def evServed (s : State) (m : EvMsg) : Bool :=
  match m.weaver with
  | none => coreOnline s m.core
  | some _ => !(clusterDark s (clusterOf m.core))

/-- The die that holds the stop of a destination. -/
def EvMsg.dd (m : EvMsg) : Nat := coreDie m.core

/-- How many windows from `k` on every source has passed (R391). -/
def windowsPassed (s : State) (d g : Nat) (st : StopState) : Nat :=
  let len := grpLen s d g
  let passed := fun (src : Nat) =>
    match st.lp.get? src with
    | none => 0
    | some lp =>
      let x := (lp + 2 ^ 49 - windowStart s d g st.kOpen - len) % 2 ^ 48
      if x < 2 ^ 47 then 1 + x / len else 0
  match (grpSources s d g).map passed with
  | [] => 0
  | n :: rest => rest.foldl min n

/-- Close `n` windows at a destination (R391, R393). -/
def closeAt (m : Nat × Nat × Nat) (core : Nat) (weaver : Option Nat) (n : Nat) (forced : Bool) (s : State) : State :=
  let (d, g, e) := m
  if n = 0 then s
  else
    let dd := coreDie core
    let st := stopOf s dd (stopKey d g e)
    let s1 := setStop dd (stopKey d g e)
      { st with kOpen := st.kOpen + n, forced := if forced then st.forced ++ (List.range n).map (st.kOpen + ·) else st.forced } s
    match weaver with
    | some ch => closeWindows (clusterOf core) ch (stopKey d g e) (st.kOpen + n) s1
    | none => s1

/-- The kind-5 record of a late event (R392); what its metadata says of an inbox that it never entered, and SEQ, are free values. -/
def lateRecord (s : State) (d g kOpen : Nat) (e : Ev) : Rec × State :=
  let (fr, s1) := s.free
  let (sq, s2) := s1.free
  ({ w0 := put 5 0 4 ||| put (fld (grpWord s d g 0) 59 2) 8 2 ||| put g 20 12
     w1 := 0
     w2 := e.w0
     w3 := e.w1
     w4 := flag true 63 ||| flag e.drop 62 ||| put (fld fr 0 56) 0 56
     w5 := put (windowStart s d g kOpen) 0 48
     w6 := 0
     w7 := put (fld sq 0 32) 0 32 }, s2)

/-- A late event at a destination (R319, R392). A weaver counts it in DROP where the group drops it, where it is a drop marker, and where the channel
is disabled, which posts nothing (R316). -/
def lateEvent (m : EvMsg) (d g key : Nat) (s : State) : State :=
  let st := stopOf s m.dd key
  let drops := bitAt (grpWord s d g 0) 62
  let s0 := if drops then setStop m.dd key { st with late := (st.late + 1) % 2 ^ 32 } s else s
  match m.weaver with
  | some ch =>
    let c := wvChan s (clusterOf m.core) ch
    let s1 := if drops || m.e.drop || !c.en then modWv (clusterOf m.core) ch (fun c => { c with drop := addSat16 c.drop 1 }) s0 else s0
    if drops || !c.en then s1
    else
      let (r, s2) := lateRecord s1 d g st.kOpen m.e
      postNotice (hintCore c.w4) r s2
  | none =>
    if drops then s0
    else
      let (r, s1) := lateRecord s0 d g st.kOpen m.e
      postNotice m.core r s1

/-- Inbox entries of a core that are taken or about to be. -/
def inboxTaken (s : State) (k : Nat) : Nat :=
  (s.core k).inbox.length + (s.evs.filter fun e => e.passed && e.weaver.isNone && e.core == k).length

/-- How many windows from `kOpen` on are due to be closed by force: device time has reached B of the next window plus GRACE (R391). -/
def forcedDue (s : State) (d g : Nat) (st : StopState) : Nat :=
  let grace := fld (grpWord s d g 2) 0 32
  let x := (postmark s + 2 ^ 49 - windowStart s d g (st.kOpen + 1) - grace) % 2 ^ 48
  if grpEnabled s d g && grace != 0 && decide (x < 2 ^ 47) then 1 + x / max 1 (grpLen s d g) else 0

/-- The forced closes that are due at a destination (R391). -/
def forceClose (d g e : Nat) (s : State) : State :=
  let v := grpDst s d g e
  closeAt (d, g, e) (dstCore v) (dstWeaver v) (forcedDue s d g (stopOf s (coreDie (dstCore v)) (stopKey d g e))) true s

/-- DESTINATION_RECEIVE (R198, R391, R392): the forced closes that are due are made first; then the stop of the destination receives message `i`, an event of a window group or a heartbeat. -/
def execDestinationReceive (i : Nat) (s0 : State) : Out :=
  match s0.evs[i]? with
  | none => .next s0
  | some m =>
    match m.group with
    | none => .next s0
    | some key =>
      let gone : State := { s0 with evs := dropAt s0.evs i }
      if m.passed || ((s0.evs.take i).any fun e => e.follows m && !e.passed) then .next s0
      else if evServed s0 m = false then .next (if m.heartbeat then gone else badEvent m.die m.port 1 gone)
      else
        let d := key / 1024
        let g := key / 16 % 64
        let s := forceClose d g (key % 16) s0
        let st := stopOf s m.dd key
        let late := precedes m.e.pmk (windowStart s d g st.kOpen)
        if !m.heartbeat && !late && m.weaver.isNone && 64 ≤ inboxTaken s m.core then .next s
        else
          let k := st.kOpen + ((m.e.pmk + 2 ^ 48 - windowStart s d g st.kOpen) % 2 ^ 48) / max 1 (grpLen s d g)
          let s1 := setStop m.dd key { st with
            lp := st.lp.put m.src m.e.pmk
            got := if m.heartbeat || late then st.got else st.got.put k (st.got.getD k 0 + 1) } s
          let s2 :=
            if m.heartbeat then { s1 with evs := dropAt s1.evs i }
            else if late then lateEvent m d g key { s1 with evs := dropAt s1.evs i }
            else { s1 with evs := s1.evs.set i { m with passed := true, e := { m.e with grp := some key, win := k } } }
          let n := if grpEnabled s2 d g then windowsPassed s2 d g (stopOf s2 m.dd key) else 0
          .next (closeAt (d, g, key % 16) m.core m.weaver n false s2)

/-- FORCED_CLOSE (R391). -/
def execForcedClose (d g e : Nat) (s : State) : Out :=
  let v := grpDst s d g e
  let served := match dstWeaver v with
    | none => coreOnline s (dstCore v)
    | some _ => !(clusterDark s (clusterOf (dstCore v)))
  .next (if dstValid v && served then forceClose d g e s else s)

/-! ### Arrival (R198, R199, R319) -/

/-- EVENT_ARRIVAL (R198): message `i`, an event, enters the inbox of its core; a core offline or killed has it discarded and counted. -/
def execEventArrival (i : Nat) (s : State) : Out :=
  match s.evs[i]? with
  | none => .next s
  | some m =>
    if m.weaver.isSome || (m.group.isSome && !m.passed) || !(evFirst s i m) then .next s
    else
      let gone : State := { s with evs := dropAt s.evs i }
      if evServed s m = false then .next (badEvent m.die m.port 1 (markHandled m.core m.e gone))
      else if 64 ≤ (s.core m.core).inbox.length then .next s
      else .next (gone.modCore m.core fun c => { c with inbox := c.inbox ++ [{ m.e with arr := postmark s, ord := c.arrivals }], arrivals := c.arrivals + 1 })

/-- WEAVER_EVENT (R319, R320): message `i`, an event, reaches its weaver channel; with every core of the cluster offline it counts as dropped
(R323). -/
def execWeaverEvent (i : Nat) (s : State) : Out :=
  match s.evs[i]? with
  | none => .next s
  | some m =>
    match m.weaver with
    | none => .next s
    | some ch =>
      if (m.group.isSome && !m.passed) || !(evFirst s i m) then .next s
      else
        let gone : State := { s with evs := dropAt s.evs i }
        if evServed s m = false then .next (badEvent m.die m.port 1 gone)
        else .next (modWvNow (clusterOf m.core) ch (fun now same c => c.take m.e now same) gone)

/-! ### The window barrier (R393) -/

/-- The last window of the closed ones, from the first unreported on, up to which every event has been handled. -/
def handledUpTo (st : StopState) : Nat :=
  let open? := (st.got.filter fun e => st.k0 ≤ e.1 && e.1 < st.kOpen && st.handled.getD e.1 0 != e.2).map (·.1)
  open?.foldl min st.kOpen

/-- The kind-4 record of windows `st.k0` to `k1 - 1` (R393). -/
def windowRecord (s : State) (d g k1 n seq : Nat) (st : StopState) : Rec :=
  { w0 := put 4 0 4 ||| put (fld (grpWord s d g 0) 59 2) 8 2 ||| put g 20 12
    w1 := 0
    w2 := put (k1 - 1) 32 32 ||| put st.k0 0 32
    w3 := put (windowStart s d g k1) 0 48
    w4 := put (min (2 ^ 32 - 1) n) 32 32 ||| put st.late 0 32
    w5 := flag (st.forced.any fun k => k < k1) 0
    w6 := 0
    w7 := put seq 0 32 }

/-- WINDOW_BARRIER (R393): closed windows whose events are all handled are reported to the destination core of group `g`. -/
def execWindowBarrier (d g e : Nat) (s : State) : Out :=
  let v := grpDst s d g e
  let k := dstCore v
  let key := stopKey d g e
  let st := stopOf s (coreDie k) key
  let k1 := handledUpTo st
  let n := (st.got.filter fun w => st.k0 ≤ w.1 && w.1 < k1).foldl (fun a w => a + w.2) 0
  if !(grpEnabled s d g) || !(dstValid v) || (dstWeaver v).isSome || !(coreOnline s k) || k1 ≤ st.k0
      || (n == 0 && !(bitAt (grpWord s d g 0) 61)) then .next s
  else
    let (seq, s1) := nextSeq k s
    match deliverNotice k (windowRecord s d g k1 n seq st) s1 with
    | none => .next s
    | some s2 =>
      .next (setStop (coreDie k) key { st with
        k0 := k1
        got := st.got.filter fun w => k1 ≤ w.1
        handled := st.handled.filter fun w => k1 ≤ w.1
        forced := st.forced.filter fun w => k1 ≤ w } s2)

end Sys2Proof.Machine
end

