-- ==== Sys2Proof/Machine/Tgu.lean ====
section
/-! DEFINITION. The task graph unit: node descriptors, dependences, ranges and their chunks, dispatch, and the instructions GNODE, GDONE,
GWAIT and GRANGE (R371 to R384). -/

namespace Sys2Proof.Machine

/-! ### Descriptors (R372, R373) -/

/-- Does an operand name a byte range of one space (R372). -/
def opndOk (mode addr len : Nat) : Bool :=
  if mode = 0 then len == 0
  else len != 0 && match resolve 0 (BitVec.ofNat 64 addr) with
    | .bad => false
    | .spad _ off => off + len ≤ 262144
    | .dev va => va + len ≤ 2 ^ 53

/-- Operand `j` of a descriptor, with a local address of the submitting core made global. -/
def descOp (k : Nat) (ws : List Word) (j : Nat) : NodeOp :=
  ⟨fld (ws.getD (8 + 2 * j) 0) 62 2, (globalOf k (put (fld (ws.getD (8 + 2 * j) 0) 0 54) 0 54)).toNat, fld (ws.getD (9 + 2 * j) 0) 0 32⟩

/-- Is a descriptor valid (R370, R372). -/
def descOk (k : Nat) (ws : List Word) : Bool :=
  let w0 := ws.getD 0 0
  let pc := ws.getD 1 0
  fld w0 15 49 == 0 && fld w0 10 2 == 0 && fld w0 6 2 == 0 && fld pc 0 2 == 0 && !(badTop pc) && ws.getD 5 0 == 0
    && fld (ws.getD 6 0) 54 10 == 0 && !(badHint (ws.getD 7 0))
    && (List.range 4).all (fun j =>
      fld (ws.getD (8 + 2 * j) 0) 54 8 == 0 && fld (ws.getD (9 + 2 * j) 0) 32 32 == 0
        && (let o := descOp k ws j
          (o.mode == 0 || resolve k (put (fld (ws.getD (8 + 2 * j) 0) 0 54) 0 54) != .bad) && opndOk o.mode o.addr o.len))
    && !(bitAt w0 14 && (descOp k ws 0).mode == 0)

/-- The hint of a node (R373): with HD its core comes from operand 0. -/
def nodeHint (d : Nat) (hd : Bool) (hint : Word) (op : NodeOp) : Word :=
  if hd then
    let k := match resolve 0 (BitVec.ofNat 64 op.addr) with
      | .spad c _ => c
      | _ =>
        let st := stationOf op.addr
        coreAt d (if st < 6 then 0 else 23) (5 * (st % 6) + 3)
    (hint &&& ~~~(put 0x7FF 39 11)) ||| put (coreDie k) 49 1 ||| put (coreRow k) 44 5 ||| put (coreCol k) 39 5
  else hint

/-- A node as its descriptor gives it. -/
def descNode (d k : Nat) (lid : Option Nat) (pid ectx : Nat) (ws : List Word) : Node :=
  let w0 := ws.getD 0 0
  { gen := 0
    lid := lid
    pid := pid
    ectx := ectx
    die := coreDie k
    strm := fld w0 0 6
    pri := fld w0 8 2
    r := bitAt w0 12
    p := bitAt w0 13
    hd := bitAt w0 14
    pc := ws.getD 1 0
    arg0 := ws.getD 2 0
    arg1 := ws.getD 3 0
    arg2 := ws.getD 4 0
    comp := ws.getD 6 0
    hint := nodeHint d (bitAt w0 14) (ws.getD 7 0) (descOp k ws 0)
    ops := ((List.range 4).map (descOp k ws)).filter fun o => o.mode != 0
    unmet := 0
    succs := []
    readyAt := none
    again := 0
    dispatched := false
    acq := 0
    rel := 0
    range := false
    shadowOf := none
    ch := 0
    lo := 0
    hi := 0
    undone := 0
    lastCore := none
    isq := none
    pkt := none }

/-! ### The pool and dependences (R371, R374, R377) -/

/-- Change a slot of the pool. -/
def modNode (d slot : Nat) (g : Node → Node) (s : State) : State :=
  s.modDie d fun dd => { dd with pool := dd.pool.map fun e => if e.1 = slot then (e.1, g e.2) else e }

/-- The lowest free slot of the pool. -/
def freeSlot (s : State) (d : Nat) : Option Nat :=
  if 4096 ≤ (s.die d).pool.length then none
  else (List.range ((s.die d).pool.length + 1)).find? fun n => ((s.die d).pool.get? n).isNone

/-- Do two operands conflict: their ranges overlap and one of them writes (R374). -/
def NodeOp.conflicts (a b : NodeOp) : Bool :=
  a.addr < b.addr + b.len && b.addr < a.addr + a.len && (2 ≤ a.mode || 2 ≤ b.mode)

/-- Are two nodes of one stream (R371). -/
def Node.sameStream (a b : Node) : Bool := a.lid == b.lid && a.die == b.die && a.strm == b.strm

/-- The slots of the earlier nodes that a node depends on. -/
def nodePreds (s : State) (d : Nat) (n : Node) : List Nat :=
  ((s.die d).pool.filter fun e =>
    e.2.shadowOf.isNone && n.sameStream e.2 && n.ops.any fun a => e.2.ops.any fun b => a.conflicts b).map (·.1)

/-- The next place in the order of readiness. -/
def nextReady (d : Nat) (s : State) : Nat × State :=
  ((s.die d).readyCtr, s.modDie d fun dd => { dd with readyCtr := dd.readyCtr + 1 })

/-- The shares of a range on both dies: the owner and its shadows. -/
def rangeShares (s : State) (d slot : Nat) : List (Nat × Nat) :=
  (d, slot) :: [0, 1].flatMap fun e =>
    ((s.die e).pool.filter fun n => n.2.shadowOf == some (4096 * d + slot)).map fun n => (e, n.1)

/-- A node becomes ready, and so do the shares of its range. -/
def makeReady (d slot : Nat) (s : State) : State :=
  (rangeShares s d slot).foldl (fun t e =>
    let (r, t1) := nextReady e.1 t
    modNode e.1 e.2 (fun n => { n with readyAt := some r }) t1) s

/-- Free a slot: its generation goes on (R376), and no node has it as a successor any more. Of one that was never dispatched no thread comes. -/
def dropNode (d slot : Nat) (s : State) : State :=
  let pkt := match (s.die d).pool.get? slot with
    | some n => if n.dispatched then none else n.pkt
    | none => none
  (packetEnd pkt s).modDie d fun dd =>
    { dd with
      pool := (dd.pool.erase slot).map fun e => (e.1, { e.2 with succs := e.2.succs.filter (· ≠ slot) })
      gens := dd.gens.put slot ((dd.gens.getD slot 0 + 1) % 65536) }

/-- A GDONE at a scope has released a node in part: its records acquire at least there, those of every share of its range too (R375). -/
def raiseAcq (d slot sc : Nat) (s : State) : State :=
  (rangeShares s d slot).foldl (fun t e => modNode e.1 e.2 (fun m => { m with acq := max m.acq sc }) t) s

/-- A node is done (R375, R377): its successors' counts fall, and it and its shadows leave; a stage node tells its ISQ (R405). -/
def nodeDone (d slot : Nat) (sc : Nat) (s : State) : State :=
  match (s.die d).pool.get? slot with
  | none => s
  | some n =>
    let s1 := (rangeShares s d slot).foldl (fun t e => dropNode e.1 e.2 t) s
    let s2 := n.succs.foldl (fun t y =>
      let t1 := modNode d y (fun m => { m with unmet := m.unmet - 1 }) (raiseAcq d y sc t)
      match (t1.die d).pool.get? y with
      | some m => if m.unmet = 0 ∧ m.readyAt.isNone then makeReady d y t1 else t1
      | none => t1) s1
    match n.isq with
    | some i => s2.modDie d fun dd => { dd with isqs := dd.isqs.put i { dd.isqs.getD i Isq.reset with stageDone := true } }
    | none => s2

/-- The handle of a slot (R376). -/
def handleOf (d slot gen cnt : Nat) : Word := put gen 48 16 ||| put d 32 1 ||| put cnt 16 16 ||| put slot 0 12

/-- The largest scope at which chunks of some of a node's predecessors have been reported done before it was submitted (R375). -/
def relBefore (s : State) (d : Nat) (preds : List Nat) : Nat :=
  preds.foldl (fun a p => match (s.die d).pool.get? p with | some m => max a m.rel | none => a) 0

/-- Put a node into a free slot, with its predecessors: its handle, or the reason of the refusal (R374, R376, R379). -/
def submitNode (d : Nat) (n : Node) (s : State) : Except Nat Nat × State :=
  match freeSlot s d with
  | none => (.error 1, s)
  | some slot =>
    let preds := nodePreds s d n
    if preds.any fun p => match (s.die d).pool.get? p with | some m => 32 ≤ m.succs.length | none => false then (.error 3, s)
    else
      let s1 := preds.foldl (fun t p => modNode d p (fun m => { m with succs := m.succs ++ [slot] }) t) s
      let s2 := s1.modDie d fun dd =>
        { dd with pool := dd.pool.put slot { n with gen := dd.gens.getD slot 0, unmet := preds.length } }
      let s3 := raiseAcq d slot (relBefore s d preds) s2
      (.ok slot, if preds.isEmpty then makeReady d slot s3 else s3)

/-! ### Ranges (R378) -/

/-- The cores of a class of a launch on a die that are online, in row-major order. -/
def classCores (s : State) (lid : Option Nat) (cls d : Nat) : List Nat :=
  ((List.range 768).map fun i => 768 * d + i).filter fun k => (s.core k).lid == lid && coreOnline s k && classOk cls k

/-- F₀ and F₁ (R378, step 1). -/
def rangeCounts (s : State) (lid : Option Nat) (cls : Nat) : Nat × Nat :=
  let f := fun d => ((classCores s lid cls d).filter fun k => !(freeCtxs s k).isEmpty).length
  if f 0 + f 1 = 0 then ((classCores s lid cls 0).length, (classCores s lid cls 1).length) else (f 0, f 1)

/-- Submit a range of `n` indices (R378, steps 1 and 2): the share of the other die lies in a shadow there. -/
def submitRange (d : Nat) (nd : Node) (n ch : Nat) (s : State) : Except Nat Unit × State :=
  if n = 0 then (.ok (), s)
  else
    let (f0, f1) := rangeCounts s nd.lid (fld nd.hint 37 2)
    let n0 := if f0 + f1 = 0 then (if d = 0 then n else 0) else n * f0 / (f0 + f1)
    let (lo, hi) := if d = 0 then (0, n0) else (n0, n)
    let (olo, ohi) := if d = 0 then (n0, n) else (0, n0)
    let own := { nd with range := true, ch := ch, lo := lo, hi := hi, undone := n }
    if olo = ohi then
      match submitNode d own s with
      | (.ok _, s1) => (.ok (), s1)
      | (.error e, s1) => (.error e, s1)
    else match freeSlot s (1 - d) with
      | none => (.error 1, s)
      | some sh =>
        let s0 := match freeSlot s d with
          | some slot => s.modDie (1 - d) fun dd =>
            { dd with pool := dd.pool.put sh { own with lo := olo, hi := ohi, undone := 0, ops := [], shadowOf := some (4096 * d + slot), gen := dd.gens.getD sh 0 } }
          | none => s
        match submitNode d own s0 with
        | (.ok _, s1) => (.ok (), s1)
        | (.error e, _) => (.error e, s)

/-! ### Dispatch (R370, R375, R378, R379, R384) -/

/-- Where a TGU's packets enter the array (R343). -/
def tguEntry (d : Nat) : Nat := coreAt d 12 (if d = 0 then 0 else 31)

/-- Is a node's launch running: a pre-empted launch's nodes wait (R384). -/
def lidRuns (s : State) (lid : Option Nat) : Bool :=
  match lid.bind fun l => launchOf s l with
  | some l => l.run == .running
  | none => true

/-- The kind-1 record of a node (R375), for a hint and the words that a chunk replaces (R378). -/
def nodeRecord (n : Node) (hint handle w2 w3 w4 : Word) (seq : Nat) : Rec :=
  { w0 := put 1 0 4 ||| flag n.p 4 ||| flag n.r 6 ||| put n.pri 8 2
    w1 := n.pc
    w2 := w2
    w3 := w3
    w4 := w4
    w5 := handle
    w6 := n.comp
    w7 := setFld (setFld hint 56 8 0) 0 32 seq }

/-- Place a record of the TGU by the walk: none where every core refuses (R369, R370). -/
def tguPlace (d : Nat) (n : Node) (hint handle w2 w3 w4 : Word) (s : State) : Option (Nat × State) :=
  match placementWalk s n.lid (tguEntry d, true) hint with
  | none => none
  | some k =>
    let r := nodeRecord n hint handle w2 w3 w4 (s.die d).tguSeq
    let s1 := s.modDie d fun dd => { dd with tguSeq := (dd.tguSeq + 1) % 2 ^ 32 }
    some (k, arriveRec k r false n.acq none n.lid n.pkt (some (n.pid, n.ectx)) s1)

/-- A hint that names one core, with RAD 0 and the class of a hint. -/
def hintAt (k : Nat) (hint : Word) : Word :=
  put (coreDie k) 49 1 ||| put (coreRow k) 44 5 ||| put (coreCol k) 39 5 ||| put (fld hint 37 2) 37 2

/-- Do two handles name one slot in one generation (R376). -/
def sameNode (a b : Word) : Bool := fld a 48 16 == fld b 48 16 && fld a 32 1 == fld b 32 1 && fld a 0 12 == fld b 0 12

/-- The undone chunks of a range that a core holds: in its deque, with its threads in contexts, and with those held in memory, wherever they were
handed out (R378). -/
def chunksHeld (s : State) (handle : Word) (k : Nat) : Nat :=
  (((s.core k).deque.filterMap fun q => q.r.chunk) ++ ((coreCtxs k).flatMap fun x => (s.ctx x).chunks)
    ++ (s.core k).heldList.flatMap fun h => h.thread.chunks).countP fun w => sameNode w handle

/-- Of the chunks of a node that a thread has, `n` indices have been reported done, the oldest first: what is left of `n`, and of the chunks. -/
def chunksLeft (w : Word) : Nat → List Word → Nat × List Word
  | n, [] => (n, [])
  | n, h :: rest =>
    if n = 0 ∨ sameNode h w = false then let r := chunksLeft w n rest; (r.1, h :: r.2)
    else if n < fld h 16 16 then (0, setFld h 16 16 (fld h 16 16 - n) :: rest)
    else chunksLeft w (n - fld h 16 16) rest

/-- The chunks of a context after `n` indices of a node have been reported done, and what is left of `n`. -/
def chunksLeftAt (w : Word) (x n : Nat) (s : State) : Nat × State :=
  let r := chunksLeft w n (s.ctx x).chunks
  if r.2 = (s.ctx x).chunks then (n, s) else (r.1, s.modCtx x fun c => { c with chunks := r.2 })

/-- The chunks of held threads after `n` indices of a node have been reported done, and what is left of `n`. -/
def chunksLeftHeld (w : Word) : Nat → List HeldThread → Nat × List HeldThread
  | n, [] => (n, [])
  | n, h :: rest =>
    let r := chunksLeft w n h.thread.chunks
    let more := chunksLeftHeld w r.1 rest
    (more.1, { h with thread := { h.thread with chunks := r.2 } } :: more.2)

/-- A GDONE of a chunk by context `x` has been accepted: the indices count as done of the chunks that the issuer has, then of those of other
threads (R378, R382; log entry 84). -/
def chunksReported (x : Nat) (w : Word) (s : State) : State :=
  let (n, s1) := (x :: s.ctxs.map (·.1)).foldl (fun (p : Nat × State) y => chunksLeftAt w y p.1 p.2) (fld w 16 16, s)
  (s1.cores.foldl (fun (p : Nat × State) e =>
    let r := chunksLeftHeld w p.1 e.2.heldList
    if r.2 = e.2.heldList then p else (r.1, p.2.modCore e.1 fun c => { c with heldList := r.2 })) (n, s1)).2

/-- The cores of the class set after the one that took the previous chunk, in order, that hold fewer than 2 undone chunks (R378, step 3). -/
def chunkCores (s : State) (d : Nat) (n : Node) (handle : Word) : List Nat :=
  let cs := classCores s n.lid (fld n.hint 37 2) d
  let turn := match n.lastCore with
    | none => cs
    | some k => (cs.filter fun c => k < c) ++ cs.filter fun c => c ≤ k
  turn.filter fun c => chunksHeld s handle c < 2

/-- Offer a chunk to cores in turn; a core that refuses is passed over. -/
def offerChunk (d : Nat) (n : Node) (handle : Word) (len : Nat) (s : State) : List Nat → Option (Nat × State)
  | [] => none
  | k :: rest =>
    match tguPlace d n (hintAt k n.hint) handle (BitVec.ofNat 64 n.lo) (BitVec.ofNat 64 len) n.arg0 s with
    | some (_, s1) => some (k, s1)
    | none => offerChunk d n handle len s rest

/-- Hand out the next chunk of the share in a slot: none where it has none to give or no core takes it (R378). -/
def handOut (d slot : Nat) (n : Node) (s : State) : Option State :=
  if !n.range || n.readyAt.isNone || n.hi ≤ n.lo || !(lidRuns s n.lid) then none
  else
    let len := min n.ch (n.hi - n.lo)
    let own := n.shadowOf.getD (4096 * d + slot)
    let gen := match (s.die (own / 4096)).pool.get? (own % 4096) with | some o => o.gen | none => 0
    let handle := handleOf (own / 4096) (own % 4096) gen len
    (offerChunk d n handle len s (chunkCores s d n handle)).map fun r =>
      modNode d slot (fun m => { m with lo := m.lo + len, lastCore := some r.1 }) r.2

/-- Does ready node `a` come before `b`: by priority, then by the order of readiness (R375). -/
def Node.before (a b : Node) : Bool := b.pri < a.pri || (a.pri == b.pri && a.readyAt.getD 0 < b.readyAt.getD 0)

/-- Has the node in a slot something to dispatch now: a plain node that is ready and whose last offer is not too near, or a share that can hand a
chunk out. -/
def nodeDispatchable (s : State) (d : Nat) (e : Nat × Node) : Bool :=
  if e.2.range then (handOut d e.1 e.2 s).isSome
  else e.2.readyAt.isSome && !e.2.dispatched && decide (e.2.again ≤ s.pkg.time) && lidRuns s e.2.lid

/-- The node of a pool that is dispatched next, plain or range (R375). -/
def nextNode (s : State) (d : Nat) : Option (Nat × Node) :=
  ((s.die d).pool.filter fun e => nodeDispatchable s d e).foldl
    (fun best e => match best with
      | none => some e
      | some b => if e.2.before b.2 then some e else some b) none

/-- TGU_DISPATCH (R375): the next ready node, where it is a plain one, is offered to the cores; refused, it is offered again after 256 mesh
cycles (183 ns). -/
def execTguDispatch (d : Nat) (s : State) : Out :=
  match nextNode s d with
  | none => .next s
  | some (slot, n) =>
    if n.range then .next s
    else match tguPlace d n n.hint (handleOf d slot n.gen 0) n.arg0 n.arg1 n.arg2 s with
      | some (_, s1) => .next (modNode d slot (fun m => { m with dispatched := true }) s1)
      | none => .next (modNode d slot (fun m => { m with again := s.pkg.time + 183 }) s)

/-- RANGE_CHUNK_DISPATCH (R375, R378): the share in a slot, where it is next, hands out a chunk. -/
def execRangeChunkDispatch (d slot : Nat) (s : State) : Out :=
  match nextNode s d with
  | none => .next s
  | some e => .next (if e.1 = slot ∧ e.2.range then (handOut d slot e.2 s).getD s else s)

/-- The share of the other die that a steal takes from: the largest of the same launch and class, of at least 2 × CH; the lower slot of equal ones. -/
def stealFrom (s : State) (d : Nat) (n : Node) : Option (Nat × Node) :=
  ((s.die (1 - d)).pool.filter fun e =>
    e.2.range && e.2.readyAt.isSome && e.2.lid == n.lid && fld e.2.hint 37 2 == fld n.hint 37 2 && 2 * e.2.ch ≤ e.2.hi - e.2.lo).foldl
    (fun best e => match best with
      | none => some e
      | some b => if b.2.hi - b.2.lo < e.2.hi - e.2.lo then some e else some b) none

/-- RANGE_STEAL (R379): die `d`, whose share in a slot is used up, takes the upper half of a share of the other die, as a share of its own. -/
def execRangeSteal (d slot : Nat) (s : State) : Out :=
  match (s.die d).pool.get? slot with
  | none => .next s
  | some n =>
    if !n.range || n.readyAt.isNone || n.lo < n.hi || !(lidRuns s n.lid) then .next s
    else match stealFrom s d n with
      | none => .next s
      | some (vs, v) =>
        let half := (v.hi - v.lo) / 2
        let own := v.shadowOf.getD (4096 * (1 - d) + vs)
        let mine := n.shadowOf.getD (4096 * d + slot)
        let taken := fun (t : State) => modNode (1 - d) vs (fun m => { m with hi := m.hi - half }) t
        if own = mine then
          .next (taken (modNode d slot (fun m => { m with lo := v.hi - half, hi := v.hi }) s))
        else match freeSlot s d with
          | none => .next s
          | some f =>
            let (r, s1) := nextReady d s
            let m : Node := { v with
              gen := (s.die d).gens.getD f 0, shadowOf := some own, lo := v.hi - half, undone := 0, ops := [], succs := [],
              lastCore := none, readyAt := some r }
            .next (taken (s1.modDie d fun dd => { dd with pool := dd.pool.put f m }))

/-! ### The instructions (R381 to R383) -/

/-- The outcome of a submission: the predicate, and the reason of a refusal in `y.gstat` (R381). -/
def gnodeOutcome (x : Nat) (f : Fields) (r : Option Nat) (s : State) : State :=
  s.modCtx x fun c =>
    match r with
    | none => c.writeD f.d (allOf true)
    | some n => { c.writeD f.d 0 with gerr := true, grsn := n }

/-- The first of the `n` words from an address that a thread load cannot address, and its trap: an own slot that is not resident among them
(R162). -/
def firstBad (s : State) (x : Nat) (pc a : Word) (n : Nat) : Option (Nat × TrapInfo) :=
  (List.range n).findSome? fun i =>
    match accessSpace s x pc (a + BitVec.ofNat 64 (8 * i)) 8 with
    | .error t => some (i, t)
    | .ok _ => none

/-- Read a descriptor of `n` words by thread loads, in rising order, then go on; a fault is taken at the instruction (R381). -/
def withDesc (x : Nat) (i : Instr) (a : Word) (n : Nat) (s : State) (k : List Word → State → Eff) : Eff :=
  let c := s.ctx x
  let bad := firstBad s x c.pc a n
  let m := match bad with | some (j, _) => j | none => n
  match wordsLoad (flushReqs (fun r => r.x == x) s) (coreOf x) c.pid c.normal a m, bad with
  | (.error (.held, _), _), _ => .leave (holdHere x i s)
  | (.error (e, fa), s1), _ => .trap { e.trap c.pc fa with epc := some c.pc } s1
  | (.ok _, s1), some (_, t) => .trap t s1
  | (.ok ws, s1), none => k ws s1

/-- GNODE (R381). -/
def execGnode (h : Hdr) (f : Fields) (s : State) : Out :=
  issue (.gnode h f) false false (fun x c t =>
    let k := coreOf x
    let d := coreDie k
    withDesc x (.gnode h f) (srcS c [] f.a) 16 t fun ws t1 =>
      if descOk k ws then
        match submitNode d (descNode d k (threadLaunch t1 x) c.pid c.ectx ws) t1 with
        | (.ok _, t2) => .done (gnodeOutcome x f none t2)
        | (.error e, t2) => .done (gnodeOutcome x f (some e) t2)
      else .done (gnodeOutcome x f (some 2) t1)) s

/-- GRANGE (R378, R381). -/
def execGrange (h : Hdr) (f : Fields) (s : State) : Out :=
  issue (.grange h f) false false (fun x c t =>
    let k := coreOf x
    let d := coreDie k
    withDesc x (.grange h f) (srcS c [] f.a) 16 t fun ws t1 =>
      if descOk k ws then
        match submitRange d (descNode d k (threadLaunch t1 x) c.pid c.ectx ws) (fld (srcS c [] f.b) 0 32) (f.xBits 0 16) t1 with
        | (.ok _, t2) => .done (gnodeOutcome x f none t2)
        | (.error e, t2) => .done (gnodeOutcome x f (some e) t2)
      else .done (gnodeOutcome x f (some 2) t1)) s

/-- A GDONE reaches the TGU that its handle names: none where the handle names nothing (R382). -/
def applyDone (w : Word) (sc : Nat) (s : State) : Option State :=
  let d := fld w 32 1
  let slot := fld w 0 12
  let cnt := fld w 16 16
  if fld w 33 15 ≠ 0 ∨ fld w 12 4 ≠ 0 then none
  else match (s.die d).pool.get? slot with
    | none => none
    | some n =>
      if n.gen ≠ fld w 48 16 ∨ n.shadowOf.isSome then none
      else if n.range then
        if cnt = 0 ∨ n.undone < cnt then none
        else if n.undone = cnt then some (nodeDone d slot sc s)
        else some (modNode d slot (fun m => { m with undone := m.undone - cnt, rel := max m.rel sc }) (n.succs.foldl (fun t y => raiseAcq d y sc t) s))
      else if cnt ≠ 0 then none
      else some (nodeDone d slot sc s)

/-- GDONE (R382): the marker, the release at SC, then the report. -/
def execGdone (h : Hdr) (f : Fields) (s : State) : Out :=
  issue (.gdone h f) false false (fun x c t =>
    let k := coreOf x
    let sc := f.xBits 33 3
    match marker x (.gdone h f) true t with
    | some t1 => .leave t1
    | none =>
      let w := srcS c [] f.a
      match applyDone w sc (releaseVia t k c.pid sc none) with
      | some t1 => .done ((chunksReported x w t1).modCtx x fun d => d.writeD f.d (allOf true))
      | none => .done ((releaseVia t k c.pid sc none).modCtx x fun d => d.writeD f.d 0)) s

/-- Undone nodes of a stream: those of both pools (R383). -/
def undoneNodes (s : State) (lid : Option Nat) (die strm : Nat) : Nat :=
  ([0, 1].flatMap fun d => (s.die d).pool.filter fun e => e.2.lid == lid && e.2.die == die && e.2.strm == strm).length

/-- The condition of a GWAIT whose stream and bound are kept as 64 × n + stream. -/
def gwaitOver (s : State) (x key : Nat) : Bool :=
  undoneNodes s (threadLaunch s x) (coreDie (coreOf x)) (key % 64) ≤ key / 64

/-- GWAIT (R383): wait until a stream holds at most n nodes; then the acquire at SC. -/
def execGwait (h : Hdr) (f : Fields) (s : State) : Out :=
  issue (.gwait h f) false false (fun x c t =>
    let (key, late) := match c.wait? with
      | some w => (w.key, w.timedOut)
      | none => (64 * (srcZ c [] f.b).toNat + fld (srcS c [] f.a) 0 6, false)
    if late then .done (t.modCtx x fun d => d.writeD f.d 0)
    else if gwaitOver t x key then
      .done ((acquireLines t (coreOf x) c.pid (f.xBits 33 3) none).modCtx x fun d => d.writeD f.d (allOf true))
    else
      let tmo := (c.w (f.a.num + 1)).toNat
      .leave (waitKeyed x (.gwait h f) .gwait (if tmo = 0 then none else some (t.pkg.time + tmo)) key t)) s

/-- GWAIT_TIMEOUT (R383). -/
def execGwaitTimeout (x : Nat) (s : State) : Out := .next (timeOut x .gwait s)

end Sys2Proof.Machine
end

