-- ==== Sys2Proof/Machine/Isq.lean ====
section
/-! DEFINITION. The integrator sequencers: tables, sample sets, rounds, stages, the arithmetic of a step, and the instructions SQTAB, SQGO,
SQSTAT and SQSTOP (R396 to R421). -/

namespace Sys2Proof.Machine

/-! ### Arithmetic (R106, R109) -/

/-- A result of the sequencer: every NaN is the canonical one (R109). -/
def sqCanon (c : Nat) : Nat := if (fFP32.read c).isNan then engNan else c

def sqAdd (a b : Nat) : Nat := sqCanon (fAdd fFP32 0 a b)
def sqSub (a b : Nat) : Nat := sqCanon (fSub fFP32 0 a b)
def sqMul (a b : Nat) : Nat := sqCanon (fMul fFP32 0 a b)
def sqDiv (a b : Nat) : Nat := sqCanon (fDiv fFP32 0 a b)
def sqFma (a b c : Nat) : Nat := sqCanon (fma32 a b c)

/-- The negation of an FP32 code that is no NaN. -/
def sqNeg (a : Nat) : Nat := if (fFP32.read a).isNan then engNan else (a + 2 ^ 31) % 2 ^ 32

/-- Is a code an FP32 zero. -/
def sqZero (a : Nat) : Bool := a % 2 ^ 31 == 0

/-- Is a code finite. -/
def sqFinite (a : Nat) : Bool :=
  match fFP32.read a with
  | .fin _ _ _ => true
  | _ => false

/-- The order of two codes as numbers. -/
def sqLt (a b : Nat) : Bool := (fFP32.read a).lt (fFP32.read b)

/-- |a|, and the larger of two magnitudes: NaN where either is (R407). -/
def sqMax (a b : Nat) : Nat :=
  if (fFP32.read a).isNan || (fFP32.read b).isNan then engNan else max (a % 2 ^ 31) (b % 2 ^ 31)

/-- An integer as FP32. -/
def sqOfNat (n : Nat) : Nat := intToFloat fFP32 0 (n : Int)

/-! ### Memory on path I (R418) -/

/-- Go on after an access, unless it failed. -/
def andThen {α β : Type} (r : Except AccErr α × State) (k : α → State → Except AccErr β × State) : Except AccErr β × State :=
  match r with
  | (.error e, s) => (.error e, s)
  | (.ok a, s) => k a s

/-- Who accesses: the die, the core that local addresses name, the PID. -/
structure SqAcc where
  d : Nat
  k : Nat
  pid : Nat

/-- Read `n` elements of `w` bytes in rising order. -/
def sqElems (m : SqAcc) (a : Word) (w : Nat) : Nat → State → Except AccErr (List Nat) × State
  | 0, s => (.ok [], s)
  | n + 1, s =>
    andThen (pathLoad s 6 m.d m.k m.pid a w) fun v s1 =>
      andThen (sqElems m (a + BitVec.ofNat 64 w) w n s1) fun vs s2 => (.ok (v :: vs), s2)

/-- Write elements of `w` bytes in rising order. -/
def sqPut (m : SqAcc) (a : Word) (w : Nat) : List Nat → State → Except AccErr Unit × State
  | [], s => (.ok (), s)
  | v :: rest, s =>
    andThen (pathStore s 6 m.d m.k m.pid a w v) fun _ s1 => sqPut m (a + BitVec.ofNat 64 w) w rest s1

/-! ### Tables (R398, R399) -/

/-- Entries of a table by their 32-bit place; 92 to 99 hold eb, 100 holds κ. -/
def tabC (t : List (BitVec 32)) (s : Nat) : Nat := (t.getD (4 + s) 0).toNat
def tabB (t : List (BitVec 32)) (s : Nat) : Nat := (t.getD (12 + s) 0).toNat
def tabBh (t : List (BitVec 32)) (s : Nat) : Nat := (t.getD (20 + s) 0).toNat
def tabA (t : List (BitVec 32)) (s j : Nat) : Nat := (t.getD (28 + 8 * s + j) 0).toNat
def tabEb (t : List (BitVec 32)) (s : Nat) : Nat := (t.getD (92 + s) 0).toNat
def tabKappa (t : List (BitVec 32)) : Nat := (t.getD 100 0).toNat
def tabHead (t : List (BitVec 32)) : Nat := (t.getD 0 0).toNat

/-- METH = 01: a multistep table. -/
def tabMulti (t : List (BitVec 32)) : Bool := natBits (tabHead t) 0 2 == 1

/-- Stages of a round: S, or 1. -/
def tabStages (t : List (BitVec 32)) : Nat := if tabMulti t then 1 else natBits (tabHead t) 4 3 + 1

/-- P of a multistep table. -/
def tabP (t : List (BitVec 32)) : Nat := natBits (tabHead t) 16 2

/-- Is a table accepted (R398). -/
def tabOk (t : List (BitVec 32)) : Bool :=
  let h := tabHead t
  let zero := fun i => t.getD i 0 == 0
  zero 1 && natBits h 2 2 == 0 && natBits h 7 1 == 0 && natBits h 12 4 == 0 && natBits h 18 14 == 0 && zero 2 && zero 3
    && match natBits h 0 2 with
      | 0 =>
        let sn := natBits h 4 3 + 1
        natBits h 16 2 == 0 && 1 ≤ natBits h 8 4 && natBits h 8 4 ≤ 7
          && (List.range 88).all (fun i => sqFinite (t.getD (4 + i) 0).toNat)
          && (List.range 8).all (fun i => i < sn || (zero (4 + i) && zero (12 + i) && zero (20 + i)))
          && (List.range 8).all fun i => (List.range 8).all fun j => (j < i && i < sn) || zero (28 + 8 * i + j)
      | 1 =>
        natBits h 4 3 == 0 && natBits h 8 4 == 0 && (natBits h 16 2 == 2 || natBits h 16 2 == 3)
          && (List.range 90).all fun i => zero (2 + i)
      | _ => false

/-- κ of an order: Round(−1 / (q + 1)) (R399). -/
def kappaOf (q : Nat) : Nat := sqDiv 0xBF800000 (sqOfNat (q + 1))

/-- A table with its derived constants (R399). -/
def tabDerive (t : List (BitVec 32)) : List (BitVec 32) :=
  t.take 92 ++ (List.range 8).map (fun j => BitVec.ofNat 32 (if j < tabStages t then sqSub (tabB t j) (tabBh t j) else 0))
    ++ [BitVec.ofNat 32 (kappaOf (natBits (tabHead t) 8 4))]

/-! ### Headers (R400, R402) -/

/-- Sequencer `n` of a die. -/
def isqOf (s : State) (d n : Nat) : Isq := (s.die d).isqs.getD n Isq.reset

/-- Replace sequencer `n` of a die. -/
def setIsq (d n : Nat) (q : Isq) (s : State) : State := s.modDie d fun dd => { dd with isqs := dd.isqs.put n q }

def Isq.word (q : Isq) (i : Nat) : Word := q.hdr.getD i 0
def Isq.samples (q : Isq) : Nat := fld (q.word 0) 0 8 + 1
def Isq.dim (q : Isq) : Nat := fld (q.word 0) 16 16 + 1
def Isq.bf (q : Isq) : Bool := bitAt (q.word 0) 32
def Isq.dp (q : Isq) : Nat := 16 * ceilDiv q.dim 16
def Isq.smp (q : Isq) : Word := put (fld (q.word 4) 0 54) 0 54
def Isq.ws (q : Isq) : Word := put (fld (q.word 5) 0 54) 0 54
def Isq.yin (q : Isq) (b : Nat) : Word := q.ws + BitVec.ofNat 64 (0x1000 + 4 * q.dp * b)
def Isq.kout (q : Isq) (b : Nat) : Word := q.ws + BitVec.ofNat 64 (0x1000 + 1024 * q.dp + 4 * q.dp * b)
def Isq.kst (q : Isq) (i j : Nat) : Word := q.ws + BitVec.ofNat 64 (0x1000 + 2048 * q.dp + 4 * q.dp * (8 * i + j))
def Isq.hmin (q : Isq) : Nat := fld (q.word 7) 32 32
def Isq.acc? (q : Isq) (d : Nat) : SqAcc := ⟨d, q.core, q.pid⟩

/-- Is a header valid (R400), for a granted launch and tables. -/
def hdrOk (s : State) (q : Isq) (ws : List Word) : Bool :=
  let w := fun i => ws.getD i 0
  let safe := fld (w 6) 0 32
  let fmax := fld (w 6) 32 32
  let fmin := fld (w 7) 0 32
  let hmin := fld (w 7) 32 32
  fld (w 0) 8 8 == 0 && !(bitAt (w 0) 33) && fld (w 0) 36 4 == 0 && fld (w 0) 46 2 == 0 && fld (w 0) 52 12 == 0
    && (q.tabs.get? (fld (w 0) 34 2)).isSome && fld (w 1) 0 2 == 0 && !(badTop (w 1)) && !(badHint (w 3))
    && !(badTop (w 4)) && fld (w 4) 0 6 == 0 && !(badTop (w 5)) && fld (w 5) 0 12 == 0
    && sqFinite safe && sqFinite fmax && sqFinite fmin && sqFinite hmin
    && sqLt 0 safe && sqLt 0 fmin && !(sqLt fmax fmin) && !(sqLt hmin 0)
    && fld (w 8) 54 10 == 0 && fld (w 8) 50 3 == 0 && fld (w 8) 0 39 == 0
    && (!(bitAt (w 8) 53) || (fld (w 8) 44 5 ≤ 23 && (s.core (hintCore (w 8))).lid == q.granted))
    && fld (w 9) 32 32 == 0 && (List.range 5).all fun i => w (10 + i) == 0

/-! ### Samples (R401) -/

/-- Word `j` of the record of sample `i`. -/
def Isq.sampleAddr (q : Isq) (i j : Nat) : Word := q.smp + BitVec.ofNat 64 (64 * i + 8 * j)

/-- Read the record of a sample. -/
def readSample (m : SqAcc) (q : Isq) (i : Nat) (s : State) : Except AccErr (List Word) × State :=
  pathWords s 6 m.d m.k m.pid (q.sampleAddr i 0) 8

def smT (r : List Word) : Nat := fld (r.getD 1 0) 0 32
def smH (r : List Word) : Nat := fld (r.getD 1 0) 32 32
def smEnd (r : List Word) : Nat := fld (r.getD 2 0) 0 32
def smAtol (r : List Word) : Nat := fld (r.getD 2 0) 32 32
def smRtol (r : List Word) : Nat := fld (r.getD 3 0) 0 32
def smSts (r : List Word) : Nat := fld (r.getD 3 0) 32 8
def smFv (r : List Word) : Bool := bitAt (r.getD 3 0) 40
def smHc (r : List Word) : Nat := fld (r.getD 3 0) 41 2
def smAcc (r : List Word) : Nat := fld (r.getD 5 0) 0 32
def smRej (r : List Word) : Nat := fld (r.getD 5 0) 32 32
def smHa (r : List Word) : Nat := fld (r.getD 6 0) 0 32
def smHb (r : List Word) : Nat := fld (r.getD 6 0) 32 32
def smXa (r : List Word) : Word := put (fld (r.getD 0 0) 0 54) 0 54

/-- Is a sample invalid (R401). -/
def sampleBad (q : Isq) (r : List Word) : Bool :=
  !(sqFinite (smT r) && sqFinite (smH r) && sqFinite (smEnd r) && sqFinite (smAtol r) && sqFinite (smRtol r))
    || !(sqLt 0 (smH r)) || !(sqLt (smT r) (smEnd r)) || !(sqLt 0 (smAtol r)) || sqLt (smRtol r) 0
    || (r.getD 0 0).toNat % (if q.bf then 2 else 4) != 0 || resolve q.core (r.getD 0 0) == .bad

/-- The attempted step of a sample, and whether it is clipped (R409). -/
def attempt (r : List Word) : Nat × Bool :=
  if sqLt (smEnd r) (sqAdd (smT r) (smH r)) then (sqSub (smEnd r) (smT r), true) else (smH r, false)

/-- The state of a sample as FP32 (R406). -/
def readState (m : SqAcc) (q : Isq) (r : List Word) (s : State) : Except AccErr (List Nat) × State :=
  if q.bf then
    andThen (sqElems m (smXa r) 2 q.dim s) fun xs s1 => (.ok (xs.map fun c => sqCanon (floatToFloat fBF16 fFP32 0 c)), s1)
  else sqElems m (smXa r) 4 q.dim s

/-- Read stored derivatives, one row for each place named. -/
def readRows (m : SqAcc) (q : Isq) (i : Nat) : List Nat → State → Except AccErr (List (List Nat)) × State
  | [], s => (.ok [], s)
  | j :: rest, s =>
    andThen (sqElems m (q.kst i j) 4 q.dim s) fun row s1 =>
      andThen (readRows m q i rest s1) fun rows s2 => (.ok (row :: rows), s2)

/-! ### The status word, PROG and notices (R415, R417, R420) -/

/-- The status word (R415). -/
def Isq.status (q : Isq) : Word :=
  put q.state 61 3 ||| put q.cause 56 5 ||| put q.live 47 9 ||| put q.stg 44 3 ||| put q.rounds 0 32

/-- Write PROG of the set. -/
def writeProg (m : SqAcc) (q : Isq) (s : State) : Except AccErr Unit × State :=
  pathStore s 6 m.d m.k m.pid (q.hdrAddr + 120) 8 q.status.toNat

/-- Post the kind-7 record of a set where it has a notice core that is online (R417); its SEQ is a free value. -/
def sqNotice (d n : Nat) (q : Isq) (s : State) : State :=
  let k := hintCore (q.word 8)
  if bitAt (q.word 8) 53 && coreOnline s k then
    let (sq, s1) := s.free
    postNotice k
      { w0 := put 7 0 4 ||| put (fld (q.word 0) 48 2) 8 2 ||| put (4 * d + n) 20 12
        w1 := 0
        w2 := q.status
        w3 := q.hdrAddr
        w4 := put q.acc 16 16 ||| put q.rej 0 16
        w5 := 0
        w6 := 0
        w7 := put (fld sq 0 32) 0 32 } s1
  else s

/-- The stage node of a set, if it is in the pool: its slot. -/
def Isq.node? (q : Isq) (s : State) (d : Nat) : Option Nat :=
  match q.handle with
  | none => none
  | some w => match (s.die d).pool.get? (fld w 0 12) with
    | some m => if m.gen = fld w 48 16 then some (fld w 0 12) else none
    | none => none

/-- Write PROG of a failed set if it can be written, and post its notice; while PROG's page is being filled both wait (R420). -/
def sqFailed (d n : Nat) (q : Isq) (s : State) : State :=
  match writeProg (q.acc? d) q s with
  | (.error .held, _) => setIsq d n { q with progDue := true } s
  | (_, s1) => sqNotice d n q (setIsq d n { q with progDue := false } s1)

/-- A set fails (R420): PROG is written and the notice posted, and a later completion of its node is discarded. -/
def sqFail (d n : Nat) (q : Isq) (cause : Nat) (s : State) : State :=
  let s0 := match q.node? s d with
    | some slot => modNode d slot (fun m => { m with isq := none }) s
    | none => s
  let q1 := { q with state := 6, cause := cause, handle := none, toSubmit := false, stageDone := false, stopReq := false, preReq := false }
  sqFailed d n q1 s0

/-- What an access failure of a running set leads to: nothing while it is held, else the failure of the set (R420). -/
def sqError (d n : Nat) (q : Isq) (e : AccErr) (before after : State) : State :=
  match e with
  | .held => before
  | .xlate _ => sqFail d n q 3 after
  | .resp _ => sqFail d n q 4 after

/-! ### Stages (R403, R404, R406, R410) -/

/-- Every sample's record, by index. -/
def readSamples (m : SqAcc) (q : Isq) : List Nat → State → Except AccErr (List (Nat × List Word)) × State
  | [], s => (.ok [], s)
  | i :: rest, s =>
    andThen (readSample m q i s) fun r s1 => andThen (readSamples m q rest s1) fun rs s2 => (.ok ((i, r) :: rs), s2)

/-- The batch of a stage: live samples; with a multistep table those without a derivative (R403). -/
def inBatch (q : Isq) (r : List Word) : Bool := smSts r == 0 && !(tabMulti q.tab && smFv r)

/-- One element of a stage's input (R406). -/
def stageElem (q : Isq) (stage h x : Nat) (ks : List Nat) : Nat :=
  if stage = 0 then x
  else
    let d := (List.range stage).foldl (fun d j =>
      let a := tabA q.tab stage j
      if sqZero a then d else sqFma a (ks.getD j 0) d) 0
    sqFma h d x

/-- The elements of a row with its padding (R402). -/
def padRow (q : Isq) (row : List Nat) : List Nat := row ++ List.replicate (q.dp - row.length) 0

/-- Write the batch's entry and input row of a sample: row `b` (R403, R406, R410). -/
def writeBatch (m : SqAcc) (q : Isq) (stage : Nat) : List (Nat × List Word) → Nat → State → Except AccErr Unit × State
  | [], _, s => (.ok (), s)
  | (i, r) :: rest, b, s =>
    let h := (attempt r).1
    let time := if tabMulti q.tab then smT r else sqAdd (smT r) (sqMul (tabC q.tab stage) h)
    andThen (pathStore s 6 m.d m.k m.pid (q.ws + BitVec.ofNat 64 (64 + 8 * b)) 8 (i + 2 ^ 32 * time)) fun _ s1 =>
      andThen (readState m q r s1) fun xs s2 =>
        andThen (readRows m q i (if tabMulti q.tab then [] else List.range stage) s2) fun ks s3 =>
          let ys := (List.range q.dim).map fun e =>
            if tabMulti q.tab then xs.getD e 0 else stageElem q stage h (xs.getD e 0) (ks.map fun k => k.getD e 0)
          andThen (sqPut m (q.yin b) 4 (padRow q ys) s3) fun _ s4 => writeBatch m q stage rest (b + 1) s4

/-- The descriptor words of a stage node (R404). -/
def stageDesc (q : Isq) (d n : Nat) : List Word :=
  let nb := q.batch.length
  let h := q.word 0
  [ put (fld h 40 6) 0 6 ||| put (fld h 48 2) 8 2 ||| flag (bitAt h 50) 12,
    q.word 1,
    q.ws,
    put nb 0 9 ||| put q.stg 16 3 ||| put n 24 2 ||| put d 26 1,
    q.word 2,
    0,
    0,
    q.word 3,
    put 1 62 2 ||| q.ws, put 0x1000 0 32,
    put 1 62 2 ||| q.yin 0, put (4 * q.dp * nb) 0 32,
    put 2 62 2 ||| q.kout 0, put (4 * q.dp * nb) 0 32,
    0, 0 ]

/-- Submit the stage node of a built batch, or leave it for a retry (R404); the core that binds it acquires at device scope (R418). -/
def submitStage (d n : Nat) (q : Isq) (s : State) : State :=
  let nd := { descNode d q.core q.granted q.pid q.ectx (stageDesc q d n) with isq := some n, acq := 4 }
  match submitNode d nd s with
  | (.ok slot, s1) =>
    let gen := match (s1.die d).pool.get? slot with | some m => m.gen | none => 0
    setIsq d n { q with handle := some (handleOf d slot gen 0), toSubmit := false, stageDone := false, submitted := s.pkg.time } s1
  | (.error _, _) => setIsq d n { q with toSubmit := true, submitted := s.pkg.time } s

/-! ### The end of a step (R406 to R410) -/

/-- The error norm from D and xn (R407). -/
def errNorm (rtol atol dim : Nat) (xs xn ds : List Nat) : Nat :=
  let acc := (List.range dim).foldl (fun acc e =>
    let m := sqMax (xs.getD e 0) (xn.getD e 0)
    let r := sqDiv (ds.getD e 0) (sqFma rtol m atol)
    sqFma r r acc) 0
  sqCanon (fSqrt fFP32 0 (sqDiv acc (sqOfNat dim)))

/-- The growth factor (R408). -/
def growth (q : Isq) (e kappa : Nat) : Nat :=
  let fmax := fld (q.word 6) 32 32
  let fmin := fld (q.word 7) 0 32
  if sqZero e then fmax
  else
    let e' := if (fFP32.read e).isNan then 0x7F800000 else e
    let p := sqMul (sqCanon (fLog2 0 e')) kappa
    let f := sqMul (fld (q.word 6) 0 32) (sqCanon (fExp2 0 p))
    let lo := if sqLt f fmin then fmin else f
    if sqLt fmax lo then fmax else lo

/-- The coefficients β of an order of the multistep method (R410). -/
def betas (m h a b : Nat) : List Nat :=
  let h2 := sqMul h h
  match m with
  | 1 => [h]
  | 2 =>
    let b1 := sqNeg (sqDiv (sqMul 0x3F000000 h2) a)
    [sqSub h b1, b1]
  | _ =>
    let sm := sqAdd a b
    let t3 := sqMul h 0x3EAAAAAB
    let b2 := sqDiv (sqMul h2 (sqAdd t3 (sqMul 0x3F000000 a))) (sqMul b sm)
    let b1 := sqNeg (sqDiv (sqMul h2 (sqAdd t3 (sqMul 0x3F000000 sm))) (sqMul a b))
    [sqSub (sqSub h b1) b2, b1, b2]

/-- xn and D of a step: from R406, or R410 with a multistep table; the rows of derivatives are given in the order of the sum. -/
def stepEnd (q : Isq) (r : List Word) (h : Nat) (xs : List Nat) (ks : List (List Nat)) : List Nat × List Nat :=
  let row := fun e => ks.map fun k => k.getD e 0
  let at0 := fun e => xs.getD e 0
  if tabMulti q.tab then
    let m := smHc r
    let be := betas m h (smHa r) (smHb r)
    let pr := if m ≤ 1 then [] else betas (m - 1) h (smHa r) (smHb r)
    let de := (List.range m).map fun j => sqSub (be.getD j 0) (pr.getD j 0)
    let sum := fun (c : List Nat) (f : List Nat) (z : Nat) => (List.range m).foldl (fun acc j => sqFma (c.getD j 0) (f.getD j 0) acc) z
    ((List.range q.dim).map fun e => sum be (row e) (at0 e), (List.range q.dim).map fun e => sum de (row e) 0)
  else
    let n := tabStages q.tab
    let dot := fun (c : Nat → Nat) (f : List Nat) =>
      (List.range n).foldl (fun acc j => if sqZero (c j) then acc else sqFma (c j) (f.getD j 0) acc) 0
    ((List.range q.dim).map fun e => sqFma h (dot (tabB q.tab) (row e)) (at0 e),
     (List.range q.dim).map fun e => sqMul h (dot (tabEb q.tab) (row e)))

/-- The rows of derivatives that a step end reads. -/
def stepRows (q : Isq) (r : List Word) : List Nat :=
  if tabMulti q.tab then (List.range (smHc r)).map fun j => (smAcc r + 2 ^ 32 - j) % 4 else List.range (tabStages q.tab)

/-- Word 3 of a sample record with its STS, FV and HC. -/
def stsWord (r : List Word) (sts : Nat) (fv : Bool) (hc : Nat) : Word :=
  put (smRtol r) 0 32 ||| put sts 32 8 ||| flag fv 40 ||| put hc 41 2

/-- What the decision of a step leaves: the sample's new status, whether it was accepted, and the writes to its record, as address, width and
value. -/
structure Decided where
  sts : Nat
  ok : Bool
  writes : List (Word × Nat × Nat)

/-- Decide the step of a live sample (R407 to R410): an accepted one's state elements are written, its record is not yet (R420). -/
def decide1 (m : SqAcc) (q : Isq) (i : Nat) (r : List Word) (s : State) : Except AccErr Decided × State :=
  let (h, clipped) := attempt r
  andThen (readState m q r s) fun xs s1 =>
    andThen (readRows m q i (stepRows q r) s1) fun ks s2 =>
      let (xn, ds) := stepEnd q r h xs ks
      let first := tabMulti q.tab && smHc r ≤ 1
      let e := if first then 0 else errNorm (smRtol r) (smAtol r) q.dim xs xn ds
      let ok := !((fFP32.read e).isNan) && !(sqLt 0x3F800000 e)
      let kappa := if tabMulti q.tab then kappaOf (smHc r - 1) else tabKappa q.tab
      let h' := if first then h else sqMul h (growth q e kappa)
      let t' := if clipped then smEnd r else sqAdd (smT r) h
      let sts := if ok then (if sqLt t' (smEnd r) then 0 else 1) else if sqLt h' q.hmin then 2 else 0
      let state := if ok then
          sqPut m (smXa r) (if q.bf then 2 else 4) (if q.bf then xn.map fun c => floatToFloat fFP32 fBF16 0 c else xn) s2
        else (.ok (), s2)
      let rec8 := fun (j : Nat) (v : Word) => (q.sampleAddr i j, 8, v.toNat)
      let writes :=
        [ rec8 1 (put (if ok then t' else smT r) 0 32 ||| put h' 32 32),
          rec8 3 (stsWord r sts (smFv r && !ok) (smHc r)),
          rec8 5 (put (smAcc r + if ok then 1 else 0) 0 32 ||| put (smRej r + if ok then 0 else 1) 32 32) ]
        ++ (if tabMulti q.tab && ok then [rec8 6 (put h 0 32 ||| put (smHa r) 32 32)] else [])
        ++ [(q.sampleAddr i 7, 4, e)]
      andThen state fun _ s3 => (.ok ⟨sts, ok, writes⟩, s3)

/-- Decide every live sample by increasing index. -/
def decideAll (m : SqAcc) (q : Isq) : List (Nat × List Word) → State → Except AccErr (List Decided) × State
  | [], s => (.ok [], s)
  | (i, r) :: rest, s =>
    if smSts r ≠ 0 then decideAll m q rest s
    else andThen (decide1 m q i r s) fun o s1 => andThen (decideAll m q rest s1) fun os s2 => (.ok (o :: os), s2)

/-- Perform writes in order. -/
def sqWrites (m : SqAcc) : List (Word × Nat × Nat) → State → Except AccErr Unit × State
  | [], s => (.ok (), s)
  | (a, w, v) :: rest, s => andThen (pathStore s 6 m.d m.k m.pid a w v) fun _ s1 => sqWrites m rest s1

/-- The record of a sample whose derivative a round has just stored for a multistep table: FV set and one more row of history (R403, R410). -/
def freshRecord (q : Isq) (r : List Word) : List Word := r.set 3 (stsWord r (smSts r) true (min (smHc r + 1) (tabP q.tab)))

/-- The end of a round (R403): every live sample is decided, then their records, ROUNDS, PROG and the notice. `fresh` names the samples whose
derivative a multistep table has stored in this round. A failure leaves every record as the last completed round left it (R420). -/
def endRound (d n : Nat) (q : Isq) (fresh : List Nat) (before s : State) : State :=
  let m := q.acc? d
  match readSamples m q (List.range q.samples) s with
  | (.error e, s1) => sqError d n q e before s1
  | (.ok rs, s1) =>
    match decideAll m q (rs.map fun e => if tabMulti q.tab && fresh.contains e.1 then (e.1, freshRecord q e.2) else e) s1 with
    | (.error e, s2) => sqError d n q e before s2
    | (.ok os, sd) =>
      match sqWrites m (os.flatMap (·.writes)) sd with
      | (.error e, _) => sqError d n q e before sd
      | (.ok _, s2) =>
      let acc := (os.filter (·.ok)).length
      let rej := os.length - acc
      let live := (os.filter (·.sts == 0)).length
      let q1 := { q with
        rounds := (q.rounds + 1) % 2 ^ 32, acc := acc, rej := rej, live := live, handle := none, stageDone := false
        state := if live = 0 then 5 else q.state
        stopReq := q.stopReq && live != 0, preReq := q.preReq && live != 0 }
      match writeProg m q1 s2 with
      | (.error e, s3) => sqError d n q1 e before s3
      | (.ok _, s3) => (if q1.state = 5 ∨ bitAt (q.word 0) 51 = true then sqNotice d n q1 else id) (setIsq d n q1 s3)

/-- Run the stages from `stage` on: the first with samples is built and submitted; after the last the round ends (R403). `fuel` bounds the
number of stages. -/
def runStages (d n : Nat) (q : Isq) (fresh : List Nat) (before : State) : Nat → Nat → State → State
  | 0, _, s => endRound d n q fresh before s
  | fuel + 1, stage, s =>
    if tabStages q.tab ≤ stage then endRound d n q fresh before s
    else
      let m := q.acc? d
      match readSamples m q (List.range q.samples) s with
      | (.error e, s1) => sqError d n q e before s1
      | (.ok rs, s1) =>
        let lb := rs.filter fun e => inBatch q e.2
        if lb.isEmpty then runStages d n q fresh before fuel (stage + 1) s1
        else
          let q1 := { q with stg := stage, batch := lb.map (·.1) }
          let w0 := lb.length + 2 ^ 16 * stage + 2 ^ 32 * q.rounds
          match andThen (writeBatch m q1 stage lb 0 s1) fun _ s2 => pathStore s2 6 m.d m.k m.pid q.ws 8 w0 with
          | (.error e, s2) => sqError d n q e before s2
          | (.ok _, s2) => submitStage d n q1 s2

/-- Is a sequencer between two rounds or stages, and may it go on. -/
def Isq.goes (q : Isq) : Bool := (q.state == 1 || q.state == 2) && !q.paused && !q.preReq

/-- What a sequencer does between two boundaries is charged to the energy context of the thread whose SQGO started the set (R396, R449). -/
def chargeIsq (d n : Nat) (s : State) : State := chargeStep d (isqOf s d n).ectx s

/-- ISQ_ROUND (R403, R416): at the start of a round a stop request is taken, else the round begins. Of a failed set, the writes that wait. -/
def execIsqRound (d n : Nat) (s : State) : Out :=
  let q := isqOf s d n
  if q.progDue && !q.paused then .next (sqFailed d n q s)
  else if !q.goes || q.handle.isSome || q.toSubmit then .next s
  else if q.stopReq then
    let q1 := { q with state := 3, stopReq := false }
    match writeProg (q.acc? d) q1 s with
    | (.error e, s1) => .next (sqError d n q e s s1)
    | (.ok _, s1) => .next (setIsq d n q1 s1)
  else .next (chargeIsq d n (runStages d n q [] s 8 0 s))

/-- STAGE_SUBMIT_RETRY (R404): a stage node that the TGU refused is submitted again, every 1 µs. -/
def execStageSubmitRetry (d n : Nat) (s : State) : Out :=
  let q := isqOf s d n
  if (q.state == 1 || q.state == 2) && !q.paused && q.toSubmit && decide (q.submitted + 1000 ≤ s.pkg.time) then .next (submitStage d n q s) else .next s

/-- Copy the rows that the denoiser wrote to the stored derivatives of the batch (R403, R410); the records follow at the round's end. -/
def copyRows (m : SqAcc) (q : Isq) : List Nat → Nat → State → Except AccErr Unit × State
  | [], _, s => (.ok (), s)
  | i :: rest, b, s =>
    andThen (sqElems m (q.kout b) 4 q.dim s) fun row s1 =>
      if tabMulti q.tab then
        andThen (readSample m q i s1) fun r s2 =>
        andThen (sqPut m (q.kst i (smAcc r % 4)) 4 (padRow q row) s2) fun _ s3 => copyRows m q rest (b + 1) s3
      else andThen (sqPut m (q.kst i q.stg) 4 (padRow q row) s1) fun _ s2 => copyRows m q rest (b + 1) s2

/-- STAGE_COMPLETE (R405): the stage node is done; its derivatives are copied, and the next stage runs or the samples are decided. -/
def execStageComplete (d n : Nat) (s : State) : Out :=
  let q := isqOf s d n
  if !q.goes || q.handle.isNone || !q.stageDone then .next s
  else
    match copyRows (q.acc? d) q q.batch 0 s with
    | (.error e, s1) => .next (sqError d n q e s s1)
    | (.ok _, s1) => .next (chargeIsq d n (runStages d n { q with handle := none, stageDone := false } q.batch s 8 (q.stg + 1) s1))

/-- STAGE_TIMEOUT (R405): TMO µs have passed since the submission. -/
def execStageTimeout (d n : Nat) (s : State) : Out :=
  let q := isqOf s d n
  let tmo := fld (q.word 9) 0 32
  if (q.state = 1 ∨ q.state = 2) ∧ q.handle.isSome ∧ q.stageDone = false ∧ tmo ≠ 0 ∧ q.submitted + 1000 * tmo ≤ s.pkg.time then
    .next (sqFail d n q 6 s)
  else .next s

/-- ISQ_PREEMPT_STOP (R419): at a stage boundary PROG is written with STATE 4 and the ISQ stops. A built batch whose node the TGU has not yet
accepted is at no boundary (R403). -/
def execIsqPreemptStop (d n : Nat) (s : State) : Out :=
  let q := isqOf s d n
  if q.preReq && (q.state == 1 || q.state == 2) && !q.paused && !q.toSubmit then
    let q1 := { q with state := 4 }
    match writeProg (q.acc? d) q1 s with
    | (.error e, s1) => .next (sqError d n q e s s1)
    | (.ok _, s1) => .next (setIsq d n q1 s1)
  else .next s

/-! ### The instructions (R411 to R416) -/

/-- The ISQ that a word names, on the issuing core's die. -/
def Fields.sq (f : Fields) : Nat := Fields.xBits f 0 2

/-- Is a set active: running, stopping, stopped or pre-empted (R412). -/
def Isq.active (q : Isq) : Bool := 1 ≤ q.state && q.state ≤ 4

/-- Has the ISQ been granted to the launch of a thread. -/
def sqGranted (s : State) (x : Nat) (q : Isq) : Bool := q.granted.isSome && q.granted == threadLaunch s x

/-- The status code in W[D] (R412). -/
def sqCode (x : Nat) (f : Fields) (n : Nat) (s : State) : Eff := .done (s.modCtx x fun c => c.writeD f.d (BitVec.ofNat 64 n))

/-- Words of 32 bits from words of 64. -/
def tableHalves : List Word → List (BitVec 32)
  | [] => []
  | w :: rest => w.extractLsb' 0 32 :: w.extractLsb' 32 32 :: tableHalves rest

/-- SQTAB (R412, R413). -/
def execSqtab (h : Hdr) (f : Fields) (s : State) : Out :=
  issue (.sqtab h f) false false (fun x c t =>
    let k := coreOf x
    let d := coreDie k
    let n := Fields.sq f
    let slot := f.xBits 4 2
    let q := isqOf t d n
    let a := srcS c [] f.a
    if sqGranted t x q = false then sqCode x f 1 t
    else if q.active ∧ fld (q.word 0) 34 2 = slot then sqCode x f 2 t
    else if a.toNat % 8 ≠ 0 ∨ resolve k a = .bad then sqCode x f 4 t
    else match pathWords t 6 d k c.pid a 46 with
      | (.error .held, _) => .leave (holdHere x (.sqtab h f) t)
      | (.error _, t1) => sqCode x f 5 t1
      | (.ok ws, t1) =>
        let tab := tableHalves ws
        if tabOk tab then sqCode x f 0 (setIsq d n { q with tabs := q.tabs.put slot (tabDerive tab) } t1) else sqCode x f 3 t1) s

/-- The first writes of a fresh set (R414): STS of every sample, with its counters cleared; the live ones are counted. -/
def startSamples (m : SqAcc) (q : Isq) : List Nat → Nat → State → Except AccErr Nat × State
  | [], live, s => (.ok live, s)
  | i :: rest, live, s =>
    andThen (readSample m q i s) fun r s1 =>
      let bad := sampleBad q r
      andThen (pathStore s1 6 m.d m.k m.pid (q.sampleAddr i 3) 8 (stsWord r (if bad then 3 else 0) false 0).toNat) fun _ s2 =>
      andThen (pathStore s2 6 m.d m.k m.pid (q.sampleAddr i 5) 8 0) fun _ s3 =>
      andThen (pathStore s3 6 m.d m.k m.pid (q.sampleAddr i 7) 4 0) fun _ s4 =>
        startSamples m q rest (if bad then live else live + 1) s4

/-- Start a checked set, or go on with a stopped one (R414). -/
def startSet (d n : Nat) (q : Isq) (res : Bool) (s : State) : Except AccErr State × State :=
  let m := q.acc? d
  let counted := if res then
      andThen (readSamples m q (List.range q.samples) s) fun rs s1 => (.ok (rs.filter fun e => smSts e.2 == 0).length, s1)
    else startSamples m q (List.range q.samples) 0 s
  andThen counted fun live s1 =>
    let q1 := { q with
      state := if live = 0 then 5 else 1
      live := live
      rounds := if res then fld (q.word 15) 0 32 else 0 }
    andThen (writeProg m q1 s1) fun _ s2 =>
      let s3 := setIsq d n q1 s2
      (.ok (if live = 0 then sqNotice d n q1 s3 else s3), s3)

/-- SQGO (R412, R414). -/
def execSqgo (h : Hdr) (f : Fields) (s : State) : Out :=
  issue (.sqgo h f) false false (fun x c t =>
    let k := coreOf x
    let d := coreDie k
    let n := Fields.sq f
    let res := f.subBit 0
    let q := isqOf t d n
    let a := srcS c [] f.a
    if sqGranted t x q = false then sqCode x f 1 t
    else if q.progDue then .leave (holdHere x (.sqgo h f) t)
    else if (res = false ∧ q.active) ∨ (res ∧ (q.state = 1 ∨ q.state = 2 ∨ q.state = 4 ∨ (q.state = 3 ∧ a ≠ q.hdrAddr))) then sqCode x f 2 t
    else if a.toNat % 64 ≠ 0 ∨ resolve k a = .bad then sqCode x f 4 t
    else match pathWords t 6 d k c.pid a 16 with
      | (.error .held, _) => .leave (holdHere x (.sqgo h f) t)
      | (.error _, t1) => sqCode x f 5 t1
      | (.ok ws, t1) =>
        if hdrOk t q ws = false ∨ (res = true ∧ fld (ws.getD 15 0) 61 3 ≠ 3) then sqCode x f 3 t1
        else
          let q1 := { q with
            tab := q.tabs.getD (fld (ws.getD 0 0) 34 2) [], hdrAddr := a, hdr := ws, cause := 0, stg := if res then fld (ws.getD 15 0) 44 3 else 0, batch := [], handle := none
            toSubmit := false, stageDone := false, stopReq := false, preReq := false, pid := c.pid, ectx := c.ectx, core := k, acc := 0, rej := 0 }
          match startSet d n q1 res t1 with
          | (.error .held, _) => .leave (holdHere x (.sqgo h f) t)
          | (.error _, t2) => sqCode x f 5 t2
          | (.ok t2, _) => sqCode x f 0 t2) s

/-- The status word that a thread reads: STATE 7 where the ISQ is not granted to its launch. -/
def sqStatus (s : State) (x n : Nat) : Word :=
  let q := isqOf s (coreDie (coreOf x)) n
  if sqGranted s x q then q.status else put 7 61 3

/-- Is the set of an ISQ no longer active for a waiting thread (R415). -/
def sqstatOver (s : State) (x n : Nat) : Bool :=
  let st := fld (sqStatus s x n) 61 3
  !(st == 1 || st == 2 || st == 4)

/-- SQSTAT (R415). -/
def execSqstat (h : Hdr) (f : Fields) (s : State) : Out :=
  issue (.sqstat h f) false false (fun x c t =>
    let n := Fields.sq f
    let late := match c.wait? with | some w => w.timedOut | none => false
    let fin := fun (p : Bool) (u : State) => u.modCtx x fun d => (d.writeD f.d (sqStatus t x n)).writeD f.b (allOf p)
    if f.subBit 0 = false then .done (t.modCtx x fun d => d.writeD f.d (sqStatus t x n))
    else if late then .done (fin false t)
    else if sqstatOver t x n then .done (fin true (acquireLines t (coreOf x) c.pid (f.xBits 33 3) none))
    else
      let tmo := (c.w (f.d.num + 1)).toNat
      .leave (waitKeyed x (.sqstat h f) .sqstat (if tmo = 0 then none else some (t.pkg.time + tmo)) n t)) s

/-- SQSTAT_WAIT_TIMEOUT (R415). -/
def execSqstatWaitTimeout (x : Nat) (s : State) : Out := .next (timeOut x .sqstat s)

/-- SQSTOP (R412, R416). -/
def execSqstop (h : Hdr) (f : Fields) (s : State) : Out :=
  issue (.sqstop h f) false false (fun x _ t =>
    let d := coreDie (coreOf x)
    let n := Fields.sq f
    let q := isqOf t d n
    if sqGranted t x q = false then sqCode x f 1 t
    else if q.state = 1 ∨ q.state = 2 then sqCode x f 0 (setIsq d n { q with state := 2, stopReq := true } t)
    else sqCode x f 6 t) s

end Sys2Proof.Machine
end

