-- ==== Sys2Proof/Machine/Power.lean ====
section
/-! DEFINITION. Power: the budget interval, duties, throttle notices, boost steps and permits, leases, lending, energy counters and droops
(R227, R286, R440 to R449). -/

namespace Sys2Proof.Machine

/-! ### The boundary of a budget interval (R440 to R444, R447, R449) -/

/-- The duty that the tree grants a core (R440): every level divides in proportion to demand and caps at demand, so the share of each core
is the same fraction `budget / total` of its demand, at most all of it. -/
def treeDuty (cap budget total demand : Nat) : Nat :=
  if demand = 0 then 16 else if total ≤ budget then min cap 16 else min cap (16 * budget / total)

/-- A duty as a die above 100 °C grants it: lower than the tree would, by an amount that the spec leaves open (R454). -/
def coolDuty (heat d : Nat) : Nat := d - (1 + heat % max d 1)

/-- A new duty at a core: the count of low intervals (R440) and the throttle notices of its contexts (R442). -/
def setDuty (k new : Nat) (s : State) : State :=
  let old := (s.core k).dutyD
  let s1 := (s.modCore k fun c => { c with dutyD := new }).modDie (coreDie k) fun d =>
    { d with lowD := d.lowD.put (k % 768) (if new ≤ 4 then d.lowD.getD (k % 768) 0 + 1 else 0) }
  (userCtxs k).foldl (fun t x =>
    let c := t.ctx x
    if c.occupied && c.tnEn && decide (c.tnThr ≤ old) && decide (new < c.tnThr) then
      (if new = 0 then supPush k 5 (ctxNo x) (t.modCtx x fun d => { d with tnDn := 1 })
       else t.modCtx x fun d => { d with pendThrottle := some (put new 0 5) })
    else t) s1

/-- What a step costs at a boundary, in permits (R443). -/
def stepCost (step : Nat) : Nat :=
  match step with
  | 3 => 3
  | 2 => 1
  | _ => 0

/-- The highest step up to `want` that permits pay for (R443). -/
def reachStep (want perm : Nat) : Nat :=
  if want = 3 ∧ 3 ≤ perm then 3 else if 2 ≤ want ∧ 1 ≤ perm then 2 else 1

/-- The highest step that the leases of a cluster's cores ask for, or its borrow. -/
def clusterWant (s : State) (q : Nat) : Nat :=
  let steps := (List.range 8).flatMap fun n => (userCtxs (clusterCore q n)).map fun x =>
    if (s.ctx x).lease.act then (s.ctx x).lease.step else 1
  steps.foldl max (if (s.cluster q).brw then (s.cluster q).want else 1)

/-- Clusters of a die that hold a boost slot (R444). -/
def slotHolders (s : State) (d : Nat) : Nat := ((List.range 96).filter fun n => (s.cluster (96 * d + n)).slot).length

/-- Clusters in the order in which they win free slots: more permits first, then the lower number (R444). -/
def claimBefore (s : State) (a b : Nat) : Bool :=
  (s.cluster b).perm < (s.cluster a).perm || ((s.cluster a).perm == (s.cluster b).perm && a < b)

/-- Insert a claimant in its order. -/
def insertClaim (s : State) (q : Nat) : List Nat → List Nat
  | [] => [q]
  | p :: rest => if claimBefore s q p then q :: p :: rest else p :: insertClaim s q rest

/-- The step of a cluster at a boundary, whether or not it won a slot (R443). With all 64 permits no idle interval counts toward a next one
(R444, R457; log entry 37). -/
def boostCluster (q : Nat) (won : Bool) (s : State) : State :=
  let want := clusterWant s q
  s.modCluster q fun c =>
    let down := if want < c.step then want else c.step
    let reach := reachStep want c.perm
    let up := if down < reach && (c.slot || won) then reach else down
    let paid := if stepCost up ≤ c.perm then (up, c.perm - stepCost up)
      else (up - 1, c.perm - min (stepCost (up - 1)) c.perm)
    let idle := paid.1 == 1 && decide (paid.2 < 64)
    { c with
      step := paid.1
      perm := if idle && c.half then paid.2 + 1 else paid.2
      half := idle && !c.half
      slot := paid.1 != 1 }

/-- The boost steps of a die at a boundary: claims for free slots are settled together (R443, R444). -/
def boostDie (d : Nat) (s : State) : State :=
  let qs := (List.range 96).map fun n => 96 * d + n
  let claims := qs.filter fun q =>
    let c := s.cluster q
    let want := clusterWant s q
    !c.slot && min c.step want < reachStep want c.perm
  let won := (claims.foldl (fun l q => insertClaim s q l) []).take ((s.die d).bslot - slotHolders s d)
  let s1 := qs.foldl (fun t q => boostCluster q (won.contains q) t) s
  s1.modDie d fun dd => { dd with slotsFree := dd.bslot - slotHolders s1 d }

/-- Is a cluster's launch throughput-class (R447, R469). -/
def thrCluster (s : State) (q : Nat) : Bool :=
  (List.range 8).any fun n => match coreLaunch s (clusterCore q n) with
    | some l => bitAt (l.word 2) 40
    | none => false

/-- Does a cluster lend: it is gated, or has been at nominal with D at most 4 on every core for the interval that ends (R447). -/
def lendsNow (s : State) (q : Nat) : Bool :=
  clusterDark s q || ((s.cluster q).step == 1 && (List.range 8).all fun n => (s.core (clusterCore q n)).dutyD ≤ 4)

/-- The borrows of a die's clusters that no longer run a throughput launch end, and their lenders' entries are free (R447). -/
def endBorrows (d : Nat) (s : State) : State :=
  (List.range 96).foldl (fun t n =>
    let q := 96 * d + n
    if (t.cluster q).brw && !(thrCluster t q) then
      (t.modCluster q fun c => { c with brw := false, want := 1 }).modDie d fun dd =>
        { dd with lending := dd.lending.map fun e => if bitAt e.2 54 && fld e.2 55 7 == n then (e.1, setFld e.2 54 9 0) else e }
    else t) s

/-- Fields of an entry of the lending table. -/
def lendWord (lnd rcl bv : Bool) (bor mw : Nat) : Word := flag lnd 63 ||| flag rcl 62 ||| put bor 55 7 ||| flag bv 54 ||| put mw 0 32

/-- The lending entries of a die at a boundary: `mw` gives the power that a lender lends. Entries that are lent stay. -/
def lendDie (d : Nat) (mw : List (Nat × Nat)) (s : State) : State :=
  (List.range 96).foldl (fun t n =>
    let e := (t.die d).lending.getD n 0
    if bitAt e 54 then t
    else
      let l := lendsNow t (96 * d + n)
      let w := lendWord l false false 0 (if l then SMap.getD mw (96 * d + n) 0 else 0)
      t.modDie d fun dd => { dd with lending := dd.lending.putD n 0 w }) s

/-- The free lender entry with the largest MW, the lower number of equal ones. -/
def bestLender (s : State) (d : Nat) : Option Nat :=
  ((s.die d).lending.filter fun e => bitAt e.2 63 && !(bitAt e.2 54)).foldl (fun best e => match best with
    | none => some e.1
    | some b => if fld ((s.die d).lending.getD b 0) 0 32 < fld e.2 0 32 then some e.1 else some b) none

/-- Unserved borrowers of a die take lender entries; whether the power covers top is a free value (log entry 1). -/
def borrowDie (d : Nat) (s : State) : State :=
  (List.range 96).foldl (fun t n =>
    let q := 96 * d + n
    if !(thrCluster t q) || (t.cluster q).brw then t
    else match bestLender t d with
      | none => t
      | some l =>
        let (v, t1) := t.free
        let w := lendWord true false true n (fld ((s.die d).lending.getD l 0) 0 32)
        (t1.modCluster q fun c => { c with brw := true, want := if bitAt v 0 then 3 else 2 }).modDie d fun dd =>
          { dd with lending := dd.lending.put l w }) s

/-- Charge energy, in 2^-10 µJ, to the energy contexts of a die; of all that has accumulated, the whole µJ go to the counters (R449). -/
def chargeDie (d : Nat) (charges : List (Nat × Nat)) (s : State) : State :=
  s.modDie d fun dd =>
    let acc := (charges.filter fun e => e.1 / 256 == d).foldl (fun m e => m.put (e.1 % 256) (SMap.getD m (e.1 % 256) 0 + e.2)) dd.energyAcc
    { dd with
      energyAcc := acc.map fun e => (e.1, e.2 % 1024)
      energy := acc.foldl (fun m e => m.put e.1 ((SMap.getD m e.1 0 + e.2 / 1024) % 2 ^ 64)) dd.energy }

/-- What the issues of a die's cores have cost since the last boundary, under 256 × die + context (R449). -/
def coreCharges (s : State) (d : Nat) : List (Nat × Nat) :=
  (s.cores.filter fun e => coreDie e.1 == d).flatMap fun e => e.2.charges.map fun p => (256 * d + p.1, p.2)

/-- A SYNC group's duty and its count of intervals with slack, from the least slack of the members; none: a member's is missing (R478). -/
def syncStep (g n : Nat) (slack : Option Int) : Nat × Nat :=
  match slack with
  | none => (g, 0)
  | some v =>
    if v ≤ -2 then (g - 1, 0)
    else if v ≤ 0 then (g, 0)
    else if n + 1 = 4 then (min (g + 1) 16, 0) else (g, n + 1)

/-- Does a core run a thread of a SYNC group's PID (R478). -/
def inSync (s : State) (pid k : Nat) : Bool := (userCtxs k).any fun x => (s.ctx x).occupied && (s.ctx x).pid == pid

/-- The least slack of the other members of group `i` of `n`, in what the step is given: the number itself for one group; of several groups the
digits of the number in base 64, from -32 to 31, where -32 says that a member's is missing (log entry 38). -/
def groupSlack (slack : Option Int) (i n : Nat) : Option Int :=
  if n ≤ 1 then slack
  else slack.bind fun v =>
    let d := (v + 32 * ((64 ^ n - 1) / 63)) / 64 ^ i % 64 - 32
    if d = -32 then none else some d

/-- SYNC_GROUP_UPDATE (R478) of one group at a boundary: `duty` is what the tree grants each core, `others` the least slack of the other members. -/
def syncGroup (duty : Nat → Nat) (others : Option Int) (g : SyncGroup) (s : State) : SyncGroup :=
  let least := ((List.range 1536).filter fun k => inSync s g.pid k).foldl (fun m k => min m (duty k)) 16
  let gn := syncStep g.g g.n (others.map fun v => min v ((least : Int) - (g.g : Int)))
  { g with g := gn.1, n := gn.2 }

/-- Every SYNC group at a boundary (R478). -/
def syncGroups (duty : Nat → Nat) (slack : Option Int) (s : State) : State :=
  let gs := s.pkg.sync
  s.modPkg fun p => { p with sync := gs.mapIdx fun i g => syncGroup duty (groupSlack slack i gs.length) g s }

/-- The duty that a core runs at: the least of what the tree grants and of the groups whose threads it runs (R478). -/
def syncDuty (s : State) (k d : Nat) : Nat := (s.pkg.sync.filter fun g => inSync s g.pid k).foldl (fun m g => min m g.g) d

/-- BUDGET_INTERVAL (R440 to R449, R478), at a multiple of 10,000 ns. What is measured comes from outside: the demand of each core and the
always-on and memory allowance in µW, the energy of accesses and flits of units in the interval under 256 × die + context, beside that of the cores'
issues, the power that each lender lends in mW, the least slack of the other members of the SYNC groups, and, as an entry 2048 + die of `demand`, that a die is above 100 °C: its duties are lowered by
a free amount (R454, log entries 38 and 41). -/
def execBudgetInterval (demand : List (Nat × Nat)) (allowance : Nat) (charges mw : List (Nat × Nat)) (slack : Option Int) (s : State) : Out :=
  if s.pkg.time % 10000 ≠ 0 then .next s
  else
    let total := (demand.filter fun e => e.1 < 1536).foldl (fun a e => a + e.2) 0
    let budget := s.pkg.power * 1000000 - allowance
    let (heat, sh) := s.free
    let duty := fun k =>
      let d := treeDuty (s.core k).dutyCap budget total (SMap.getD demand k 0)
      if demand.any (fun e => e.1 == 2048 + coreDie k) then coolDuty (fld heat 0 4) d else d
    let s0 := [0, 1].foldl (fun t d => lendDie d mw (endBorrows d t)) (syncGroups duty slack sh)
    let s1 := (List.range 1536).foldl (fun t k =>
      let new := syncDuty t k (duty k)
      if new = (t.core k).dutyD ∧ 4 < new ∧ (t.die (coreDie k)).lowD.getD (k % 768) 0 = 0 then t else setDuty k new t) s0
    let s2 := [0, 1].foldl (fun t d => chargeDie d (charges ++ coreCharges s d) (boostDie d (borrowDie d t))) s1
    .next { s2 with cores := s2.cores.map fun e => (e.1, { e.2 with charges := [] }) }

/-! ### Leases (R445, R446) -/

/-- The answer to a request for a lease of a core's context, and the step granted (R446). -/
def leaseCode (s : State) (x step len : Nat) : Nat × Nat :=
  let q := clusterOf (coreOf x)
  let c := s.cluster q
  if ctxNo x = 7 then (4, 0)
  else if len = 0 ∨ 1000 < len then (3, 0)
  else if c.perm = 0 ∨ (c.slot = false ∧ (s.die (coreDie (coreOf x))).slotsFree = 0) then (2, 0)
  else if step = 3 ∧ c.perm < 3 then (1, 2)
  else (0, step)

/-- Request a lease for a context: the code, and the lease where it is granted. -/
def requestLease (x step len : Nat) (s : State) : Nat × State :=
  let (code, g) := leaseCode s x step len
  (code, if code ≤ 1 then s.modCtx x fun c => { c with lease := ⟨true, false, g, s.pkg.time + 1000 * len⟩ } else s)

/-- BLEASE (R446). -/
def execBlease (h : Hdr) (f : Fields) (s : State) : Out :=
  issue (.blease h f) false false (fun x c t =>
    let (code, t1) := requestLease x (f.xBits 32 2) (srcZ c [] f.a).toNat t
    .done (t1.modCtx x fun d => d.writeD f.d (BitVec.ofNat 64 code))) s

/-- BREL (R446). -/
def execBrel (h : Hdr) (f : Fields) (s : State) : Out :=
  issue (.brel h f) false false (fun x _ t => .done (t.modCtx x fun c => { c with lease := Lease.reset })) s

/-- LEASE_EXPIRY (R445). -/
def execLeaseExpiry (x : Nat) (s : State) : Out :=
  let l := (s.ctx x).lease
  .next (if l.act ∧ l.rvk = false ∧ l.ends ≤ s.pkg.time then s.modCtx x fun c => { c with lease := Lease.reset } else s)

/-- LEASE_REVOCATION (R445): the arbiter revokes a lease, which ends 20 µs later, or at its expiry where that comes first. -/
def execLeaseRevocation (x : Nat) (s : State) : Out :=
  let l := (s.ctx x).lease
  .next (if l.act ∧ l.rvk = false then
    s.modCtx x fun c => { c with lease := { l with rvk := true, ends := min l.ends (s.pkg.time + 20000) } } else s)

/-- REVOKED_LEASE_END (R445). -/
def execRevokedLeaseEnd (x : Nat) (s : State) : Out :=
  let l := (s.ctx x).lease
  .next (if l.act ∧ l.rvk ∧ l.ends ≤ s.pkg.time then s.modCtx x fun c => { c with lease := Lease.reset } else s)

/-- LENDER_RECALL (R447): lender `n` of a die becomes busy and sets RCL; then its borrower falls to nominal, without paying, and the power
returns. -/
def execLenderRecall (d n : Nat) (s : State) : Out :=
  let e := (s.die d).lending.getD n 0
  if bitAt e 54 = false then .next s
  else if bitAt e 62 = false then
    .next (s.modDie d fun dd => { dd with lending := dd.lending.put n (e ||| flag true 62) })
  else
    let q := 96 * d + fld e 55 7
    .next ((s.modCluster q fun c => { c with brw := false, want := 1, step := 1 }).modDie d fun dd =>
      { dd with lending := dd.lending.erase n })

/-! ### Droops (R227, R286, R313, R419, R448) -/

/-- Is an engine paused: kind 1 MXE, 2 SPE, 3 RQU of a cluster, 4 ISQ under 4 × die + number. -/
def enginePaused (kind n : Nat) (s : State) : Bool :=
  match kind with
  | 1 => (s.cluster n).mxe.paused
  | 2 => (s.cluster n).spe.paused
  | 3 => (s.cluster n).rqu.paused
  | 4 => (isqOf s (n / 4) (n % 4)).paused
  | _ => false

/-- Pause or release an engine. -/
def pauseEngine (kind n : Nat) (b : Bool) (s : State) : State :=
  match kind with
  | 1 => s.modCluster n fun c => { c with mxe := { c.mxe with paused := b } }
  | 2 => s.modCluster n fun c => { c with spe := { c.spe with paused := b } }
  | 3 => s.modCluster n fun c => { c with rqu := { c.rqu with paused := b } }
  | 4 => setIsq (n / 4) (n % 4) { isqOf s (n / 4) (n % 4) with paused := b } s
  | _ => s

/-- SOFT_DROOP (R448): a core's excursion is counted; nothing else happens. -/
def execSoftDroop (k : Nat) (s : State) : Out :=
  .next (if k < 1536 then s.modCore k fun c => { c with droopSoft := min 65535 (c.droopSoft + 1) } else s)

/-- HARD_DROOP (R227, R286): kind 0 stops core `n` at an instruction boundary; another kind pauses an engine. -/
def execHardDroop (kind n : Nat) (s : State) : Out :=
  if kind = 0 then
    (if n < 1536 ∧ (s.core n).droopAt.isNone then
      .next (s.modCore n fun c => { c with droopAt := some s.pkg.time, droopHard := min 65535 (c.droopHard + 1) })
    else .next s)
  else if enginePaused kind n s then .next s
  else .next (pauseEngine kind n true (s.modPkg fun p => { p with pausedAt := p.pausedAt.put (8 * n + kind) p.time }))

/-- ENGINE_SUPPLY_RECOVERY (R286, R313, R419). -/
def execEngineSupplyRecovery (kind n : Nat) (s : State) : Out := .next (pauseEngine kind n false s)

/-- Does a user context of a core still have to take the trap of a droop stop at the boundary it is at (R227). -/
def droopDue (s : State) (k : Nat) : Bool :=
  (userCtxs k).any fun x => (s.ctx x).pendDroop.isSome && match (s.ctx x).run with
    | .ready | .waiting _ => true
    | .parked _ _ => (s.ctx x).outstanding.isEmpty
    | _ => false

/-- The TYPE 7 item of a droop recovery, if it is still to be queued (R215, R227). -/
def droopTell (k : Nat) (s : State) : State :=
  if (s.core k).droopItem then supPush k 7 (min 0xFFFF ((s.core k).droopLast / 1000)) (s.modCore k fun c => { c with droopItem := false }) else s

/-- The last step of a droop recovery, once the contexts have taken their traps: one TYPE 7 item (R215, R227). -/
def droopOver (k : Nat) (s : State) : State := if droopDue s k then s else droopTell k s

/-- Write every long result of a context whose reply has arrived. -/
def landAll (x : Nat) : Nat → State → State
  | 0, s => s
  | n + 1, s => match (s.ctx x).canLand with
    | some i => landAll x n (landResult x i s)
    | none => s

/-- DROOP_RECOVERY (R227): the held replies are written; then contexts that hold a thread and are not Stopped have the trap 0x0E with the
duration to take, and Withy gets a TYPE 7 item when they have. -/
def execDroopRecovery (k : Nat) (s : State) : Out :=
  match (s.core k).droopAt with
  | none => .next s
  | some t0 =>
    let dur := min (2 ^ 32 - 1) (s.pkg.time - t0)
    let s1 := (coreCtxs k).foldl (fun t x => landAll x (t.ctx x).outstanding.length t)
      ((droopTell k s).modCore k fun c => { c with droopAt := none, droopLast := dur, droopItem := true })
    let s2 := (userCtxs k).foldl (fun t x =>
      let c := t.ctx x
      if c.occupied ∧ c.run ≠ .stopped then t.modCtx x fun d => { d with pendDroop := some (put dur 0 32) } else t) s1
    .next (droopOver k s2)

end Sys2Proof.Machine
end

