-- ==== Sys2Proof/Machine/Arrive.lean ====
section
/-! DEFINITION. The arrival of records, the wake unit, load levelling and the sleep timer (R15, R16, R201 to R208, R212, R369, R370). -/

namespace Sys2Proof.Machine

/-! ### Records on their way (R203, R208, R370) -/

/-- Record `m` on its way is taken by core `k`; one that was raised where it waited before stays raised (R206). -/
def arriveMsg (k : Nat) (m : RecMsg) (s : State) : State :=
  if m.raised then enqueueRec k { queuedRec s k m.r m.acq m.dual m.lid m.pkt m.ident with raised := true } false s
  else arriveRec k m.r false m.acq m.dual m.lid m.pkt m.ident s

/-- Offer a record of kind 1, 2 or 8 to the cores: it is taken, or kept for another offer 1 µs later (R369, R370). -/
def offerRec (i : Nat) (s : State) : State :=
  match s.recs[i]? with
  | none => s
  | some m =>
    match placementWalk s m.lid m.sender m.r.w7 with
    | some k => arriveMsg k m { s with recs := dropAt s.recs i }
    | none => { s with recs := s.recs.set i { m with again := s.pkg.time + 1000 } }

/-- RECORD_ARRIVAL (R201 to R203, R208): record `i` reaches its core, in the order in which its sender sent to it: a notice, or a record shipped by
levelling, whose entry is reserved; one that has no core yet is offered by the walk. -/
def execRecordArrival (i : Nat) (s : State) : Out :=
  match s.recs[i]? with
  | none => .next s
  | some m =>
    match m.core with
    | none => .next (if m.again = 0 then offerRec i s else s)
    | some k =>
      let gone : State := { s with recs := dropAt s.recs i }
      if (s.recs.take i).any fun e => e.core == m.core && e.sender == m.sender && e.again == 0 then .next s
      else if m.levelled then
        (if coreOnline s k then .next (if (s.core k).deque.length < 32 then arriveMsg k m gone else s)
        else .next { s with recs := s.recs.set i { m with core := none, levelled := false } })
      else match deliverNotice k m.r gone with
        | some t => .next t
        | none => .next { s with recs := s.recs.set i { m with again := s.pkg.time + 1 } }

/-- NOTICE_RETRY (R203): a unit offers a refused notice again. -/
def execNoticeRetry (i : Nat) (s : State) : Out :=
  match s.recs[i]? with
  | none => .next s
  | some m =>
    match m.core with
    | none => .next s
    | some k =>
      if m.again = 0 then .next s
      else match deliverNotice k m.r { s with recs := dropAt s.recs i } with
        | some t => .next t
        | none => .next s

/-- PLACEMENT_REOFFER (R370): a refused record is offered again once its delay is over. -/
def execPlacementReoffer (i : Nat) (s : State) : Out :=
  match s.recs[i]? with
  | none => .next s
  | some m => .next (if m.core.isNone ∧ m.again ≠ 0 ∧ m.again ≤ s.pkg.time then offerRec i s else s)

/-! ### New threads (R15, R16, R487) -/

/-- A context's new thread: the start state of R16 with its entry arguments. -/
def newThread (s : State) (x : Nat) (pc : Word) (args : List Word) (pri : Nat) (origin : Word) (made : Origin) (tcomp : Word)
    (lid : Option Nat) (pkt : Option (Nat × Nat)) (ident : Option (Nat × Nat)) (dual : Option DualRole) : Ctx :=
  let kc := s.core (coreOf x)
  let pair := (s.ctx x).pair
  let l := lid.bind fun n => launchOf s n
  let spill := put (fld kc.pairsz 32 32) 0 32
  let (pid, ectx) := match ident with
    | some p => p
    | none => match l with
      | some e => (e.pid, e.ectx)
      | none => (0, 0)
  let c := { Ctx.reset with
    run := .ready
    pc := pc
    tsp := pair + spill + put (fld kc.pairsz 0 32) 0 32
    wsp := pair + spill
    wlim := pair
    tcomp := scopeReg tcomp
    migmode := match l with | some e => e.migmode | none => Ctx.reset.migmode
    pid := pid
    ectx := ectx
    pri := pri
    origin := origin
    made := made
    pair := pair
    lid := lid
    pkt := pkt
    chunks := match made with | .record r => r.chunk.toList | _ => []
    dual := dual }
  ((List.range 4).zip args).foldl (fun d e => d.setW e.1 e.2) c

/-- The origin word at a core (R16). -/
def originWord (k : Nat) (r : Bool) (seq : Nat) : Word :=
  flag r 63 ||| put (coreDie k) 49 1 ||| put (coreRow k) 44 5 ||| put (coreCol k) 39 5 ||| put seq 0 32

/-! ### The candidates (R205, R206) -/

/-- Does the core hold a live handler of an event of a source that arrived before `ord`: in a context, or held in memory (R205). -/
def liveHandler (s : State) (k src ord : Nat) : Bool :=
  (((userCtxs k).filterMap fun x => (s.ctx x).event?) ++ (s.core k).heldList.filterMap fun h => h.made.event?).any
    fun e => e.src == src && decide (e.ord < ord)

/-- The oldest event of the inbox, from place `n` on, that R205 does not block: its place and its handler's entry. -/
def nextEvent (k : Nat) : List Ev → Nat → State → Option (Nat × Ev × Option Word) × State
  | [], _, s => (none, s)
  | e :: rest, n, s =>
    match handlerOf s k e.kind e.src with
    | (none, s1) => (some (n, e, none), s1)
    | (some (pc, ser), s1) =>
      if ser && liveHandler s1 k e.src e.ord then nextEvent k rest (n + 1) s1
      else if ser && ((s.core k).inbox.take n).any (fun q => q.src == e.src) then nextEvent k rest (n + 1) s1
      else (some (n, e, some pc), s1)

/-- The level of a queued record: raised by one where it has been raised (R206). -/
def Queued.level (q : Queued) : Nat := q.r.pri + if q.raised then 1 else 0

/-- Does record `a` come before `b`: the higher level, a native one before a raised one, then the earlier arrival (R206). -/
def Queued.before (a b : Queued) : Bool :=
  b.level < a.level || (a.level == b.level && ((!a.raised && b.raised) || (a.raised == b.raised && a.order < b.order)))

/-- The record that is bound next, among those of the deque and the notice queue that may be bound. -/
def bestRecord (c : Core) : Option Queued :=
  ((c.deque ++ c.notices).filter fun q => !q.needsPair).foldl (fun best q => match best with
    | none => some q
    | some b => if q.before b then some q else some b) none

/-- The first thread of the held list (R176). -/
def firstHeld (c : Core) : Option HeldThread :=
  (c.heldList.filter fun h => h.woken).foldl (fun best h => match best with
    | none => some h
    | some b => if h.order < b.order then some h else some b) none

/-! ### Held threads and context images (R175, R176, R222, R223) -/

/-- The state word of a context image (R223). -/
def stateWord (c : Ctx) : Word :=
  put c.spl 48 16 ||| put c.pid 36 12 ||| put c.ectx 28 8 ||| put c.pri 26 2 ||| flag (bitAt c.migmode 0) 24 ||| put (fld c.migmode 8 8) 16 8
    ||| flag c.vz 13 ||| flag c.vl 12 ||| put c.res 8 3 ||| put c.wf 0 3

/-- The words of a context image before and after the vector registers, and those of the vector registers (R223). -/
def imageHead (c : Ctx) : List Word := (List.range 64).map fun e => c.stack.getD e 0
def imageVecs (c : Ctx) : List Word := (List.range 32).flatMap fun n => (List.range 8).map fun j => (c.vec n).extractLsb' (64 * j) 64
def imageTail (c : Ctx) (pc : Word) : List Word :=
  ((List.range 7).map fun i => c.pred (i + 1)) ++ [pc, c.tsp, c.tcomp, c.jctr, stateWord c, c.loopcnt, c.lbody, c.wlim, c.origin]

/-- Write the image of context `x` below its `y.wsp` with a resume PC; the vector registers only where VL is 1 (R223). -/
def writeImage (x pid : Nat) (pc : Word) (s : State) : Except (AccErr × Word) Unit × State :=
  let c := s.ctx x
  let a := c.wsp - 2688
  let k := coreOf x
  match wordsStore s k (some x) pid c.normal a (imageHead c) with
  | (.error e, s1) => (.error e, s1)
  | (.ok _, s1) =>
    match (if c.vl then wordsStore s1 k (some x) pid c.normal (a + 0x200) (imageVecs c) else (.ok (), s1)) with
    | (.error e, s2) => (.error e, s2)
    | (.ok _, s2) => wordsStore s2 k (some x) pid c.normal (a + 0xA00) (imageTail c pc)

/-- A context with the fields of an image (R223): no breakpoint and an instruction count of 0. -/
def imageCtx (c : Ctx) (head vecs tail : List Word) : Ctx :=
  let w := fun i => tail.getD i 0
  let st := w 11
  { c with
    stack := (List.range 64).foldl (fun m e => m.put e (head.getD e 0)) []
    v := if bitAt st 12 then
        (List.range 32).foldl (fun m n => m.put n ((List.range 8).foldl (fun (r : VReg) j =>
          r ||| ((vecs.getD (8 * n + j) 0).setWidth 512 <<< (64 * j))) 0)) []
      else []
    p := (List.range 7).foldl (fun m i => m.put (i + 1) (w i)) []
    pc := w 7
    epc := w 7
    tsp := w 8
    tcomp := scopeReg (w 9)
    jctr := scopeReg (w 10)
    spl := fld st 48 16
    pid := fld st 36 12
    ectx := fld st 28 8
    pri := fld st 26 2
    migmode := flag (bitAt st 24) 0 ||| put (fld st 16 8) 8 8
    vz := bitAt st 13
    vl := bitAt st 12
    res := fld st 8 3
    wf := fld st 0 3
    loopcnt := w 12
    lbody := lbodyReg (w 13)
    wlim := lineReg (w 14)
    origin := originReg (w 15)
    icount := 0
    bkpt := []
    dbgctl := 0 }

/-- Read the image below an address into a context's fields (R223). -/
def readImage (c : Ctx) (k pid : Nat) (wsp : Word) (s : State) : Except (AccErr × Word) Ctx × State :=
  let a := wsp - 2688
  match wordsLoad s k pid c.normal a 64 with
  | (.error e, s1) => (.error e, s1)
  | (.ok head, s1) =>
    match wordsLoad s1 k pid c.normal (a + 0xA00) 16 with
    | (.error e, s2) => (.error e, s2)
    | (.ok tail, s2) =>
      match (if bitAt (tail.getD 11 0) 12 then wordsLoad s2 k pid c.normal (a + 0x200) 256 else (.ok [], s2)) with
      | (.error e, s3) => (.error e, s3)
      | (.ok vecs, s3) => (.ok (imageCtx c head vecs tail), s3)

/-- The context that a held thread's image is read into: what the device keeps of the thread beside the image, with what units and homes have
answered since. -/
def HeldThread.ctx (h : HeldThread) (s : State) : Ctx :=
  let c := { h.thread with run := .ready }
  match h.key with
  | none => c
  | some n =>
    let p := s.ctx n
    { c with
      outstanding := p.outstanding, pend := p.pend, vstFails := p.vstFails, mstat := p.mstat, spstat := p.spstat, rqstat := p.rqstat
      xopen := p.xopen, xbatches := p.xbatches, xerr := p.xerr, xstatCode := p.xstatCode, xfid := p.xfid }

/-- What is under way for context `x` answers, while its thread is held, under a number of its own, which keeps the context number in its low bits:
the number. -/
def parkWork (x : Nat) (s : State) : Nat × State :=
  let n := 1048576 + 8 * s.nextId + ctxNo x
  (n, (readdress x n s.fresh.2).setCtx n { s.ctx x with run := .stopped, dual := none, lid := none, pkt := none, made := .none, chunks := [] })

/-- What is under way for a held thread answers context `x` again. -/
def unparkWork (x : Nat) (h : HeldThread) (s : State) : State :=
  match h.key with
  | none => s
  | some n => let t := readdress n x s; { t with ctxs := t.ctxs.erase n }

/-- A held thread ends: what is under way for it answers nobody. -/
def endHeld (h : HeldThread) (s : State) : State :=
  match h.key with
  | none => s
  | some n => s.modCtx n fun c => { c with run := .free }

/-- The pair of a dual-dispatched copy knows its context, or that it has none (R364). -/
def pairBound (k : Nat) (x : Option Nat) (role : Option DualRole) (s : State) : State :=
  match role with
  | none => s
  | some r => s.modDie (coreDie k) fun d =>
    { d with pairs := d.pairs.map fun p =>
        if p.id ≠ r.pair then p else if r.primary then { p with prim := x } else { p with sec := x } }

/-- A held thread is restored into a free context, which takes its pair and gives its own to the spare list (R176, R487); while its image
cannot be read it stays held (log entry 33). -/
def restoreHeld (x : Nat) (h : HeldThread) (s : State) : State :=
  let k := coreOf x
  match readImage (h.ctx s) k h.pid h.wsp s with
  | (.error _, _) => s
  | (.ok c, s1) =>
    let spare := (s.ctx x).pair
    pairBound k (some x) h.dual
      ((unparkWork x h (s1.modCore k fun kc => { kc with heldList := kc.heldList.erase h, spare := kc.spare ++ [spare] })).setCtx x c)

/-! ### Binding (R206) -/

/-- Bind an event to context `x` (R15, R16, R199); one without a handler is a record fault (R202). -/
def bindEvent (x n : Nat) (e : Ev) (pc : Option Word) (s : State) : State :=
  let k := coreOf x
  let occ := (s.core k).inbox.length
  let s1 := s.modCore k fun c => { c with inbox := dropAt c.inbox n }
  match pc with
  | none => recordFault k e.words s1
  | some a =>
    let info := flag e.late 63 ||| flag e.drop 62 ||| put occ 48 8 ||| put e.arr 0 48
    s1.setCtx x (newThread s1 x a [e.w0, e.w1, info, 0] 0 (originWord k false 0) (.event e) 0 (s1.core k).lid none none none)

/-- Take a record out of its queue. -/
def unqueue (k : Nat) (q : Queued) (s : State) : State :=
  s.modCore k fun c => { c with deque := c.deque.erase q, notices := c.notices.erase q }

/-- Bind a record to context `x` (R15, R16): the acquire that it asks for comes first (R375, R466). -/
def bindRecord (x : Nat) (q : Queued) (s : State) : State :=
  let k := coreOf x
  let s1 := unqueue k q s
  let (pc, s2) := if kindNotice q.r.kind then
      (match handlerOf s1 k (16 + q.r.kind) (fld q.r.w0 20 12) with
        | (some (a, _), t) => (some a, t)
        | (none, t) => (none, t))
    else (some q.r.w1, s1)
  match pc with
  | none => recordFault k q.r.words (packetEnd q.pkt s2)
  | some a =>
    let c := newThread s2 x a [q.r.w2, q.r.w3, q.r.w4, q.r.w5] q.r.pri (originWord k q.r.restart (fld q.r.w7 0 32)) (.record q.r) q.r.w6
      q.lid q.pkt q.ident q.dual
    let s3 := pairBound k (some x) q.dual (s2.setCtx x { c with acq := q.acq })
    if q.acq = 0 then s3 else acquireLines s3 k c.pid q.acq none

/-- WAKE_BINDING (R206): the wake unit of a core takes the candidate of the highest level and binds it to free context `c`. -/
def execWakeBinding (k c : Nat) (s : State) : Out :=
  let x := ctxKey k c
  let kc := s.core k
  if 7 ≤ c || !((freeCtxs s k).contains x) || kc.halted || kc.killed || kc.droopAt.isSome || !((s.die (coreDie k)).run == .running) then .next s
  else
    match nextEvent k kc.inbox 0 s with
    | (some (n, e, pc), s1) => .next (bindEvent x n e pc s1)
    | (none, s1) =>
      let rec? := bestRecord kc
      match firstHeld kc, rec? with
      | some h, _ => .next (restoreHeld x h s1)
      | none, some q => .next (bindRecord x q s1)
      | none, none => .next s1

/-- RECORD_RAISE (R206): the record that is first of a level, by arrival over both queues, is raised by one level, once. -/
def execRecordRaise (k lvl : Nat) (s : State) : Out :=
  let kc := s.core k
  let first := ((kc.deque ++ kc.notices).filter fun q => q.level == lvl).foldl (fun best q => match best with
    | none => some q
    | some b => if q.order < b.order then some q else some b) none
  match first with
  | none => .next s
  | some q =>
    let up := fun (l : List Queued) => l.map fun e => if e = q then { e with raised := true } else e
    .next (s.modCore k fun c => { c with deque := up c.deque, notices := up c.notices })

/-! ### Load levelling (R208, R215, R221) -/

/-- The neighbours that a core may ship to, in the order north, east, south, west. -/
def levelNeighbours (s : State) (k : Nat) : List Nat :=
  (neighbours k).filterMap fun o => match o with
    | some n => if coreOnline s n && (s.core n).lid == (s.core k).lid && (s.core n).dom == (s.core k).dom then some n else none
    | none => none

/-- Take up to `n` records from the top of a deque, skipping pinned ones and dual-dispatched copies: those taken, and those left. -/
def takeTop : Nat → List Queued → List Queued × List Queued
  | _, [] => ([], [])
  | n, q :: rest =>
    if n = 0 then ([], q :: rest)
    else if q.r.pinned || q.dual.isSome || q.needsPair then ((takeTop n rest).1, q :: (takeTop n rest).2)
    else (q :: (takeTop (n - 1) rest).1, (takeTop (n - 1) rest).2)

/-- LOAD_LEVELLING (R208): a balancing interval has passed; the unit queues a TYPE 3 item and ships records to its least loaded neighbour. With EN = 0
it does neither (log entry 79). -/
def execLoadLevelling (k : Nat) (s : State) : Out :=
  let kc := s.core k
  if !kc.levelEn || decide (s.pkg.time < kc.levelAt + 1000 * (kc.levelInt + 1)) || !(coreOnline s k) then .next s
  else
    let s1 := supPush k 3 0 (s.modCore k fun c => { c with levelAt := s.pkg.time })
    let depths := (levelNeighbours s k).map fun n => (n, dequeDepth s n)
    match depths.foldl (fun best e => match best with
        | none => some e
        | some b => if e.2 < b.2 then some e else some b) (none : Option (Nat × Nat)) with
    | none => .next s1
    | some (n, m) =>
      let diff := dequeDepth s k - m
      if diff < 2 then .next s1
      else
        let (taken, left) := takeTop (min (diff / 2) (32 - m)) kc.deque
        let msgs := taken.map fun q => (⟨q.r, some n, q.lid, q.ident, (k, false), q.acq, 0, false, none, true, q.raised, q.pkt⟩ : RecMsg)
        let s2 := s1.modCore k fun c => { c with deque := left }
        .next { s2 with recs := s2.recs ++ msgs }

/-- SLEEP_TIMER_EXPIRY (R212): device time has reached the end of a SLEEP. -/
def execSleepTimerExpiry (k : Nat) (s : State) : Out :=
  match (s.core k).sleepAt with
  | some t => .next (if (s.core k).asleep ∧ t ≤ s.pkg.time then supPush k 4 0 s else s)
  | none => .next s

/-! ### Holding threads in memory (R175, R176) -/

/-- The request with which a context waits: in flight, or registered at a home; both copies of a pair wait with one (R365). -/
def waitingReq (s : State) (x : Nat) : Option Req :=
  (s.reqs ++ s.cores.flatMap (fun e => e.2.waiters) ++ s.dies.flatMap fun e => e.2.waiters).find? fun r =>
    (replyTo x s).contains r.x && r.waits

/-- Is a context one that the forward-progress rule may hold: it waits in LDF, LDFF, STE, WAITA or JOIN, and nothing has answered it. -/
def holdable (s : State) (x : Nat) : Bool :=
  match (s.ctx x).wait? with
  | some w => (w.kind == .tagged || w.kind == .waita || w.kind == .join) && w.reply.isNone && !w.timedOut
  | none => false

/-- The context that has waited longest: the one that entered its wait first. -/
def longestWait (s : State) (k : Nat) : Option Nat :=
  let since := fun x => match (s.ctx x).wait? with | some w => w.order | none => 0
  (userCtxs k).foldl (fun best x => match best with
    | none => some x
    | some b => if since x < since b then some x else some b) none

/-- A thread's requests but its wait are performed, and its results written, as far as nothing holds them. -/
def settleThread (x : Nat) (s : State) : State :=
  let s1 := flushReqs (fun r => r.x == x && !r.waits) s
  landAll x (s1.ctx x).outstanding.length s1

/-- Is nothing but its wait under way for a thread: no access, and no completion that an engine or a transfer owes its context (log entry 33). -/
def quiet (s : State) (x : Nat) : Bool :=
  let c := s.ctx x
  c.outstanding.isEmpty && !(s.reqs.any fun r => r.x == x && !r.waits)
    && c.mstat.unf + c.spstat.unf + c.rqstat.unf + c.xopen == 0 && c.xbatches.isEmpty

/-- The waits of both copies of a pair are cancelled with one of them: the packet is sent again by both (R175, R365). -/
def cancelBoth (x : Nat) (s : State) : State :=
  (replyTo x s).foldl (fun t y => (cancelWait y t).modCtx y fun c => { c with run := .ready }) s

/-- The thread that leaves its context, with what the device keeps of it beside its image (R175). -/
def Ctx.heldAs (c : Ctx) (home : Home) : HeldThread where
  thread := { c with run := .free, lease := Lease.reset, held := 0, failAt := none, pendStep := none }
  home := home
  changed := false
  woken := false
  order := 0
  key := none

/-- FORWARD_PROGRESS_HOLD (R175): the longest waiter of a core whose contexts all wait is cancelled and saved to memory; a failed write of its image
is its trap. What is under way for it and can be performed is performed and written first; the rest goes on and answers the held thread; a copy of a
pair is held only once nothing is (log entry 33). A trap that cancels its wait anyway comes first. -/
def execForwardProgressHold (k : Nat) (s : State) : Out :=
  let kc := s.core k
  if !((userCtxs k).all fun x => holdable s x) || kc.deque.isEmpty || 8 ≤ kc.heldList.length then .next s
  else match longestWait s k with
    | none => .next s
    | some x =>
      if (s.ctx x).pendDroop.isSome || (s.ctx x).pendPreempt then .next s
      else
        let s0 := settleThread x s
        if (quiet s0 x = false && (s0.ctx x).dual.isSome) || holdable s0 x = false then .next s0
        else match waitingReq s0 x, kc.spare with
        | some r, pair :: spare =>
          let c := s0.ctx x
          match writeImage x c.pid c.pc (cancelBoth x s0) with
          | (.error (.held, _), _) => .next s0
          | (.error (e, a), s2) =>
            let t := e.trap c.pc a
            .next (takeTrap x { t with epc := some c.pc, finfo := t.finfo ||| flag true 63 } s2)
          | (.ok _, s2) =>
            let s3 := pairBound k none c.dual (dropOwner x s2)
            let (key, s4) := if quiet s0 x then (none, s3) else (fun (p : Nat × State) => (some p.1, p.2)) (parkWork x s3)
            .next ((s4.modCore k fun d => { d with heldList := d.heldList ++ [{ c.heldAs r.home with key := key }], spare := spare }).setCtx x
              { Ctx.reset with pair := pair })
        | _, _ => .next s0

/-- HELD_THREAD_WAKE (R176): thread `i` held by a core, whose word has changed, enters the held list. -/
def execHeldThreadWake (k i : Nat) (s : State) : Out :=
  match (s.core k).heldList[i]? with
  | none => .next s
  | some h =>
    if h.changed ∧ h.woken = false then
      .next (s.modCore k fun c => { c with heldList := c.heldList.set i { h with woken := true, order := c.arrivals }, arrivals := c.arrivals + 1 })
    else .next s

/-! ### The image operations of `y.ctxop` (R222, R223) -/

/-- An operation of `y.ctxop` ends. -/
def ctxopEnd (k : Nat) (err : Bool) (s : State) : State := s.modCore k fun c => { c with ctxopBsy := false, ctxopErr := err }

/-- PID under which the images of a core are read and written: its launch's, or that of the context. -/
def imagePid (s : State) (k x : Nat) : Nat := match coreLaunch s k with | some l => l.pid | none => (s.ctx x).pid

/-- Save the image of context `x` with a resume PC and free the context (R222, R223). -/
def saveContext (x : Nat) (pc : Word) (s : State) : Except AccErr State :=
  let c := s.ctx x
  let k := coreOf x
  match writeImage x c.pid pc s with
  | (.error (e, _), _) => .error e
  | (.ok _, s1) =>
    let m : CtxImage := ⟨k, ctxNo x, c.wsp, c.pair, c.made, c.lid, c.pkt, c.chunks, c.acq, c.pend, c.deferred, c.deferArmed, c.wrote, c.outstanding⟩
    let s2 := (dropOwner x s1).modPkg fun p =>
      { p with ctxImages := (p.ctxImages.filter fun e => !(e.core == k && e.wsp == c.wsp)) ++ [m] }
    .ok (s2.setCtx x { Ctx.reset with pair := c.pair })

/-- CTXOP_SAVE (R222): the Stopped context is saved below its `y.wsp` and freed; its long results are written first (R35). -/
def execCtxopSave (k : Nat) (s : State) : Out :=
  let kc := s.core k
  let x := ctxKey k kc.ctxopCtx
  let c := s.ctx x
  if !kc.ctxopBsy || kc.ctxopOp != 1 then .next s
  else if c.run ≠ .stopped then .next (ctxopEnd k true s)
  else if !(resultsIn s x) then .next s
  else match saveContext x c.epc s with
    | .error .held => .next s
    | .error _ => .next (ctxopEnd k true s)
    | .ok s1 => .next (ctxopEnd k false s1)

/-- CTXOP_RESTORE (R222): an image is loaded into a free context, which is then Stopped. -/
def execCtxopRestore (k : Nat) (s : State) : Out :=
  let kc := s.core k
  let x := ctxKey k kc.ctxopCtx
  let c := s.ctx x
  if !kc.ctxopBsy || kc.ctxopOp != 2 then .next s
  else if c.run ≠ .free then .next (ctxopEnd k true s)
  else match readImage c k (imagePid s k x) c.wsp s with
    | (.error (.held, _), _) => .next s
    | (.error _, _) => .next (ctxopEnd k true s)
    | (.ok d, s1) =>
      let m := s.pkg.ctxImages.find? fun e => e.core == k && e.wsp == c.wsp
      let d1 := match m with
        | some e => { d with
              made := e.made, lid := e.lid, pkt := e.pkt, chunks := e.chunks, acq := e.acq, pend := e.pend, deferred := e.deferred
              deferArmed := e.deferArmed, wrote := e.wrote, outstanding := e.owed }
        | none => { d with made := .none, lid := kc.lid, pkt := none }
      let s2 := s1.modPkg fun p => { p with ctxImages := p.ctxImages.filter fun e => !(e.core == k && e.wsp == c.wsp) }
      .next (ctxopEnd k false (s2.setCtx x { d1 with run := .stopped }))

end Sys2Proof.Machine
end

