-- ==== Sys2Proof/Machine/Waits.lean ====
section
/-! DEFINITION. When a waiting instruction can go on, and what a context takes at its boundary (R20, R33, R36). -/

namespace Sys2Proof.Machine

/-- Is the condition that a context waits for now true, for the waits that no reply ends (R20). -/
def waitOver (s : State) (x : Nat) (w : Wait) : Bool :=
  let c := s.ctx x
  match w.kind with
  | .tagged | .reply | .waita | .join | .barw | .pairing => false
  | .placing => true
  | .drain y => drainOver s y && (match w.instr with | .migr _ _ => c.xbatches.isEmpty | _ => true)
  | .mwait => decide (c.mstat.unf ≤ w.key)
  | .spwait => decide (c.spstat.unf ≤ w.key)
  | .rqwait => decide (c.rqstat.unf ≤ w.key)
  | .xwait => decide (c.xbatches.length < w.key)
  | .xseal => decide (c.xbatches.length < 16)
  | .gwait => gwaitOver s x w.key
  | .sqstat => sqstatOver s x w.key
  | .engine => decide ((c.eng (unitOf w.key)).unf < unitLimit (unitOf w.key))
  | .link n => (takeLinkFor x n s).isSome

/-- Does the wait of a context end now: by a reply, at its timeout, or by its condition. -/
def waitEnds (s : State) (x : Nat) (w : Wait) : Bool := w.reply.isSome || w.timedOut || waitOver s x w

/-- Has a context a cause pending that its boundary takes (R33, R36). -/
def Ctx.causePending (c : Ctx) : Bool :=
  c.pendDroop.isSome || c.pendPreempt || !c.pend.isEmpty || c.pendStep.isSome
    || (c.deferArmed && c.deferred.any fun d => !d.taken)

/-- Is the core's clock running: its die is out of reset, and it is neither killed nor stopped by a droop (R227, R229, R438). -/
def clockRuns (s : State) (k : Nat) : Bool :=
  !(s.core k).killed && (s.core k).droopAt.isNone && (s.die (coreDie k)).run == .running

/-- The pending trap that context `x` takes at the boundary it is at, if it is at one: a wait that does not end now is cancelled by a droop's
or a pre-emption's trap alone, and a Parked context's results are written first, but for those that engines stopped with its launch owe it (R35,
R36; log entry 34). -/
def boundaryTrap (x : Nat) (s : State) : Option State :=
  let c := s.ctx x
  let take := fun (t : State) => (nextPending x t).map fun p =>
    if p.1.cause = 0x0E then droopOver (coreOf x) (takeTrap x p.1 p.2) else takeTrap x p.1 p.2
  match c.run with
  | .waiting w => if !(waitEnds s x w) && (c.pendDroop.isSome || c.pendPreempt) then take (cancelWait x s) else none
  | .parked _ _ => if c.causePending && (c.outstanding.isEmpty || (c.pendPreempt && resultsIn s x)) then take s else none
  | .ready => take s
  | _ => none

end Sys2Proof.Machine
end

