-- ==== Sys2Proof/Machine/Steps.lean ====
section
/-! DEFINITION. The steps that carry on the work of threads: replies, pending traps, requests at their homes, timeouts and replaced lines
(R24, R33, R35, R160, R164, R173, R174, R183, R191, R348, R363, R437). -/

namespace Sys2Proof.Machine

/-- LONG_RESULT_ARRIVAL (R24): the long result at place `i` of context `x`, whose access has been performed, is written; a droop-stopped core holds
its replies (R227). -/
def execLongResultArrival (x i : Nat) (s : State) : Out :=
  .next (if (s.core (coreOf x)).droopAt.isSome then s else landResult x i s)

/-- TRAP_TAKEN (R33, R36): context `x` takes the first cause that is pending at its boundary. -/
def execTrapTaken (x : Nat) (s : State) : Out :=
  .next (if clockRuns s (coreOf x) then (boundaryTrap x s).getD s else s)

/-- Is a request one that travels to a scratchpad's port, other than an atomic or a link value. -/
def Req.toPort (r : Req) : Bool :=
  match r.home, r.op with
  | .spad _ _, .atom _ => false
  | .spad _ _, .link _ _ => false
  | .spad _ _, _ => true
  | .dev _, _ => false
  | .llc _ _, _ => false

/-- Is a request a value of NSEND. -/
def Req.isLink (r : Req) : Bool :=
  match r.op with
  | .link _ _ => true
  | _ => false

/-- Is a request an atomic. -/
def Req.isAtom (r : Req) : Bool :=
  match r.op with
  | .atom _ => true
  | _ => false

/-- Perform request `i` where it passes a test and may go before the others. -/
def performWhere (p : Req → Bool) (i : Nat) (s : State) : State :=
  match s.reqs[i]? with
  | none => s
  | some r => if p r && reqFirst s i then performAt i s else s

/-- LINK_VALUE_ARRIVAL (R191): request `i`, a value of NSEND, reaches its receive register. -/
def execLinkValueArrival (i : Nat) (s : State) : Out := .next (performWhere Req.isLink i s)

/-- REMOTE_SCRATCHPAD_ACCESS (R160, R162): request `i` is performed at the home port, or held there. -/
def execRemoteScratchpadAccess (i : Nat) (s : State) : Out := .next (performWhere (fun r => r.toPort && !r.refused) i s)

/-- ATOMIC_AT_HOME (R183, R186): atomic `i` is performed in its home's write queue. -/
def execAtomicAtHome (i : Nat) (s : State) : Out := .next (performWhere (fun r => r.isAtom && !r.refused) i s)

/-- WAITER_RETRY (R173): request `i`, which its home has refused or which waits at a home slice, is sent again. -/
def execWaiterRetry (i : Nat) (s : State) : Out :=
  .next (performWhere (fun r => r.refused || !(r.toPort || r.isAtom || r.isLink)) i s)

/-- The word of a waiting request at this moment, where its home serves it now. -/
def wordNow (r : Req) (s : State) : Option LongVal × State :=
  let reply := fun (a : Except Nat Nat × State) => match a with
    | (.ok v, s1) => (some (LongVal.ok v), s1)
    | (.error e, s1) => (some (.fail (errTrap r e)), s1)
  match r.home with
  | .spad k off => match portLoad s noPath (coreDie r.src) k off r.size with
    | (.ok v, s1) => (some (.ok v), s1)
    | (.error (.resp e), s1) => (some (.fail (errTrap r e)), s1)
    | (.error _, s1) => (none, s1)
  | h => reply (sliceRead s (coreDie r.src) h r.size)

/-- WAITA_TIMEOUT (R174): the registration of context `x` is removed, and the reply carries the word at this moment. -/
def execWaitaTimeout (x : Nat) (s : State) : Out :=
  match (s.ctx x).wait?, waitingReq s x with
  | some w, some r =>
    match w.deadline with
    | none => .next s
    | some t =>
      if w.kind ≠ .waita ∨ s.pkg.time < t ∨ w.reply.isSome ∨ w.timedOut then .next s
      else match wordNow r s with
        | (none, _) => .next s
        | (some v, s0) =>
          let s1 := cancelWait x s0
          .next ((replyTo x s1).foldl (fun u y => u.modCtx y fun c =>
            match c.run with
            | .waiting q => { c with run := .waiting { q with reply := some v, timedOut := true } }
            | _ => c) s1)
  | _, _ => .next s

/-- STALE_REQUEST_REFUSAL (R437): request `i`, translated before a page migration, is refused at the old home and translated anew. -/
def execStaleRequestRefusal (i : Nat) (s : State) : Out :=
  match s.reqs[i]? with
  | none => .next s
  | some r =>
    if r.stale = false then .next s
    else
      match devHome s r.src r.pid r.va.toNat (if r.isAtom then .write else .read) with
      | (.ok home, s1) => .next { s1 with reqs := s1.reqs.set i { r with home := home, stale := false } }
      | (.error e, s1) => .next (finishReq r (.fail ⟨0x05, none, r.pc, some r.va, BitVec.ofNat 64 e⟩) { s1 with reqs := dropAt s1.reqs i })

/-! ### Replacement of lines (R164, R348, R357, R363) -/

/-- An error record of an edge unit of a die: its unit index in the detail's low byte, syndrome and the rest of the detail free (R359). -/
def postEdge (d b rank typ : Nat) (pois ownu : Bool) (addr : Option Nat) (unit idx : Nat) (s : State) : State :=
  let (syn, s1) := s.free
  let (det, s2) := s1.free
  postError d b ⟨rank, typ, pois, ownu, addr.isSome, false, BitVec.ofNat 64 (addr.getD 0), syn, errEdge d unit, setFld det 0 8 idx⟩ s2

/-- L1_REPLACEMENT (R164, R363): a line of core `k` leaves; `bad`: it is found uncorrectable. A clean line is dropped. -/
def execL1Replacement (k pid vln : Nat) (bad : Bool) (s : State) : Out :=
  match l1Find s k pid vln with
  | none => .next s
  | some l => .next (l1Flush (if bad then l1Put s k { l with poison := true } else s) k pid vln)

/-- LLC_REPLACEMENT (R348, R357, R363): line `ln` leaves the LLC of die `d`; a dirty line found uncorrectable is written with its poison mark, and
its record has no owner. -/
def execLlcReplacement (d ln : Nat) (bad : Bool) (s : State) : Out :=
  let b := homeStation (128 * ln)
  match llcCopy s d ln with
  | some l =>
    if bad && l.dirty != 0 then
      .next (postEdge d b 3 0x0F true true (some (128 * ln)) 10 b
        (llcDrop (s.modDie d fun dd => { dd with llc := dd.llc.put ln { l with poison := true } }) d ln))
    else .next (llcDrop s d ln)
  | none =>
    if bad && homeDie (128 * ln) == d then .next (postEdge d b 3 0x0F true true (some (128 * ln)) 10 b (poisonLine s (128 * ln)))
    else .next s

end Sys2Proof.Machine
end

