-- ==== Sys2Proof/Machine/Upkeep.lean ====
section
/-! DEFINITION. Upkeep of a die: link replays, walks, shootdowns, page migration, the cluster map, scrubbing and error records
(R346, R353 to R356, R361, R367, R368, R431, R435 to R437, R473, R474). -/

namespace Sys2Proof.Machine

/-! ### Links (R346, R431, R473, R474) -/

/-- Ask for a dump of the dies of a mask, with DUMPBASE as it stands (R450). -/
def askDump (mask cause : Nat) (dctl : Bool) (courier : Option Nat) (s : State) : State :=
  let base := fun d => fld (s.die d).dumpBase 20 18 * 1048576
  s.modPkg fun p => { p with dumps := p.dumps ++ [⟨mask, cause, p.time, base 0, base 1, dctl, courier⟩] }

/-- Ask for a reset of the dies of a mask (R438). -/
def askReset (mask : Nat) (dctl : Bool) (courier : Option Nat) (s : State) : State :=
  s.modPkg fun p => { p with resets := p.resets ++ [⟨mask, false, dctl, courier⟩] }

/-- A fatal error of the dies of a mask: a dump with cause 1, then their reset (R438, R450, R472). -/
def fatalError (mask : Nat) (s : State) : State := askReset mask false none (askDump mask 1 false none s)

/-- An error record of a link of a die, in bank 15 (R346, R358, R431, R473). -/
def linkError (d rank typ unit idx : Nat) (s : State) : State := postEdge d 15 rank typ false false none unit idx s

/-- FLIT_REPLAY (R346): a flit of a mesh link is replayed, and passes or fails again; the 16th failure in a row is fatal for the die. -/
def execFlitReplay (d link : Nat) (ok : Bool) (s : State) : Out :=
  let s1 := linkError d 1 0x09 12 link s
  let n := if ok then 0 else (s.die d).flitFails.getD link 0 + 1
  let s2 := s1.modDie d fun dd => { dd with flitFails := dd.flitFails.putD link 0 n }
  .next (if n = 16 then fatalError (2 ^ d) (linkError d 3 0x09 12 link s2) else s2)

/-- Disable a UCIe module; with all four disabled both dies take a fatal error (R431). -/
def disableModule (m : Nat) (s : State) : State :=
  let s1 := s.modPkg fun p => if p.modulesOff.contains m then p else { p with modulesOff := p.modulesOff ++ [m] }
  if [0, 1, 2, 3].all fun i => s1.pkg.modulesOff.contains i then fatalError 3 s1 else s1

/-- UCIE_REPLAY (R431): on module `m`, at die `d`: 0 a flit is replayed and passes, 1 it fails again, 2 the module fails to retrain, 3 a flit
cannot be delivered. -/
def execUcieReplay (d m res : Nat) (s : State) : Out :=
  if 4 ≤ m then .next s
  else if res = 2 then .next (disableModule m s)
  else if 3 ≤ res then .next (fatalError 3 s)
  else
    let s1 := linkError d 1 0x0A 13 m s
    let key := 4 * d + m
    let n := if res = 0 then 0 else s.pkg.replayFails.getD key 0 + 1
    let s2 := s1.modPkg fun p => { p with replayFails := p.replayFails.putD key 0 n }
    .next (if n = 16 then disableModule m s2 else s2)

/-- Set the link bit of a peer port (R474). -/
def setPeerLink (port : Nat) (up : Bool) (s : State) : State :=
  s.modDie 1 fun d => if port = 0 then { d with lnk0 := up } else if port = 1 then { d with lnk1 := up } else d

/-- PEER_FRAME_REPLAY (R473): a frame of a peer port is replayed; the 16th failure in a row takes the port down. -/
def execPeerFrameReplay (port : Nat) (ok : Bool) (s : State) : Out :=
  if 2 ≤ port then .next s
  else
    let s1 := linkError 1 1 0x0A 13 port s
    let n := if ok then 0 else s.pkg.peerFails.getD port 0 + 1
    let s2 := s1.modPkg fun p => { p with peerFails := p.peerFails.putD port 0 n }
    .next (if n = 16 then setPeerLink port false s2 else s2)

/-- PEER_PORT_LINK_UP (R474). -/
def execPeerPortLinkUp (port : Nat) (s : State) : Out :=
  .next (setPeerLink port true (s.modPkg fun p => { p with peerFails := p.peerFails.erase port }))

/-! ### Error records and scrubbing (R361, R435) -/

/-- A record of a unit, from words 0, 1, 2, 3 and 5 as a bank holds them; none with an unassigned rank or type. -/
def unitRecord (ws : List Word) : Option ErrRec :=
  let w0 := ws.getD 0 0
  if fld w0 60 2 = 0 ∨ 0x13 ≤ fld w0 48 8 then none
  else some ⟨fld w0 60 2, fld w0 48 8, bitAt w0 59, bitAt w0 58, bitAt w0 57, bitAt w0 56, ws.getD 1 0, ws.getD 2 0, ws.getD 3 0, ws.getD 4 0⟩

/-- Where a record stands among those of one mesh cycle: by rank, the highest first, then by source coordinate, UNIT, unit index of edge units (UNIT
10 to 14), and CTX (R359, R361). -/
def ErrRec.place (r : ErrRec) : List Nat :=
  [3 - r.rank, fld r.src 39 11, fld r.src 32 4, if 10 ≤ fld r.src 32 4 ∧ fld r.src 32 4 ≤ 14 then fld r.detail 0 8 else 0, fld r.src 0 3]

/-- Is a list of numbers before another, the first difference deciding. -/
def placeBefore : List Nat → List Nat → Bool
  | a :: as, b :: bs => a < b || (a == b && placeBefore as bs)
  | _, _ => false

/-- Insert a record in its place. -/
def insertRecord (r : ErrRec) : List ErrRec → List ErrRec
  | [] => [r]
  | e :: rest => if placeBefore r.place e.place then r :: e :: rest else e :: insertRecord r rest

/-- A record, or a clear, that reaches a bank at a time: in a mesh cycle of its own, or in the cycle of the records before it. The records of a cycle
are applied in their order to what the bank was, cleared first where a write clears it (R361). -/
def bankCycle (d b : Nat) (same clear : Bool) (e : Option ErrRec) (s : State) : BankCycle :=
  let now := s.pkg.time
  let q := (s.die d).banks.getD b Bank.reset
  let c := ((s.die d).bankCycles.getD b ⟨now, q, [], q⟩)
  let c := if same && c.time == now && c.out == q then c else ⟨now, q, [], q⟩
  let base := if clear then c.base.clear else c.base
  let recs := match e with | none => c.recs | some r => insertRecord r c.recs
  ⟨now, base, recs, recs.foldl (fun k r => k.apply r now) base⟩

/-- ERROR_RECORD_APPLY (R361): a record of a unit, by words 0, 1, 2, 3 and 5 as a bank would hold them, reaches bank `b` mod 16; bit 4 of `b`: in the
mesh cycle of the bank's records just before it; bit 5: in a cycle in which a write clears the bank (log entry 41). A record of no assigned rank or
type is none. -/
def execErrorRecordApply (d b : Nat) (w0 w1 w2 w3 w5 : Word) (s : State) : Out :=
  if 64 ≤ b ∨ 2 ≤ d then .next s
  else
    let n := b % 16
    let e := unitRecord [w0, w1, w2, w3, w5]
    let c := bankCycle d n (b.testBit 4) (b.testBit 5) e s
    let s1 := s.modDie d fun dd => { dd with banks := dd.banks.put n c.out, bankCycles := dd.bankCycles.put n c }
    .next (match e with | none => s1 | some r => machineCheck d n r s1)

/-- PATROL_SCRUB (R349, R435): line `ln` is read: 0 it is clean or poisoned already, 1 a sector was corrected, 2 a sector is uncorrectable. -/
def execPatrolScrub (ln found : Nat) (s : State) : Out :=
  let d := homeDie (128 * ln)
  let b := homeStation (128 * ln)
  if s.poison.contains ln ∨ s.usable ≤ 128 * ln then .next s
  else if found = 1 then .next (postEdge d b 1 0x01 false false (some (128 * ln)) 11 b s)
  else if found = 2 then .next (postEdge d b 3 0x01 true false (some (128 * ln)) 11 b (poisonLine s (128 * ln)))
  else .next s

/-! ### Translation (R353 to R356) -/

/-- TRANSLATION_WALK (R353, R354): a station of die `d` walks for a page of a PID: 0 a read, 1 a write, 2 a fetch. -/
def execTranslationWalk (d pid va acc : Nat) (s : State) : Out :=
  .next (translate s d pid va (match acc with | 0 => .read | 1 => .write | _ => .fetch)).2

/-- The pages that a shootdown names: every PID or one, every address or a run of pages (R356). -/
structure Shoot where
  pid : Option Nat
  pages : Option (Nat × Nat)

/-- Does a shootdown name a PID. -/
def Shoot.hasPid (t : Shoot) (pid : Nat) : Bool := match t.pid with | none => true | some p => p == pid

/-- Does a shootdown name a page of a run of `n` pages. -/
def Shoot.hasPages (t : Shoot) (p n : Nat) : Bool :=
  match t.pages with
  | none => true
  | some (lo, len) => decide (p < lo + len) && decide (lo < p + n)

/-- Does a shootdown name a virtual line of a PID. -/
def Shoot.hasLine (t : Shoot) (pid vln : Nat) : Bool := t.hasPid pid && t.hasPages (vln / 64) 1

/-- Does a core run a thread of a PID that the shootdown names. -/
def Shoot.atCore (t : Shoot) (s : State) (k : Nat) : Bool :=
  (coreCtxs k).any fun x => (s.ctx x).occupied && t.hasPid (s.ctx x).pid

/-- Step 2 of a shootdown at a core: matching lines of its L1, which spans the slices of a fused cluster, are written back and dropped, and
matching instruction lines are dropped (R237, R356). -/
def shootCore (t : Shoot) (s : State) (k : Nat) : State :=
  if t.atCore s k then
    let s1 := (l1Cores s k).foldl (fun v m =>
      ((v.core m).l1.filter fun l => t.hasLine l.pid l.vln).foldl (fun u l => l1Flush u m l.pid l.vln) v) s
    s1.modCore k fun c => { c with icache := c.icache.filter fun l => !(t.hasLine l.pid l.vln) }
  else s

/-- A shootdown on both dies: the cores, then the stations (R356). -/
def shootDown (t : Shoot) (s : State) : State :=
  let s1 := (s.cores.map (·.1)).foldl (fun u k => shootCore t u k) s
  [0, 1].foldl (fun u d => u.modDie d fun dd =>
    { dd with tlb := dd.tlb.filter fun e => !((e.glob || t.hasPid e.pid) && t.hasPages e.vpn e.pages) }) s1

/-- A write of TINV on die `d`: ignored while a shootdown is in progress, which is one of both dies (R356). -/
def startTinv (d : Nat) (v : Word) (s : State) : State :=
  if (s.die 0).tinvBsy || (s.die 1).tinvBsy then s
  else [0, 1].foldl (fun t e => t.modDie e fun dd => { dd with tinvBsy := true, tinvReq := v, tinvRun := (s.die d).tinvLen + 1 }) s

/-- Carry out, on both dies, the shootdown that die `d` knows of. -/
def runTinv (d : Nat) (s : State) : State :=
  if (s.die d).tinvBsy then
    let v := (s.die d).tinvReq
    let t : Shoot := ⟨if bitAt v 62 then none else some (fld v 49 12),
      if bitAt v 61 then none else some (fld v 0 40, (s.die d).tinvRun)⟩
    [0, 1].foldl (fun u e => u.modDie e fun dd => { dd with tinvBsy := false }) (shootDown t s)
  else s

/-- TINV_WRITE (R356): a write of TINV on die `d` and its shootdown, or that of an earlier write. -/
def execTinvWrite (d : Nat) (v : BitVec 64) (s : State) : Out := .next (runTinv d (startTinv d v s))

/-! ### Page migration (R436, R437) -/

/-- Bytes of a page of a level. -/
def pageBytes (level : Nat) : Nat := 2 ^ levelShift level

/-- Copy the bytes of a page, and the poison marks of its lines (R437, step 4). -/
def copyPage (src dst n : Nat) (s : State) : State :=
  let from? := s.mem.filter fun c => src ≤ c.1 && c.1 < src + n
  let rest := s.mem.filter fun c => !(dst ≤ c.1 && c.1 < dst + n)
  let bad := s.poison.filter fun l => src / 128 ≤ l && l < (src + n) / 128
  let kept := s.poison.filter fun l => !(dst / 128 ≤ l && l < (dst + n) / 128)
  serveDev dst n
    { s with
      mem := from?.foldl (fun m c => memPut m (c.1 - src + dst) c.2) rest
      poison := bad.foldl (fun p l => insertLine p (l - src / 128 + dst / 128)) kept }

/-- Is a home in a page of device memory. -/
def Home.inPage (h : Home) (src n : Nat) : Bool :=
  match h with
  | .dev p => decide (src ≤ p) && decide (p < src + n)
  | .llc _ p => decide (src ≤ p) && decide (p < src + n)
  | .spad _ _ => false

/-- A home in the old page, in the new one. -/
def Home.moved (h : Home) (src dst n : Nat) : Home :=
  match h with
  | .dev p => if src ≤ p ∧ p < src + n then .dev (p - src + dst) else .dev p
  | .llc d p => if src ≤ p ∧ p < src + n then .llc d (p - src + dst) else .llc d p
  | other => other

/-- Requests for the old page and the waiters registered there are to be translated anew; held threads wait on the new page (R437). -/
def moveWaiters (src dst n : Nat) (s : State) : State :=
  let regs := s.dies.flatMap fun e => e.2.waiters.filter fun r => r.home.inPage src n
  { s with
    reqs := (s.reqs.map fun r => if r.home.inPage src n then { r with stale := true } else r) ++ regs.map fun r => { r with stale := true }
    dies := s.dies.map fun e => (e.1, { e.2 with waiters := e.2.waiters.filter fun r => !(r.home.inPage src n) })
    cores := s.cores.map fun e => (e.1, { e.2 with heldList := e.2.heldList.map fun h => { h with home := h.home.moved src dst n } }) }

/-- A write of PMIG: ignored while a migration is in progress; else ERR is W1C, and a migration starts unless SZ is 11 (R436). -/
def startPmig (d : Nat) (v : Word) (s : State) : State :=
  s.modDie d fun dd =>
    if dd.pmigBsy then dd
    else
      let dd1 := { dd with pmigErr := dd.pmigErr && !(bitAt v 62) }
      if fld v 60 2 = 3 then dd1 else { dd1 with pmigBsy := true, pmig := some ⟨fld v 60 2, fld v 48 12, fld v 0 40⟩ }

/-- A migration ends, with or without a failure. -/
def endPmig (d : Nat) (err : Bool) (s : State) : State :=
  s.modDie d fun dd => { dd with pmigBsy := false, pmig := none, pmigErr := dd.pmigErr || err }

/-- Carry out the page migration that die `d` was asked for (R437). -/
def runPmig (d : Nat) (s : State) : State :=
  match (s.die d).pmig with
  | none => s
  | some m =>
    let n := pageBytes m.sz
    let va := 8192 * m.vpn / n * n
    let dst := (s.die d).pmigDst.toNat / n * n
    let r := walk s d m.pid va
    let w := walkRead r.2 d (s.die d).pmigSlot.toNat
    match r.1, w.1 with
    | .ok (leaf, level, slot), .ok new =>
      let src := natBits leaf 11 27 * 2048
      if level ≠ m.sz ∨ s.usable < dst + n ∨ s.usable < src + n
          ∨ fencedFrom s d 0 ∨ fencedFrom s d 1 then endPmig d true w.2
      else
        let s1 := shootDown ⟨if natBits leaf 4 1 = 1 then none else some m.pid, some (va / 8192, n / 8192)⟩ w.2
        let s2 := [0, 1].foldl (fun t e =>
          ((llcLines t e).filter fun l => src ≤ 128 * l && 128 * l < src + n).foldl (fun u l => llcDrop u e l) t) s1
        let s3 := moveWaiters src dst n (if src = dst then s2 else copyPage src dst n s2)
        endPmig d false (homeWrite s3 slot 8 new)
    | _, _ => endPmig d true w.2

/-- PAGE_MIGRATION (R437): a write of PMIG on die `d` and its migration, or that of an earlier write. -/
def execPageMigration (d : Nat) (v : BitVec 64) (s : State) : Out := .next (runPmig d (startPmig d v s))

/-! ### The cluster map (R367, R368) -/

/-- Entry `n` of a die's cluster map. -/
def cmapOf (s : State) (d n : Nat) : CmapEntry := (s.die d).cmap.getD n ⟨false, false, n, n⟩

/-- A write of CMAP[n] (R368). -/
def putCmap (d n : Nat) (v : Word) (s : State) : State :=
  if 96 ≤ n then s
  else s.modDie d fun dd =>
    let e := dd.cmap.getD n ⟨false, false, n, n⟩
    { dd with cmap := dd.cmap.put n { e with new := fld v 8 7, pnd := true, err := e.err && !(bitAt v 16) } }

/-- CMAP_WRITE (R368). -/
def execCmapWrite (d n : Nat) (v : BitVec 64) (s : State) : Out := .next (putCmap d n v s)

/-- Is a logical cluster of a die frozen by a launch (R368). -/
def frozenCluster (s : State) (d n : Nat) : Bool :=
  s.pkg.launches.any fun l => launchLive s l && l.covers (clusterCore (96 * d + n) 0)

/-- Rebuild a table by cluster-relative key: entry `j` of cluster `n` comes from entry `j` of cluster `src n`. -/
def permuteKeys {α : Type} (m : SMap α) (keys : Nat → List Nat) (src : Nat → Nat) : SMap α :=
  let all := (List.range 96).flatMap keys
  (List.range 96).foldl (fun acc n =>
    ((keys n).zip (keys (src n))).foldl (fun a e => match m.get? e.2 with
      | some v => a.put e.1 v
      | none => a) acc) (m.filter fun e => !(all.contains e.1))

/-- The logical cluster that a physical one stood for. -/
def logicalOf (s : State) (d phy : Nat) : Nat := ((List.range 96).find? fun n => (cmapOf s d n).phy == phy).getD phy

/-- Apply the pending entries of a die: the cores and clusters change their logical places (R368). -/
def applyMap (d : Nat) (s : State) : State :=
  let newPhy := fun n => if (cmapOf s d n).pnd then (cmapOf s d n).new else (cmapOf s d n).phy
  let src := fun n => logicalOf s d (newPhy n)
  let cores := fun n => (List.range 8).map fun j => clusterCore (96 * d + n) j
  let ctxs := fun n => (cores n).flatMap coreCtxs
  let s1 : State :=
    { s with
      cores := permuteKeys s.cores cores src
      ctxs := permuteKeys s.ctxs ctxs src
      clusters := permuteKeys s.clusters (fun n => [96 * d + n]) src }
  s1.modDie d fun dd => { dd with cmap := (List.range 96).foldl (fun m n =>
    let e := dd.cmap.getD n ⟨false, false, n, n⟩
    if e.pnd then m.put n { e with phy := e.new, pnd := false } else m) dd.cmap }

/-- MAP_APPLY (R368): the pending entries of a die are applied together where none names or replaces a frozen cluster. -/
def execMapApply (d : Nat) (s : State) : Out :=
  let pend := (List.range 96).filter fun n => (cmapOf s d n).pnd
  let frozenPhy := fun p => (List.range 96).any fun m => frozenCluster s d m && (cmapOf s d m).phy == p
  let after := (List.range 96).map fun n => if (cmapOf s d n).pnd then (cmapOf s d n).new else (cmapOf s d n).phy
  if pend.isEmpty || (pend.any fun n => frozenCluster s d n || frozenPhy (cmapOf s d n).new || frozenPhy (cmapOf s d n).phy) then .next s
  else if (List.range 96).all fun p => after.contains p then .next (applyMap d s)
  else .next (s.modDie d fun dd => { dd with cmap := pend.foldl (fun m n =>
    m.put n { (dd.cmap.getD n ⟨false, false, n, n⟩) with err := true }) dd.cmap })

end Sys2Proof.Machine
end

