-- ==== Sys2Proof/Machine/Migrate.lean ====
section
/-! DEFINITION. The arrival, acknowledgement and refusal of a migrating thread (R27 to R31, R487). -/

namespace Sys2Proof.Machine

/-- The message of the thread that left context `x`. -/
def migOf (s : State) (x : Nat) : Option MigMsg := s.migs.find? fun m => m.x == x

/-- Drop the message of a context. -/
def dropMig (x : Nat) (s : State) : State := { s with migs := s.migs.filter fun m => m.x != x }

/-- Was the thread created by an event. -/
def Ctx.ofEvent (c : Ctx) : Bool :=
  match c.made with
  | .event _ => true
  | _ => false

/-- The reason of R31 for which a destination refuses a thread; none where it takes it, or where it is stopped by a droop and its mesh stop holds
the packet. Of several reasons that hold at once the first here is given (log entry 23); a departure frame that cannot be read refuses the
thread with a free reason (log entry 24). -/
def refusal (s : State) (m : MigMsg) : Option Nat :=
  if (s.core m.dst).droopAt.isSome && coreOnline s m.dst then none
  else if m.failed then some (fld (Config.freeWord s.freeCtr) 0 8)
  else if 1536 ≤ m.dst ∨ (s.core m.dst).lid ≠ m.ctx.lid then some 3
  else if coreOnline s m.dst = false then some 2
  else if m.ctx.ofEvent then some 4
  else if (freeCtxs s m.dst).isEmpty then some 1
  else none

/-- The invalidations sent ahead: a line that the thread has written leaves the destination's caches (R27, steps 2 and 5; R167). -/
def invalidateLines (k pid : Nat) (lines : List Nat) (s : State) : State :=
  lines.foldl (fun t vln =>
    let t1 := (l1Cores t k).foldl (fun u m => l1Flush u m pid vln) t
    match (translate t1 (coreDie k) pid (128 * vln) .read).1 with
    | .ok p => if p.priv then t1 else llcDrop t1 (coreDie k) (lineOf p.pa)
    | .error _ => t1) s

/-- The thread as it starts at the destination: what the packet and the departure frame carry (R27 to R29); the other per-context registers are
at reset. -/
def arrivedCtx (m : MigMsg) (frame : List Word) (preempt : Bool) : Ctx :=
  let o := m.ctx
  let f := fun i => frame.getD i 0
  { Ctx.reset with
    run := .ready
    pc := o.pc
    stack := (List.range 16).foldl (fun st i => st.put i (o.w i)) []
    p := (List.range 7).foldl (fun st i => st.put (i + 1) (f i)) []
    tcomp := scopeReg (f 7)
    jctr := scopeReg (f 8)
    origin := originReg (f 9)
    wlim := lineReg (f 10)
    tsp := o.tsp
    wsp := m.frame + 128
    spl := o.spl
    vz := o.vz || o.vl
    vl := false
    migmode := o.migmode
    pid := o.pid
    ectx := o.ectx
    pri := o.pri
    made := .migrated
    pair := o.pair
    lid := o.lid
    pkt := o.pkt
    chunks := o.chunks
    acq := o.acq
    wrote := o.wrote
    pendPreempt := preempt }

/-- MIGRATION_ARRIVAL (R27, step 5): the thread that left context `x` takes free context `c` of its destination and is Ready there; the
acknowledgement carries the pair that the context held. A droop-stopped destination holds the packet (R31). Where the departure frame
cannot be read the thread is refused (log entry 24). -/
def execMigrationArrival (x c : Nat) (s : State) : Out :=
  match migOf s x with
  | none => .next s
  | some m =>
    let y := ctxKey m.dst c
    if m.ack.isSome ∨ (refusal s m).isSome ∨ (s.core m.dst).droopAt.isSome ∨ (freeCtxs s m.dst).contains y = false then .next s
    else
      let s1 := invalidateLines m.dst m.ctx.pid m.lines s
      match wordsLoad s1 m.dst m.ctx.pid 0 m.frame 16 with
      | (.error (.held, _), _) => .next s
      | (.error _, _) => .next { s with migs := s.migs.map fun e => if e.x = x then { e with failed := true } else e }
      | (.ok frame, s2) =>
        let pair := (s2.ctx y).pair
        let s3 := s2.setCtx y (arrivedCtx m frame (s2.core m.dst).halted)
        .next { s3 with migs := s3.migs.map fun e => if e.x = x then { e with ack := some pair } else e }

/-- MIGRATION_ACKNOWLEDGE (R27, step 6): the origin takes the destination's pair and frees its context. -/
def execMigrationAcknowledge (x : Nat) (s : State) : Out :=
  match migOf s x with
  | none => .next s
  | some m =>
    match m.ack with
    | none => .next s
    | some pair =>
      let s1 := dropMig x s
      if (s1.core (coreOf x)).killed then .next s1
      else .next ((dropOwner x s1).setCtx x { Ctx.reset with pair := pair })

/-- MIGRATION_REFUSED (R30, R31): the origin restores the thread from its copy; an explicit MIGR traps 0x14, an automatic migration does not. Of a
killed origin's thread its postmaster deals with the record (R230). -/
def execMigrationRefused (x : Nat) (s : State) : Out :=
  match migOf s x with
  | none => .next s
  | some m =>
    match refusal s m with
    | none => .next s
    | some reason =>
      if m.ack.isSome then .next s
      else
        let s1 := dropMig x (if m.failed then s.free.2 else s)
        if (s1.core (coreOf x)).killed then
          .next (match lostThread m.ctx with
            | some w => restartLost (postmaster s1 (clusterOf (coreOf x))) w s1
            | none => packetEnd m.ctx.pkt s1)
        else
          let pre := (s1.ctx x).pendPreempt
          let s2 := s1.setCtx x { m.ctx with run := .ready, pc := m.pc, pendPreempt := pre || m.ctx.pendPreempt, pendDroop := (s1.ctx x).pendDroop }
          if m.automatic then .next s2
          else .next (takeTrap x ⟨0x14, some m.pc, m.pc, none, BitVec.ofNat 64 reason⟩ s2)

end Sys2Proof.Machine
end

