-- ==== Sys2Proof/Machine/Rqu.lean ====
section
/-! DEFINITION. The ray query unit: exact geometry, traversal, and its commands (R326 to R331). -/

namespace Sys2Proof.Machine

/-! ### Exact numbers (R327) -/

/-- A finite real n × 2^e. -/
structure Dyad where
  n : Int
  e : Int
  deriving DecidableEq, Repr

/-- A real, or an infinity of a sign. -/
inductive XReal where
  | inf (neg : Bool)
  | fin (d : Dyad)
  deriving DecidableEq, Repr

/-- An integer shifted up. -/
def shlI (n : Int) (k : Nat) : Int := n * (2 ^ k : Nat)

def Dyad.add (a b : Dyad) : Dyad :=
  let lo := min a.e b.e
  ⟨shlI a.n (a.e - lo).toNat + shlI b.n (b.e - lo).toNat, lo⟩
def Dyad.neg (a : Dyad) : Dyad := ⟨-a.n, a.e⟩
def Dyad.sub (a b : Dyad) : Dyad := a.add b.neg
def Dyad.mul (a b : Dyad) : Dyad := ⟨a.n * b.n, a.e + b.e⟩
/-- The order of two reals. -/
def Dyad.cmp (a b : Dyad) : Ordering := compare (a.sub b).n 0
def Dyad.lt (a b : Dyad) : Bool := a.cmp b == .lt
def Dyad.le (a b : Dyad) : Bool := a.cmp b != .gt
def Dyad.zero : Dyad := ⟨0, 0⟩

/-- An FP32 code as a real; none for a NaN. -/
def xreal (c : Nat) : Option XReal :=
  match fFP32.read c with
  | .nan _ => none
  | .inf neg => some (.inf neg)
  | .fin neg m e => some (.fin ⟨if neg then -(m : Int) else m, e⟩)

/-- An FP32 code as a finite real; none for a NaN or an infinity. -/
def finite (c : Nat) : Option Dyad :=
  match xreal c with
  | some (.fin d) => some d
  | _ => none

/-- a ≤ b among reals and infinities. -/
def XReal.le (a b : XReal) : Bool :=
  match a, b with
  | .inf true, _ => true
  | _, .inf false => true
  | .inf false, _ => false
  | _, .inf true => false
  | .fin x, .fin y => x.le y

/-- A fraction of two reals with a positive denominator: the parameter of a hit. -/
structure Frac where
  num : Dyad
  den : Dyad
  deriving DecidableEq, Repr

/-- The order of two fractions. -/
def Frac.cmp (a b : Frac) : Ordering := (a.num.mul b.den).cmp (b.num.mul a.den)

/-- Is a fraction at least, or at most, a real or infinity. -/
def Frac.ge (a : Frac) (x : XReal) : Bool :=
  match x with
  | .inf neg => neg
  | .fin d => (d.mul a.den).le a.num
def Frac.le (a : Frac) (x : XReal) : Bool :=
  match x with
  | .inf neg => !neg
  | .fin d => a.num.le (d.mul a.den)

/-- A fraction rounded to FP32 (R328): RNE of the exact value. -/
def Frac.toFP32 (a : Frac) : Nat :=
  if a.num.n = 0 then 0
  else
    let d := a.den.n.natAbs
    let k := Nat.log2 d + 64
    let n := a.num.n.natAbs <<< k
    fFP32.round 0 (a.num.n < 0) (n / d) (a.num.e - a.den.e - (k : Int)) (n % d != 0)

/-- A real rounded to FP32. -/
def Dyad.toFP32 (a : Dyad) : Nat := if a.n = 0 then 0 else fFP32.round 0 (a.n < 0) a.n.natAbs a.e false

/-- A point or a vector. -/
structure Vec3 where
  x : Dyad
  y : Dyad
  z : Dyad
  deriving DecidableEq, Repr

def Vec3.sub (a b : Vec3) : Vec3 := ⟨a.x.sub b.x, a.y.sub b.y, a.z.sub b.z⟩
def Vec3.dot (a b : Vec3) : Dyad := ((a.x.mul b.x).add (a.y.mul b.y)).add (a.z.mul b.z)
def Vec3.cross (a b : Vec3) : Vec3 :=
  ⟨(a.y.mul b.z).sub (a.z.mul b.y), (a.z.mul b.x).sub (a.x.mul b.z), (a.x.mul b.y).sub (a.y.mul b.x)⟩

/-- Three FP32 codes as a finite point; none where one is a NaN or an infinity. -/
def vec3 (a b c : Nat) : Option Vec3 :=
  match finite a, finite b, finite c with
  | some x, some y, some z => some ⟨x, y, z⟩
  | _, _, _ => none

/-! ### Boxes, triangles and points -/

/-- The later of two lower ends, and the sooner of two upper ends; none is unbounded. -/
def laterEnd (a b : Option Frac) : Option Frac :=
  match a, b with
  | some p, some q => if p.cmp q = .lt then some q else some p
  | none, q => q
  | p, none => p
def soonerEnd (a b : Option Frac) : Option Frac :=
  match a, b with
  | some p, some q => if p.cmp q = .gt then some q else some p
  | none, q => q
  | p, none => p

/-- Does the lower end lie beyond the upper one. -/
def emptyEnds (a b : Option Frac) : Bool :=
  match a, b with
  | some p, some q => p.cmp q == .gt
  | _, _ => false

/-- The interval of t in which one axis of a ray lies in [lo, hi], cut with an interval; none where it is empty. An end of none is
unbounded. -/
def cutAxis (o d : Dyad) (lo hi : XReal) (iv : Option Frac × Option Frac) : Option (Option Frac × Option Frac) :=
  let bound : XReal → Option Frac := fun b => match b with
    | .fin v => if d.n < 0 then some ⟨(v.sub o).neg, d.neg⟩ else some ⟨v.sub o, d⟩
    | .inf _ => none
  if d.n = 0 then (if lo.le (.fin o) && XReal.le (.fin o) hi then some iv else none)
  else
    let hiInf : Bool := match hi with | .inf true => true | _ => false
    let loInf : Bool := match lo with | .inf false => true | _ => false
    if hiInf || loInf then none
    else
      let lo1 := laterEnd iv.1 (bound (if d.n < 0 then hi else lo))
      let hi1 := soonerEnd iv.2 (bound (if d.n < 0 then lo else hi))
      if emptyEnds lo1 hi1 then none else some (lo1, hi1)

/-- A ray with finite origin and direction and its closed interval. -/
structure Ray where
  o : Vec3
  d : Vec3
  tmin : XReal
  tmax : XReal
  deriving DecidableEq, Repr

/-- The interval of a ray as fractions: none at an unbounded end; no interval where it is empty. -/
def Ray.interval (r : Ray) : Option (Option Frac × Option Frac) :=
  let end1 := fun (x : XReal) => match x with | .fin d => some (⟨d, ⟨1, 0⟩⟩ : Frac) | .inf _ => none
  match r.tmin, r.tmax with
  | .inf false, _ => none
  | _, .inf true => none
  | a, b => if a.le b then some (end1 a, end1 b) else none

/-- The bounds of a box: six codes; none where it is never entered (R327). -/
def boxBounds (c : List Nat) : Option (List XReal) :=
  let v := c.map xreal
  if v.any Option.isNone then none
  else
    let w := v.map fun x => x.getD (.inf false)
    if (List.range 3).all fun i => (w.getD i (.inf false)).le (w.getD (i + 3) (.inf true)) then some w else none

/-- Does a ray enter a box. -/
def Ray.enters (r : Ray) (box : List Nat) : Bool :=
  match boxBounds box, r.interval with
  | some b, some iv =>
    let at' := fun i => b.getD i (.inf false)
    match cutAxis r.o.x r.d.x (at' 0) (at' 3) iv with
    | none => false
    | some iv1 => match cutAxis r.o.y r.d.y (at' 1) (at' 4) iv1 with
      | none => false
      | some iv2 => (cutAxis r.o.z r.d.z (at' 2) (at' 5) iv2).isSome
  | _, _ => false

/-- The parameter at which a ray hits a closed triangle; none for a miss, a degenerate or a parallel triangle (R327). -/
def Ray.hit (r : Ray) (v0 v1 v2 : Vec3) : Option Frac :=
  let e1 := v1.sub v0
  let e2 := v2.sub v0
  let p := r.d.cross e2
  let det := e1.dot p
  if det.n = 0 then none
  else
    let pos := fun (d : Dyad) => if det.n < 0 then d.neg else d
    let tv := r.o.sub v0
    let q := tv.cross e1
    let u := pos (tv.dot p)
    let v := pos (r.d.dot q)
    let t : Frac := ⟨pos (e2.dot q), pos det⟩
    if Dyad.zero.le u && Dyad.zero.le v && (u.add v).le (pos det) && t.ge r.tmin && t.le r.tmax then some t else none

/-- A query point and the square of its radius; none: every distance. -/
structure Near where
  p : Vec3
  r2 : Option Dyad
  deriving DecidableEq, Repr

/-- The exact squared distance from the query point to a box: 0 inside. -/
def Near.boxDist (n : Near) (b : List XReal) : Option Dyad :=
  let axis := fun (v : Dyad) (lo hi : XReal) => match lo, hi with
    | .inf false, _ => (none : Option Dyad)
    | _, .inf true => none
    | _, _ =>
      match (match lo with | .fin l => if v.lt l then some (l.sub v) else none | _ => none),
            (match hi with | .fin h => if h.lt v then some (v.sub h) else none | _ => none) with
      | some d, _ => some d
      | none, some d => some d
      | none, none => some Dyad.zero
  let at' := fun i => b.getD i (.inf false)
  match axis n.p.x (at' 0) (at' 3), axis n.p.y (at' 1) (at' 4), axis n.p.z (at' 2) (at' 5) with
  | some x, some y, some z => some (((x.mul x).add (y.mul y)).add (z.mul z))
  | _, _, _ => none

/-- Can a box hold a point within the radius. -/
def Near.enters (n : Near) (box : List Nat) : Bool :=
  match boxBounds box with
  | none => false
  | some b => match n.boxDist b with
    | none => false
    | some d => match n.r2 with
      | some r => d.le r
      | none => true

/-- The exact squared distance of a point, where it is within the radius. -/
def Near.reach (n : Near) (q : Vec3) : Option Dyad :=
  let d := q.sub n.p
  let s := d.dot d
  match n.r2 with
  | some r => if s.le r then some s else none
  | none => some s

/-! ### Traversal (R326, R327, R331) -/

/-- A query: a ray, or a point. -/
inductive Query where
  | ray (r : Ray)
  | near (n : Near)
  /-- A NaN input: every primitive is missed. -/
  | never
  /-- An infinite origin, direction or point: no rule gives the result (log entry 15). -/
  | unstated
  deriving DecidableEq, Repr

/-- A primitive that qualifies: its id, t or squared distance, in traversal order. -/
structure Found where
  id : Nat
  t : Frac
  deriving DecidableEq, Repr

/-- Does a query enter a box. -/
def Query.enters (g : Query) (box : List Nat) : Bool :=
  match g with
  | .ray r => r.enters box
  | .near n => n.enters box
  | _ => false

/-- The leaf type that a query needs: 2 points, 3 triangles. -/
def Query.leaf (g : Query) (near : Bool) : Nat :=
  match g with
  | .ray _ => 3
  | .near _ => 2
  | _ => if near then 2 else 3

/-- Halves of words in order: the FP32 codes of a primitive or a node. -/
def halves (ws : List Word) : List Nat := ws.flatMap fun w => [fld w 0 32, fld w 32 32]

/-- What is found in a primitive with an infinite coordinate: by a free value (log entry 15). -/
def freeFound (id : Nat) (fr : Word) : Option Found :=
  if bitAt fr 0 then some ⟨id, ⟨⟨(fld fr 1 32 : Nat), (fld fr 33 10 : Int) - 512⟩, ⟨1, 0⟩⟩⟩ else none

/-- Test one primitive, given by its codes. -/
def Query.test (g : Query) (c : List Nat) (fr : Word) : Option Found :=
  let v := fun i => c.getD i 0
  let nan := fun n => (c.take n).any fun x => (xreal x).isNone
  match g with
  | .ray r => match vec3 (v 0) (v 1) (v 2), vec3 (v 3) (v 4) (v 5), vec3 (v 6) (v 7) (v 8) with
    | some a, some b, some d => (r.hit a b d).map fun t => ⟨v 9, t⟩
    | _, _, _ => if nan 9 then none else freeFound (v 9) fr
  | .near n => match vec3 (v 0) (v 1) (v 2) with
    | some q => (n.reach q).map fun s => ⟨v 3, ⟨s, ⟨1, 0⟩⟩⟩
    | none => if nan 3 then none else freeFound (v 3) fr
  | _ => none

/-- Words of a primitive. -/
def primWords (typ : Nat) : Nat := if typ = 2 then 2 else 6

/-- The work that traversal still has: a node or a leaf to visit, and its depth. -/
structure Todo where
  word : Word
  depth : Nat

/-- The result of a traversal: a status, or what qualified in traversal order. -/
inductive Trav where
  | fail (stat : Nat)
  | held
  | ok (found : List Found)

/-- The primitives of a leaf. -/
def leafFound (g : Query) (typ n ctr : Nat) (ws : List Word) : List Found :=
  (List.range n).filterMap fun i => g.test (halves ((ws.drop (primWords typ * i)).take (primWords typ))) (Config.freeWord (ctr + i))

/-- Are the zero words of a triangle leaf zero (R326). -/
def leafBad (typ n : Nat) (ws : List Word) : Bool :=
  typ == 3 && (List.range n).any fun i => ws.getD (6 * i + 5) 0 != 0

/-- Depth-first traversal (R327): `n` bounds the entries taken, `left` the node visits that remain. -/
def traverse (d k pid : Nat) (g : Query) (near first : Bool) : Nat → Nat → List Todo → List Found → State → Trav × State
  | 0, _, _, acc, s => (.ok acc, s)
  | _ + 1, _, [], acc, s => (.ok acc, s)
  | n + 1, left, t :: rest, acc, s =>
    let w := t.word
    let typ := fld w 62 2
    let stat := fun (e : AccErr) => match engStat 3 4 e with
      | some st => Trav.fail st
      | none => Trav.held
    if fld w 60 2 ≠ 0 ∨ fld w 54 2 ≠ 0 then (.fail 5, s)
    else if typ = 0 then traverse d k pid g near first n left rest acc s
    else if typ = 1 then
      if left = 0 ∨ 32 < t.depth then (.fail 6, s)
      else if fld w 0 7 ≠ 0 then (.fail 2, s)
      else match pathWords s 5 d k pid (put (fld w 0 54) 0 54) 16 with
        | (.error e, s1) => (stat e, s1)
        | (.ok ws, s1) =>
          let codes := halves ws
          let kids := (List.range 4).filterMap fun c =>
            let cw := ws.getD (12 + c) 0
            if fld cw 62 2 ≠ 0 ∧ g.enters ((codes.drop (6 * c)).take 6) then some (⟨cw, t.depth + 1⟩ : Todo) else none
          if (List.range 4).any fun c => fld (ws.getD (12 + c) 0) 60 2 ≠ 0 ∨ fld (ws.getD (12 + c) 0) 54 2 ≠ 0 then (.fail 5, s1)
          else traverse d k pid g near first n (left - 1) (kids ++ rest) acc s1
    else if typ ≠ g.leaf near then (.fail 5, s)
    else if fld w 0 4 ≠ 0 then (.fail 2, s)
    else
      let m := fld w 56 4 + 1
      match pathWords s 5 d k pid (put (fld w 0 54) 0 54) (primWords typ * m) with
      | (.error e, s1) => (stat e, s1)
      | (.ok ws, s1) =>
        if leafBad typ m ws then (.fail 5, s1)
        else
          let acc1 := acc ++ leafFound g typ m s1.freeCtr ws
          let s2 := { s1 with freeCtr := s1.freeCtr + m }
          if first && !acc1.isEmpty then (.ok acc1, s2) else traverse d k pid g near first n left rest acc1 s2

/-- Trace a query from a root: it is a node (R326). -/
def trace (d k pid : Nat) (g : Query) (near first : Bool) (root : Word) (s : State) : Trav × State :=
  if root.toNat % 128 ≠ 0 then (.fail 2, s)
  else if badTop root then (.fail 3, s)
  else traverse d k pid g near first 32768 4096 [⟨put 1 62 2 ||| put (fld root 0 54) 0 54, 1⟩] [] s

/-- Is the first better: smaller t, then lower id; the earlier one stands on a tie (R328). -/
def Found.before (a b : Found) : Bool :=
  match a.t.cmp b.t with
  | .lt => true
  | .gt => false
  | .eq => a.id < b.id

/-- Insert in order, after those that are not worse. -/
def insertFound (a : Found) : List Found → List Found
  | [] => [a]
  | b :: rest => if a.before b then a :: b :: rest else b :: insertFound a rest

/-- What qualified, in the order of R328. -/
def sortFound (l : List Found) : List Found := l.foldl (fun acc a => insertFound a acc) []

/-! ### Commands (R330) -/

/-- The FP32 code in a lane of a vector operand. -/
def laneCode (v : List VReg) (n i : Nat) : Nat := laneGet (v.getD n 0) 32 i

/-- The ray of a lane. -/
def laneRay (v : List VReg) (i : Nat) : Query :=
  if (List.range 8).any fun n => (xreal (laneCode v n i)).isNone then .never
  else match vec3 (laneCode v 0 i) (laneCode v 1 i) (laneCode v 2 i), vec3 (laneCode v 3 i) (laneCode v 4 i) (laneCode v 5 i),
      xreal (laneCode v 6 i), xreal (laneCode v 7 i) with
  | some o, some d, some a, some b => .ray ⟨o, d, a, b⟩
  | _, _, _, _ => .unstated

/-- The point query of RQNEAR. -/
def nearQuery (v : List VReg) (knn : Bool) : Query :=
  if ((List.range 3).any fun n => (xreal (laneCode v 0 n)).isNone) || (!knn && (xreal (laneCode v 0 3)).isNone) then .never
  else match vec3 (laneCode v 0 0) (laneCode v 0 1) (laneCode v 0 2) with
    | some p =>
      match (if knn then none else finite (laneCode v 0 3)) with
      | some d => .near ⟨p, some (d.mul d)⟩
      | none => .near ⟨p, none⟩
    | none => .unstated

/-- The result words of a ray (R330). -/
def rayWords (first : Bool) (l : List Found) : List Word :=
  match (if first then l.head? else (sortFound l).head?) with
  | some h => [BitVec.ofNat 64 (h.id * 2 ^ 32 + h.t.toFP32), 1]
  | none => [0xFFFFFFFF7F800000, 0]

/-- The results of the enabled lanes of RQRAY, each its address offset and words. -/
def rqRays (q : Nat) (e : EngCmd) (root : Word) : List Nat → List (Nat × List Word) → State → Except Trav (List (Nat × List Word)) × State
  | [], acc, s => (.ok acc, s)
  | i :: rest, acc, s =>
    let g := laneRay e.vec i
    match trace (q / 96) e.core e.pid g false (e.f.subBit 0) root s with
    | (.ok l, s1) =>
      let (fr, s2) := if g = .unstated then freeWords 2 s1 else ([], s1)
      let ws := if g = .unstated then (if bitAt (fr.getD 0 0) 0 then [fr.getD 1 0, 1] else rayWords false []) else rayWords (e.f.subBit 0) l
      rqRays q e root rest (acc ++ [(16 * i, ws)]) s2
    | (t, s1) => (.error t, s1)

/-- The entries of RQNEAR: the header and the first LIM (R330). -/
def nearWords (lim : Nat) (l : List Found) : List Word :=
  let best := (sortFound l).take lim
  (put best.length 0 6 ||| flag (lim < l.length) 8) :: best.map fun h => BitVec.ofNat 64 (h.id * 2 ^ 32 + h.t.num.toFP32)

/-- Change the RQU of a cluster. -/
def State.modRqu (s : State) (q : Nat) (g : Rqu → Rqu) : State := s.modCluster q fun c => { c with rqu := g c.rqu }

/-- Is W[D] an aligned scratchpad address (status 2). -/
def EngCmd.rqBadDst (e : EngCmd) : Bool :=
  e.wd.toNat % 8 != 0 || (match resolve e.core e.wd with | .spad _ _ => false | _ => true)

/-- Write results in order (R330): the status, none where a word is held; a command that fails writes none of them (R331). -/
def rqWrite (q : Nat) (e : EngCmd) (parts : List (Nat × List Word)) (s : State) : Option Nat × State :=
  match putParts s 5 (q / 96) e.core e.pid e.wd parts with
  | (.error er, _) => (engStat 3 4 er, s)
  | (.ok _, s1) => (some 0, s1)

/-- Execute a command: its status, none where an access is held (R330, R331). -/
def rquRun (q : Nat) (e : EngCmd) (s : State) : Option Nat × State :=
  let ent := e.f.xBits 32 3
  let root := (s.cluster q).rqu.bvh.getD ent 0
  let res := fun (t : Trav) (u : State) => match t with
    | .fail st => (some st, u)
    | _ => ((none : Option Nat), u)
  if e.opc = 0xBC then (some 0, s.modRqu q fun u => { u with bvh := u.bvh.putD ent 0 (globalOf e.core e.wa) })
  else if root = 0 then (some 1, s)
  else if root.toNat % 128 ≠ 0 ∨ e.rqBadDst then (some 2, s)
  else if e.opc = 0xBD then
    match rqRays q e root ((List.range 16).filter fun i => e.f.b.isNone || bitAt e.mask i) [] s with
    | (.ok parts, s1) => rqWrite q e parts s1
    | (.error t, s1) => res t s1
  else
    let g := nearQuery e.vec (e.f.subBit 0)
    let lim := e.f.xBits 0 5 + 1
    match trace (q / 96) e.core e.pid g true false root s with
    | (.ok l, s1) =>
      if g = .unstated then
        let (fr, s2) := freeWords (lim + 1) s1
        let n := fld (fr.getD 0 0) 0 32 % (lim + 1)
        rqWrite q e [(0, (put n 0 6 ||| flag (n == lim && bitAt (fr.getD 0 0) 32) 8) :: (fr.drop 1).take n)] s2
      else rqWrite q e [(0, nearWords lim l)] s1
    | (t, s1) => res t s1

/-- RQU_COMMAND_EXECUTE (R326, R330). -/
def execRquCommandExecute (q : Nat) (s : State) : Out :=
  let u := (s.cluster q).rqu
  match u.queue with
  | [] => .next s
  | e :: rest =>
    if u.stopped || u.paused || clusterDark s q then .next s
    else match rquRun q e s with
      | (none, _) => .next s
      | (some st, s1) =>
        .next (endCmd .rqu q e st none ((chargeStep (q / 96) e.ectx s1).modRqu q fun v => { v with queue := rest }))

/-- RQU_COMPLETION_REPLY (R331). -/
def execRquCompletionReply (i : Nat) (s : State) : Out := .next (replyArrives .rqu i s)

/-- RQSET. -/
def execRqset (h : Hdr) (f : Fields) (s : State) : Out :=
  issue (.rqset h f) false false (fun x _ t => engSend x (.rqset h f) f .rqu (some (clusterOf (coreOf x))) none [] 0 t) s

/-- RQRAY: eight vector operands and the lane mask travel in the command. -/
def execRqray (h : Hdr) (f : Fields) (s : State) : Out :=
  issue (.rqray h f) false false (fun x c t =>
    engSend x (.rqray h f) f .rqu (some (clusterOf (coreOf x))) none ((List.range 8).map fun i => c.vec (f.a.num + i))
      (match f.b with | .p n => c.pred n.toNat | _ => allOf true) t) s

/-- RQNEAR. -/
def execRqnear (h : Hdr) (f : Fields) (s : State) : Out :=
  issue (.rqnear h f) false false (fun x c t =>
    engSend x (.rqnear h f) f .rqu (some (clusterOf (coreOf x))) none [c.vec f.a.num] 0 t) s

/-- RQWAIT (R331). -/
def execRqwait (h : Hdr) (f : Fields) (s : State) : Out :=
  issue (.rqwait h f) false false (fun x _ t => engWait x (.rqwait h f) f .rqu .rqwait t) s

end Sys2Proof.Machine
end

