-- ==== Sys2Proof/Machine/Work.lean ====
section
/-! DEFINITION. The thread instructions: SPAWN, FORK, JOIN, MIGR, EXIT, EVNEXT, SLEEP, POPR and the three forms of RTE. -/

namespace Sys2Proof.Machine

/-- SPAWN (R85, R86): the placement walk names the core that takes the record; with none the child runs inline. -/
def execSpawn (h : Hdr) (f : Fields) (s : State) : Out :=
  issue (.spawn h f) false false (fun x c t =>
    let target := bTarget c.pc f
    let hint := srcS c [] f.a
    if badTop target then .trap (malformedTrap c.pc target) t
    else if badHint hint then .trap (syncTrap 0x13 c.pc (some 0) 1) t
    else match (match c.placing? with
        | some k => some k
        | none => placementWalk t (threadLaunch t x) (coreOf x, false) hint) with
      | some k => placeAt x (.spawn h f) f k target hint (f.subBit 3) false t
      | none => inlineChild x (.spawn h f) f target t) s

/-- FORK (R87): the bottom of the local deque, or inline where it holds 32 records. -/
def execFork (h : Hdr) (f : Fields) (s : State) : Out :=
  issue (.fork h f) false false (fun x c t =>
    let k := coreOf x
    let target := bTarget c.pc f
    if badTop target then .trap (malformedTrap c.pc target) t
    else if dequeRoom t k || c.placing?.isSome then placeAt x (.fork h f) f k target (coreAddr k &&& ~~~(flag true 53)) false true t
    else inlineChild x (.fork h f) f target t) s

/-- JOIN (R88): wait at the counter's home until it reads 0, then acquire. -/
def execJoin (h : Hdr) (f : Fields) (s : State) : Out :=
  issue (.join h f) false false (fun x c t =>
    let a := c.ea f
    let go := fun (home : Home) (u : State) =>
      waitReply x (.join h f) .join none (mkReq x c .join home 8 7 0 a) u fun v w => match v with
        | .ok _ => .done (acquireObj w (coreOf x) c.pid f.x.sc (globalOf (coreOf x) a).toNat)
        | .fail tr => .done (postTrap x tr w)
    if c.wait?.isSome then go (.dev 0) t
    else match accessSpace t x c.pc a 8 with
      | .error tr => .trap tr t
      | .ok (.spad k off) => go (.spad k off) (flushOwn x a t)
      | .ok (.dev va) =>
        match devHome (flushOwn x a t) (coreOf x) c.pid va .read with
        | (.error e, t1) => .done (postTrap x ⟨0x05, none, c.pc, some a, BitVec.ofNat 64 e⟩ t1)
        | (.ok home, t1) => go home t1
      | .ok .bad => .trap (malformedTrap c.pc a) t) s

/-- MIGR (R27, R89, R252): to the thread's own core nothing but the marker; else the thread drains, seals its transfers and departs. Context 7
is never moved (R214): there it is nothing but the marker as well (log entry 21). -/
def execMigr (h : Hdr) (f : Fields) (s : State) : Out :=
  issue (.migr h f) false false (fun x c t =>
    let a := srcS c [] f.a
    let own := ctxNo x == 7 || bitAt a 53 && (bitAt a 52 || coreNamed a == some (coreOf x))
    let dst := if bitAt a 53 then (coreNamed a).getD 1536 else 1536
    if c.dual.isSome then .trap ⟨0x14, some c.pc, c.pc, none, 5⟩ t
    else if !own && migOverflow c then .trap (syncTrap 0x07 c.pc none 0) t
    else match marker x (.migr h f) (!own) t with
      | some t1 => .leave t1
      | none =>
        if own then .done t
        else
          let drained := match c.wait? with | some w => w.kind == .drain x | none => false
          if !drained && 16 ≤ c.xbatches.length then .leave (waitFor x (.migr h f) .xseal none t)
          else
            let t1 := if drained then t else t.modCtx x Ctx.seal
            if drainOver t1 x && (t1.ctx x).xbatches.isEmpty then
              match depart x dst false t1 with
              | .ok t2 => .leave t2
              | .error (some e) => .trap e t1
              | .error none => .leave (holdHere x (.migr h f) t1)
            else .leave (waitFor x (.migr h f) (.drain x) none t1)) s

/-- EXIT (R19, R74, R90): in an inline frame a RET, else the end of the thread. -/
def execExit (h : Hdr) (f : Fields) (s : State) : Out :=
  issue (.exit h f) false false (fun x c t =>
    match marker x (.exit h f) false t with
    | some t1 => .leave t1
    | none =>
      if c.inlineFrame then
        match retWindow x c.pc t with
        | .ok (target, t1) => .jump target t1
        | .error (some e) => .trap e t
        | .error none => .leave (holdHere x (.exit h f) t)
      else endEff x (.exit h f) t) s

/-- EVNEXT (R210): the end of the thread, whatever frames lie below. -/
def execEvnext (h : Hdr) (f : Fields) (s : State) : Out :=
  issue (.evnext h f) false false (fun x _ t =>
    match marker x (.evnext h f) false t with
    | some t1 => .leave t1
    | none => endEff x (.evnext h f) t) s

/-- SLEEP (R212): context 7 sleeps until an item is pending or the timer expires. -/
def execSleep (h : Hdr) (f : Fields) (s : State) : Out :=
  issue (.sleep h f) true false (fun x _ t =>
    let k := coreOf x
    let n := f.x.imm40.toNat
    if (t.core k).supq.isEmpty then
      .done (t.modCore k fun c => { c with asleep := true, sleepAt := if n = 0 then none else some (t.pkg.time + n) })
    else .done t) s

/-- POPR (R213): the bottom record of the local deque, unless it is dual-dispatched. The thread has the range chunk of the record (R378). -/
def execPopr (h : Hdr) (f : Fields) (s : State) : Out :=
  issue (.popr h f) false false (fun x _ t =>
    let k := coreOf x
    match (t.core k).deque.getLast? with
    | some q =>
      if q.r.dualFlag then .done (t.modCtx x fun c => c.writeD f.d 0)
      else
        let t1 := t.modCore k fun c => { c with deque := c.deque.dropLast }
        .done (t1.modCtx x fun c =>
          ((List.range 8).foldl (fun (d : Ctx) i => d.setW (f.a.num + i) (q.r.word i)) { c with chunks := c.chunks ++ q.r.chunk.toList }).writeD f.d (allOf true))
    | none => .done (t.modCtx x fun c => c.writeD f.d 0)) s

/-! ### RTE (R82) -/

/-- The target of an RTE: W[A][2:0] or a short immediate 0 to 6; none where it has no effect. -/
def rteTarget (x : Nat) (c : Ctx) (f : Fields) : Option Nat :=
  let n := match f.a with
    | .imm v => if v.toNat ≤ 6 then v.toNat else 7
    | o => fld (srcS c [] o) 0 3
  if n = 7 then none else some (ctxKey (coreOf x) n)

/-- The outcome of an RTE (R82). -/
def rteOutcome (x : Nat) (f : Fields) (ok : Bool) (s : State) : Eff := .done (s.modCtx x fun c => c.writeD f.d (allOf ok))

/-- The stores of a context whose deferred faults have been taken are performed (R35): one whose translation fails again is pending again, and one
that gets an error response is over, with the response's trap (R155). -/
def redoStores (y : Nat) (s : State) : State :=
  (s.ctx y).deferred.foldl (fun t q =>
    if q.taken then
      match (match q.atom with
          | none => wordStore t (coreOf y) (some y) (t.ctx y).pid q.cp q.faddr q.size q.val
          | some (op, ty) => match atomicAt t (coreOf y) (t.ctx y).pid q.faddr op ty q.size q.val with
            | (.ok _, u) => (.ok (), noteWrote (some y) (lineOf q.faddr.toNat) u)
            | (.error e, u) => (.error e, u)) with
      | (.ok _, t1) => t1.modCtx y fun c => { c with deferred := c.deferred.erase q }
      | (.error (.resp n), t1) =>
        vstFail y q.group q.elem ((AccErr.resp n).trap q.fpc q.faddr) (t1.modCtx y fun c => { c with deferred := c.deferred.erase q })
      | (.error e, t1) => t1.modCtx y fun c =>
          { c with deferred := c.deferred.map fun p => if p = q then { p with taken := false, finfo := (e.trap q.fpc q.faddr).finfo } else p }
    else t) s
  |> fun t => ((s.ctx y).deferred.map (·.group)).eraseDups.foldl (fun u g => vstSettle y g u) t

/-- RTE (R82): a Stopped target resumes at its `y.epc`. -/
def execRte (h : Hdr) (f : Fields) (s : State) : Out :=
  issue (.rte h f) true false (fun x c t =>
    match rteTarget x c f with
    | some y =>
      if (t.ctx y).run = .stopped then rteOutcome x f true (returnFromTrap y (redoStores y t)) else rteOutcome x f false t
    | none => rteOutcome x f false t) s

/-- RTE.END (R19, R82): the Stopped target's thread ends with its completion release; a failed completion atomic leaves it Stopped with the
trap registers of a failing EXIT. There is no EXIT here: `y.fpc` holds the target's `y.epc` (log entry 22). -/
def execRteEnd (h : Hdr) (f : Fields) (s : State) : Out :=
  issue (.rteEnd h f) true false (fun x c t =>
    match rteTarget x c f with
    | some y =>
      if (t.ctx y).run = .stopped then
        if drainOver t y then
          match completionRelease y (t.ctx y).epc t with
          | .ok t1 => rteOutcome x f true (launchOver (t.ctx y).lid (endThread y t1))
          | .error (none, t1) => .leave (holdHere x (.rteEnd h f) t1)
          | .error (some e, t1) =>
            rteOutcome x f false (t1.modCtx y fun d =>
              { d with cause := BitVec.ofNat 64 e.cause, fpc := e.fpc, faddr := e.faddr.getD d.faddr, finfo := e.finfo })
        else .leave (waitFor x (.rteEnd h f) (.drain y) none t)
      else rteOutcome x f false t
    | none => rteOutcome x f false t) s

/-- RTE.DROP (R82): the Stopped target's thread ends with no release. -/
def execRteDrop (h : Hdr) (f : Fields) (s : State) : Out :=
  issue (.rteDrop h f) true false (fun x c t =>
    match rteTarget x c f with
    | some y => if (t.ctx y).run = .stopped then rteOutcome x f true (launchOver (t.ctx y).lid (endThread y t)) else rteOutcome x f false t
    | none => rteOutcome x f false t) s

end Sys2Proof.Machine
end

