-- ==== Sys2Proof/Machine/Dual.lean ====
section
/-! DEFINITION. Dual dispatch: the choice of the secondary core, the pairing stop and mismatches (R364 to R366). -/

namespace Sys2Proof.Machine

/-! ### The secondary (R364) -/

/-- May core `c` hold the secondary copy of a record that core `k` accepted. -/
def secondaryOk (s : State) (k c : Nat) : Bool :=
  coreDie c == coreDie k && (s.core c).lid == (s.core k).lid && clusterL (clusterOf c) == clusterL (clusterOf k) && coreOnline s c
    && (!(freeCtxs s c).isEmpty || dequeRoom s c)

/-- The secondary core: by hop distance from 2 to 8, then by row and column. -/
def secondaryCore (s : State) (k : Nat) : Option Nat :=
  ((List.range 7).flatMap fun n => ((List.range 768).map fun i => 768 * coreDie k + i).filter fun c => hops k c == n + 2).find?
    fun c => secondaryOk s k c

/-- SECONDARY_CHOICE (R364): place `i` of a core's deque holds a primary copy whose secondary is placed now, pinned. -/
def execSecondaryChoice (k i : Nat) (s : State) : Out :=
  match (s.core k).deque[i]? with
  | none => .next s
  | some q =>
    if q.needsPair = false then .next s
    else match secondaryCore s k with
      | none => .next s
      | some c =>
        let old := q.dual.bind fun r => ([0, 1].flatMap fun d => (s.die d).pairs).find? fun p => p.id == r.pair
        let (id, s1) := match old with
          | some p => (p.id, s)
          | none => s.fresh
        let pair : DualPair := ⟨id, q.r, q.lid, none, none, (match old with | some p => p.retries | none => 0), 0, 0, none, none, 0, 0⟩
        let s2 := [0, 1].foldl (fun t d => t.modDie d fun dd => { dd with pairs := dd.pairs.filter fun p => p.id != id }) s1
        let s3 := s2.modDie (coreDie k) fun d => { d with pairs := d.pairs ++ [pair] }
        let s4 := s3.modCore k fun kc =>
          { kc with deque := kc.deque.set i { q with dual := some ⟨id, true⟩, needsPair := false } }
        let copy := queuedRec s4 c { q.r with w0 := q.r.w0 ||| flag true 4 } q.acq (some ⟨id, false⟩) q.lid none q.ident
        .next (enqueueRec c copy false s4)

/-! ### The pairing stop (R365) -/

/-- Run an instruction that sends a packet, in the executing context. -/
def runPacket (i : Instr) (s : State) : Out :=
  match i with
  | .spawn h f => execSpawn h f s
  | .fork h f => execFork h f s
  | .join h f => execJoin h f s
  | .exit h f => execExit h f s
  | .ld h f => execLd h f s
  | .st h f => execSt h f s
  | .ldf h f => execLdf h f s
  | .ldff h f => execLdff h f s
  | .ste h f => execSte h f s
  | .stf h f => execStf h f s
  | .tagr h f => execTagr h f s
  | .tagw h f => execTagw h f s
  | .waita h f => execWaita h f s
  | .acq h f => execAcq h f s
  | .rel h f => execRel h f s
  | .bind h f => execBind h f s
  | .unbind h f => execUnbind h f s
  | .aadd h f => execAadd h f s
  | .afadd h f => execAfadd h f s
  | .amin h f => execAmin h f s
  | .amax h f => execAmax h f s
  | .aand h f => execAand h f s
  | .aor h f => execAor h f s
  | .axor h f => execAxor h f s
  | .aswp h f => execAswp h f s
  | .acas h f => execAcas h f s
  | .cflush h f => execCflush h f s
  | .cinv h f => execCinv h f s
  | .nsend h f => execNsend h f s
  | .vld h f => execVld h f s
  | .vst h f => execVst h f s
  | .tcfg h f => execTcfg h f s
  | .kclm h f => execKclm h f s
  | .krel h f => execKrel h f s
  | .kld h f => execKld h f s
  | .ald h f => execAld h f s
  | .ast h f => execAst h f s
  | .azero h f => execAzero h f s
  | .mma h f => execMma h f s
  | .mmas h f => execMmas h f s
  | .asca h f => execAsca h f s
  | .acvt h f => execAcvt h f s
  | .spld h f => execSpld h f s
  | .spst h f => execSpst h f s
  | .spshp h f => execSpshp h f s
  | .spup h f => execSpup h f s
  | .spdn h f => execSpdn h f s
  | .spmode h f => execSpmode h f s
  | .spnorm h f => execSpnorm h f s
  | .wvcfg h f => execWvcfg h f s
  | .wvarm h f => execWvarm h f s
  | .wvflsh h f => execWvflsh h f s
  | .wvstat h f => execWvstat h f s
  | .rqset h f => execRqset h f s
  | .rqray h f => execRqray h f s
  | .rqnear h f => execRqnear h f s
  | .evnext h f => execEvnext h f s
  | .gnode h f => execGnode h f s
  | .gdone h f => execGdone h f s
  | .grange h f => execGrange h f s
  | .mfsr h f => execMfsr h f s
  | .bari h f => execBari h f s
  | .bara h f => execBara h f s
  | .bard h f => execBard h f s
  | .barw h f => execBarw h f s
  | .sqtab h f => execSqtab h f s
  | .sqgo h f => execSqgo h f s
  | .sqstop h f => execSqstop h f s
  | _ => .next s

/-- The instruction that a context waits with at the pairing stop. -/
def pairInstr (s : State) (x : Nat) : Option Instr :=
  match (s.ctx x).wait? with
  | some w => if w.kind = .pairing then some w.instr else none
  | none => none

/-- Has an instruction completed, or only the reply of its request to wait for. -/
def packetSent (c : Ctx) : Bool :=
  match c.run with
  | .free | .ready | .stopped | .parked _ none => true
  | .waiting w => w.kind == .tagged || w.kind == .reply || w.kind == .waita || w.kind == .join || w.kind == .barw
  | _ => false

/-- The entries of a table that an instruction has changed. -/
def changedIn {α : Type} [DecidableEq α] (a b : SMap α) : SMap α := b.filter fun e => a.get? e.1 != some e.2

/-- What the primary's instruction has given the primary, given to the secondary: the reply goes to both copies (R365). -/
def mirror (before after sec : Ctx) : Ctx :=
  { sec with
    run := after.run
    pc := after.pc
    stack := (changedIn before.stack after.stack).foldl (fun m e => m.put e.1 e.2) sec.stack
    v := (changedIn before.v after.v).foldl (fun m e => m.put e.1 e.2) sec.v
    p := (changedIn before.p after.p).foldl (fun m e => m.put e.1 e.2) sec.p
    vz := after.vz
    vl := after.vl
    loopcnt := after.loopcnt
    lbody := after.lbody
    outstanding := sec.outstanding ++ after.outstanding.filter fun r => !(before.outstanding.any fun e => e.id == r.id)
    deferred := sec.deferred ++ after.deferred.filter fun r => !(before.deferred.contains r)
    deferArmed := after.deferArmed
    mstat := after.mstat
    spstat := after.spstat
    rqstat := after.rqstat
    xopen := after.xopen
    gerr := after.gerr
    grsn := after.grsn }

/-- The inline child of a SPAWN or FORK, in the secondary as in the primary (R18). -/
def inlineSecond (y : Nat) (i : Instr) (s : State) : State :=
  let f := i.fields
  let c := s.ctx y
  settle y c.pc i.hdr (inlineChild y i f (bTarget c.pc f) s)

/-- A secondary copy ends: the completions of its pair's commands and transfers go to the primary (R365). -/
def endSecond (y : Nat) (s : State) : State :=
  let still := fun (e : EngStat) => { e with unf := 0 }
  endThread y (s.modCtx y fun c => { c with mstat := still c.mstat, spstat := still c.spstat, rqstat := still c.rqstat })

/-- The packet of both copies goes out once: the primary's instruction is performed, and the secondary is given its outcome. -/
def sendPacket (d : Nat) (p : DualPair) (x y : Nat) (i : Instr) (s : State) : State :=
  let before := s.ctx x
  let due := before.deferred.any fun q => !q.taken
  let s0 := s.modDie d fun dd => { dd with pairs := dd.pairs.map fun q => if q.id = p.id then p else q }
  if due then
    [x, y].foldl (fun t z => t.modCtx z fun c => { c with run := .ready, deferArmed := true }) s0
  else
    match runPacket i { s0.setCtx x { before with run := .parked false (some i) } with cur := x } with
    | .next t =>
      let after := t.ctx x
      if !(packetSent after) then s
      else if after.run = .free then
        endSecond y (t.modDie d fun dd => { dd with pairs := dd.pairs.filter fun q => q.id != p.id })
      else if after.run = .stopped then
        takeTrap y ⟨after.cause.toNat, some after.epc, after.fpc, some after.faddr, after.finfo⟩ (t.modCtx y fun c => { c with run := .ready })
      else if after.wf ≠ before.wf then
        (match i with
        | .exit h f =>
          match execExit h f { t.modCtx y (fun c => { c with run := .parked false (some i) }) with cur := y } with
          | .next u => u
          | _ => t
        | _ => inlineSecond y i t)
      else t.modCtx y fun c => mirror before after c
    | _ => s

/-- PAIRING_COMPARE (R365): the n-th packets of both copies of a pair are there; with equal hashes the primary's goes out. -/
def execPairingCompare (d id : Nat) (s : State) : Out :=
  match (s.die d).pairs.find? (fun p => p.id == id) with
  | none => .next s
  | some p =>
    match p.prim, p.sec, p.pk0, p.pk1 with
    | some x, some y, some a, some b =>
      match pairInstr s x, pairInstr s y with
      | some i, some _ =>
        let h0 := Config.pairHash p.h0 a
        let h1 := Config.pairHash p.h1 b
        if h0 = h1 then .next (sendPacket d { p with h0 := h0, h1 := h1, pk0 := none, pk1 := none } x y i s) else .next s
      | _, _ => .next s
    | _, _, _, _ => .next s

/-! ### Mismatches (R366) -/

/-- Is a role one in pair `id`. -/
def inPair (id : Nat) (r : Option DualRole) : Bool :=
  match r with
  | some p => p.pair == id
  | none => false

/-- Does a core hold a copy of a pair that no context runs: queued, or held in memory. -/
def Core.holdsCopy (c : Core) (id : Nat) : Bool := (c.deque.any fun q => inPair id q.dual) || c.heldList.any fun h => inPair id h.dual

/-- The queued and the held copies of a pair leave their cores; a held one's area pair goes to the core's spare list (R487). -/
def Core.dropCopy (c : Core) (id : Nat) : Core :=
  { c with
    deque := c.deque.filter fun q => !(inPair id q.dual)
    heldList := c.heldList.filter fun h => !(inPair id h.dual)
    spare := c.spare ++ (c.heldList.filter fun h => inPair id h.dual).map (·.pair) }

/-- End both copies of a pair as by `rte.drop`, in contexts, held in memory and in deques. The packet of the record does not end (R366, R468). -/
def dropCopies (id : Nat) (s : State) : State :=
  let s1 := (s.ctxs.filter fun e => inPair id e.2.dual).foldl (fun t e =>
    let u := t.modCtx e.1 fun c => { c with pkt := none }
    if (t.core (coreOf e.1)).killed then u.modCtx e.1 fun c => { c with run := .free, dual := none }
    else if e.2.dual = some ⟨id, true⟩ then endThread e.1 u else endSecond e.1 u) s
  { s1 with cores := s1.cores.map fun e => (e.1, e.2.dropCopy id) }

/-- What the primary copy of a pair has beyond its record: its core, its PID and energy context, its packet and the acquire still to make. -/
structure CopyWork where
  core : Option Nat
  ident : Option (Nat × Nat)
  pkt : Option (Nat × Nat)
  acq : Nat

/-- The primary copy of a pair, in a context, held in memory or queued. -/
def primaryWork (s : State) (id : Nat) : CopyWork :=
  let role : Option DualRole := some ⟨id, true⟩
  match s.ctxs.find? (fun e => e.2.dual == role) with
  | some e => ⟨some (coreOf e.1), some (e.2.pid, e.2.ectx), e.2.pkt, e.2.acq⟩
  | none =>
    match s.cores.findSome? (fun e => (e.2.heldList.find? fun h => h.dual == role).map fun h => (e.1, h)) with
    | some (k, h) => ⟨some k, some (h.pid, h.ectx), h.pkt, h.thread.acq⟩
    | none => match s.cores.findSome? (fun e => (e.2.deque.find? fun q => q.dual == role).map fun q => (e.1, q)) with
      | some (k, q) => ⟨some k, q.ident, q.pkt, q.acq⟩
      | none => ⟨none, none, none, 0⟩

/-- Is the core of a copy of a pair killed. -/
def pairKilled (s : State) (id : Nat) : Bool :=
  (s.ctxs.any fun e => inPair id e.2.dual && (s.core (coreOf e.1)).killed) || s.cores.any fun e => e.2.killed && e.2.holdsCopy id

/-- Has a pair a mismatch: unequal hashes, a packet that the other copy has not sent for 100 µs, or a killed core. -/
def mismatched (s : State) (p : DualPair) : Bool :=
  pairKilled s p.id || (match p.pk0, p.pk1 with
    | some a, some b => Config.pairHash p.h0 a != Config.pairHash p.h1 b
    | some _, none => decide (p.at0 + 100000 ≤ s.pkg.time)
    | none, some _ => decide (p.at1 + 100000 ≤ s.pkg.time)
    | none, none => false)

/-- The running hashes with the packets that wait. -/
def DualPair.hashes (p : DualPair) : Word × Word :=
  ((match p.pk0 with | some a => Config.pairHash p.h0 a | none => p.h0), match p.pk1 with | some b => Config.pairHash p.h1 b | none => p.h1)

/-- An error record of a pair at the primary's core. -/
def pairError (s : State) (k rank typ : Nat) (syn : Word) : State :=
  let (det, s1) := s.free
  postError (coreDie k) (coreBank s1 k) ⟨rank, typ, false, false, false, false, 0, syn, errSource s1 k 0 none, det⟩ s1

/-- DUAL_MISMATCH (R366): both copies end; the record is placed again as a new pair, at most twice, and then the task has failed. -/
def execDualMismatch (d id : Nat) (s : State) : Out :=
  match (s.die d).pairs.find? (fun p => p.id == id) with
  | none => .next s
  | some p =>
    if mismatched s p = false then .next s
    else
      let w := primaryWork s id
      let k := w.core.getD (serviceCore d)
      let syn := p.hashes.1 ^^^ p.hashes.2
      let s1 := dropCopies id s
      if p.retries < 2 then
        let s2 := pairError s1 k 2 0x0B syn
        let s3 := s2.modDie d fun dd => { dd with pairs := dd.pairs.map fun q =>
          if q.id = id then { q with prim := none, sec := none, retries := q.retries + 1, h0 := 0, h1 := 0, pk0 := none, pk1 := none } else q }
        let m : RecMsg := ⟨p.r, none, p.lid, w.ident, (k, false), w.acq, 0, false, some ⟨id, true⟩, false, false, w.pkt⟩
        .next { s3 with recs := s3.recs ++ [m] }
      else
        .next (launchOver p.lid <| packetEnd w.pkt (pairError (s1.modDie d fun dd => { dd with pairs := dd.pairs.filter fun q => q.id != id }) k 3 0x0C syn))

end Sys2Proof.Machine
end

