-- ==== Sys2Proof/Machine/Preempt.lean ====
section
/-! DEFINITION. Pre-emption: the request at a core, and the operations of LCTL: pre-empt, resume and end (R224 to R226, R285, R313, R366, R384,
R419, R470, R486). -/

namespace Sys2Proof.Machine

/-! ### The request (R224) -/

/-- The user contexts of a core that hold a thread of a launch. -/
def lidCtxs (s : State) (k lid : Nat) : List Nat :=
  (userCtxs k).filter fun x => (s.ctx x).occupied && (s.ctx x).lid == some lid

/-- The copies of a pair end without a retry, and its record waits in the primary's deque to be placed anew (R366). -/
def endPair (k : Nat) (p : DualPair) (s : State) : State :=
  let w := primaryWork s p.id
  let home := w.core.getD k
  let s1 := dropCopies p.id s
  let s2 := [0, 1].foldl (fun t d => t.modDie d fun dd => { dd with pairs := dd.pairs.filter fun q => q.id != p.id }) s1
  enqueueRec home (queuedRec s2 home p.r w.acq none p.lid w.pkt w.ident) false s2

/-- The pairs of a launch that have a copy at a core, bound or queued. -/
def pairsAt (s : State) (k lid : Nat) : List DualPair :=
  ([0, 1].flatMap fun d => (s.die d).pairs).filter fun p =>
    p.lid == some lid && (((userCtxs k).any fun x => inPair p.id (s.ctx x).dual) || (s.core k).holdsCopy p.id)

/-- The engines of a cluster stop at their next interrupt point (R285, R313). -/
def stopEngines (q : Nat) (s : State) : State :=
  s.modCluster q fun c =>
    { c with
      mxe := if c.mxe.stopped then c.mxe else if c.mxe.atPoint then { c.mxe with stopped := true } else { c.mxe with stopReq := true }
      spe := { c.spe with stopped := true }
      rqu := { c.rqu with stopped := true } }

/-- The ISQs of a die that are granted to a launch are asked to stop at a stage boundary (R419). -/
def stopIsqs (d lid : Nat) (s : State) : State :=
  (List.range 4).foldl (fun t n =>
    let q := isqOf t d n
    if q.granted = some lid ∧ (q.state = 1 ∨ q.state = 2) then setIsq d n { q with preReq := true } t else t) s

/-- PRE_EMPTION_REQUEST (R224): the broadcast for launch `lid` reaches core `k`. -/
def execPreEmptionRequest (k lid : Nat) (s : State) : Out :=
  if !(s.pkg.lctlCores.contains k) || s.pkg.lctlLid != lid || s.pkg.lctlOp != 1 then .next s
  else
    let s0 := s.modPkg fun p => { p with lctlCores := p.lctlCores.filter fun c => c != k }
    if (s.core k).killed then .next s0
    else
      let s1 := (pairsAt s0 k lid).foldl (fun t p => endPair k p t) (s0.modCore k fun c => { c with halted := true })
      let s2 := (lidCtxs s1 k lid).foldl (fun t x => t.modCtx x fun c => { c with pendPreempt := true }) s1
      .next (supPush k 2 lid (stopIsqs (coreDie k) lid (stopEngines (clusterOf k) s2)))

/-! ### LCTL (R470) -/

/-- A write of LCTL: ignored while an operation is in progress; ERR is W1C; OP 00 is ignored. -/
def lctlWrite (v : Word) (s : State) : State :=
  s.modPkg fun p =>
    if p.lctlBsy then p
    else
      let p1 := if bitAt v 62 then { p with lctlErr := false } else p
      if fld v 60 2 = 0 then p1
      else { p1 with lctlBsy := true, lctlOp := fld v 60 2, lctlLid := fld v 32 16, lctlCores := [], lctlSent := false }

/-- LCTL reads as (R470). -/
def Package.lctlWord (p : Package) : Word := flag p.lctlBsy 63 ||| flag p.lctlErr 62

/-- The operation in progress ends. -/
def lctlDone (err : Bool) (s : State) : State :=
  s.modPkg fun p => { p with lctlBsy := false, lctlErr := p.lctlErr || err, lctlCores := [], lctlSent := false }

/-- Change a launch. -/
def modLaunch (l : Launch) (g : Launch → Launch) (s : State) : State :=
  s.modPkg fun p => { p with launches := p.launches.map fun e => if e = l then g e else e }

/-- The launch that an operation of LCTL acts on: of several of the identifier, the one in a state that the operation takes. A launch packet may
have started another launch while one of its identifier is pre-empted (R470). -/
def lctlLaunch (s : State) : Option Launch :=
  let fits := fun (l : Launch) => l.lid == s.pkg.lctlLid && match s.pkg.lctlOp with
    | 1 => l.run == .running || l.run == .preempting
    | 2 => l.run == .preempted
    | _ => l.run != .ended
  (s.pkg.launches.find? fits).orElse fun _ => launchOf s s.pkg.lctlLid

/-- The cores of a launch that can run its work. -/
def Launch.liveCores (l : Launch) (s : State) : List Nat := l.cores.filter fun k => !(s.core k).killed

/-- The clusters of a launch. -/
def Launch.clusters (l : Launch) : List Nat := (List.range 192).filter fun q => l.covers (clusterCore q 0)

/-- Can no context of a launch at a core issue again: each is Stopped by its 0x0F. One that was Stopped before, or by the 0x0E of a droop (R36),
takes its 0x0F once Withy lets it go on. -/
def ctxsHalted (s : State) (k lid : Nat) : Bool :=
  (lidCtxs s k lid).all fun x => (s.ctx x).run == .stopped && !(s.ctx x).pendPreempt

/-- Has a core halted (R224): one that a droop has stopped counts as halted once the request is latched at its mesh stop. -/
def coreHalted (s : State) (k lid : Nat) : Bool := ((s.core k).droopAt.isSome && (s.core k).halted) || ctxsHalted s k lid

/-- May Withy save a halted core (R226, R285): it runs, its contexts are Stopped with their results written, and no completion reply is on its way to
them. -/
def coreSaveable (s : State) (k lid : Nat) : Bool :=
  (s.core k).droopAt.isNone && ctxsHalted s k lid
    && (lidCtxs s k lid).all fun x => resultsIn s x && !(s.replies.any fun r => r.x == x)

/-- Have the engines and the transfers of a cluster stopped (R252, R285, R313). -/
def clusterHalted (s : State) (q : Nat) : Bool :=
  let c := s.cluster q
  c.mxe.stopped && c.spe.stopped && c.rqu.stopped && c.xfers.isEmpty

/-- Has every core of the launch halted (R224, R225). -/
def launchHalted (s : State) (l : Launch) : Bool := s.pkg.lctlCores.isEmpty && (l.liveCores s).all fun k => coreHalted s k l.lid

/-- Has the whole launch stopped, so that what R470 asks for can be saved. -/
def launchSaveable (s : State) (l : Launch) : Bool :=
  launchHalted s l && (l.liveCores s).all (fun k => coreSaveable s k l.lid)
    && l.clusters.all (fun q => clusterHalted s q || clusterDark s q)
    && [0, 1].all (fun d => (List.range 4).all fun n => (isqOf s d n).granted != some l.lid || !((isqOf s d n).state == 1 || (isqOf s d n).state == 2))

/-! ### The save area (R486) -/

/-- The words of a context beside its image: `y.xsrc` to `y.gstat`, and three zero words. -/
def ctxExtra (s : State) (x : Nat) : List Word :=
  [32, 33, 34, 35, 36, 37, 38, 39, 41, 49, 64, 72, 86].map (fun n => (yRead x n true s).1) ++ [0, 0, 0]

/-- Where the region of the core at position `i` lies. -/
def Launch.region (l : Launch) (i : Nat) : Word := put (fld (l.word 15) 12 52) 12 52 + BitVec.ofNat 64 (0x400 + 8192 * i)

/-- The parts of a region: offset and words. -/
def regionParts (s : State) (k lid : Nat) : List (Nat × List Word) :=
  let c := s.core k
  let head := flag true 63 ||| put c.notices.length 16 4 ||| put c.deque.length 8 6 ||| put c.inbox.length 0 7
  [(0, head :: List.replicate 7 0), (0x40, c.inbox.flatMap fun e => [e.w0, e.w1]), (0x440, c.deque.flatMap fun q => q.r.words),
   (0xC40, c.notices.flatMap fun q => q.r.words),
   (0xE40, (userCtxs k).flatMap fun x => if (lidCtxs s k lid).contains x then ctxExtra s x else List.replicate 16 0),
   (0x11C0, List.replicate 456 0)]

/-- Context 7 of a core writes parts of a region. -/
def storeParts (k pid : Nat) (a : Word) : List (Nat × List Word) → State → Except AccErr State
  | [], s => .ok s
  | p :: rest, s =>
    match wordsStore s k (some (ctxKey k 7)) pid 0 (a + BitVec.ofNat 64 p.1) p.2 with
    | (.error (e, _), _) => .error e
    | (.ok _, s1) => storeParts k pid a rest s1

/-- Save the images of contexts, in order. -/
def saveAll : List Nat → State → Except AccErr State
  | [], s => .ok s
  | x :: rest, s =>
    match saveContext x (s.ctx x).epc s with
    | .error e => .error e
    | .ok s1 => saveAll rest s1

/-- The shipped Withy of a core saves its queued work and its contexts (R226, R486), and publishes what it saved at system scope (log
entry 16). -/
def saveCore (l : Launch) (i k : Nat) (s : State) : Except AccErr State :=
  let xs := lidCtxs s k l.lid
  match storeParts k l.pid (l.region i) (regionParts s k l.lid) s with
  | .error e => .error e
  | .ok s1 =>
    match saveAll xs s1 with
    | .error e => .error e
    | .ok s3 =>
      let s2 := releaseLines s3 k l.pid 4 none
      let c := s.core k
      let own := fun (m : CmdMsg) => xs.contains m.cmd.x
      let kept : CoreSave := ⟨k, l.lid, xs.map fun x => (s.ctx x).wsp, c.inbox, c.deque, c.notices, s.cmds.filter own⟩
      let s4 : State := { s2 with cmds := s2.cmds.filter fun m => !(own m) }
      .ok ((s4.modPkg fun p => { p with coreSaves := (p.coreSaves.filter fun e => e.core != k) ++ [kept] }).modCore k fun d =>
        { d with inbox := [], deque := [], notices := [] })

/-- Every core of a launch, with its position in row-major order, saves. -/
def saveCores (l : Launch) : List (Nat × Nat) → State → Except AccErr State
  | [], s => .ok s
  | (i, k) :: rest, s =>
    if (s.core k).killed then saveCores l rest s
    else match saveCore l i k s with
      | .error e => .error e
      | .ok s1 => saveCores l rest s1

/-- The cores of a launch with their positions (R487). -/
def Launch.places (l : Launch) : List (Nat × Nat) := (List.range l.cores.length).zip l.cores

/-- Does the queue service core of die 0, which serves LCTL, run (R470). -/
def lctlServed (s : State) : Bool := clockRuns s (serviceCore 0)

/-- The pre-emption goes on: the broadcast, or the save once everything has stopped. While a write of the save area fails, nothing is done. -/
def lctlPreemptStep (s : State) : State :=
  match lctlLaunch s with
  | none => lctlDone true s
  | some l =>
    if s.pkg.lctlSent = false then
      (if l.run = .running ∧ launchLive s l then
        modLaunch l (fun e => { e with run := .preempting }) (s.modPkg fun p => { p with lctlCores := l.cores, lctlSent := true })
      else lctlDone true s)
    else if launchSaveable s l then
      match saveCores l l.places s with
      | .error _ => s
      | .ok s1 => lctlDone false (modLaunch l (fun e => { e with run := .preempted }) s1)
    else s

/-- LCTL_PREEMPT (R470): a write of LCTL that asks for the pre-emption of a launch; while an operation is in progress the write is ignored, and a
pre-emption goes on. -/
def execLctlPreempt (lid : Nat) (s : State) : Out :=
  let s1 := lctlWrite (put 1 60 2 ||| put lid 32 16) s
  .next (if s1.pkg.lctlOp = 1 ∧ s1.pkg.lctlBsy ∧ lctlServed s1 then lctlPreemptStep s1 else s1)

/-! ### Resume (R226, R486) -/

/-- The queued item of a place of the arrival order, from the words of the save area, with what was kept aside of it. -/
def restoredRec (s : State) (k lid place : Nat) (old : Option Queued) (ws : List Word) : Queued :=
  let r := Rec.ofWords fun i => ws.getD i 0
  match old with
  | some q => { q with r := r, order := place }
  | none => { queuedRec s k r 0 none (some lid) none none with order := place }

/-- An event that returns to the inbox: its ARR is now. -/
def restoredEv (now : Nat) (old : Option Ev) (w0 w1 : Word) : Ev :=
  match old with
  | some e => { e with w0 := w0, w1 := w1, arr := now % 2 ^ 48 }
  | none => ⟨w0, w1, false, false, now % 2 ^ 48, none, 0, 0⟩

/-- Split words into groups of `n`. -/
def chunksOf (n : Nat) (ws : List Word) : Nat → List (List Word)
  | 0 => []
  | m + 1 => ws.take n :: chunksOf n (ws.drop n) m

/-- A context's words of R486 are written back with MTSR `.t`. -/
def restoreExtra (c : Ctx) (ws : List Word) : Ctx :=
  ([32, 33, 34, 35, 36, 37, 38, 39, 41, 49, 64, 72, 86].zip ws).foldl (fun d e => d.yPut e.1 e.2 .full) c

/-- Restore one image into the context it left, and resume the thread there. -/
def restoreImage (l : Launch) (k : Nat) (m : CtxImage) (extra : List Word) (s : State) : Except AccErr State :=
  let x := ctxKey k m.no
  match readImage { Ctx.reset with run := .stopped, pair := m.pair, wsp := m.wsp } k l.pid m.wsp s with
  | (.error (e, _), _) => .error e
  | (.ok c, s1) =>
    let d := restoreExtra { c with
      run := .stopped, made := m.made, lid := m.lid, pkt := m.pkt, chunks := m.chunks, acq := m.acq, pend := m.pend, deferred := m.deferred
      deferArmed := m.deferArmed, wrote := m.wrote, outstanding := m.owed } extra
    let s2 := (s1.setCtx x d).modPkg fun p => { p with ctxImages := p.ctxImages.filter fun e => !(e.core == k && e.wsp == m.wsp) }
    .ok (returnFromTrap x (redoStores x s2))

/-- Restore images in order; `extra` holds the words of the seven contexts. -/
def restoreImages (l : Launch) (k : Nat) (extra : List (List Word)) : List CtxImage → State → Except AccErr State
  | [], s => .ok s
  | m :: rest, s =>
    match restoreImage l k m (extra.getD m.no []) s with
    | .error e => .error e
    | .ok s1 => restoreImages l k extra rest s1

/-- The engines of a cluster go on (R285, R313). -/
def startEngines (q : Nat) (s : State) : State :=
  s.modCluster q fun c =>
    { c with
      mxe := { c.mxe with stopped := false, stopReq := false }
      spe := { c.spe with stopped := false }
      rqu := { c.rqu with stopped := false } }

/-- `y.mcap` of the cores of a launch: V where it asks for the matrix engines, its LID and KEY (R238, R469). -/
def Launch.mcap (l : Launch) : Word := if bitAt (l.word 2) 38 then flag true 63 ||| put (fld (l.word 14) 0 48) 0 48 else 0

/-- The shipped Withy of a core restores its queued work and its contexts, writes `y.mcap`, and clears V; then its wake unit binds again (R219, R226,
R238, R486). The restored records count as arrived before the others, in their saved order, those of the deque first; where others have arrived
meanwhile, the queues may hold more than their entries (log entry 78). -/
def resumeCore (l : Launch) (i k : Nat) (s : State) : Except AccErr State :=
  let a := l.region i
  match wordsLoad s k l.pid 0 a 568 with
  | (.error (e, _), _) => .error e
  | (.ok ws, s1) =>
    let head := ws.getD 0 0
    let old := (s1.pkg.coreSaves.find? fun e => e.core == k && e.lid == l.lid).getD ⟨k, l.lid, [], [], [], [], []⟩
    let valid := bitAt head 63
    let evs := (chunksOf 2 (ws.drop 8) (if valid then fld head 0 7 else 0))
    let recs := fun (at0 n first : Nat) (os : List Queued) =>
      let rows := chunksOf 8 (ws.drop at0) (if valid then n else 0)
      (List.range rows.length).map fun j => restoredRec s1 k l.lid (first + j) os[j]? (rows.getD j [])
    let later := fun (q : Queued) => { q with order := q.order + fld head 8 6 + fld head 16 4 }
    let s2 := (setHbase k (put (fld (l.word 15) 12 52) 12 52) s1).modCore k fun c =>
      { c with
        rfbuf := put (fld (l.word 15) 12 52) 12 52 + 0x100
        inbox := (List.range evs.length).map (fun j => restoredEv s.pkg.time old.events[j]? ((evs.getD j []).getD 0 0) ((evs.getD j []).getD 1 0)) ++ c.inbox
        deque := recs 136 (fld head 8 6) 0 old.deque ++ c.deque.map later
        notices := recs 392 (fld head 16 4) (fld head 8 6) old.notices ++ c.notices.map later
        arrivals := c.arrivals + fld head 8 6 + fld head 16 4
        mcap := l.mcap
        older := []
        halted := false }
    let extra := chunksOf 16 (ws.drop 456) 7
    match restoreImages l k extra (s2.pkg.ctxImages.filter fun m => m.core == k && old.wsps.contains m.wsp) s2 with
    | .error e => .error e
    | .ok s3 =>
      match wordStore s3 k (some (ctxKey k 7)) l.pid 0 a 8 (head &&& ~~~(flag true 63)).toNat with
      | (.error e, _) => .error e
      | (.ok _, s4) =>
        let s5 : State := { s4 with cmds := s4.cmds ++ old.cmds }
        .ok (s5.modPkg fun p => { p with coreSaves := p.coreSaves.filter fun e => !(e.core == k && e.lid == l.lid) })

/-- Every core of a launch resumes. -/
def resumeCores (l : Launch) : List (Nat × Nat) → State → Except AccErr State
  | [], s => .ok s
  | (i, k) :: rest, s =>
    if (s.core k).killed then resumeCores l rest s
    else match resumeCore l i k s with
      | .error e => .error e
      | .ok s1 => resumeCores l rest s1

/-- The ISQs of a launch go on from their stage boundaries (R419). -/
def startIsqs (lid : Nat) (s : State) : State :=
  [(0, 0), (0, 1), (0, 2), (0, 3), (1, 0), (1, 1), (1, 2), (1, 3)].foldl (fun t e =>
    let q := isqOf t e.1 e.2
    if q.granted = some lid ∧ q.preReq then
      setIsq e.1 e.2 { q with preReq := false, state := if q.state = 4 then (if q.stopReq then 2 else 1) else q.state } t
    else t) s

/-- A resumed launch is the occupant of its clusters again. On one that another launch has used meanwhile the shipped Withy had disabled the weaver's
channels, the L1s are empty, and the fusion is that of this launch (R237, R238, R325). -/
def reoccupy (l : Launch) (q : Nat) (s : State) : State :=
  let m := (s.cluster q).mxe
  if m.occV && m.occLid == l.lid && m.occKey == fld (l.word 14) 0 32 then s
  else
    let s1 := (List.range 8).foldl (fun t n => emptyL1 (clusterCore q n) t) s
    s1.modCluster q fun c =>
      { c with
        fused := bitAt (l.word 1) 4
        mxe := { c.mxe with occLid := l.lid, occKey := fld (l.word 14) 0 32, occV := true }
        wv := [] }

/-- LCTL_RESUME (R470): a write of LCTL that asks for the resumption of a pre-empted launch, and its work. -/
def execLctlResume (lid : Nat) (s : State) : Out :=
  let s1 := lctlWrite (put 2 60 2 ||| put lid 32 16) s
  if s1.pkg.lctlOp ≠ 2 ∨ s1.pkg.lctlBsy = false ∨ lctlServed s1 = false then .next s1
  else match lctlLaunch s1 with
    | none => .next (lctlDone true s1)
    | some l =>
      if l.run ≠ .preempted then .next (lctlDone true s1)
      else match resumeCores l l.places (l.clusters.foldl (fun t q => reoccupy l q t) s1) with
        | .error _ => .next s1
        | .ok s2 =>
          .next (lctlDone false (modLaunch l (fun e => { e with run := .running })
            (startIsqs l.lid (l.clusters.foldl (fun t q => startEngines q t) s2))))

/-! ### The end of a launch (R237, R470) -/

/-- Work of a launch at a core ends: threads as by `rte.drop`, queued records, held threads and events. -/
def endAtCore (lid k : Nat) (s : State) : State :=
  let s1 := (lidCtxs s k lid).foldl (fun t x => if (t.ctx x).dual.any fun r => !r.primary then endSecond x t else endThread x t) s
  let c := s1.core k
  let evs := c.inbox ++ c.heldList.filterMap fun h => h.made.event?
  let s2 := evs.foldl (fun t e => markHandled k e t) (packetsEnd (c.deque.map (·.pkt) ++ c.notices.map (·.pkt) ++ c.heldList.map (·.pkt)) s1)
  (emptyL1 k (droopOver k (c.heldList.foldl (fun t h => endHeld h t) s2))).modCore k fun d =>
    { d with inbox := [], deque := [], notices := [], heldList := [], spare := d.spare ++ c.heldList.map (·.pair), lid := none, mcap := 0,
             halted := false, hcache := [] }

/-- Everything of a launch that is not at a core: records and migrations on their way, images and saved queues, pairs, nodes, ISQs and engine
capabilities; the weaver's channels are disabled (R325). A cluster's fusion stays until the next launch starts (log entry 77). -/
def endElsewhere (l : Launch) (s : State) : State :=
  let mine := fun (o : Option Nat) => o == some l.lid
  let images := s.pkg.ctxImages.filter fun m => mine m.lid
  let saves := s.pkg.coreSaves.filter fun m => m.lid == l.lid
  let lost := ((s.recs.filter fun m => mine m.lid).map fun m => m.pkt) ++ (images.map fun m => m.pkt)
    ++ saves.flatMap fun m => (m.deque ++ m.notices).map fun q => q.pkt
  let evs := (images.filterMap fun m => m.made.event?.map fun e => (m.core, e)) ++ saves.flatMap fun m => m.events.map fun e => (m.core, e)
  let s1 := evs.foldl (fun t e => markHandled e.1 e.2 t) (packetsEnd lost s)
  let s2 : State :=
    { s1 with
      recs := s1.recs.filter fun m => !(mine m.lid)
      migs := s1.migs.filter fun m => !(mine m.ctx.lid)
      pkg := { s1.pkg with
        ctxImages := s1.pkg.ctxImages.filter fun m => !(mine m.lid)
        coreSaves := s1.pkg.coreSaves.filter fun m => m.lid != l.lid } }
  let s3 := [0, 1].foldl (fun t d =>
    let t1 := ((t.die d).pool.filter fun e => mine e.2.lid).foldl (fun u e => dropNode d e.1 u) t
    t1.modDie d fun dd =>
      { dd with
        pairs := dd.pairs.filter fun p => !(mine p.lid)
        isqs := dd.isqs.filter fun e => !(mine e.2.granted) }) s2
  l.clusters.foldl (fun t q => startEngines q (t.modCluster q fun c => { c with mxe := { c.mxe with occV := false }, wv := [] })) s3

/-- LCTL_END (R470): a write of LCTL that ends a launch: every thread ends and its resources are free. -/
def execLctlEnd (lid : Nat) (s : State) : Out :=
  let s1 := lctlWrite (put 3 60 2 ||| put lid 32 16) s
  if s1.pkg.lctlOp ≠ 3 ∨ s1.pkg.lctlBsy = false ∨ lctlServed s1 = false then .next s1
  else match lctlLaunch s1 with
    | none => .next (lctlDone true s1)
    | some l =>
      if l.run = .ended then .next (lctlDone true s1)
      else
        let s2 := endElsewhere l (l.cores.foldl (fun t k => endAtCore l.lid k t) s1)
        .next (lctlDone false (modLaunch l (fun e => { e with run := .ended }) s2))

end Sys2Proof.Machine
end

