-- ==== Sys2Proof/Machine/Queue.lean ====
section
/-! DEFINITION. User-mode queues: notification, the queue service, the packets of each type, their completion, and collectives (R60, R463 to
R469, R475 to R478). -/

namespace Sys2Proof.Machine

/-! ### A queue (R465) -/

/-- What the device keeps of queue `n`. -/
def queueOf (s : State) (n : Nat) : Queue := s.pkg.queues.getD n Queue.reset

/-- Change what the device keeps of a queue. -/
def modQueue (n : Nat) (g : Queue → Queue) (s : State) : State :=
  s.modPkg fun p => { p with queues := p.queues.put n (g (p.queues.getD n Queue.reset)) }

/-- Fields of a queue's descriptor: EN, DIE, LSZ, PID, RDIX. -/
def queueEn (s : State) (n : Nat) : Bool := bitAt (queueWord s n 0) 63
def queueDie (s : State) (n : Nat) : Nat := fld (queueWord s n 0) 49 1
def queueLsz (s : State) (n : Nat) : Nat := fld (queueWord s n 0) 40 4
def queuePid (s : State) (n : Nat) : Nat := fld (queueWord s n 0) 16 12
def queueRdix (s : State) (n : Nat) : Nat := (queueWord s n 2).toNat

/-- Entries of a queue's ring. -/
def queueSize (s : State) (n : Nat) : Nat := 2 ^ (queueLsz s n + 4)

/-- The address of the ring entry of a packet. -/
def queueEntry (s : State) (n idx : Nat) : Word :=
  put (fld (queueWord s n 1) 6 48) 6 48 + BitVec.ofNat 64 (64 * (idx % queueSize s n))

/-- Can the queue service of a die run: its core's Withy does. -/
def serviceRuns (s : State) (d : Nat) : Bool := clockRuns s (serviceCore d) && !(fencedFrom s d (homeDie (fld s.pkg.qtab 14 24 * 16384)))

/-- A queue error (R466, R468): EV, ECODE and EIDX are written, EN is cleared but for code 6, and the queue's vector is sent. A packet whose threads
have been offered is still consumed. -/
def queueError (n code idx : Nat) (s : State) : State :=
  let s1 := homeWrite s (queueAddr s n 3) 8 (flag true 63 ||| put code 48 8 ||| put idx 0 48).toNat
  let s2 := if code = 6 then s1
    else modQueue n (fun q => { q with cur := if q.offered then q.cur else none, vSince := none }) (homeWrite s1 (queueAddr s n 0) 8 (queueWord s n 0 &&& ~~~(flag true 63)).toNat)
  sendVector (queueVec s n) s2

/-- A write of a notify register (R465). -/
def notifyQueue (n : Nat) (v : Word) (s : State) : State :=
  supPush (serviceCore (queueDie s n)) 6 (0x2000 ||| n) (modQueue n (fun q => { q with wrix := v, notified := true }) s)

/-- NOTIFY_WRITE (R465). -/
def execNotifyWrite (n : Nat) (v : BitVec 64) (s : State) : Out := .next (if n < 256 then notifyQueue n v s else s)

/-! ### The queue service (R466, R467) -/

/-- Are the fields of a packet in range (R467, R468). -/
def packetOk (ws : List Word) : Bool :=
  let w := fun i => ws.getD i 0
  let typ := fld (w 0) 0 4
  let asc := fld (w 0) 58 3
  let rsc := fld (w 0) 55 3
  typ < 8 && fld (w 0) 4 51 == 0 && (asc == 0 || (3 ≤ asc && asc ≤ 5)) && (rsc == 4 || rsc == 5) && fld (w 6) 54 10 == 0 && fld (w 6) 0 3 == 0
    && (match typ with
      | 3 => fld (w 3) 0 3 == 0 && fld (w 4) 2 62 == 0
      | 5 => fld (w 4) 1 63 == 0
      | 6 => decide ((w 3).toNat ≤ 2)
      | 7 => 2 ≤ fld (w 2) 32 2 && fld (w 2) 34 30 == 0 && fld (w 2) 10 22 == 0
      | _ => true)

/-- Read the packet at RDIX, the header first; a packet with V = 0 is looked at again (R466). -/
def readPacket (n : Nat) (s : State) : State :=
  let d := queueDie s n
  let k := serviceCore d
  let idx := queueRdix s n
  let a := queueEntry s n idx
  match unitLoad s d k (queuePid s n) a 8 with
  | (.error .held, _) => s
  | (.error _, s1) => queueError n 4 idx s1
  | (.ok h, s1) =>
    if natBits h 63 1 = 0 then
      modQueue n (fun q => { q with vSince := some (q.vSince.getD s.pkg.time), vLast := s.pkg.time }) s1
    else match unitWords s1 d k (queuePid s n) a 8 with
      | (.error .held, _) => s
      | (.error _, s2) => queueError n 4 idx s2
      | (.ok ws, s2) =>
        if packetOk ws then modQueue n (fun q => { q with cur := some ws, vSince := none }) s2 else queueError n 2 idx s2

/-- Does the descriptor of a queue read without an error response (R465, R468). -/
def queueReadable (s : State) (n : Nat) : Bool :=
  match homeRead s (queueDie s n) (queueAddr s n 0) 64 with
  | .ok _ => true
  | .error _ => false

/-- QUEUE_SERVICE (R466): the next packet of notified queue `n` is read and checked; a descriptor that cannot be read is queue error 4. -/
def execQueueService (n : Nat) (s : State) : Out :=
  let q := queueOf s n
  if q.notified && serviceRuns s (queueDie s n) && !(queueReadable s n) then
    .next (modQueue n (fun e => { e with notified := false }) (queueError n 4 (queueRdix s n) s))
  else
  if !q.notified || !(queueEn s n) || !(serviceRuns s (queueDie s n)) || q.cur.isSome || q.vSince.isSome then .next s
  else if 12 < queueLsz s n then .next (queueError n 2 (queueRdix s n) s)
  else if queueSize s n < (q.wrix - BitVec.ofNat 64 (queueRdix s n)).toNat then .next (queueError n 1 (queueRdix s n) s)
  else if q.wrix.toNat = queueRdix s n then .next s
  else .next (readPacket n s)

/-- PACKET_VALID_POLL (R466): a packet with V = 0 is read again after 1 µs; after 100 µs that is queue error 3. -/
def execPacketValidPoll (n : Nat) (s : State) : Out :=
  let q := queueOf s n
  match q.vSince with
  | none => .next s
  | some t0 =>
    if !(queueEn s n) || !(serviceRuns s (queueDie s n)) || decide (s.pkg.time < q.vLast + 1000) then .next s
    else
      let s1 := readPacket n s
      if (queueOf s1 n).vSince.isSome ∧ t0 + 100000 ≤ s.pkg.time then .next (queueError n 3 (queueRdix s n) s1) else .next s1

/-! ### Dispatch (R466 to R468) -/

/-- The packet of a type that may be dispatched: with B every earlier packet has completed, and no wait packet is unresolved. -/
def dispatchable (s : State) (n typ : Nat) : Option (List Word) :=
  let q := queueOf s n
  match q.cur with
  | none => none
  | some ws =>
    let w := ws.getD 0 0
    if fld w 0 4 = typ ∧ q.offered = false ∧ q.hold.isNone ∧ (bitAt w 62 = false ∨ q.inflight.isEmpty) ∧ queueEn s n ∧ serviceRuns s (queueDie s n) then some ws else none

/-- A packet's threads have been offered: it is in flight, and its entry and RDIX are written in a later step, with which their running is not
ordered (R466, R484, R485). -/
def offered (n : Nat) (ws : List Word) (left : Nat) (s : State) : State :=
  modQueue n (fun q => { q with offered := true, inflight := q.inflight ++ [⟨queueRdix s n, ws, left, false, true⟩] }) s

/-- Have the threads of a packet of a type been offered. -/
def wasOffered (s : State) (n typ : Nat) : Bool :=
  (queueOf s n).offered && (queueOf s n).cur.any fun ws => fld (ws.getD 0 0) 0 4 == typ

/-- A packet whose threads have been offered is consumed: word 0 of its entry becomes 0, and RDIX goes on and is written (R466). -/
def consumed (n : Nat) (s : State) : State :=
  let d := queueDie s n
  let idx := queueRdix s n
  let past := modQueue n fun q => { q with cur := none, offered := false }
  if serviceRuns s d = false then s
  else match unitStore s d (serviceCore d) (queuePid s n) (queueEntry s n idx) 8 0 with
    | (.error .held, _) => s
    | (.error _, s1) => queueError n 4 idx (past s1)
    | (.ok _, s1) => past (homeWrite s1 (queueAddr s n 2) 8 ((idx + 1) % 2 ^ 64))

/-- A packet has been dispatched: word 0 of its entry becomes 0, RDIX goes on and is written, and the packet is in flight (R466). -/
def dispatched (n : Nat) (ws : List Word) (left : Nat) (own done : Bool) (s : State) : State :=
  let d := queueDie s n
  let idx := queueRdix s n
  match unitStore s d (serviceCore d) (queuePid s n) (queueEntry s n idx) 8 0 with
  | (.error _, s1) => queueError n 4 idx s1
  | (.ok _, s1) =>
    modQueue n (fun q => { q with cur := none, inflight := q.inflight ++ [⟨idx, ws, left, own, done⟩] })
      (homeWrite s1 (queueAddr s n 2) 8 ((idx + 1) % 2 ^ 64))

/-- NOP_PACKET (R468): it completes at dispatch. -/
def execNopPacket (n : Nat) (s : State) : Out :=
  match dispatchable s n 0 with
  | none => .next s
  | some ws => .next (dispatched n ws 0 true true s)

/-- Word 6 of the records that a packet generates: its signal and RSC, or what the descriptor holds (R468). -/
def packetComp (ws : List Word) (own : Word) : Word :=
  let sig := ws.getD 6 0
  if sig = 0 then own else sig ||| put (fld (ws.getD 0 0) 55 3) 0 3

/-- ASC of a packet (R467). -/
def packetAsc (ws : List Word) : Nat := fld (ws.getD 0 0) 58 3

/-! ### Launch packets (R60, R468, R469) -/

/-- Fields of a launch descriptor's rectangle and counts (R469). -/
def Launch.threads (l : Launch) : Nat := fld (l.word 2) 0 16
def Launch.spill (l : Launch) : Nat := fld (l.word 12) 32 32
def Launch.stack (l : Launch) : Nat := fld (l.word 12) 0 32
def Launch.saveArea (l : Launch) : Word := l.word 15

/-- Are the reserved bits of a launch descriptor zero (R469). -/
def Launch.reservedZero (l : Launch) : Bool :=
  l.word 1 &&& ~~~(put 3 40 2 ||| put 15 32 4 ||| put 15 24 4 ||| put 7 16 3 ||| put 15 8 4 ||| put 1 4 1) == 0
    && fld (l.word 2) 41 23 == 0
    && l.word 3 &&& ~~~(put 15 0 4 ||| put 15 8 4 ||| put 63 16 6 ||| put 511 32 9 ||| put 255 48 8) == 0
    && fld (l.word 13) 54 10 == 0 && fld (l.word 14) 48 16 == 0

/-- The checks of R60 and R469 that look at the descriptor alone. -/
def Launch.shapeOk (l : Launch) : Bool :=
  let w := l.word 1
  let rows := fld w 24 4
  let cols := fld w 8 4
  fld w 40 2 != 3 && 1 ≤ rows && 1 ≤ cols && fld w 32 4 + rows ≤ 12 && fld w 16 3 + cols ≤ 8 && 1 ≤ l.threads
    && l.threads ≤ 7 * l.cores.length && l.reservedZero && l.spill % 64 == 0 && l.stack % 64 == 0 && 2752 ≤ l.spill
    && fld l.saveArea 0 12 == 0

/-- The ISQs of a launch's grant mask: die and number (R396). -/
def Launch.isqs (l : Launch) : List (Nat × Nat) :=
  ((List.range 8).filter fun b => bitAt (l.word 3) (48 + b)).map fun b => (b / 4, b % 4)

/-- Has the launch of an identifier ended. -/
def lidEnded (s : State) (lid : Nat) : Bool :=
  match launchOf s lid with
  | none => true
  | some l => !(launchLive s l)

/-- May a launch start (R60): it overlaps no launch that has not ended, holds no offline core, and names no ISQ that is taken. -/
def launchOk (s : State) (l : Launch) : Bool :=
  l.shapeOk && l.cores.all (fun k => coreOnline s k)
    && s.pkg.launches.all (fun m => !(launchLive s m) || l.clusters.all fun q => !(m.covers (clusterCore q 0)))
    && l.isqs.all (fun e => match (isqOf s e.1 e.2).granted with | none => true | some g => lidEnded s g)

/-- The number of a core's stealing domain (R60): domains tile the rectangle from its origin, and those of die 1 follow those of die 0.
Domain rows or columns of 0 are all of the rectangle's (log entry 28). -/
def Launch.domainOf (l : Launch) (k : Nat) : Nat :=
  let w := l.word 1
  let rows := fld w 24 4
  let cols := fld w 8 4
  let dr := if fld (l.word 3) 0 4 = 0 then rows else fld (l.word 3) 0 4
  let dc := if fld (l.word 3) 8 4 = 0 then cols else fld (l.word 3) 8 4
  let perRow := ceilDiv cols dc
  let perDie := perRow * ceilDiv rows dr
  (if fld w 40 2 = 2 then coreDie k * perDie else 0) + (coreRow k / 2 - fld w 32 4) / dr * perRow + (coreCol k / 4 - fld w 16 3) / dc

/-- The shipped Withy of a core prepares a launch (R161, R204, R219, R221, R238, R487): its registers, its area pairs from the block's address,
and a scratchpad that holds what the launch image's `.region` declarations give, all resident. -/
def prepareCore (l : Launch) (block : Nat) (regions : List (Nat × Nat × Nat × Bool)) (i k : Nat) (s : State) : State :=
  let mine := regions.filter fun e => e.1 == i
  let s1 := (emptyL1 k s).modCore k fun c =>
    { c with
      lid := some l.lid
      dom := l.domainOf k % 256
      levelInt := fld (l.word 3) 16 6
      levelEn := true
      levelAt := s.pkg.time
      rfbuf := l.saveArea + 0x100
      mcap := l.mcap
      halted := false
      older := []
      spad := mine.foldl (fun m e => m.putD (e.2.1 % 32768) 0 (BitVec.ofNat 64 e.2.2.1)) []
      tags := mine.foldl (fun m e => m.putD (e.2.1 % 32768) false e.2.2.2) []
      resid := [] }
  let s2 := ySharedPut k 87 (put l.spill 32 32 ||| put l.stack 0 32) (setHbase k l.saveArea s1)
  setPairs k (BitVec.ofNat 64 (block + 15 * (l.spill + l.stack) * i)) s2

/-- Replies for the commands that an engine discards at the start of a launch (R269); they carry status 0 (log entry 81). -/
def discardCmds (q : Nat) (s : State) : State :=
  let c := s.cluster q
  let reply := fun (u : UnitKind) (t : State) (e : EngCmd) => endCmd u q e 0 none t
  c.rqu.queue.foldl (reply .rqu) (c.spe.queue.foldl (reply .spe) ((c.mxe.cur.toList ++ c.mxe.queue).foldl (reply .mxe) s))

/-- The shipped Withy prepares a cluster (R237, R238, R256, R263, R292, R325, R326): the engines are in their launch-start state, the occupant is
recorded, every barrier is inactive, and no channel of the weaver is enabled. -/
def prepareCluster (l : Launch) (q : Nat) (s : State) : State :=
  (discardCmds q s).modCluster q fun c =>
    { c with
      fused := bitAt (l.word 1) 4
      mxe := { c.mxe.launchStart with occLid := l.lid, occKey := fld (l.word 14) 0 32, occV := true }
      spe := c.spe.launchStart
      rqu := { Rqu.reset with paused := c.rqu.paused }
      wv := []
      bars := []
      barMsgs := [] }

/-- The initial record of thread `i` (R60, R200, R469), on its way to core i mod cores. -/
def initialRec (l : Launch) (ws : List Word) (n idx d i seq : Nat) : RecMsg :=
  let k := (l.cores.getD (i % l.cores.length) 0)
  let arg := fun j => l.word (4 + j) + BitVec.ofNat 64 i * l.word (8 + j)
  let r : Rec :=
    { w0 := put 2 0 4 ||| put (fld (l.word 2) 36 2) 8 2 ||| flag (bitAt (l.word 2) 39) 6
      w1 := l.word 0
      w2 := arg 0
      w3 := arg 1
      w4 := arg 2
      w5 := arg 3
      w6 := packetComp ws (l.word 13)
      w7 := (coreAddr k &&& ~~~(flag true 53)) ||| put seq 0 32 }
  ⟨r, none, some l.lid, none, (serviceCore d, false), packetAsc ws, 0, false, none, false, false, some (n, idx)⟩

/-- Start a launch: its cores and clusters are prepared, its ISQs granted, and its initial records offered. A pre-empted launch of the same
identifier stays (R470). -/
def startLaunch (l : Launch) (ws : List Word) (n idx block : Nat) (regions : List (Nat × Nat × Nat × Bool)) (s : State) : State :=
  let d := queueDie s n
  let s1 := l.places.foldl (fun t e => prepareCore l block regions e.1 e.2 t) s
  let s2 := l.clusters.foldl (fun t q => prepareCluster l q t) s1
  let s3 := l.isqs.foldl (fun t e => setIsq e.1 e.2 { Isq.reset with granted := some l.lid, state := 0 } t) s2
  let s4 := s3.modPkg fun p => { p with launches := l :: p.launches.filter fun m => m.lid != l.lid || m.run == .preempted }
  (List.range l.threads).foldl (fun t i =>
    let (seq, t1) := nextSeq (serviceCore d) t
    { t1 with recs := t1.recs ++ [initialRec l ws n idx d i seq] }) s4

/-- LAUNCH_PACKET (R466, R468, R469): the descriptor is read and checked, and the launch starts; then the packet is consumed, as a step of its own.
The contents of `.region` declarations (core position, word, value, tag) come with the launch image, from outside. -/
def execLaunchPacket (n : Nat) (regions : List (Nat × Nat × Nat × Bool)) (s : State) : Out :=
  if wasOffered s n 1 then .next (consumed n s)
  else match dispatchable s n 1 with
  | none => .next s
  | some ws =>
    let d := queueDie s n
    let k := serviceCore d
    let idx := queueRdix s n
    match unitWords s d k (queuePid s n) (ws.getD 1 0) 16 with
    | (.error .held, _) => .next s
    | (.error _, s1) => .next (queueError n 4 idx s1)
    | (.ok dw, s1) =>
      let l : Launch := ⟨fld (dw.getD 14 0) 32 16, dw, .running, packetComp ws (dw.getD 13 0), some n, idx⟩
      if launchOk s1 l = false then .next (queueError n 5 idx s1)
      else match unitLoad s1 d k l.pid (l.saveArea + 0x300) 8 with
        | (.error .held, _) => .next s
        | (.error _, s2) => .next (queueError n 4 idx s2)
        | (.ok block, s2) => .next (offered n ws l.threads (startLaunch l ws n idx block regions s2))

/-! ### The other packets (R468) -/

/-- The launch that a node packet's node belongs to: that of its hint core where its PID is the queue's, else the first live launch of the PID. -/
def nodeLaunch (s : State) (pid k : Nat) : Option Nat :=
  match coreLaunch s k with
  | some l => if l.pid = pid then some l.lid else (s.pkg.launches.find? fun m => m.pid == pid && launchLive s m).map fun m => m.lid
  | none => (s.pkg.launches.find? fun m => m.pid == pid && launchLive s m).map fun m => m.lid

/-- NODE_PACKET (R466, R468): the descriptor goes to the TGU of the queue's die; a refusal is queue error 5; then the packet is consumed, as a step
of its own. -/
def execNodePacket (n : Nat) (s : State) : Out :=
  if wasOffered s n 2 then .next (consumed n s)
  else match dispatchable s n 2 with
  | none => .next s
  | some ws =>
    let d := queueDie s n
    let k := serviceCore d
    let idx := queueRdix s n
    match unitWords s d k (queuePid s n) (ws.getD 1 0) 16 with
    | (.error .held, _) => .next s
    | (.error _, s1) => .next (queueError n 4 idx s1)
    | (.ok dw, s1) =>
      if descOk k dw = false then .next (queueError n 5 idx s1)
      else
        let nd0 := descNode d k none (queuePid s n) 0 dw
        let lid := nodeLaunch s1 (queuePid s n) (hintCore nd0.hint)
        let ectx := match lid.bind fun e => launchOf s1 e with | some l => l.ectx | none => 0
        let nd := { nd0 with lid := lid, ectx := ectx, comp := packetComp ws nd0.comp, acq := packetAsc ws, pkt := some (n, idx) }
        match submitNode d nd s1 with
        | (.ok _, s2) => .next (offered n ws 1 s2)
        | (.error _, s2) => .next (queueError n 5 idx s2)

/-- Read a byte for the host DMA unit of die 0: of host memory, whose contents come from outside where the device has not written them, or of
device memory (R254, R468). -/
def dmaLoad (host : Bool) (pid : Nat) (a : Word) (s : State) : Except AccErr Nat × State :=
  if host then
    match s.pkg.hostMem.get? a.toNat with
    | some b => (.ok b.toNat, s)
    | none =>
      let (v, s1) := s.free
      (.ok (fld v 0 8), s1.modPkg fun p => { p with hostMem := p.hostMem.put a.toNat (BitVec.ofNat 8 (fld v 0 8)) })
  else unitLoad s 0 (serviceCore 0) pid a 1

/-- Write a byte for the host DMA unit. -/
def dmaStore (host : Bool) (pid : Nat) (a : Word) (v : Nat) (s : State) : Except AccErr Unit × State :=
  if host then (.ok (), s.modPkg fun p => { p with hostMem := p.hostMem.put a.toNat (BitVec.ofNat 8 v) })
  else unitStore s 0 (serviceCore 0) pid a 1 v

/-- Move bytes in rising order; the first failure ends the copy. -/
def dmaCopy (sh dh : Bool) (pid : Nat) (src dst : Word) : Nat → State → Except AccErr Unit × State
  | 0, s => (.ok (), s)
  | m + 1, s =>
    match dmaLoad sh pid src s with
    | (.error e, s1) => (.error e, s1)
    | (.ok v, s1) =>
      match dmaStore dh pid dst v s1 with
      | (.error e, s2) => (.error e, s2)
      | (.ok _, s2) => dmaCopy sh dh pid (src + 1) (dst + 1) m s2

/-- COPY_PACKET (R468). -/
def execCopyPacket (n : Nat) (s : State) : Out :=
  match dispatchable s n 3 with
  | none => .next s
  | some ws =>
    let w := fun i => ws.getD i 0
    match dmaCopy (bitAt (w 4) 0) (bitAt (w 4) 1) (queuePid s n) (w 1) (w 2) (w 3).toNat s with
    | (.error .held, _) => .next s
    | (.error _, s1) => .next (queueError n 4 (queueRdix s n) s1)
    | (.ok _, s1) => .next (dispatched n ws 0 true true s1)

/-- SIGNAL_PACKET (R468): the value is set or added at the target's home. -/
def execSignalPacket (n : Nat) (s : State) : Out :=
  match dispatchable s n 5 with
  | none => .next s
  | some ws =>
    let op := if bitAt (ws.getD 4 0) 0 then AtomKind.add else AtomKind.swp
    match atomicAt s (serviceCore (queueDie s n)) (queuePid s n) (ws.getD 1 0) op 6 8 (ws.getD 2 0).toNat with
    | (.error .held, _) => .next s
    | (.error _, s1) => .next (queueError n 4 (queueRdix s n) s1)
    | (.ok _, s1) => .next (dispatched n ws 0 true true s1)

/-- A wait packet is resolved: it is done, and later packets may go on. -/
def endHold (n : Nat) (h : WaitHold) (s : State) : State :=
  modQueue n (fun q => { q with hold := none, inflight := q.inflight.map fun e => if e.idx = h.idx then { e with done := true } else e }) s

/-- Look at the word of the wait packet that holds a queue. -/
def checkHold (n : Nat) (s : State) : State :=
  match (queueOf s n).hold with
  | none => s
  | some h =>
    let w := fun i => h.words.getD i 0
    match unitLoad s (queueDie s n) (serviceCore (queueDie s n)) (queuePid s n) (w 1) 8 with
    | (.error .held, _) => s
    | (.error _, s1) => queueError n 4 h.idx (endHold n h s1)
    | (.ok v, s1) => if waitCond (w 3).toNat false 64 v (w 2).toNat then endHold n h s1 else s1

/-- WAIT_PACKET (R468): the packet is dispatched and holds its queue, or its word is looked at again. -/
def execWaitPacket (n : Nat) (s : State) : Out :=
  match dispatchable s n 6 with
  | some ws =>
    let tmo := (ws.getD 4 0).toNat
    let hold : WaitHold := ⟨queueRdix s n, ws, if tmo = 0 then none else some (s.pkg.time + tmo)⟩
    let s1 := dispatched n ws 0 true false s
    .next (if (queueOf s1 n).cur.isSome ∨ queueEn s1 n = false then s1 else checkHold n (modQueue n (fun q => { q with hold := some hold }) s1))
  | none => .next (if serviceRuns s (queueDie s n) then checkHold n s else s)

/-- WAIT_PACKET_TIMEOUT (R468). -/
def execWaitPacketTimeout (n : Nat) (s : State) : Out :=
  match (queueOf s n).hold with
  | none => .next s
  | some h =>
    match h.deadline with
    | none => .next s
    | some t => .next (if t ≤ s.pkg.time then endHold n h s else s)

/-- The code of a lease packet: 2 where the context holds no thread of the PID (R446, R468). -/
def packetLease (pid : Nat) (ws : List Word) (s : State) : Nat × State :=
  let a := ws.getD 1 0
  match coreNamed a with
  | none => (2, s)
  | some k =>
    let x := ctxKey k (fld a 0 3)
    if bitAt a 53 = false ∨ bitAt a 52 ∨ (s.ctx x).occupied = false ∨ (s.ctx x).pid ≠ pid then (2, s)
    else requestLease x (fld (ws.getD 2 0) 32 2) (fld (ws.getD 2 0) 0 10) s

/-- LEASE_PACKET (R468): the code is written to word 7 of the entry. -/
def execLeasePacket (n : Nat) (s : State) : Out :=
  match dispatchable s n 7 with
  | none => .next s
  | some ws =>
    let d := queueDie s n
    let idx := queueRdix s n
    let (code, s1) := packetLease (queuePid s n) ws s
    match unitStore s1 d (serviceCore d) (queuePid s n) (queueEntry s n idx + 56) 8 code with
    | (.error .held, _) => .next s
    | (.error _, s2) => .next (queueError n 4 idx s2)
    | (.ok _, s2) => .next (dispatched n ws 0 true true s2)

/-- Are the fields of a collective descriptor in range (R475). -/
def collOk (ws : List Word) : Bool :=
  let w := fun i => ws.getD i 0
  fld (w 0) 0 4 ≤ 5 && fld (w 0) 20 4 == 0 && (fld (w 0) 4 4 == 4 || fld (w 0) 4 4 == 8 || fld (w 0) 4 4 == 9) && fld (w 1) 54 10 == 0
    && fld (w 2) 54 10 == 0 && fld (w 3) 32 32 == 0 && fld (w 4) 32 32 == 0 && fld (w 4) 0 32 != 0

/-- COLLECTIVE_PACKET (R475, R478): the collective starts where fewer than 16 are in flight; with SYNC the members' duties follow the group of its
PID, which starts at 16. -/
def execCollectivePacket (n : Nat) (s : State) : Out :=
  match dispatchable s n 4 with
  | none => .next s
  | some ws =>
    if 16 ≤ s.pkg.colls.length then .next s
    else
      let d := queueDie s n
      let idx := queueRdix s n
      match unitWords s d (serviceCore d) (queuePid s n) (ws.getD 1 0) 8 with
      | (.error .held, _) => .next s
      | (.error _, s1) => .next (queueError n 4 idx s1)
      | (.ok dw, s1) =>
        if collOk dw = false then .next (queueError n 2 idx s1)
        else
          let s2 := s1.modPkg fun p =>
            { p with
              colls := p.colls ++ [⟨n, idx, queuePid s n, dw, s.pkg.time⟩]
              sync := if bitAt (dw.getD 0 0) 19 && !(p.sync.any fun g => g.pid == queuePid s n) then p.sync ++ [⟨queuePid s n, 16, 0⟩] else p.sync }
          .next (dispatched n ws 0 true false s2)

/-! ### Completion (R463, R464, R467) -/

/-- PACKET_COMPLETION (R467): packet `idx` of queue `n` completes: where it is performed by the device itself, FENCE.rel at RSC (system for a
collective), the decrement of the signal, and the vector. -/
def execPacketCompletion (n idx : Nat) (s : State) : Out :=
  match (queueOf s n).inflight.find? (fun e => e.idx == idx) with
  | none => .next s
  | some e =>
    let gone := fun (t : State) => modQueue n (fun q => { q with inflight := q.inflight.filter fun p => p.idx != idx }) t
    if e.own = false then .next (if e.left = 0 then gone s else s)
    else if e.done = false then .next s
    else
      let k := serviceCore (queueDie s n)
      let w0 := e.words.getD 0 0
      let sig := e.words.getD 6 0
      let s1 := releaseLines s k (queuePid s n) (if fld w0 0 4 = 4 then 5 else fld w0 55 3) none
      if sig = 0 then .next (gone s1)
      else match atomicAt s1 k (queuePid s n) sig .add 6 8 (2 ^ 64 - 1) with
        | (.error .held, _) => .next s
        | (.error _, s2) => .next (queueError n 4 idx (gone s2))
        | (.ok old, s2) => .next (gone (if old = 1 ∧ bitAt w0 61 then sendVector (queueVec s n) s2 else s2))

/-- MSIX_PENDING_SEND (R464): a pending vector is sent once nothing masks it. -/
def execMsixPendingSend (v : Nat) (s : State) : Out :=
  let p := s.pkg
  .next (if p.msixPend.contains v && p.msixEn && !p.msixFMask && !(p.vectorMasked v) then
    s.modPkg fun q => { q with msixPend := q.msixPend.filter fun e => e != v, msixSent := q.msixSent ++ [v] }
  else s)

/-! ### Collectives (R475 to R477) -/

/-- Bytes of an element. -/
def collBytes (fmt : Nat) : Nat := if fmt = 9 then 2 else 4

/-- The members of a collective, in ascending position. -/
def collMembers (ws : List Word) : List Nat := (List.range 8).filter fun p => bitAt (ws.getD 0 0) (8 + p)

/-- COUNT. -/
def collCount (ws : List Word) : Nat := fld (ws.getD 3 0) 0 32

/-- What all members must agree on: words 0 and 3 but for SYNC (R476). -/
def collHeads (w0 w3 : Word) : Word × Nat := (w0 &&& ~~~(flag true 19), fld w3 0 32)

/-- Can a descriptor run at this member (R476): it lies in MEMB, the root is a member, and COUNT divides for OP 4. -/
def collFits (ws : List Word) (me : Nat) : Bool :=
  let ms := collMembers ws
  ms.contains me && (fld (ws.getD 0 0) 0 4 != 1 || ms.contains (fld (ws.getD 0 0) 16 3))
    && (fld (ws.getD 0 0) 0 4 != 4 || collCount ws % ms.length == 0)

/-- The sum of the members' elements, one after another (R476). -/
def collSum (fmt : Nat) (es : List Nat) : Nat :=
  match fmt, es with
  | _, [] => 0
  | 8, e :: rest => rest.foldl (fun a b => fAdd fFP32 0 a b) e
  | 9, e :: rest => floatToFloat fFP32 fBF16 0 (rest.foldl (fun a b => fAdd fFP32 0 a (fBF16.asRead b * 65536)) (fBF16.asRead e * 65536))
  | _, e :: rest => (rest.foldl (fun a b => a + b) e) % 2 ^ 32

/-- The largest of the members' elements, as VMAX takes it (R135, R476). -/
def collMax (fmt : Nat) (es : List Nat) : Nat :=
  match es with
  | [] => 0
  | e :: rest => rest.foldl (fun a b => minMax fmt true a b) e

/-- The elements that a member writes (R476), from every member's contribution in ascending position. -/
def collResult (ws : List Word) (me : Nat) (parts : List (Nat × List Nat)) : List Nat :=
  let fmt := fld (ws.getD 0 0) 4 4
  let n := collCount ws
  let ms := collMembers ws
  let col := fun i => ms.map fun p => (SMap.getD parts p []).getD i 0
  match fld (ws.getD 0 0) 0 4 with
  | 1 => SMap.getD parts (fld (ws.getD 0 0) 16 3) []
  | 2 => (List.range n).map fun i => collSum fmt (col i)
  | 3 => ms.flatMap fun p => SMap.getD parts p []
  | 4 =>
    let b := n / ms.length
    let r := (ms.takeWhile fun p => p != me).length
    (List.range b).map fun i => collSum fmt (col (r * b + i))
  | 5 => (List.range n).map fun i => collMax fmt (col i)
  | _ => []

/-- Read `n` elements on path C. -/
def collRead (pid w : Nat) (a : Word) : Nat → State → Except AccErr (List Nat) × State
  | 0, s => (.ok [], s)
  | n + 1, s =>
    match pathLoad s 7 1 (serviceCore 1) pid a w with
    | (.error e, s1) => (.error e, s1)
    | (.ok v, s1) =>
      match collRead pid w (a + BitVec.ofNat 64 w) n s1 with
      | (.error e, s2) => (.error e, s2)
      | (.ok vs, s2) => (.ok (v :: vs), s2)

/-- Write elements on path C, those of the list by number. -/
def collWrite (pid w : Nat) (a : Word) : List (Nat × Nat) → State → Except AccErr Unit × State
  | [], s => (.ok (), s)
  | (i, v) :: rest, s =>
    match pathStore s 7 1 (serviceCore 1) pid (a + BitVec.ofNat 64 (w * i)) w v with
    | (.error e, s1) => (.error e, s1)
    | (.ok _, s1) => collWrite pid w a rest s1

/-- The position of this device in the ring (R474). -/
def ringPosition (s : State) : Nat := (s.die 1).ringPos

/-- A collective leaves the engine, and its packet is done; a failure is queue error 6, which leaves the queue enabled (R468, R477). -/
def endColl (i : Nat) (c : Coll) (fails : Bool) (s : State) : State :=
  let s1 := modQueue c.queue (fun q => { q with inflight := q.inflight.map fun e => if e.idx = c.idx then { e with done := true } else e })
    (s.modPkg fun p => { p with colls := dropAt p.colls i })
  if fails then queueError c.queue 6 c.idx s1 else s1

/-- Does this member supply elements: every one but for a barrier, and the root alone for a broadcast. -/
def collSupplies (ws : List Word) (p : Nat) : Bool :=
  match fld (ws.getD 0 0) 0 4 with
  | 0 => false
  | 1 => p == fld (ws.getD 0 0) 16 3
  | _ => true

/-- What the other members have sent, with this member's own elements read from SRC. -/
def collGather (c : Coll) (me : Nat) (data : List (Nat × List Nat)) (s : State) : Except AccErr (List (Nat × List Nat)) × State :=
  if collSupplies c.words me then
    match collRead c.pid (collBytes (fld (c.words.getD 0 0) 4 4)) (c.words.getD 1 0) (collCount c.words) s with
    | (.error e, s1) => (.error e, s1)
    | (.ok own, s1) => (.ok ((me, own) :: data.filter fun e => e.1 != me), s1)
  else (.ok (data.filter fun e => e.1 != me), s)

/-- Are the headers and the elements of every other member there. -/
def collThere (c : Coll) (me : Nat) (hdrs : List (Nat × BitVec 64 × BitVec 64)) (data : List (Nat × List Nat)) : Bool :=
  (collMembers c.words).all fun p =>
    p == me || ((SMap.get? hdrs p).isSome
      && (!(collSupplies c.words p) || (SMap.getD data p []).length == collCount c.words))

/-- Do the headers agree (R476). -/
def collAgrees (c : Coll) (me : Nat) (hdrs : List (Nat × BitVec 64 × BitVec 64)) : Bool :=
  (collMembers c.words).all fun p =>
    p == me || (match SMap.get? hdrs p with
      | some h => collHeads h.1 h.2 == collHeads (c.words.getD 0 0) (c.words.getD 3 0)
      | none => true)

/-- Perform the writes of a collective: all of them, or those of a list of elements. -/
def collStore (c : Coll) (me : Nat) (data : List (Nat × List Nat)) (only : Option (List Nat)) (s : State) : Except AccErr Unit × State :=
  match collGather c me data s with
  | (.error e, s1) => (.error e, s1)
  | (.ok parts, s1) =>
    let out := collResult c.words me parts
    let all := (List.range out.length).zip out
    collWrite c.pid (collBytes (fld (c.words.getD 0 0) 4 4)) (c.words.getD 2 0)
      (match only with | none => all | some l => all.filter fun e => l.contains e.1) s1

/-- What comes from the positions that the ring has: none from others, and in a ring of one there is no peer traffic (R474). -/
def fromRing {α : Type} (s : State) (es : List (Nat × α)) : List (Nat × α) := es.filter fun e => decide (e.1 ≤ (s.die 1).ringSzm1)

/-- Does a collective need a port while both are down (R474, R477). -/
def portsDown (s : State) (c : Coll) : Bool :=
  !(s.die 1).lnk0 && !(s.die 1).lnk1 && (collMembers c.words).any fun p => p != ringPosition s

/-- COLLECTIVE_COMPLETE (R476, R477): collective `i` ends on this member. From outside come the words 0 and 3 and the elements that the other
members send; `down`: a port on the path is down, as it is where both of this device are; those elements are written that `written` lists. -/
def execCollectiveComplete (i : Nat) (hdrs : List (Nat × BitVec 64 × BitVec 64)) (data : List (Nat × List Nat)) (down : Bool) (written : List Nat)
    (s : State) : Out :=
  match s.pkg.colls[i]? with
  | none => .next s
  | some c =>
    let me := ringPosition s
    let hdrs := fromRing s hdrs
    let data := fromRing s data
    if !(collFits c.words me) || !(collAgrees c me hdrs) then .next (endColl i c true s)
    else if down || portsDown s c then
      .next (endColl i c true (if collThere c me hdrs data then (collStore c me data (some written) s).2 else s))
    else if !(collThere c me hdrs data) || (!(s.die 1).ringEn && collMembers c.words != [me]) then .next s
    else match collStore c me data none s with
      | (.error .held, _) => .next s
      | (.error _, s1) => .next (endColl i c true s1)
      | (.ok _, s1) => .next (endColl i c false s1)

/-- COLLECTIVE_TIMEOUT (R477): TMO has expired; those elements are written that `written` lists. -/
def execCollectiveTimeout (i : Nat) (hdrs : List (Nat × BitVec 64 × BitVec 64)) (data : List (Nat × List Nat)) (written : List Nat) (s : State) : Out :=
  match s.pkg.colls[i]? with
  | none => .next s
  | some c =>
    let me := ringPosition s
    let hdrs := fromRing s hdrs
    let data := fromRing s data
    if s.pkg.time < c.started + 1000 * fld (c.words.getD 4 0) 0 32 then .next s
    else .next (endColl i c true
      (if collFits c.words me && collAgrees c me hdrs && collThere c me hdrs data then (collStore c me data (some written) s).2 else s))

end Sys2Proof.Machine
end

