-- ==== Sys2Proof/Machine/Dcs.lean ====
section
/-! DEFINITION. Die control space and the host's accesses: BAR0 registers, BAR2, MSI-X, DCTL (R351, R356, R359, R368, R387, R389, R390, R436, R444,
R447, R449, R450, R460 to R465, R470 to R474). -/

namespace Sys2Proof.Machine

/-! ### Die control space (R461) -/

/-- Is a die out of reset, so that its control space answers. -/
def dieUp (s : State) (d : Nat) : Bool := (s.die d).run == .running

/-- RINGCFG of die 1 (R474). -/
def Die.ringWord (d : Die) : Word :=
  flag d.lnk0 63 ||| flag d.lnk1 62 ||| flag d.ringEn 8 ||| put d.ringSzm1 3 3 ||| put d.ringPos 0 3

/-- A word of an error bank (R359). -/
def Bank.word (b : Bank) (i : Nat) : Word :=
  match i with
  | 0 => b.w0 | 1 => b.w1 | 2 => b.w2 | 3 => b.w3 | 4 => b.w4 | 5 => b.w5 | 6 => BitVec.ofNat 64 b.ccnt | _ => 0

/-- An entry of the cluster map as a word (R368). -/
def CmapEntry.word (e : CmapEntry) : Word := flag e.err 16 ||| flag e.pnd 15 ||| put e.new 8 7 ||| put e.phy 0 7

/-- Read an aligned word of die control space; none where no register lies (R460, R461). -/
def dcsRead (s : State) (d off : Nat) : Option Word :=
  let dd := s.die d
  if off % 8 ≠ 0 then none
  else match off with
    | 0x00 => some dd.ptab
    | 0x08 => some (flag dd.tinvBsy 63)
    | 0x10 => some (put dd.tinvLen 0 32)
    | 0x18 => some (flag dd.pmigBsy 63 ||| flag dd.pmigErr 62)
    | 0x20 => some dd.pmigDst
    | 0x28 => some (BitVec.ofNat 64 dd.bslot)
    | 0x30 => some dd.dumpBase
    | 0x38 => some (if d = 1 then dd.ringWord else 0)
    | 0x40 => some dd.pmigSlot
    | _ =>
      if 0x1000 ≤ off ∧ off < 0x1400 then some ((dd.banks.getD ((off - 0x1000) / 64) Bank.reset).word (off % 64 / 8))
      else if 0x2000 ≤ off ∧ off < 0x2300 then some (cmapOf s d ((off - 0x2000) / 8)).word
      else if 0x3000 ≤ off ∧ off < 0x3100 ∧ off % 64 < 24 then
        let q := (off - 0x3000) / 64
        some (match off % 64 with
          | 0 => dd.portCfg.getD q 0
          | 8 => BitVec.ofNat 64 (dd.badPackets.getD q 0)
          | _ => BitVec.ofNat 64 (dd.badEvents.getD q 0))
      else if 0x5000 ≤ off ∧ off < 0x5300 then some (dd.lending.getD ((off - 0x5000) / 8) 0)
      else if 0x6000 ≤ off ∧ off < 0x6800 then some (BitVec.ofNat 64 (dd.energy.getD ((off - 0x6000) / 8) 0))
      else if 0x10000 ≤ off ∧ off < 0x18000 then some (dd.srcTab.getD ((off - 0x10000) / 8) 0)
      else if 0x18000 ≤ off ∧ off < 0x19000 then some (dd.groups.getD ((off - 0x18000) / 8) 0)
      else none

/-- A write to word `i` of an error bank (R359): V is W1C, and any write clears CCNT. -/
def writeBank (d b i : Nat) (v : Word) (s : State) : State :=
  s.modDie d fun dd =>
    let bk := dd.banks.getD b Bank.reset
    let new := if i = 0 ∧ bitAt v 63 then bk.clear else if i = 6 then { bk with ccnt := 0 } else bk
    { dd with banks := dd.banks.put b new }

/-- The bits of a window group's words that are there (R390). -/
def groupMask (w : Nat) : Word :=
  match w with
  | 0 => put 31 59 5 ||| put (2 ^ 48 - 1) 0 48
  | 1 => put (2 ^ 32 - 1) 0 32
  | 2 => allOf true
  | 3 => 0
  | _ => 0xF7FF_F7FF_F7FF_F7FF

/-- A write to word `w` of group `g` (R390, R391): with EN set anew the group starts with window 0 at every stop. -/
def writeGroup (d g w : Nat) (v : Word) (s : State) : State :=
  let old := grpWord s d g 0
  let s1 := s.modDie d fun dd => { dd with groups := dd.groups.putD (8 * g + w) 0 (v &&& groupMask w) }
  if w = 0 ∧ bitAt v 63 ∧ bitAt old 63 = false then
    [0, 1].foldl (fun t e => t.modDie e fun dd => { dd with stops := dd.stops.filter fun q => q.1 / 16 != 64 * d + g })
      (s1.modDie d fun dd => { dd with grpOn := dd.grpOn.put g s.pkg.time, hbSent := dd.hbSent.filter fun q => q.1 / 4096 / 16 != g })
  else s1

/-- Write an aligned word of die control space (R6, R461); none where no register lies. -/
def dcsWrite (d off : Nat) (v : Word) (s : State) : Option State :=
  match dcsRead s d off with
  | none => none
  | some _ =>
    some (match off with
    | 0x00 => s.modDie d fun dd => { dd with ptab := put (fld v 18 20) 18 20 }
    | 0x08 => startTinv d v s
    | 0x10 => s.modDie d fun dd => { dd with tinvLen := fld v 0 32 }
    | 0x18 => startPmig d v s
    | 0x20 => s.modDie d fun dd => { dd with pmigDst := put (fld v 13 25) 13 25 }
    | 0x28 => s.modDie d fun dd => { dd with bslot := min 96 v.toNat }
    | 0x30 => s.modDie d fun dd => { dd with dumpBase := put (fld v 20 18) 20 18 }
    | 0x38 => if d = 1 then s.modDie d fun dd => { dd with ringEn := bitAt v 8, ringSzm1 := fld v 3 3, ringPos := fld v 0 3 } else s
    | 0x40 => s.modDie d fun dd => { dd with pmigSlot := put (fld v 3 35) 3 35 }
    | _ =>
      if off < 0x1400 then writeBank d ((off - 0x1000) / 64) (off % 64 / 8) v s
      else if off < 0x2300 then putCmap d ((off - 0x2000) / 8) v s
      else if off < 0x3100 then
        let q := (off - 0x3000) / 64
        s.modDie d fun dd => match off % 64 with
          | 0 => { dd with portCfg := dd.portCfg.put q (put (fld v 44 20) 44 20 ||| put (fld v 0 12) 0 12) }
          | 8 => { dd with badPackets := dd.badPackets.erase q }
          | _ => { dd with badEvents := dd.badEvents.erase q }
      else if off < 0x5300 then s
      else if off < 0x6800 then s.modDie d fun dd => { dd with energy := dd.energy.erase ((off - 0x6000) / 8) }
      else if off < 0x18000 then
        s.modDie d fun dd => { dd with srcTab := dd.srcTab.putD ((off - 0x10000) / 8) 0 (put (fld v 53 11) 53 11 ||| put (fld v 39 11) 39 11) }
      else writeGroup d ((off - 0x18000) / 64) (off % 64 / 8) v s)

/-! ### DCTL (R471) -/

/-- Is a dump or a reset that the courier port asked for in progress on a die of a mask. -/
def courierOn (s : State) (mask : Nat) : Bool :=
  (s.pkg.dumps.any fun r => r.courier.isSome && (r.mask &&& mask) != 0) || s.pkg.resets.any fun r => r.courier.isSome && (r.mask &&& mask) != 0

/-- A write of DCTL: ERR is W1C; its operation is ignored while one is in progress (log entry 29), refused while a courier command runs on a die
that it names, and does nothing where it names no die. -/
def dctlWrite (v : Word) (s : State) : State :=
    let s1 := if bitAt v 62 then s.modPkg fun p => { p with dctlErr := false } else s
    let op := fld v 0 3
    let mask := fld v 8 2
    if s.pkg.dctlBsy ∨ (op ≠ 1 ∧ op ≠ 2) ∨ mask = 0 then s1
    else if courierOn s1 mask then s1.modPkg fun p => { p with dctlErr := true }
    else
      let s2 := s1.modPkg fun p => { p with dctlBsy := true, dctlOp := op, dctlDie := mask }
      if op = 1 then askDump mask 4 true none s2 else askReset mask true none s2

/-- DCTL_DUMP (R471): a write of DCTL that asks for a dump of the dies of a mask. -/
def execDctlDump (mask : Nat) (s : State) : Out := .next (dctlWrite (put mask 8 2 ||| 1) s)

/-- DCTL_RESET (R471). -/
def execDctlReset (mask : Nat) (s : State) : Out := .next (dctlWrite (put mask 8 2 ||| 2) s)

/-! ### BAR0 (R460, R464, R465, R470) -/

/-- Do the registers of a BAR0 offset exist, at aligned words. -/
def bar0Assigned (s : State) (off : Nat) : Bool :=
  if off % 8 ≠ 0 then false
  else if off < 0x200000 then dieUp s (off / 0x100000) && (dcsRead s (off / 0x100000) (off % 0x100000)).isSome
  else if off < 0x300000 then off % 4096 == 0
  else off == 0x300000 || off == 0x300008 || off == 0x300010 || (0x310000 ≤ off && off < 0x318100)

/-- A write of a word at a BAR0 offset. The pending bits of MSI-X are read-only. -/
def bar0Write (off : Nat) (v : Word) (s : State) : State :=
  if off < 0x200000 then (dcsWrite (off / 0x100000) (off % 0x100000) v s).getD s
  else if off < 0x300000 then notifyQueue ((off - 0x200000) / 4096) v s
  else if off = 0x300000 then s.modPkg fun p => { p with qtab := put (fld v 14 24) 14 24 }
  else if off = 0x300008 then lctlWrite v s
  else if off = 0x300010 then dctlWrite v s
  else if off < 0x318000 then
    let i := (off - 0x310000) / 8
    s.modPkg fun p => { p with msixTab := p.msixTab.put i (if i % 2 = 0 then v &&& ~~~3 else put (fld v 0 33) 0 33) }
  else s

/-- DCTL reads as (R471). -/
def Package.dctlWord (p : Package) : Word := flag p.dctlBsy 63 ||| flag p.dctlErr 62

/-- What a read of a word at an assigned BAR0 offset returns: a die's register, WRIX, QTAB, LCTL, DCTL, the MSI-X table, whose vectors are masked
at reset, or its pending bits (R460, R464, R465, R470, R471). -/
def bar0Read (s : State) (off : Nat) : Word :=
  if off < 0x200000 then (dcsRead s (off / 0x100000) (off % 0x100000)).getD 0
  else if off < 0x300000 then (queueOf s ((off - 0x200000) / 4096)).wrix
  else if off = 0x300000 then s.pkg.qtab
  else if off = 0x300008 then s.pkg.lctlWord
  else if off = 0x300010 then s.pkg.dctlWord
  else if off < 0x318000 then
    let i := (off - 0x310000) / 8
    s.pkg.msixTab.getD i (if i % 2 = 0 then 0 else flag true 32)
  else
    let i := (off - 0x318000) / 8
    BitVec.ofNat 64 ((s.pkg.msixPend.filter fun v => v / 64 == i).foldl (fun n v => n ||| 2 ^ (v % 64)) 0)

/-- An access that no register or memory answers: Unsupported Request, logged in AER (R460). -/
def unsupported (off : Nat) (s : State) : State := s.modPkg fun p => { p with hostOut := p.hostOut ++ [⟨off, [], false, true⟩] }

/-- REGISTER_WRITE (R6, R460): the host writes a word: space 0 a BAR0 register; space 1 the MSI-X message control of configuration space: bit 15
enable, bit 14 Function Mask. -/
def execRegisterWrite (space off : Nat) (v : BitVec 64) (s : State) : Out :=
  if space = 1 then .next (s.modPkg fun p => { p with msixEn := bitAt v 15, msixFMask := bitAt v 14 })
  else if bar0Assigned s off then .next (bar0Write off v s)
  else .next (unsupported off s)


/-! ### BAR2 (R460, R462) -/

/-- Bytes as a little-endian number. -/
def bytesNat : List (BitVec 8) → Nat
  | [] => 0
  | b :: rest => b.toNat + 256 * bytesNat rest

/-- Write bytes from the host, a line at a time (R462); `fuel` bounds the lines. -/
def hostWrite (pa : Nat) (bytes : List (BitVec 8)) : Nat → State → State
  | 0, s => s
  | fuel + 1, s =>
    let n := min bytes.length (128 - pa % 128)
    if n = 0 then s
    else hostWrite (pa + n) (bytes.drop n) fuel (streamWrite s 0 pa false n (bytesNat (bytes.take n))).2

/-- UNSUPPORTED_REQUEST (R460): the host reads an offset of BAR0, or names one of BAR2: an unassigned offset completes with Unsupported Request, and
a register of BAR0 with its value. The reads of BAR2 are BAR2_READ's. -/
def execUnsupportedRequest (bar off : Nat) (s : State) : Out :=
  .next (if bar = 0 then
      (if bar0Assigned s off then s.modPkg fun p => { p with hostOut := p.hostOut ++ [⟨off, natBytes (bar0Read s off).toNat 8, false, false⟩] }
      else unsupported off s)
    else if off < s.usable then s else unsupported off s)

/-- BAR2_WRITE (R462): a posted write of the host to device memory. -/
def execBar2Write (pa : Nat) (bytes : List (BitVec 8)) (s : State) : Out :=
  if s.usable < pa + bytes.length then .next (unsupported pa s) else .next (hostWrite pa bytes (bytes.length + 1) s)

/-- Read bytes for the host, a line at a time: the first failing line's code ends it. -/
def hostRead (pa n : Nat) : Nat → State → Except Nat (List Nat) × State
  | 0, s => (.ok [], s)
  | fuel + 1, s =>
    let m := min n (128 - pa % 128)
    if m = 0 then (.ok [], s)
    else match streamRead s 0 pa false m with
      | (.error e, s1) => (.error e, s1)
      | (.ok v, s1) =>
        match hostRead (pa + m) (n - m) fuel s1 with
        | (.error e, s2) => (.error e, s2)
        | (.ok vs, s2) => (.ok (natBytes v m ++ vs), s2)

/-- BAR2_READ (R460, R462): the completion carries the values at the home slices, or EP and bytes of 0xFF where a line is poisoned. -/
def execBar2Read (pa n : Nat) (s : State) : Out :=
  if s.usable < pa + n then .next (unsupported pa s)
  else match hostRead pa n (n + 1) s with
    | (.ok vs, s1) => .next (s1.modPkg fun p => { p with hostOut := p.hostOut ++ [⟨pa, vs, false, false⟩] })
    | (.error 4, s1) => .next (s1.modPkg fun p => { p with hostOut := p.hostOut ++ [⟨pa, List.replicate n 255, true, false⟩] })
    | (.error _, s1) => .next (unsupported pa s1)

end Sys2Proof.Machine
end

