-- ==== Sys2Proof/Machine/Shake.lean ====
section
/-! DEFINITION. SHAKE256, which R452 and R453 name, as FIPS 202 defines it (log entry 17). The sponge's state is 25 lanes of 64 bits; lane (x, y)
stands at place x + 5y. -/

namespace Sys2Proof.Machine

/-- The state of the feedback shift register that the round constants come from, after `t` shifts. -/
def lfsr : Nat → Nat
  | 0 => 1
  | t + 1 => if 128 ≤ lfsr t then (2 * lfsr t) ^^^ 0x171 else 2 * lfsr t

/-- The constant of a round: bit 2^j - 1 is the register's output 7 × round + j. -/
def roundConst (round : Nat) : Word := (List.range 7).foldl (fun w j => w ||| flag (lfsr (7 * round + j) % 2 == 1) (2 ^ j - 1)) 0

/-- The rotation of each lane but the first, along the walk that starts at lane (1, 0) with `t` = 0 and goes from (x, y) to (y, 2x + 3y). -/
def lanePath : Nat → Nat → Nat → Nat → List (Nat × Nat)
  | 0, _, _, _ => []
  | n + 1, t, x, y => (x + 5 * y, (t + 1) * (t + 2) / 2 % 64) :: lanePath n (t + 1) y ((2 * x + 3 * y) % 5)

/-- The sponge's state. -/
abbrev Sponge := List Word

/-- Lane (x, y), both taken modulo 5. -/
def Sponge.lane (a : Sponge) (x y : Nat) : Word := a.getD (x % 5 + 5 * (y % 5)) 0

/-- A state given lane by lane. -/
def spongeOf (g : Nat → Nat → Word) : Sponge := (List.range 25).map fun i => g (i % 5) (i / 5)

/-- Every lane takes the parities of two columns. -/
def mixColumns (a : Sponge) : Sponge :=
  let parity := (List.range 5).map fun x => (List.range 5).foldl (fun w y => w ^^^ Sponge.lane a x y) 0
  spongeOf fun x y => Sponge.lane a x y ^^^ parity.getD ((x + 4) % 5) 0 ^^^ (parity.getD ((x + 1) % 5) 0).rotateLeft 1

/-- Every lane is rotated, and moves to its new place. -/
def moveLanes (path : List (Nat × Nat)) (a : Sponge) : Sponge :=
  let turned := (List.range 25).map fun i => (a.getD i 0).rotateLeft (((path.find? fun e => e.1 == i).map Prod.snd).getD 0)
  spongeOf fun x y => Sponge.lane turned (x + 3 * y) x

/-- Every lane takes what the next two of its row say. -/
def mixRows (a : Sponge) : Sponge :=
  spongeOf fun x y => Sponge.lane a x y ^^^ (Sponge.lane a (x + 2) y &&& ~~~(Sponge.lane a (x + 1) y))

/-- The permutation: 24 rounds, each ending with its constant in lane (0, 0). -/
def permute (a : Sponge) : Sponge :=
  let path := lanePath 24 0 1 0
  (List.range 24).foldl (fun st r => (mixRows (moveLanes path (mixColumns st))).modify 0 fun w => w ^^^ roundConst r) a

/-- Bytes of one block of SHAKE256. -/
def blockBytes : Nat := 136

/-- A lane's value from its bytes, the lowest first. -/
def leNat : List Nat → Nat
  | [] => 0
  | b :: rest => b % 256 + 256 * leNat rest

/-- Take `n` blocks of a padded message into the state. -/
def soak : Nat → List Nat → Sponge → Sponge
  | 0, _, a => a
  | n + 1, m, a =>
    soak n (m.drop blockBytes) (permute (spongeOf fun x y =>
      Sponge.lane a x y ^^^ BitVec.ofNat 64 (leNat (((m.take blockBytes).drop (8 * (x + 5 * y))).take 8))))

/-- The first bytes of `n` states one after another. -/
def wring : Nat → Sponge → List Nat
  | 0, _ => []
  | n + 1, a => (a.flatMap fun w => (List.range 8).map fun j => fld w (8 * j) 8).take blockBytes ++ wring n (permute a)

/-- SHAKE256 of bytes, cut to `n` bytes: the message is padded with 0x1F, zeros, and the top bit of its last block. -/
def shake256 (m : List Nat) (n : Nat) : List Nat :=
  let blocks := m.length / blockBytes + 1
  let padded := ((m ++ [0x1F] ++ List.replicate blockBytes 0).take (blocks * blockBytes)).modify (blocks * blockBytes - 1) (· ^^^ 0x80)
  (wring (n / blockBytes + 1) (soak blocks padded (List.replicate 25 0))).take n

end Sys2Proof.Machine
end

