-- ==== Sys2Proof/Machine/Xmss.lean ====
section
/-! DEFINITION. The check of an XMSS signature under parameter set XMSS-SHAKE256_20_256 (R452), as RFC 8391 and NIST SP 800-208 define it (log
entry 17). A public key is 4 bytes that name the set, the root and the seed, 32 bytes each. -/

namespace Sys2Proof.Machine

/-- The keyed hashes: `kind` 0 of a chain, 1 of two nodes, 2 of the message, 3 the pseudorandom function. -/
def xmssHash (kind : Nat) (key msg : List Nat) : List Nat := shake256 (List.replicate 31 0 ++ [kind] ++ key ++ msg) 32

/-- An address: layer and tree are 0; then the type and four words. -/
def xmssAddr (typ a b c m : Nat) : List Nat := List.replicate 12 0 ++ [typ, a, b, c, m].flatMap fun w => (natBytes w 4).reverse

/-- Hash one or two values, each under a mask; key and masks come from the seed and the address. -/
def maskedHash (seed : List Nat) (addr : Nat → List Nat) (parts : List (List Nat)) : List Nat :=
  let word := fun m => xmssHash 3 seed (addr m)
  let masked := ((List.range parts.length).zip parts).flatMap fun e => List.zipWith (· ^^^ ·) e.2 (word (e.1 + 1))
  xmssHash (parts.length - 1) (word 0) masked

/-- The hash of two nodes. -/
def nodeHash (seed : List Nat) (typ a b c : Nat) (l r : List Nat) : List Nat := maskedHash seed (xmssAddr typ a b c) [l, r]

/-- The digits of a message's hash: two of each byte, the higher first, and three of their checksum. -/
def wotsDigits (h : List Nat) : List Nat :=
  let ds := h.flatMap fun b => [b / 16, b % 16]
  let sum := ds.foldl (fun n d => n + (15 - d)) 0
  ds ++ [sum / 256 % 16, sum / 16 % 16, sum % 16]

/-- The end of a chain that starts at digit `d`. -/
def wotsChain (seed : List Nat) (idx chain d : Nat) (x : List Nat) : List Nat :=
  (List.range 15).foldl (fun v j => if d ≤ j then maskedHash seed (xmssAddr 0 idx chain j) [v] else v) x

/-- The nodes above a row of an L-tree. -/
def ltreeRow (seed : List Nat) (idx height : Nat) : Nat → List (List Nat) → List (List Nat)
  | i, l :: r :: rest => nodeHash seed 1 idx height i l r :: ltreeRow seed idx height (i + 1) rest
  | _, rest => rest

/-- Does a signature of a message verify under a public key. -/
def xmssVerifies (key msg sig : List Nat) : Bool :=
  let root := (key.drop 4).take 32
  let seed := (key.drop 36).take 32
  let part := fun (at_ : Nat) (i : Nat) => (sig.drop (at_ + 32 * i)).take 32
  let idx := leNat (sig.take 4).reverse
  let h := xmssHash 2 (part 4 0 ++ root ++ List.replicate 28 0 ++ sig.take 4) msg
  let ends := ((List.range 67).zip (wotsDigits h)).map fun e => wotsChain seed idx e.1 e.2 (part 36 e.1)
  let leaf := ((List.range 7).foldl (fun row t => ltreeRow seed idx t 0 row) ends).headD []
  let top := (List.range 20).foldl (fun node t =>
    let sib := part 2180 t
    if idx / 2 ^ t % 2 = 0 then nodeHash seed 2 0 t (idx / 2 ^ (t + 1)) node sib else nodeHash seed 2 0 t (idx / 2 ^ (t + 1)) sib node) leaf
  key.length == 68 && sig.length == 2820 && decide (idx < 2 ^ 20) && top == root

end Sys2Proof.Machine
end

