-- ==== Sys2Proof/Machine/Recovery.lean ====
section
/-! DEFINITION. Failures and recovery: killed cores and their records, errors in a unit's state, brownout, die reset, boot and dumps (R228 to R230,
R262, R291, R315, R323, R331, R385, R420, R438, R439, R448, R450 to R452, R472). -/

namespace Sys2Proof.Machine

/-! ### Killed cores (R228 to R230) -/

/-- The numbers of the bits that are 1 in a number. -/
def bitPlaces (n : Nat) : List Nat := (List.range (Nat.log2 n + 1)).filter n.testBit

/-- CORE_KILL (R228, R229): an uncorrectable error in the state of a core's contexts or queues kills core `k` mod 2048; the bits of the rest of `k`
number the places whose record word fails its ECC when the postmaster reads it (R230, log entry 41). -/
def execCoreKill (k : Nat) (s : State) : Out :=
  let n := k % 2048
  .next (if 1536 ≤ n ∨ (s.core n).killed then s else (coreKill n 0x07 s).modCore n fun c => { c with badRecs := bitPlaces (k / 2048) })

/-- Everything that the postmaster of a killed core deals with, each with its place: its deque, its live threads and those held in memory. Copies
of a dual-dispatched record are dealt with by their pair (R366). -/
def lostWork (s : State) (k : Nat) : List (Nat × Lost) :=
  let c := s.core k
  let queued := (List.range c.deque.length).filterMap fun i => match c.deque[i]? with
    | some q => if q.dual.isNone then some (i, (⟨some q.r, q.lid, q.pkt, q.ident, q.acq⟩ : Lost)) else none
    | none => none
  let live := (userCtxs k).filterMap fun x =>
    let t := s.ctx x
    if t.occupied && t.dual.isNone && t.run != .migrating then (lostThread t).map fun w => (32 + ctxNo x, w) else none
  let held := (List.range c.heldList.length).filterMap fun i => match c.heldList[i]? with
    | some h => if h.dual.isNone then (lostThread h.thread).map fun w => (64 + i, w) else none
    | none => none
  queued ++ live ++ held

/-- POSTMASTER_RESTART (R230): the postmaster of killed core `k`'s cluster reads its sealed deque and the origin records of its live threads, once.
A record that cannot be read is lost: the kill's uncorrected record stands for it. -/
def execPostmasterRestart (k : Nat) (s : State) : Out :=
  let pm := postmaster s (clusterOf k)
  if (s.core k).killed = false ∨ clockRuns s pm = false then .next s
  else
    let s1 := (lostWork s k).foldl (fun t w => if (s.core k).badRecs.contains w.1 then packetEnd w.2.pkt t else restartLost pm w.2 t) s
    let s2 := (userCtxs k).foldl (fun t x =>
      if (t.ctx x).occupied && (t.ctx x).dual.isNone && (t.ctx x).run != .migrating then t.setCtx x { Ctx.reset with pair := (t.ctx x).pair } else t) s1
    .next (launchOver (s.core k).lid <| s2.modCore k fun c => { c with deque := c.deque.filter (fun q => q.dual.isSome), heldList := c.heldList.filter fun h => h.dual.isSome })

/-! ### Errors in the state of a unit (R262, R291, R315, R323, R331, R385, R420) -/

/-- Every node of the launch whose entry has an error ends, in the pools of both dies: the slots are free and nothing of theirs is dispatched
(R385). -/
def endLaunchNodes (d slot : Nat) (s : State) : State :=
  match (s.die d).pool.get? slot with
  | none => s
  | some n => [0, 1].foldl (fun t e =>
      ((t.die e).pool.filter fun m => m.2.lid == n.lid).foldl (fun u m => dropNode e m.1 u) t) s

/-- The error record of a unit at a die's edge, with its unit index (R359, R385, R420). -/
def edgeError (d idx : Nat) (s : State) : State := postEdge d 14 3 0x08 false false none 14 idx s

/-- UNCORRECTABLE_UNIT_STATE_ERROR: an uncorrectable error is found in the state of a unit of cluster (or die) `n`, at place `a`: 0 a word of a
matrix slot, 1 an accumulator element, 2 the matrix engine's claim map, TCSB or queue (R291); 3 an SPE register, 4 a shape entry, 5 the SPE's queue,
MODE or flags (R315); 6 the RQU's queue or roots (R331); 7 the BTE, 8 a barrier (R262); 9 a weaver's tile buffer, 2 × channel + buffer (R323);
10 a slot or edge list of a TGU's pool (R385); 11 an ISQ: the set that runs or is stopped fails (R420). Kind 12: word `a` of the scratchpad of core `n` (R160). The unit index of the TGU's
record is 0, that of an ISQ its number (log entry 35). -/
def execUncorrectableUnitStateError (kind n a : Nat) (s : State) : Out :=
  let c := s.cluster n
  match kind with
  | 0 => .next (s.modMxe n fun m => { m with badRows := m.badRows.put a false })
  | 1 => .next (s.modMxe n fun m => { m with badAcc := m.badAcc.put a false })
  | 2 =>
    let s1 := (c.mxe.cur.toList ++ c.mxe.queue).foldl (fun t e => engReply .mxe n e 10 none none t) s
    .next (engError n 3 (s1.modMxe n fun m => { m.launchStart with stopped := m.stopped || m.stopReq }))
  | 3 => .next (s.modSpe n fun u => { u with badQ := u.badQ.put a false })
  | 4 => .next (s.modSpe n fun u => { u with badShape := u.badShape.put a false })
  | 5 =>
    let s1 := c.spe.queue.foldl (fun t e => endCmd .spe n e 7 none t) s
    .next (engError n 4 (s1.modSpe n fun u => { u.launchStart with stopped := u.stopped }))
  | 6 =>
    let s1 := c.rqu.queue.foldl (fun t e => endCmd .rqu n e 7 none t) s
    .next (engError n 5 (s1.modCluster n fun q => { q with rqu := { Rqu.reset with paused := q.rqu.paused, stopped := q.rqu.stopped } }))
  | 7 =>
    .next (engError n 7 (s.modCluster n fun q =>
      { q with xfers := q.xfers.map fun x => { x with moved := true, stat := 3, notice := none } }))
  | 8 =>
    .next (engError n 9 (wakeBarrier n a (some 4) (s.modCluster n fun q =>
      { q with bars := q.bars.put a { (q.bars.getD a Barrier.reset) with cnt := 0, arr := 0, drp := 0 } })))
  | 9 =>
    let u := (wvChan s n (a / 2)).buf (a % 2)
    if u.st = .opened ∨ u.st = .pending then
      .next (engError n 6 (modWv n (a / 2) (fun w => w.setBuf (a % 2) { u with st := .written, cells := [], stat := 6, tgt := w.target }) s))
    else .next s
  | 10 => .next (edgeError n 0 (endLaunchNodes n a s))
  | 11 =>
    let q := isqOf s n a
    .next (edgeError n a (if 1 ≤ q.state ∧ q.state ≤ 4 then sqFail n a q 7 s else s))
  | 12 => .next (spadPoison s n (8 * a))
  | _ => .next s

/-! ### The reset of a die (R438, R439) -/

/-- Does a request's home lie on a die. -/
def Home.onDie (h : Home) (d : Nat) : Bool :=
  match h with
  | .dev pa => homeDie pa == d
  | .llc e _ => e == d
  | .spad k _ => coreDie k == d

/-- Step 2 of the handshake: what the other die's agents await from die `a` is answered with an error response, code 5. -/
def answerOther (a : Nat) (s : State) : State :=
  let b := 1 - a
  let waiting := (s.die a).waiters ++ (s.cores.filter fun e => coreDie e.1 == a).flatMap fun e => e.2.waiters
  let mine := (s.reqs ++ waiting).filter fun r => r.home.onDie a && coreDie r.src == b
  let s1 : State :=
    { s with
      reqs := s.reqs.filter fun r => !(r.home.onDie a && coreDie r.src == b)
      cores := s.cores.map fun e => if coreDie e.1 = a then (e.1, { e.2 with waiters := [] }) else e }
  let s2 := mine.foldl (fun t r => finishReq r (.fail (errTrap r 5)) t) (s1.modDie a fun d => { d with waiters := [] })
  let queued := ((List.range 96).flatMap fun n =>
    let m := (s2.cluster (96 * a + n)).mxe
    (m.cur.toList ++ m.queue).map fun e => (⟨.mxe, some (96 * a + n), e, false⟩ : CmdMsg)) ++ s2.cmds.filter fun m => m.target.any fun q => q / 96 == a
  let s3 : State := { s2 with cmds := s2.cmds.filter fun m => !(m.target.any fun q => q / 96 == a) }
  let s4 := (queued.filter fun m => coreDie m.cmd.core == b).foldl (fun t m => refuseCmd m 0x0C 5 t) s3
  let lost := (List.range 96).flatMap fun n => (s4.cluster (96 * a + n)).barMsgs.filter fun m => coreDie m.core == b
  let s5 : State := { s4 with clusters := s4.clusters.map fun e =>
    if e.1 / 96 = a then (e.1, { e.2 with barMsgs := e.2.barMsgs.filter fun m => coreDie m.core != b }) else e }
  lost.foldl (fun t m => barRefused m.x m.lr m.pc t) s5

/-- Step 3 at the other die: its LLC copies of lines homed on die `a` are dropped, and each slice that discards dirty bytes writes a deferred
record of type 0x0A. -/
def dropForeign (a : Nat) (s : State) : State :=
  let b := 1 - a
  let lost := (s.die b).llc.filter fun e => homeDie (128 * e.1) == a
  let dirty := lost.filter fun e => e.2.dirty != 0
  let s1 := s.modDie b fun d => { d with llc := d.llc.filter fun e => homeDie (128 * e.1) != a }
  (List.range 12).foldl (fun t n =>
    if dirty.any fun e => homeStation (128 * e.1) == n then postEdge b n 2 0x0A false false none 10 n t else t) s1

/-- The bytes that a die's channels hold after a brownout are not known: the LLC's writes are lost without a mark (R438). -/
def losePages (a : Nat) (s : State) : State :=
  (s.mem.filter fun c => homeDie c.1 == a).foldl (fun t c =>
    let (v, t1) := t.free
    { t1 with mem := memPut t1.mem c.1 (BitVec.ofNat 8 (fld v 0 8)) }) s

/-- The state of a die after its reset (R439): error bank 15 and the energy counters survive. -/
def Die.afterReset (d : Die) : Die :=
  { Die.reset with
    banks := d.banks.filter fun e => e.1 == 15
    energy := d.energy
    energyAcc := d.energyAcc }

/-- Is a record on its way lost with die `a`: it comes from there, or it has found its core there. -/
def RecMsg.lostWith (m : RecMsg) (a : Nat) : Bool := coreDie m.sender.1 == a || m.core.any fun k => coreDie k == a

/-- The queue packets of the threads that the reset of die `a` ends: of its contexts, deques, notice queues, held lists and pools, and of what was
on its way (R468); a dual-dispatched pair is one thread. -/
def lostPackets (a : Nat) (s : State) : List (Option (Nat × Nat)) :=
  let one := fun (d : Option DualRole) => d.all fun r => r.primary
  let own := s.cores.filter fun e => coreDie e.1 == a
  ((s.ctxs.filter fun e => coreDie (coreOf e.1) == a && e.2.occupied && e.2.run != .migrating && one e.2.dual).map fun e => e.2.pkt)
    ++ own.flatMap (fun e => ((e.2.deque ++ e.2.notices).filter fun q => one q.dual).map fun q => q.pkt)
    ++ own.flatMap (fun e => (e.2.heldList.filter fun h => one h.dual).map fun h => h.pkt)
    ++ ((s.recs.filter fun m => m.lostWith a && one m.dual).map fun m => m.pkt)
    ++ ((s.migs.filter fun m => coreDie (coreOf m.x) == a && m.ack.isNone).map fun m => m.ctx.pkt)
    ++ (s.die a).pool.map fun e => if e.2.dispatched then none else e.2.pkt

/-- Every unit of die `a` takes its reset values, and what was on its way from the die or to it is gone; completion replies to the other die are
still delivered (R269, R438). The host link lies on die 0 (R459): its reset clears QTAB and the notify registers (R465), while DCTL and MSI-X serve on,
since vector 1 tells of the reset (R464, log entry 86). -/
def clearDie (a : Nat) (s : State) : State :=
  let keep := fun (k : Nat) => coreDie k != a
  let s1 := (packetsEnd (lostPackets a s) s).modDie a Die.afterReset
  let s2 : State :=
    { s1 with
      ctxs := s1.ctxs.filter fun e => keep (coreOf e.1)
      cores := s1.cores.filter fun e => keep e.1
      clusters := s1.clusters.filter fun e => e.1 / 96 != a
      reqs := s1.reqs.filter fun r => keep r.src && !(r.home.onDie a)
      cmds := s1.cmds.filter fun m => keep m.cmd.core && !(m.target.any fun q => q / 96 == a)
      replies := s1.replies.filter fun r => keep r.core
      recs := s1.recs.filter fun m => !(m.lostWith a)
      evs := s1.evs.filter fun e => e.die != a && keep e.core
      migs := s1.migs.filter fun m => keep (coreOf m.x) }
  let s3 : State := { s2 with
    dies := s2.dies.map fun e => (e.1, { e.2 with waiters := e.2.waiters.filter fun r => keep r.src })
    cores := s2.cores.map fun e => (e.1, { e.2 with waiters := e.2.waiters.filter fun r => keep r.src }) }
  let lostColls := if a = 1 then s3.pkg.colls.length else 0
  let s4 := (List.range lostColls).foldl (fun t _ => match t.pkg.colls with
    | c :: _ => endColl 0 c (queueDie t c.queue != 1) t
    | [] => t) s3
  let s5 := s4.modPkg fun p =>
    { p with queues := p.queues.map fun e =>
        let q := if queueDie s4 e.1 = a then { Queue.reset with wrix := e.2.wrix } else e.2
        (e.1, if a = 0 then { q with wrix := 0 } else q),
             qtab := if a = 0 then 0 else p.qtab }
  if a = 0 ∧ s5.pkg.lctlBsy then lctlDone true s5 else s5

/-- The reset of one die while the other keeps serving (R438): `save` is step 3's write-back, which a brownout leaves out. -/
def resetOne (a : Nat) (save : Bool) (s : State) : State :=
  let b := 1 - a
  let s1 := answerOther a s
  let s2 := if save then (llcLines s1 a).foldl (fun t ln => llcDrop t a ln) s1 else losePages a s1
  let s3 := dropForeign a (s2.modDie b fun d => { d with fenced := true })
  clearDie a s3

/-- Is a dump of a die of a mask still to be written (R472). -/
def dumpDue (s : State) (mask : Nat) : Bool := s.pkg.dumps.any fun r => (r.mask &&& mask) != 0

/-- Perform the first reset that may begin: of one die with the handshake, of both without it (R438, R439, R472). -/
def beginReset (s : State) : State :=
  match s.pkg.resets.findIdx? (fun r => !r.began && !(dumpDue s r.mask)) with
  | none => s
  | some i =>
    match s.pkg.resets[i]? with
    | none => s
    | some r =>
      let s1 := if r.mask % 4 = 3 then clearDie 1 (clearDie 0 s) else if r.mask % 4 = 2 then resetOne 1 true s else resetOne 0 true s
      s1.modPkg fun p => { p with resets := p.resets.set i { r with began := true } }

/-- DIE_RESET (R438): a reset that was asked for begins, once no dump of its dies is due; the boot follows. -/
def execDieReset (s : State) : Out := .next (beginReset s)

/-- A brownout of a die (R448): its reset without the write-back, and a dump with cause 2. -/
def brownOut (d : Nat) (s : State) : State :=
  let s1 := askDump (2 ^ d) 2 false none s
  resetOne d false s1

/-- BROWNOUT (R448). -/
def execBrownout (d : Nat) (s : State) : Out := .next (if d < 2 ∧ (s.die d).run ≠ .reset then brownOut d s else s)

/-- HARD_DROOP_LIMIT (R448): the hard droop of core `k`, or from 2048 up that of the engine supply 8 × unit + kind, has lasted 1 ms: a brownout of
its die (log entry 41). -/
def execHardDroopLimit (k : Nat) (s : State) : Out :=
  let e := k - 2048
  let kind := e % 8
  let since := if k < 2048 then (s.core k).droopAt else if enginePaused kind (e / 8) s then s.pkg.pausedAt.get? e else none
  let d := if k < 2048 then coreDie k else if kind = 4 then e / 8 / 4 else e / 8 / 96
  match since with
  | none => .next s
  | some t => .next (if t + 1000000 ≤ s.pkg.time then brownOut d s else s)

/-! ### Boot (R451, R452) -/

/-- The image of a kind that a boot loads: from the courier port's flash, or from host memory. -/
def bootImage (s : State) (host : List Image) (kind : Nat) : Option Image :=
  match s.pkg.flash.find? (fun i => i.kind == kind) with
  | some i => some i
  | none => host.find? fun i => i.kind == kind

/-- An image given by its bytes: a header of 64 bytes, the body, and the signature (R452). -/
def imageOf (bytes : List (BitVec 8)) : Image :=
  let b := bytes.map BitVec.toNat
  ⟨Config.imageKind (b.take 64), Config.imageVersion (b.take 64), b⟩

/-- Do an image's magic, digest and signature verify, under the public key whose digest is fused (R452). The signature is over header and body
(log entry 18). -/
def Image.verifies (i : Image) (fused : List Nat) : Bool :=
  let hdr := i.bytes.take 64
  let dg := Config.imageDigest hdr
  Config.imageMagic hdr && shake256 i.body dg.length == dg && shake256 Config.imageKey 32 == fused
    && xmssVerifies Config.imageKey (hdr ++ i.body) ((i.bytes.drop (64 + i.body.length)).take 2820)

/-- May an image run: it verifies, and its security version is not below the fused minimum of its kind (R452). -/
def imageRuns (s : State) (i : Image) : Bool := i.verifies s.pkg.keyDigest && decide (s.pkg.minVer.getD i.kind 0 ≤ i.version)

/-- The digests of the running images, 32 bytes each, in the order of their kinds; zeros where none runs (R453, R480). -/
def runningDigests (s : State) : List Nat :=
  [1, 2, 3].flatMap fun kind => match s.pkg.running.find? (fun i => i.kind == kind) with
    | some i => shake256 i.body 32
    | none => List.replicate 32 0

/-- Send a response of the courier port. -/
def courierSend (cmd tag status : Nat) (payload : List Nat) (s : State) : State :=
  s.modPkg fun p => { p with courierOut := p.courierOut ++ [⟨cmd, tag, status, payload⟩] }

/-- A reset whose dies have all booted is ended: DCTL and vector 1, or the courier's response (R464, R471, R480). -/
def endResets (s : State) : State :=
  let ended := fun (r : ResetReq) => r.began && [0, 1].all fun d => r.mask / 2 ^ d % 2 == 0 || (s.die d).run != .reset
  let done := s.pkg.resets.filter ended
  let s1 := s.modPkg fun p => { p with resets := p.resets.filter fun r => !(ended r) }
  done.foldl (fun t r =>
    let t1 := if r.dctl then sendVector 1 (t.modPkg fun p => { p with dctlBsy := false }) else t
    match r.courier with
    | some tag => courierSend 0x06 tag 0 [] (t1.modPkg fun p => { p with courierBusy := false })
    | none => t1) s1

/-- Withy is written to context 7 of every core of a die, which runs; it fetches from the running image (R214, R451, log entry 4). -/
def startWithy (d : Nat) (s : State) : State :=
  (List.range 768).foldl (fun t i =>
    let k := 768 * d + i
    (t.setCtx (ctxKey k 7) { Ctx.reset with run := .ready, pc := withyStart d }).modCore k fun c => { c with asleep := false }) s

/-- BOOT (R451, R452): the boot of a die in reset; `host` are the images that host memory offers. An image that is missing or fails leaves the die in
the courier-only state. -/
def execBoot (d : Nat) (host : List (List (BitVec 8))) (s : State) : Out :=
  if 2 ≤ d ∨ (s.die d).run ≠ .reset then .next s
  else
    let s0 := s.modPkg fun p => { p with power := p.powerNext, modulesOff := [], replayFails := [] }
    let images := [1, 2, 3].map fun kind => bootImage s (host.map imageOf) kind
    let good := images.all fun i => match i with | some im => imageRuns s im | none => false
    if good then
      let up := (s0.die (1 - d)).run == .running
      let s1 := s0.modPkg fun p => { p with running := images.filterMap id }
      let s2 := (s1.modDie d fun dd => { dd with run := .running, fenced := !up }).modDie (1 - d) fun dd => { dd with fenced := false }
      .next (endResets (startWithy d s2))
    else
      let s1 := s0.modDie d fun dd => { dd with run := .courierOnly }
      .next (endResets (courierSend 0 0 0x0201 [] s1))

/-! ### Dumps (R450) -/

/-- Write words at a physical address. -/
def putPhys (pa : Nat) (ws : List Word) (s : State) : State :=
  ((List.range ws.length).zip ws).foldl (fun t e => homeWrite t (pa + 8 * e.1) 8 e.2.toNat) s

/-- The words of a cluster's entry: those that R450 names, the BTE's status, which no rule lays out, the status words of the weaver's channels in
their order, and zeros (log entry 36). -/
def dumpCluster (q : Nat) (s : State) : List Word × State :=
  let c := s.cluster q
  let (bte, s1) := s.free
  ([c.mxe.stepWord, c.spe.cfgWord c.spe.queue.length, put c.spe.stall 0 32, boostWord s q, bte] ++
    ((List.range 4).map fun n => (wvChan s q n).status) ++ List.replicate 55 0, s1)

/-- The words of a core's slot: the registers that R450 names, the items of the supervisor queue from the oldest on as far as they fit, zeros, the
seven images, and padding; an unreachable core's bytes are 0xFF (log entry 36). -/
def dumpCore (k : Nat) (s : State) : List Word × State :=
  if coreOnline s k then
    let items := (s.core k).supq.map (fun i => supWord (some i))
    let (rest, s1) := (((items ++ List.replicate 61 0).take 61), s)
    let image := fun x => let c := s.ctx x; imageHead c ++ imageVecs c ++ imageTail c (if c.run = .stopped then c.epc else c.pc)
    ([dutyWord s k, (s.core k).droopWord, (s.core k).levelWord] ++ rest ++ (userCtxs k).flatMap image ++ List.replicate 144 0, s1)
  else (List.replicate 2560 (allOf true), s)

/-- Write what a function gives for each of a list of numbers, one after another. -/
def putEach (pa size : Nat) (f : Nat → State → List Word × State) : List Nat → State → State
  | [], s => s
  | n :: rest, s =>
    let (ws, s1) := f n s
    putEach (pa + size) size f rest (putPhys pa ws s1)

/-- Bytes of a whole dump. -/
def dumpBytes : Nat := 0x1A000 + 2 * 15 * 1048576

/-- Write a dump at a physical address: the bytes-written word last (R450). How the running images' digests are shortened to 32 bytes is free (log
entry 36). -/
def writeDump (r : DumpReq) (pa : Nat) (s : State) : State :=
  let digests := (List.range 4).map fun j => (Config.dumpDigests (runningDigests s)).getD j 0
  let s1 := s
  let s2 := putPhys pa ([put 0x44324E53 0 32 ||| put 1 32 16, put r.mask 0 2 ||| put r.cause 8 8, BitVec.ofNat 64 r.time, 0] ++ digests) s1
  let banks := [0, 1].flatMap fun d => (List.range 16).flatMap fun b => (List.range 8).map fun i => ((s.die d).banks.getD b Bank.reset).word i
  let s3 := putEach (pa + 0x1800) 512 dumpCluster (List.range 192) (putPhys (pa + 0x1000) banks s2)
  let s4 := putEach (pa + 0x1A000) 20480 dumpCore (List.range 768) s3
  let s5 := putEach (pa + 0xF1A000) 20480 dumpCore ((List.range 768).map fun i => 768 + i) s4
  putPhys (pa + 24) [BitVec.ofNat 64 dumpBytes] s5

/-- DUMP_WRITE (R450): the dump that is due is written, on each die that it names; then the one who asked hears of it (R464, R480). -/
def execDumpWrite (s : State) : Out :=
  match s.pkg.dumps with
  | [] => .next s
  | r :: rest =>
    let s1 := if r.mask % 2 = 1 then writeDump r r.base0 s else s
    let s2 := if r.mask / 2 % 2 = 1 then writeDump r r.base1 s1 else s1
    let s3 := s2.modPkg fun p => { p with dumps := rest }
    let s4 := if r.dctl then sendVector 1 (s3.modPkg fun p => { p with dctlBsy := false }) else s3
    .next (match r.courier with
      | some tag => courierSend 0x05 tag 0 [] (s4.modPkg fun p => { p with courierBusy := false })
      | none => s4)

end Sys2Proof.Machine
end

