-- ==== Sys2Proof/Machine/Courier.lean ====
section
/-! DEFINITION. The courier port: its commands and the attestation report (R453, R472, R479, R480). A command's arguments are given as numbers, since
the spec does not lay out the payloads; `good` says that the message's LEN matches the command (log entry 18). -/

namespace Sys2Proof.Machine

/-- What stops a command before it runs: another command runs (0x0103), or its LEN does not match (0x0102). -/
def courierStop (good : Bool) (s : State) : Option Nat := if s.pkg.courierBusy then some 0x0103 else if good then none else some 0x0102

/-- Run a command unless something stops it. -/
def courierRun (cmd tag : Nat) (good : Bool) (body : State → State) (s : State) : Out :=
  match courierStop good s with
  | some st => .next (courierSend cmd tag st [] s)
  | none => .next (body s)

/-- The number of a die's run state. -/
def dieStateNo (r : DieRun) : Nat :=
  match r with
  | .reset => 0
  | .courierOnly => 1
  | .running => 2

/-- The byte for a die's state; the spec does not give its codes (R480). -/
def dieStateByte (s : State) (d : Nat) : Nat := (Config.dieStateCode (dieStateNo (s.die d).run)).toNat

/-- IDENT (R480): the device identifier, RINGCFG, the dies' states, and the digests of the running images. -/
def execIdent (tag : Nat) (good : Bool) (s : State) : Out :=
  courierRun 0x01 tag good (fun s =>
    courierSend 0x01 tag 0 (natBytes s.pkg.devId 16 ++ natBytes (s.die 1).ringWord.toNat 8 ++ [dieStateByte s 0, dieStateByte s 1]
      ++ runningDigests s) s) s

/-- A register as the courier port reads it: `die` 2 is the always-on domain, whose offset 0x40 holds the Ethernet address. Of a die that is not
running, the parts that the always-on domain keeps still answer: error bank 15 and the energy counters (R439). -/
def courierReg (s : State) (die off : Nat) : Except Nat Word :=
  if die = 2 then (if off = 0x40 then .ok (s.pkg.courierAddr.getD 0) else .error 0x0102)
  else if 2 < die then .error 0x0102
  else if dieUp s die ∨ (0x13C0 ≤ off ∧ off < 0x1400) ∨ (0x6000 ≤ off ∧ off < 0x6800) then
    match dcsRead s die off with
    | some v => .ok v
    | none => .error 0x0102
  else .error 0x0105

/-- Registers one after another. -/
def courierRegs (s : State) (die off : Nat) : Nat → Except Nat (List Nat)
  | 0 => .ok []
  | n + 1 =>
    match courierReg s die off with
    | .error e => .error e
    | .ok v =>
      match courierRegs s die (off + 8) n with
      | .error e => .error e
      | .ok vs => .ok (natBytes v.toNat 8 ++ vs)

/-- RDREG (R480): 1 to 512 words of die control space. -/
def execRdreg (tag die off n : Nat) (good : Bool) (s : State) : Out :=
  courierRun 0x02 tag good (fun s =>
    if n = 0 ∨ 512 < n then courierSend 0x02 tag 0x0102 [] s
    else match courierRegs s die off n with
      | .ok bs => courierSend 0x02 tag 0 bs s
      | .error e => courierSend 0x02 tag e [] s) s

/-- WRREG (R472, R479, R480): one register. The first write to always-on offset 0x40 sets the Ethernet address for good. -/
def execWrreg (tag die off : Nat) (v : BitVec 64) (good : Bool) (s : State) : Out :=
  courierRun 0x03 tag good (fun s =>
    match courierReg s die off with
    | .error e => courierSend 0x03 tag e [] s
    | .ok _ =>
      if die = 2 then
        courierSend 0x03 tag 0 [] (s.modPkg fun p => { p with courierAddr := match p.courierAddr with | none => some v | some a => some a })
      else courierSend 0x03 tag 0 [] ((dcsWrite die off v s).getD s)) s

/-- Bytes of memory at their home slices, line by line; a poisoned line reads as 0xFF; `fuel` bounds the lines. -/
def courierMem (s : State) (pa n : Nat) : Nat → List Nat × Bool
  | 0 => ([], false)
  | fuel + 1 =>
    let m := min n (128 - pa % 128)
    if m = 0 then ([], false)
    else
      let (rest, bad) := courierMem s (pa + m) (n - m) fuel
      match homeRead s (homeDie pa) pa m with
      | .ok v => (natBytes v m ++ rest, bad)
      | .error _ => (List.replicate m 255 ++ rest, true)

/-- Are the home dies of `n` bytes at `pa` running. -/
def homesUp (s : State) (pa n : Nat) : Bool := (List.range (n / 128 + 2)).all fun i => n ≤ 128 * i || dieUp s (homeDie (min (pa + 128 * i) (pa + n - 1)))

/-- RDMEM (R480): 8 to 4,096 bytes of device memory. -/
def execRdmem (tag pa len : Nat) (good : Bool) (s : State) : Out :=
  courierRun 0x04 tag good (fun s =>
    if len < 8 ∨ 4096 < len ∨ s.usable < pa + len then courierSend 0x04 tag 0x0102 [] s
    else if homesUp s pa len && dieUp s (homeDie (pa + len - 1)) then
      let (bs, bad) := courierMem s pa len (len + 1)
      courierSend 0x04 tag (if bad then 0x0104 else 0) bs s
    else courierSend 0x04 tag 0x0105 [] s) s

/-- Does a mask name one die or both. -/
def goodMask (mask : Nat) : Bool := 1 ≤ mask && mask ≤ 3

/-- DUMP (R450, R472, R480): a dump with cause 3; its response comes when it has been written. -/
def execDump (tag mask : Nat) (good : Bool) (s : State) : Out :=
  courierRun 0x05 tag good (fun s =>
    if !(goodMask mask) then courierSend 0x05 tag 0x0102 [] s
    else if [0, 1].all (fun d => mask / 2 ^ d % 2 == 0 || dieUp s d) then
      askDump mask 3 false (some tag) (s.modPkg fun p => { p with courierBusy := true })
    else courierSend 0x05 tag 0x0105 [] s) s

/-- RESET (R438, R439, R480): its response comes when the dies have booted. -/
def execReset (tag mask : Nat) (good : Bool) (s : State) : Out :=
  courierRun 0x06 tag good (fun s =>
    if goodMask mask then askReset mask false (some tag) (s.modPkg fun p => { p with courierBusy := true })
    else courierSend 0x06 tag 0x0102 [] s) s

/-- Bytes of the staging buffer. -/
def stagingBytes : Nat := 2097152

/-- FWLOAD (R480): bytes of an image at an offset of the staging buffer. -/
def execFwload (tag off : Nat) (bytes : List (BitVec 8)) (good : Bool) (s : State) : Out :=
  courierRun 0x07 tag (good && decide (bytes.length ≤ 4096)) (fun s =>
    if stagingBytes < off + bytes.length then courierSend 0x07 tag 0x0203 [] s
    else
      courierSend 0x07 tag 0 [] (s.modPkg fun p =>
        { p with staged := ((List.range bytes.length).zip bytes).foldl (fun m e => m.put (off + e.1) e.2) p.staged
                 stagedLen := max p.stagedLen (off + bytes.length) })) s

/-- The staged bytes from `off` on; none where one has not been staged. -/
def stagedBytes (m : SMap Byte) (off : Nat) : Nat → Option (List (BitVec 8))
  | 0 => some []
  | n + 1 =>
    match m.get? off, stagedBytes m (off + 1) n with
    | some b, some bs => some (b :: bs)
    | _, _ => none

/-- The staged image: header, body and signature; none where it is incomplete or does not fit. -/
def stagedImage (s : State) : Option Image :=
  match stagedBytes s.pkg.staged 0 64 with
  | none => none
  | some hdr =>
    let total := 64 + Config.imageLength (hdr.map BitVec.toNat) + 2820
    if stagingBytes < total then none else (stagedBytes s.pkg.staged 0 total).map imageOf

/-- FWINST (R452, R480): the staged image is checked, written to flash, and the fused minimum of its kind is raised to its version. -/
def execFwinst (tag kind : Nat) (good : Bool) (s : State) : Out :=
  courierRun 0x08 tag good (fun s =>
    if kind < 1 ∨ 3 < kind then courierSend 0x08 tag 0x0102 [] s
    else match stagedImage s with
      | none => courierSend 0x08 tag 0x0203 [] s
      | some i =>
        if i.kind ≠ kind then courierSend 0x08 tag 0x0102 [] s
        else if i.verifies s.pkg.keyDigest = false then courierSend 0x08 tag 0x0201 [] s
        else if i.version < s.pkg.minVer.getD kind 0 then courierSend 0x08 tag 0x0202 [] s
        else
          courierSend 0x08 tag 0 [] (s.modPkg fun p =>
            { p with flash := i :: p.flash.filter (fun j => j.kind != kind)
                     minVer := p.minVer.put kind (max (p.minVer.getD kind 0) i.version) })) s

/-- The signature index that the next report takes, none when all are spent, and the counters after it: the fuse of a block is burnt before the first
index of the block is used (R453). -/
def nextIndex (s : State) : Option (Nat × Nat × Nat) :=
  let p := s.pkg
  if p.attestPos = 0 then (if 4096 ≤ p.attestBlock then none else some (256 * p.attestBlock, p.attestBlock + 1, 1))
  else some (256 * (p.attestBlock - 1) + p.attestPos, p.attestBlock, (p.attestPos + 1) % 256)

/-- Bytes 0 to 167 of a report (R453). -/
def reportHead (s : State) (nonce : List Nat) : List Nat :=
  nonce ++ natBytes s.pkg.devId 16 ++ [1, 2, 3].flatMap (fun k => natBytes (s.pkg.minVer.getD k 0) 4) ++ [0, 0, 0, 0] ++ runningDigests s
    ++ natBytes s.pkg.time 8

/-- A signature under the device's key: the index in 4 bytes, the highest first, and what the key makes of the message (R452, R453). -/
def signature (msg : List Nat) (index : Nat) : List Nat :=
  (natBytes index 4).reverse ++ (List.range 2816).map fun j => (Config.signatureByte (msg ++ natBytes index 4) (4 + j)).toNat

/-- ATTEST (R453, R480). -/
def execAttest (tag : Nat) (nonce : List (BitVec 8)) (s : State) : Out :=
  courierRun 0x09 tag (nonce.length == 32) (fun s =>
    match nextIndex s with
    | none => courierSend 0x09 tag 0x0303 [] s
    | some (i, blk, pos) =>
      let head := reportHead s (nonce.map BitVec.toNat)
      courierSend 0x09 tag 0 (head ++ signature head i) (s.modPkg fun p => { p with attestBlock := blk, attestPos := pos })) s

/-- ENERGY (R449, R480): the counter of an energy context of a die, and its clearing. -/
def execEnergy (tag die ctx : Nat) (clear good : Bool) (s : State) : Out :=
  courierRun 0x0A tag good (fun s =>
    if 2 ≤ die ∨ 256 ≤ ctx then courierSend 0x0A tag 0x0102 [] s
    else
      let e := (s.die die).energy.getD ctx 0
      courierSend 0x0A tag 0 (natBytes e 8) (if clear then s.modDie die fun dd => { dd with energy := dd.energy.erase ctx } else s)) s

/-- POWER (R480): the package power from the next boot on. -/
def execPower (tag w : Nat) (good : Bool) (s : State) : Out :=
  courierRun 0x0B tag good (fun s =>
    if w < 120 ∨ 300 < w then courierSend 0x0B tag 0x0102 [] s else courierSend 0x0B tag 0 [] (s.modPkg fun p => { p with powerNext := w })) s

/-- UNKNOWN_COMMAND (R480): a message whose CMD is not defined. -/
def execUnknownCommand (cmd tag : Nat) (s : State) : Out :=
  courierRun cmd tag true (fun s => if 1 ≤ cmd ∧ cmd ≤ 11 then s else courierSend cmd tag 0x0101 [] s) s

end Sys2Proof.Machine
end

