-- ==== Sys2Proof/Machine/Parcel.lean ====
section
/-! DEFINITION. The parcel engine: residency entries, fills and evictions, and what a failed fill answers (R161 to R163, R239, R240). -/

namespace Sys2Proof.Machine

/-- A parcel command completes: its item, its failure, and the postmaster's item of a failed fill. A fill refused with code 3 or 5 counts as a
failed fill here, though it answers no held access (log entry 75, the model's choice). -/
def pceDone (q : Nat) (p : PceCmd) (code : Nat) (s : State) : State :=
  let data := p.tgt * 32 + p.slot
  let s1 := s.modCluster q fun c => { c with pce := c.pce.drop 1 }
  let s2 := if code = 0 then s1 else s1.modCore p.core fun c => { c with pErr := true, pCode := code }
  let s3 := supPush p.core 6 (0x8000 ||| data) s2
  if p.op = 3 ∧ code ≠ 0 then supPush (postmaster s3 q) 6 (0xC000 ||| data) s3 else s3

/-- May the issuer name the core (R240, code 5). -/
def pcePermitted (s : State) (q : Nat) (p : PceCmd) : Bool :=
  clusterCore q p.tgt == p.core || postmaster s q == p.core

/-- The command at the head of a cluster's parcel queue, where its operation is `op`; any other operation than 1 to 4, or one not permitted,
fails (R240); code 6 is tested before code 5 (log entry 75, the model's choice). -/
def pceHead (q op : Nat) (s : State) (run : PceCmd → Nat → State → State) : State :=
  match (s.cluster q).pce with
  | [] => s
  | p :: _ =>
    if p.op = 0 ∨ 5 ≤ p.op then pceDone q p 6 s
    else if pcePermitted s q p = false then pceDone q p 5 s
    else if p.op = op then run p (clusterCore q p.tgt) s else s

/-- The code of a failed access of the parcel engine (R240). -/
def pceCode (e : AccErr) : Nat :=
  match e with
  | .xlate _ => 1
  | _ => 2

/-- PCE_READ_ENTRY (R240). -/
def execPceReadEntry (q : Nat) (s : State) : Out :=
  .next (pceHead q 1 s fun p m t =>
    let r := residOf t m p.slot
    pceDone q p 0 (t.modCore p.core fun c => { c with pent0 := r.word0, pent1 := r.taga }))

/-- PCE_WRITE_ENTRY (R240): V and BSY stay. -/
def execPceWriteEntry (q : Nat) (s : State) : Out :=
  .next (pceHead q 2 s fun p m t =>
    let e0 := (t.core p.core).pent0
    let e1 := (t.core p.core).pent1
    let r := { residOf t m p.slot with dt := bitAt e0 62, pn := bitAt e0 61, back := put (fld e0 13 41) 13 41, taga := put (fld e1 7 47) 7 47 }
    pceDone q p 0 (t.modCore m fun c => { c with resid := c.resid.put p.slot r }))

/-- Accesses held at the port of a core for a slot. -/
def Req.heldFor (r : Req) (k slot : Nat) : Bool :=
  match r.home with
  | .spad c off => c == k && r.heldAt && slotOf off == slot
  | .dev _ | .llc _ _ => false

/-- Fill the words and tags of a slot from the pages that hold them; every word is written whole, so no error of an old one is left. -/
def fillSlot (slot : Nat) (ws : List Word) (ts : List Word) (c : Core) : Core :=
  let base := 1024 * slot
  let put := (List.range 1024).foldl (fun (acc : SMap Word × SMap Bool) i =>
    (acc.1.putD (base + i) 0 (ws.getD i 0), acc.2.putD (base + i) false (bitAt (ts.getD (i / 64) 0) (i % 64)))) (c.spad, c.tags)
  { c with spad := put.1, tags := put.2, older := c.older.filter fun e => e.word / 1024 != slot, badSpad := c.badSpad.filter fun i => i / 1024 != slot,
           resid := c.resid.put slot { c.resid.getD slot Resid.reset with v := true, dt := false } }

/-- The result of a step that may be held at a slot whose fill has failed: if the answer to its held access makes a difference, the step with that
answer, and else nothing (R162, R240). -/
def answered (m slot : Nat) (step : State → Out) (s : State) : State :=
  let mark := fun (o : Option Nat) (t : State) => t.modCore m fun c => { c with failSlot := o }
  match step (mark none s), step (mark (some slot) s) with
  | .next t, .next u => if mark none u = t then s else mark none u
  | _, _ => s

/-- The steps of agents other than requests that may have an access held at a home port: transfers, engines and their images, weavers, sequencers,
migrations, images of contexts and queue packets. -/
def portUsers (s : State) : List (State → Out) :=
  let ofCluster := fun (q : Nat) =>
    ((List.range (s.cluster q).xfers.length).reverse.map fun i => execBteTransferComplete q i)
      ++ (if (s.cluster q).mxe.cur.isSome then [execMxeStep q] else []) ++ [execSpeCommandExecute q, execRquCommandExecute q]
      ++ [execMsaveSave q, execMsaveRestore q, execSpsaveSave q, execSpsaveRestore q]
      ++ (List.range 4).map fun ch => execWriteOut q ch
  let ofIsq := fun (i : Nat) =>
    [execIsqRound (i / 4) (i % 4), execStageComplete (i / 4) (i % 4), execIsqPreemptStop (i / 4) (i % 4)]
  let ofMig := fun (m : MigMsg) => ((freeCtxs s m.dst).take 1).map fun y => execMigrationArrival m.x (ctxNo y)
  let ofCore := fun (k : Nat) => [execForwardProgressHold k, execCtxopSave k, execCtxopRestore k]
  let ofQueue := fun (n : Nat) =>
    [execQueueService n, execLaunchPacket n [], execNodePacket n, execCopyPacket n, execSignalPacket n, execWaitPacket n, execLeasePacket n,
      execCollectivePacket n] ++ ((s.pkg.queues.getD n Queue.reset).inflight.map fun p => execPacketCompletion n p.idx)
  s.clusters.flatMap (fun e => ofCluster e.1) ++ (List.range 8).flatMap ofIsq ++ s.migs.flatMap ofMig
    ++ s.cores.flatMap (fun e => ofCore e.1) ++ s.pkg.queues.flatMap fun e => ofQueue e.1

/-- Does a context have an instruction that is tried again, its access having been held. -/
def Ctx.heldAccess (c : Ctx) : Bool :=
  match c.run with
  | .parked false (some _) => true
  | .waiting w => w.kind == .placing
  | _ => false

/-- Every access held for a slot gets an error response with code 3 (R162, R240): requests at the port, the steps of other agents, and the
instructions of contexts when they go on. -/
def failFill (m slot : Nat) (s : State) : State :=
  let held := s.reqs.filter fun r => r.heldFor m slot
  let s1 := held.foldl (fun t r => finishReq r (.fail (errTrap r 3)) t) { s with reqs := s.reqs.filter fun r => !(r.heldFor m slot) }
  let s2 := (portUsers s1).foldl (fun t f => answered m slot f t) s1
  { s2 with ctxs := s2.ctxs.map fun e => (e.1, if e.2.heldAccess then { e.2 with failAt := some (m, slot) } else e.2) }

/-- Does a fill change the word or the tag at an offset. -/
def fillChanges (old new : Core) (off : Nat) : Bool :=
  let i := off / 8 % 32768
  old.spad.getD i 0 != new.spad.getD i 0 || old.tags.getD i false != new.tags.getD i false

/-- PCE_FILL (R163, R176, R240): the slot's words and tags are read, V is set, held threads whose words have changed are woken, and the held
accesses are served; a failed fill answers them with error code 3. -/
def execPceFill (q : Nat) (s : State) : Out :=
  .next (pceHead q 3 s fun p m t =>
    let r := residOf t m p.slot
    let fail := fun (code : Nat) (u : State) => pceDone q p code (failFill m p.slot u)
    if r.v || r.bsy then pceDone q p 3 t
    else match unitWords t (coreDie m) m (corePid t m) r.back 1024 with
      | (.error e, t1) => fail (pceCode e) t1
      | (.ok ws, t1) =>
        match unitWords t1 (coreDie m) m (corePid t1 m) r.taga 16 with
        | (.error e, t2) => fail (pceCode e) t2
        | (.ok ts, t2) =>
          let t3 := t2.modCore m (fillSlot p.slot ws ts)
          let hit := fun (h : Home) => match h with
            | .spad c o => c == m && slotOf o == p.slot && fillChanges (t2.core m) (t3.core m) o
            | _ => false
          pceDone q p 0 (flushReqs (fun e => e.heldFor m p.slot) (markHeld hit t3)))

/-- Is a waiter registered on a word of a slot, or a held thread that its word has not woken (R163, R176). -/
def slotWaited (s : State) (k slot : Nat) : Bool :=
  ((s.core k).waiters.any fun r => slotOf r.off == slot) || s.cores.any fun e => e.2.heldList.any fun h =>
    !h.changed && match h.home with
      | .spad c o => c == k && slotOf o == slot
      | _ => false

/-- The lines of BACK that hold a word of the slot with an uncorrectable error carry a poison mark (R349, log entry 74). -/
def poisonBack (m slot : Nat) (back : Word) (s : State) : State :=
  ((s.core m).badSpad.filter fun i => i / 1024 == slot).foldl (fun t i =>
    poisonAt (coreDie m) (corePid t m) m (back + BitVec.ofNat 64 (8 * (i % 1024))) t) s

/-- PCE_EVICT (R163, R240): V is cleared, then the words go to BACK where DT is set, and the tags to TAGA. What V is after a failed write is
a free value (log entry 13). -/
def execPceEvict (q : Nat) (s : State) : Out :=
  .next (pceHead q 4 s fun p m t =>
    let r := residOf t m p.slot
    if !r.v || r.pn || slotWaited t m p.slot then pceDone q p 4 t
    else
      let setV := fun (b : Bool) (u : State) => u.modCore m fun c => { c with resid := c.resid.put p.slot { r with v := b } }
      let fail := fun (code : Nat) (u : State) => pceDone q p code (setV (bitAt u.free.1 0) u.free.2)
      let words := (List.range 1024).map fun i => (t.core m).spad.getD (1024 * p.slot + i) 0
      let tags := (List.range 16).map fun j =>
        BitVec.ofNat 64 ((List.range 64).foldl (fun n i => if (t.core m).tags.getD (1024 * p.slot + 64 * j + i) false then n + 2 ^ i else n) 0)
      let t1 := setV false t
      match (if r.dt then unitPutWords t1 (coreDie m) m (corePid t1 m) r.back words else (.ok (), t1)) with
      | (.error e, u) => fail (pceCode e) u
      | (.ok _, u) =>
        let t2 := if r.dt then poisonBack m p.slot r.back u else u
        match unitPutWords t2 (coreDie m) m (corePid t2 m) r.taga tags with
        | (.error e, t3) => fail (pceCode e) t3
        | (.ok _, t3) => pceDone q p 0 t3)

end Sys2Proof.Machine
end

