-- ==== Sys2Proof/Machine/Scalar.lean ====
section
/-! DEFINITION. The scalar integer and predicate instructions (R61 to R70). -/

namespace Sys2Proof.Machine

/-- The low N bits of a source, unsigned (R62). -/
def lowN (ty : Nat) (v : Word) : Nat := v.toNat % 2 ^ tyBits ty

/-- The low N bits of a source, as two's complement (R62). -/
def lowS (ty : Nat) (v : Word) : Int := signedOf (tyBits ty) v.toNat

/-- An exact integer result modulo 2^N, extended by TY (R62). -/
def narrow (ty : Nat) (r : Int) : Word := extendTy ty (wrapInt (tyBits ty) r)

/-- A scalar instruction whose result is a function of its two sources; `zext` says that an immediate B is zero-extended (R62). -/
def scalarOp (i : Instr) (f : Fields) (zext : Bool) (op : Ctx → Word → Word → Word) (s : State) : Out :=
  issue i false false (fun x _ s0 =>
    withLinks x i f s0 fun ls s1 =>
      let c := s1.ctx x
      .done (writeResult x f (op c (srcS c ls f.a) (if zext then srcZ c ls f.b else srcS c ls f.b)) s1)) s

/-! ### Results (R63 to R65) -/

/-- DIV: truncated toward zero; by zero all ones (R63). -/
def divRes (ty : Nat) (a b : Word) : Int := if lowS ty b = 0 then -1 else (lowS ty a).tdiv (lowS ty b)

/-- DIVN (R63). -/
def divnRes (ty : Nat) (a b : Word) : Int := if lowN ty b = 0 then -1 else ((lowN ty a / lowN ty b : Nat) : Int)

/-- REM: the sign of the dividend; by zero the dividend (R63). -/
def remRes (ty : Nat) (a b : Word) : Int := if lowS ty b = 0 then lowS ty a else (lowS ty a).tmod (lowS ty b)

/-- REMN (R63). -/
def remnRes (ty : Nat) (a b : Word) : Int :=
  if lowN ty b = 0 then ((lowN ty a : Nat) : Int) else ((lowN ty a % lowN ty b : Nat) : Int)

/-- Zeros above the highest 1 of a number of `bits` bits (R63). -/
def clzOf (bits n : Nat) : Nat := if n % 2 ^ bits = 0 then bits else bits - 1 - Nat.log2 (n % 2 ^ bits)

/-- Zeros below the lowest 1 of a number, counted up from bit `i`. -/
def ctzFrom (n i : Nat) : Nat → Nat
  | 0 => i
  | k + 1 => if n.testBit i then i else ctzFrom n (i + 1) k

/-- The number of 1 bits among the low `k` bits. -/
def popcOf (n : Nat) : Nat → Nat
  | 0 => 0
  | k + 1 => popcOf n k + (if n.testBit k then 1 else 0)

/-- A left shift by an unbounded count (R64). -/
def shlRes (bits a c : Nat) : Nat := if c < bits then (a * 2 ^ c) % 2 ^ bits else 0

/-- A logical right shift (R64). -/
def shrRes (bits a c : Nat) : Nat := if c < bits then a % 2 ^ bits / 2 ^ c else 0

/-- An arithmetic right shift (R64). -/
def sraRes (bits a c : Nat) : Nat :=
  if c < bits then wrapInt bits (signedOf bits a / ((2 ^ c : Nat) : Int)) else if signedOf bits a < 0 then 2 ^ bits - 1 else 0

/-- A rotation left by the count modulo N (R64). -/
def rolRes (bits a c : Nat) : Nat :=
  let k := c % bits
  let u := a % 2 ^ bits
  (u * 2 ^ k + u / 2 ^ (bits - k)) % 2 ^ bits

/-- The field that BFX extracts: bits above 63 read as 0 (R65). -/
def bfxRes (ty : Nat) (a : Word) (pos len : Nat) : Word :=
  let n := a.toNat / 2 ^ pos % 2 ^ len
  if ty = 6 then sextW len n else BitVec.ofNat 64 n

/-- What BFI leaves in D: bits above 63 of the field are dropped (R65). -/
def bfiRes (d a : Word) (pos len : Nat) : Word :=
  let m : Word := BitVec.ofNat 64 ((2 ^ len - 1) <<< pos)
  (d &&& ~~~m) ||| ((a <<< pos) &&& m)

/-! ### Meanings -/

/-- ADD (R63). -/
def execAdd (h : Hdr) (f : Fields) (s : State) : Out :=
  scalarOp (.add h f) f false (fun _ a b => narrow f.ty ((lowN f.ty a + lowN f.ty b : Nat) : Int)) s

/-- SUB (R63). -/
def execSub (h : Hdr) (f : Fields) (s : State) : Out :=
  scalarOp (.sub h f) f false (fun _ a b => narrow f.ty ((lowN f.ty a : Int) - lowN f.ty b)) s

/-- MUL (R63). -/
def execMul (h : Hdr) (f : Fields) (s : State) : Out :=
  scalarOp (.mul h f) f false (fun _ a b => narrow f.ty ((lowN f.ty a * lowN f.ty b : Nat) : Int)) s

/-- MULH (R63): floor of the signed product over 2^N. -/
def execMulh (h : Hdr) (f : Fields) (s : State) : Out :=
  scalarOp (.mulh h f) f false (fun _ a b => narrow f.ty (lowS f.ty a * lowS f.ty b / ((2 ^ tyBits f.ty : Nat) : Int))) s

/-- MULHN (R63): floor of the unsigned product over 2^N. -/
def execMulhn (h : Hdr) (f : Fields) (s : State) : Out :=
  scalarOp (.mulhn h f) f false (fun _ a b => narrow f.ty ((lowN f.ty a * lowN f.ty b / 2 ^ tyBits f.ty : Nat) : Int)) s

/-- DIV (R63). -/
def execDiv (h : Hdr) (f : Fields) (s : State) : Out :=
  scalarOp (.div h f) f false (fun _ a b => narrow f.ty (divRes f.ty a b)) s

/-- DIVN (R63). -/
def execDivn (h : Hdr) (f : Fields) (s : State) : Out :=
  scalarOp (.divn h f) f false (fun _ a b => narrow f.ty (divnRes f.ty a b)) s

/-- REM (R63). -/
def execRem (h : Hdr) (f : Fields) (s : State) : Out :=
  scalarOp (.rem h f) f false (fun _ a b => narrow f.ty (remRes f.ty a b)) s

/-- REMN (R63). -/
def execRemn (h : Hdr) (f : Fields) (s : State) : Out :=
  scalarOp (.remn h f) f false (fun _ a b => narrow f.ty (remnRes f.ty a b)) s

/-- AND (R63). -/
def execAnd (h : Hdr) (f : Fields) (s : State) : Out :=
  scalarOp (.and h f) f false (fun _ a b => extendTy f.ty (a &&& b).toNat) s

/-- OR (R63). -/
def execOr (h : Hdr) (f : Fields) (s : State) : Out :=
  scalarOp (.or h f) f false (fun _ a b => extendTy f.ty (a ||| b).toNat) s

/-- XOR (R63). -/
def execXor (h : Hdr) (f : Fields) (s : State) : Out :=
  scalarOp (.xor h f) f false (fun _ a b => extendTy f.ty (a ^^^ b).toNat) s

/-- ANDN (R63). -/
def execAndn (h : Hdr) (f : Fields) (s : State) : Out :=
  scalarOp (.andn h f) f false (fun _ a b => extendTy f.ty (a &&& ~~~b).toNat) s

/-- SHL (R64): the count is the full 64-bit source. -/
def execShl (h : Hdr) (f : Fields) (s : State) : Out :=
  scalarOp (.shl h f) f true (fun _ a b => extendTy f.ty (shlRes (tyBits f.ty) a.toNat b.toNat)) s

/-- SHR (R64). -/
def execShr (h : Hdr) (f : Fields) (s : State) : Out :=
  scalarOp (.shr h f) f true (fun _ a b => extendTy f.ty (shrRes (tyBits f.ty) a.toNat b.toNat)) s

/-- SRA (R64). -/
def execSra (h : Hdr) (f : Fields) (s : State) : Out :=
  scalarOp (.sra h f) f true (fun _ a b => extendTy f.ty (sraRes (tyBits f.ty) a.toNat b.toNat)) s

/-- ROL (R64). -/
def execRol (h : Hdr) (f : Fields) (s : State) : Out :=
  scalarOp (.rol h f) f true (fun _ a b => extendTy f.ty (rolRes (tyBits f.ty) a.toNat b.toNat)) s

/-- CLZ (R63). -/
def execClz (h : Hdr) (f : Fields) (s : State) : Out :=
  scalarOp (.clz h f) f false (fun _ a _ => extendTy f.ty (clzOf (tyBits f.ty) a.toNat)) s

/-- CTZ (R63). -/
def execCtz (h : Hdr) (f : Fields) (s : State) : Out :=
  scalarOp (.ctz h f) f false (fun _ a _ => extendTy f.ty (ctzFrom a.toNat 0 (tyBits f.ty))) s

/-- POPC (R63). -/
def execPopc (h : Hdr) (f : Fields) (s : State) : Out :=
  scalarOp (.popc h f) f false (fun _ a _ => extendTy f.ty (popcOf a.toNat (tyBits f.ty))) s

/-- MIN: signed whatever TY says (R63). -/
def execMin (h : Hdr) (f : Fields) (s : State) : Out :=
  scalarOp (.min h f) f false (fun _ a b => narrow f.ty (min (lowS f.ty a) (lowS f.ty b))) s

/-- MAX: signed (R63). -/
def execMax (h : Hdr) (f : Fields) (s : State) : Out :=
  scalarOp (.max h f) f false (fun _ a b => narrow f.ty (max (lowS f.ty a) (lowS f.ty b))) s

/-- MINN: unsigned (R63). -/
def execMinn (h : Hdr) (f : Fields) (s : State) : Out :=
  scalarOp (.minn h f) f false (fun _ a b => narrow f.ty ((min (lowN f.ty a) (lowN f.ty b) : Nat) : Int)) s

/-- MAXN: unsigned (R63). -/
def execMaxn (h : Hdr) (f : Fields) (s : State) : Out :=
  scalarOp (.maxn h f) f false (fun _ a b => narrow f.ty ((max (lowN f.ty a) (lowN f.ty b) : Nat) : Int)) s

/-- SEXT: the signedness of TY is ignored (R63). -/
def execSext (h : Hdr) (f : Fields) (s : State) : Out :=
  scalarOp (.sext h f) f false (fun _ a _ => sextW (tyBits f.ty) a.toNat) s

/-- ZEXT (R63). -/
def execZext (h : Hdr) (f : Fields) (s : State) : Out :=
  scalarOp (.zext h f) f false (fun _ a _ => BitVec.ofNat 64 (lowN f.ty a)) s

/-- BFX (R65). -/
def execBfx (h : Hdr) (f : Fields) (s : State) : Out :=
  scalarOp (.bfx h f) f true (fun _ a b => bfxRes f.ty a (b.toNat % 64) (f.sub.toNat + 1)) s

/-- BFI (R65): D is read through the destination port. -/
def execBfi (h : Hdr) (f : Fields) (s : State) : Out :=
  scalarOp (.bfi h f) f true (fun c a b => bfiRes (c.w f.d.num) a (b.toNat % 64) (f.sub.toNat + 1)) s

/-- MOVI (R66). -/
def execMovi (h : Hdr) (f : Fields) (s : State) : Out :=
  scalarOp (.movi h f) f false (fun _ _ _ => f.x.imm40.signExtend 64) s

/-- MOVI.HI (R66): bits [39:0] of D stay. -/
def execMoviHi (h : Hdr) (f : Fields) (s : State) : Out :=
  scalarOp (.moviHi h f) f false (fun c _ _ => setFld (c.w f.d.num) 40 24 (f.x.imm40.toNat % 2 ^ 24)) s

/-- LEA (R67): the effective address, with no access and no trap. -/
def execLea (h : Hdr) (f : Fields) (s : State) : Out :=
  scalarOp (.lea h f) f false (fun c _ _ => c.ea f) s

/-- SEL (R68): the whole 64 bits of A or B by bit 0 of P[SUB]. -/
def execSel (h : Hdr) (f : Fields) (s : State) : Out :=
  scalarOp (.sel h f) f false (fun c a b => if bitAt (c.pred f.sub.toNat) 0 then a else b) s

/-- CMP (R69): 64 copies of the outcome. -/
def execCmp (h : Hdr) (f : Fields) (s : State) : Out :=
  scalarOp (.cmp h f) f false
    (fun _ a b => allOf (intCond f.sub.toNat (tySigned f.ty) (tyBits f.ty) a.toNat b.toNat)) s

/-- PAND (R70). -/
def execPand (h : Hdr) (f : Fields) (s : State) : Out :=
  scalarOp (.pand h f) f false (fun _ a b => a &&& (if f.sub = 1 then ~~~b else b)) s

/-- POR (R70). -/
def execPor (h : Hdr) (f : Fields) (s : State) : Out :=
  scalarOp (.por h f) f false (fun _ a b => a ||| (if f.sub = 1 then ~~~b else b)) s

/-- PXOR (R70): SUB 1 complements the whole. -/
def execPxor (h : Hdr) (f : Fields) (s : State) : Out :=
  scalarOp (.pxor h f) f false (fun _ a b => if f.sub = 1 then ~~~(a ^^^ b) else a ^^^ b) s

/-- PNOT (R70). -/
def execPnot (h : Hdr) (f : Fields) (s : State) : Out :=
  scalarOp (.pnot h f) f false (fun _ a _ => ~~~a) s

/-- PMOV (R70): between predicates, from a `w` or `l`, to a `w`, or from an immediate; the 64 bits move whole in each. -/
def execPmov (h : Hdr) (f : Fields) (s : State) : Out :=
  scalarOp (.pmov h f) f false (fun _ a _ => a) s

end Sys2Proof.Machine
end

