-- ==== Sys2Proof/Machine/Dispatch.lean ====
section
/-! DEFINITION. The meaning of every instruction: one arm per constructor. -/

namespace Sys2Proof.Machine

/-- The meaning of an instruction. -/
def exec (i : Instr) (s : State) : Host.Outcome State Fault Refusal :=
  match i with
  | .ill raw => Sys2Proof.Machine.execIll raw s
  | .nop h f => Sys2Proof.Machine.execNop h f s
  | .brk h f => Sys2Proof.Machine.execBrk h f s
  | .trap h f => Sys2Proof.Machine.execTrap h f s
  | .rte h f => Sys2Proof.Machine.execRte h f s
  | .rteEnd h f => Sys2Proof.Machine.execRteEnd h f s
  | .rteDrop h f => Sys2Proof.Machine.execRteDrop h f s
  | .mfsr h f => Sys2Proof.Machine.execMfsr h f s
  | .mtsr h f => Sys2Proof.Machine.execMtsr h f s
  | .spawn h f => Sys2Proof.Machine.execSpawn h f s
  | .fork h f => Sys2Proof.Machine.execFork h f s
  | .join h f => Sys2Proof.Machine.execJoin h f s
  | .migr h f => Sys2Proof.Machine.execMigr h f s
  | .exit h f => Sys2Proof.Machine.execExit h f s
  | .yield h f => Sys2Proof.Machine.execYield h f s
  | .iflush h f => Sys2Proof.Machine.execIflush h f s
  | .add h f => Sys2Proof.Machine.execAdd h f s
  | .sub h f => Sys2Proof.Machine.execSub h f s
  | .mul h f => Sys2Proof.Machine.execMul h f s
  | .mulh h f => Sys2Proof.Machine.execMulh h f s
  | .mulhn h f => Sys2Proof.Machine.execMulhn h f s
  | .div h f => Sys2Proof.Machine.execDiv h f s
  | .divn h f => Sys2Proof.Machine.execDivn h f s
  | .rem h f => Sys2Proof.Machine.execRem h f s
  | .remn h f => Sys2Proof.Machine.execRemn h f s
  | .and h f => Sys2Proof.Machine.execAnd h f s
  | .or h f => Sys2Proof.Machine.execOr h f s
  | .xor h f => Sys2Proof.Machine.execXor h f s
  | .andn h f => Sys2Proof.Machine.execAndn h f s
  | .shl h f => Sys2Proof.Machine.execShl h f s
  | .shr h f => Sys2Proof.Machine.execShr h f s
  | .sra h f => Sys2Proof.Machine.execSra h f s
  | .rol h f => Sys2Proof.Machine.execRol h f s
  | .clz h f => Sys2Proof.Machine.execClz h f s
  | .ctz h f => Sys2Proof.Machine.execCtz h f s
  | .popc h f => Sys2Proof.Machine.execPopc h f s
  | .min h f => Sys2Proof.Machine.execMin h f s
  | .max h f => Sys2Proof.Machine.execMax h f s
  | .minn h f => Sys2Proof.Machine.execMinn h f s
  | .maxn h f => Sys2Proof.Machine.execMaxn h f s
  | .sext h f => Sys2Proof.Machine.execSext h f s
  | .zext h f => Sys2Proof.Machine.execZext h f s
  | .bfx h f => Sys2Proof.Machine.execBfx h f s
  | .bfi h f => Sys2Proof.Machine.execBfi h f s
  | .movi h f => Sys2Proof.Machine.execMovi h f s
  | .moviHi h f => Sys2Proof.Machine.execMoviHi h f s
  | .lea h f => Sys2Proof.Machine.execLea h f s
  | .sel h f => Sys2Proof.Machine.execSel h f s
  | .cmp h f => Sys2Proof.Machine.execCmp h f s
  | .pand h f => Sys2Proof.Machine.execPand h f s
  | .por h f => Sys2Proof.Machine.execPor h f s
  | .pxor h f => Sys2Proof.Machine.execPxor h f s
  | .pnot h f => Sys2Proof.Machine.execPnot h f s
  | .pmov h f => Sys2Proof.Machine.execPmov h f s
  | .br h f => Sys2Proof.Machine.execBr h f s
  | .brx h f => Sys2Proof.Machine.execBrx h f s
  | .call h f => Sys2Proof.Machine.execCall h f s
  | .callx h f => Sys2Proof.Machine.execCallx h f s
  | .ret h f => Sys2Proof.Machine.execRet h f s
  | .loop h f => Sys2Proof.Machine.execLoop h f s
  | .ldl h f => Sys2Proof.Machine.execLdl h f s
  | .ld h f => Sys2Proof.Machine.execLd h f s
  | .st h f => Sys2Proof.Machine.execSt h f s
  | .ldf h f => Sys2Proof.Machine.execLdf h f s
  | .ldff h f => Sys2Proof.Machine.execLdff h f s
  | .ste h f => Sys2Proof.Machine.execSte h f s
  | .stf h f => Sys2Proof.Machine.execStf h f s
  | .tagr h f => Sys2Proof.Machine.execTagr h f s
  | .tagw h f => Sys2Proof.Machine.execTagw h f s
  | .waita h f => Sys2Proof.Machine.execWaita h f s
  | .acq h f => Sys2Proof.Machine.execAcq h f s
  | .rel h f => Sys2Proof.Machine.execRel h f s
  | .bind h f => Sys2Proof.Machine.execBind h f s
  | .unbind h f => Sys2Proof.Machine.execUnbind h f s
  | .fence h f => Sys2Proof.Machine.execFence h f s
  | .aadd h f => Sys2Proof.Machine.execAadd h f s
  | .afadd h f => Sys2Proof.Machine.execAfadd h f s
  | .amin h f => Sys2Proof.Machine.execAmin h f s
  | .amax h f => Sys2Proof.Machine.execAmax h f s
  | .aand h f => Sys2Proof.Machine.execAand h f s
  | .aor h f => Sys2Proof.Machine.execAor h f s
  | .axor h f => Sys2Proof.Machine.execAxor h f s
  | .aswp h f => Sys2Proof.Machine.execAswp h f s
  | .acas h f => Sys2Proof.Machine.execAcas h f s
  | .pref h f => Sys2Proof.Machine.execPref h f s
  | .cflush h f => Sys2Proof.Machine.execCflush h f s
  | .cinv h f => Sys2Proof.Machine.execCinv h f s
  | .nsend h f => Sys2Proof.Machine.execNsend h f s
  | .vadd h f => Sys2Proof.Machine.execVadd h f s
  | .vsub h f => Sys2Proof.Machine.execVsub h f s
  | .vmul h f => Sys2Proof.Machine.execVmul h f s
  | .vfma h f => Sys2Proof.Machine.execVfma h f s
  | .vfms h f => Sys2Proof.Machine.execVfms h f s
  | .vfnma h f => Sys2Proof.Machine.execVfnma h f s
  | .vmin h f => Sys2Proof.Machine.execVmin h f s
  | .vmax h f => Sys2Proof.Machine.execVmax h f s
  | .vabs h f => Sys2Proof.Machine.execVabs h f s
  | .vneg h f => Sys2Proof.Machine.execVneg h f s
  | .vdiv h f => Sys2Proof.Machine.execVdiv h f s
  | .vsqrt h f => Sys2Proof.Machine.execVsqrt h f s
  | .vrcp h f => Sys2Proof.Machine.execVrcp h f s
  | .vrsq h f => Sys2Proof.Machine.execVrsq h f s
  | .vexp2 h f => Sys2Proof.Machine.execVexp2 h f s
  | .vlog2 h f => Sys2Proof.Machine.execVlog2 h f s
  | .viadd h f => Sys2Proof.Machine.execViadd h f s
  | .visub h f => Sys2Proof.Machine.execVisub h f s
  | .vimul h f => Sys2Proof.Machine.execVimul h f s
  | .vimulh h f => Sys2Proof.Machine.execVimulh h f s
  | .vimad h f => Sys2Proof.Machine.execVimad h f s
  | .vshl h f => Sys2Proof.Machine.execVshl h f s
  | .vshr h f => Sys2Proof.Machine.execVshr h f s
  | .vsra h f => Sys2Proof.Machine.execVsra h f s
  | .vand h f => Sys2Proof.Machine.execVand h f s
  | .vor h f => Sys2Proof.Machine.execVor h f s
  | .vxor h f => Sys2Proof.Machine.execVxor h f s
  | .vandn h f => Sys2Proof.Machine.execVandn h f s
  | .vpopc h f => Sys2Proof.Machine.execVpopc h f s
  | .vclz h f => Sys2Proof.Machine.execVclz h f s
  | .vfcmp h f => Sys2Proof.Machine.execVfcmp h f s
  | .vicmp h f => Sys2Proof.Machine.execVicmp h f s
  | .vmov h f => Sys2Proof.Machine.execVmov h f s
  | .vmovClr h f => Sys2Proof.Machine.execVmovClr h f s
  | .vbcst h f => Sys2Proof.Machine.execVbcst h f s
  | .vins h f => Sys2Proof.Machine.execVins h f s
  | .vext h f => Sys2Proof.Machine.execVext h f s
  | .vperm h f => Sys2Proof.Machine.execVperm h f s
  | .vshuf h f => Sys2Proof.Machine.execVshuf h f s
  | .vcomp h f => Sys2Proof.Machine.execVcomp h f s
  | .vexpd h f => Sys2Proof.Machine.execVexpd h f s
  | .vsel h f => Sys2Proof.Machine.execVsel h f s
  | .viota h f => Sys2Proof.Machine.execViota h f s
  | .vred h f => Sys2Proof.Machine.execVred h f s
  | .vcvt h f => Sys2Proof.Machine.execVcvt h f s
  | .vdot h f => Sys2Proof.Machine.execVdot h f s
  | .vsca h f => Sys2Proof.Machine.execVsca h f s
  | .vld h f => Sys2Proof.Machine.execVld h f s
  | .vst h f => Sys2Proof.Machine.execVst h f s
  | .xfence h f => Sys2Proof.Machine.execXfence h f s
  | .xseal h f => Sys2Proof.Machine.execXseal h f s
  | .xwait h f => Sys2Proof.Machine.execXwait h f s
  | .bari h f => Sys2Proof.Machine.execBari h f s
  | .bara h f => Sys2Proof.Machine.execBara h f s
  | .bard h f => Sys2Proof.Machine.execBard h f s
  | .barw h f => Sys2Proof.Machine.execBarw h f s
  | .tcfg h f => Sys2Proof.Machine.execTcfg h f s
  | .kclm h f => Sys2Proof.Machine.execKclm h f s
  | .krel h f => Sys2Proof.Machine.execKrel h f s
  | .kld h f => Sys2Proof.Machine.execKld h f s
  | .ald h f => Sys2Proof.Machine.execAld h f s
  | .ast h f => Sys2Proof.Machine.execAst h f s
  | .azero h f => Sys2Proof.Machine.execAzero h f s
  | .mma h f => Sys2Proof.Machine.execMma h f s
  | .mmas h f => Sys2Proof.Machine.execMmas h f s
  | .asca h f => Sys2Proof.Machine.execAsca h f s
  | .acvt h f => Sys2Proof.Machine.execAcvt h f s
  | .mwait h f => Sys2Proof.Machine.execMwait h f s
  | .spld h f => Sys2Proof.Machine.execSpld h f s
  | .spst h f => Sys2Proof.Machine.execSpst h f s
  | .spshp h f => Sys2Proof.Machine.execSpshp h f s
  | .spup h f => Sys2Proof.Machine.execSpup h f s
  | .spdn h f => Sys2Proof.Machine.execSpdn h f s
  | .spmode h f => Sys2Proof.Machine.execSpmode h f s
  | .spnorm h f => Sys2Proof.Machine.execSpnorm h f s
  | .spwait h f => Sys2Proof.Machine.execSpwait h f s
  | .wvcfg h f => Sys2Proof.Machine.execWvcfg h f s
  | .wvarm h f => Sys2Proof.Machine.execWvarm h f s
  | .wvflsh h f => Sys2Proof.Machine.execWvflsh h f s
  | .wvstat h f => Sys2Proof.Machine.execWvstat h f s
  | .rqset h f => Sys2Proof.Machine.execRqset h f s
  | .rqray h f => Sys2Proof.Machine.execRqray h f s
  | .rqnear h f => Sys2Proof.Machine.execRqnear h f s
  | .rqwait h f => Sys2Proof.Machine.execRqwait h f s
  | .evnext h f => Sys2Proof.Machine.execEvnext h f s
  | .sleep h f => Sys2Proof.Machine.execSleep h f s
  | .popr h f => Sys2Proof.Machine.execPopr h f s
  | .gnode h f => Sys2Proof.Machine.execGnode h f s
  | .gdone h f => Sys2Proof.Machine.execGdone h f s
  | .gwait h f => Sys2Proof.Machine.execGwait h f s
  | .grange h f => Sys2Proof.Machine.execGrange h f s
  | .sqtab h f => Sys2Proof.Machine.execSqtab h f s
  | .sqgo h f => Sys2Proof.Machine.execSqgo h f s
  | .sqstat h f => Sys2Proof.Machine.execSqstat h f s
  | .sqstop h f => Sys2Proof.Machine.execSqstop h f s
  | .blease h f => Sys2Proof.Machine.execBlease h f s
  | .brel h f => Sys2Proof.Machine.execBrel h f s
  | .longResultArrival x ix => Sys2Proof.Machine.execLongResultArrival x ix s
  | .trapTaken x => Sys2Proof.Machine.execTrapTaken x s
  | .linkValueArrival ix => Sys2Proof.Machine.execLinkValueArrival ix s
  | .migrationArrival x c => Sys2Proof.Machine.execMigrationArrival x c s
  | .migrationAcknowledge x => Sys2Proof.Machine.execMigrationAcknowledge x s
  | .migrationRefused x => Sys2Proof.Machine.execMigrationRefused x s
  | .eventArrival ix => Sys2Proof.Machine.execEventArrival ix s
  | .recordArrival ix => Sys2Proof.Machine.execRecordArrival ix s
  | .wakeBinding k c => Sys2Proof.Machine.execWakeBinding k c s
  | .recordRaise k lvl => Sys2Proof.Machine.execRecordRaise k lvl s
  | .loadLevelling k => Sys2Proof.Machine.execLoadLevelling k s
  | .sleepTimerExpiry k => Sys2Proof.Machine.execSleepTimerExpiry k s
  | .supqRead k n => Sys2Proof.Machine.execSupqRead k n s
  | .hbaseWrite k v => Sys2Proof.Machine.execHbaseWrite k v s
  | .pairsWrite k v => Sys2Proof.Machine.execPairsWrite k v s
  | .ctxopSave k => Sys2Proof.Machine.execCtxopSave k s
  | .ctxopRestore k => Sys2Proof.Machine.execCtxopRestore k s
  | .preEmptionRequest k lid => Sys2Proof.Machine.execPreEmptionRequest k lid s
  | .softDroop k => Sys2Proof.Machine.execSoftDroop k s
  | .hardDroop kind n => Sys2Proof.Machine.execHardDroop kind n s
  | .droopRecovery k => Sys2Proof.Machine.execDroopRecovery k s
  | .hardDroopLimit k => Sys2Proof.Machine.execHardDroopLimit k s
  | .brownout d => Sys2Proof.Machine.execBrownout d s
  | .coreKill k => Sys2Proof.Machine.execCoreKill k s
  | .postmasterRestart k => Sys2Proof.Machine.execPostmasterRestart k s
  | .remoteScratchpadAccess ix => Sys2Proof.Machine.execRemoteScratchpadAccess ix s
  | .waiterRetry ix => Sys2Proof.Machine.execWaiterRetry ix s
  | .waitaTimeout x => Sys2Proof.Machine.execWaitaTimeout x s
  | .forwardProgressHold k => Sys2Proof.Machine.execForwardProgressHold k s
  | .heldThreadWake k ix => Sys2Proof.Machine.execHeldThreadWake k ix s
  | .atomicAtHome ix => Sys2Proof.Machine.execAtomicAtHome ix s
  | .l1Replacement k pid vln bad => Sys2Proof.Machine.execL1Replacement k pid vln bad s
  | .pceReadEntry q => Sys2Proof.Machine.execPceReadEntry q s
  | .pceWriteEntry q => Sys2Proof.Machine.execPceWriteEntry q s
  | .pceFill q => Sys2Proof.Machine.execPceFill q s
  | .pceEvict q => Sys2Proof.Machine.execPceEvict q s
  | .bteStart x n => Sys2Proof.Machine.execBteStart x n s
  | .bteTransferComplete q ix => Sys2Proof.Machine.execBteTransferComplete q ix s
  | .barrierUpdate q b n => Sys2Proof.Machine.execBarrierUpdate q b n s
  | .barwTimeout x => Sys2Proof.Machine.execBarwTimeout x s
  | .mxeCommandArrival ix => Sys2Proof.Machine.execMxeCommandArrival ix s
  | .mxeStep q => Sys2Proof.Machine.execMxeStep q s
  | .mxeCompletionReply ix => Sys2Proof.Machine.execMxeCompletionReply ix s
  | .msaveSave q => Sys2Proof.Machine.execMsaveSave q s
  | .msaveRestore q => Sys2Proof.Machine.execMsaveRestore q s
  | .speCommandExecute q => Sys2Proof.Machine.execSpeCommandExecute q s
  | .speCompletionReply ix => Sys2Proof.Machine.execSpeCompletionReply ix s
  | .spsaveSave q => Sys2Proof.Machine.execSpsaveSave q s
  | .spsaveRestore q => Sys2Proof.Machine.execSpsaveRestore q s
  | .weaverEvent ix => Sys2Proof.Machine.execWeaverEvent ix s
  | .bufferTimeout q ch => Sys2Proof.Machine.execBufferTimeout q ch s
  | .writeOut q ch => Sys2Proof.Machine.execWriteOut q ch s
  | .bufferFree q ch b => Sys2Proof.Machine.execBufferFree q ch b s
  | .noticeRetry ix => Sys2Proof.Machine.execNoticeRetry ix s
  | .rquCommandExecute q => Sys2Proof.Machine.execRquCommandExecute q s
  | .rquCompletionReply ix => Sys2Proof.Machine.execRquCompletionReply ix s
  | .meshRetry ix => Sys2Proof.Machine.execMeshRetry ix s
  | .flitReplay d link ok => Sys2Proof.Machine.execFlitReplay d link ok s
  | .translationWalk d pid va acc => Sys2Proof.Machine.execTranslationWalk d pid va acc s
  | .tinvWrite d v => Sys2Proof.Machine.execTinvWrite d v s
  | .errorRecordApply d b w0 w1 w2 w3 w5 => Sys2Proof.Machine.execErrorRecordApply d b w0 w1 w2 w3 w5 s
  | .errorPost k v => Sys2Proof.Machine.execErrorPost k v s
  | .secondaryChoice k ix => Sys2Proof.Machine.execSecondaryChoice k ix s
  | .pairingCompare d id => Sys2Proof.Machine.execPairingCompare d id s
  | .dualMismatch d id => Sys2Proof.Machine.execDualMismatch d id s
  | .cmapWrite d n v => Sys2Proof.Machine.execCmapWrite d n v s
  | .mapApply d => Sys2Proof.Machine.execMapApply d s
  | .placementReoffer ix => Sys2Proof.Machine.execPlacementReoffer ix s
  | .tguDispatch d => Sys2Proof.Machine.execTguDispatch d s
  | .rangeChunkDispatch d slot => Sys2Proof.Machine.execRangeChunkDispatch d slot s
  | .rangeSteal d slot => Sys2Proof.Machine.execRangeSteal d slot s
  | .wirePacketReceive p chan good bytes => Sys2Proof.Machine.execWirePacketReceive p chan good bytes s
  | .dropMarker d src => Sys2Proof.Machine.execDropMarker d src s
  | .eventSend d src => Sys2Proof.Machine.execEventSend d src s
  | .heartbeat d g e src => Sys2Proof.Machine.execHeartbeat d g e src s
  | .destinationReceive ix => Sys2Proof.Machine.execDestinationReceive ix s
  | .forcedClose d g e => Sys2Proof.Machine.execForcedClose d g e s
  | .windowBarrier d g e => Sys2Proof.Machine.execWindowBarrier d g e s
  | .isqRound d n => Sys2Proof.Machine.execIsqRound d n s
  | .stageSubmitRetry d n => Sys2Proof.Machine.execStageSubmitRetry d n s
  | .stageComplete d n => Sys2Proof.Machine.execStageComplete d n s
  | .stageTimeout d n => Sys2Proof.Machine.execStageTimeout d n s
  | .isqPreemptStop d n => Sys2Proof.Machine.execIsqPreemptStop d n s
  | .ucieReplay d m res => Sys2Proof.Machine.execUcieReplay d m res s
  | .pageMigration d v => Sys2Proof.Machine.execPageMigration d v s
  | .staleRequestRefusal ix => Sys2Proof.Machine.execStaleRequestRefusal ix s
  | .dieReset => Sys2Proof.Machine.execDieReset s
  | .patrolScrub ln found => Sys2Proof.Machine.execPatrolScrub ln found s
  | .budgetInterval demand allowance charges mw slack => Sys2Proof.Machine.execBudgetInterval demand allowance charges mw slack s
  | .leaseExpiry x => Sys2Proof.Machine.execLeaseExpiry x s
  | .leaseRevocation x => Sys2Proof.Machine.execLeaseRevocation x s
  | .revokedLeaseEnd x => Sys2Proof.Machine.execRevokedLeaseEnd x s
  | .lenderRecall d n => Sys2Proof.Machine.execLenderRecall d n s
  | .dumpWrite => Sys2Proof.Machine.execDumpWrite s
  | .boot d host => Sys2Proof.Machine.execBoot d host s
  | .bar2Write pa bytes => Sys2Proof.Machine.execBar2Write pa bytes s
  | .bar2Read pa n => Sys2Proof.Machine.execBar2Read pa n s
  | .unsupportedRequest bar off => Sys2Proof.Machine.execUnsupportedRequest bar off s
  | .notifyWrite n v => Sys2Proof.Machine.execNotifyWrite n v s
  | .queueService n => Sys2Proof.Machine.execQueueService n s
  | .packetValidPoll n => Sys2Proof.Machine.execPacketValidPoll n s
  | .nopPacket n => Sys2Proof.Machine.execNopPacket n s
  | .launchPacket n regions => Sys2Proof.Machine.execLaunchPacket n regions s
  | .nodePacket n => Sys2Proof.Machine.execNodePacket n s
  | .copyPacket n => Sys2Proof.Machine.execCopyPacket n s
  | .collectivePacket n => Sys2Proof.Machine.execCollectivePacket n s
  | .signalPacket n => Sys2Proof.Machine.execSignalPacket n s
  | .waitPacket n => Sys2Proof.Machine.execWaitPacket n s
  | .leasePacket n => Sys2Proof.Machine.execLeasePacket n s
  | .packetCompletion n idx => Sys2Proof.Machine.execPacketCompletion n idx s
  | .collectiveComplete ix hdrs data down written => Sys2Proof.Machine.execCollectiveComplete ix hdrs data down written s
  | .collectiveTimeout ix hdrs data written => Sys2Proof.Machine.execCollectiveTimeout ix hdrs data written s
  | .msixPendingSend v => Sys2Proof.Machine.execMsixPendingSend v s
  | .lctlPreempt lid => Sys2Proof.Machine.execLctlPreempt lid s
  | .lctlResume lid => Sys2Proof.Machine.execLctlResume lid s
  | .lctlEnd lid => Sys2Proof.Machine.execLctlEnd lid s
  | .dctlDump mask => Sys2Proof.Machine.execDctlDump mask s
  | .dctlReset mask => Sys2Proof.Machine.execDctlReset mask s
  | .peerFrameReplay port ok => Sys2Proof.Machine.execPeerFrameReplay port ok s
  | .ident tag good => Sys2Proof.Machine.execIdent tag good s
  | .rdreg tag die off n good => Sys2Proof.Machine.execRdreg tag die off n good s
  | .wrreg tag die off v good => Sys2Proof.Machine.execWrreg tag die off v good s
  | .rdmem tag pa len good => Sys2Proof.Machine.execRdmem tag pa len good s
  | .dump tag mask good => Sys2Proof.Machine.execDump tag mask good s
  | .reset tag mask good => Sys2Proof.Machine.execReset tag mask good s
  | .fwload tag off bytes good => Sys2Proof.Machine.execFwload tag off bytes good s
  | .fwinst tag kind good => Sys2Proof.Machine.execFwinst tag kind good s
  | .attest tag nonce => Sys2Proof.Machine.execAttest tag nonce s
  | .energy tag die ctx clear good => Sys2Proof.Machine.execEnergy tag die ctx clear good s
  | .power tag w good => Sys2Proof.Machine.execPower tag w good s
  | .registerWrite space off v => Sys2Proof.Machine.execRegisterWrite space off v s
  | .gwaitTimeout x => Sys2Proof.Machine.execGwaitTimeout x s
  | .sqstatWaitTimeout x => Sys2Proof.Machine.execSqstatWaitTimeout x s
  | .waitPacketTimeout n => Sys2Proof.Machine.execWaitPacketTimeout n s
  | .engineSupplyRecovery kind n => Sys2Proof.Machine.execEngineSupplyRecovery kind n s
  | .uncorrectableUnitStateError kind n a => Sys2Proof.Machine.execUncorrectableUnitStateError kind n a s
  | .llcReplacement d ln bad => Sys2Proof.Machine.execLlcReplacement d ln bad s
  | .peerPortLinkUp port => Sys2Proof.Machine.execPeerPortLinkUp port s
  | .unknownCommand cmd tag => Sys2Proof.Machine.execUnknownCommand cmd tag s

end Sys2Proof.Machine
end

