-- ==== Sys2Proof/Machine/Schedule.lean ====
section
/-! DEFINITION. What moves next: the schedule, the choice of a context in an issue slot, and the boundary between two instructions
(R20, R21, R33, R36). -/

namespace Sys2Proof.Machine

/-- Can a context use an issue slot: Ready, at the end of its park or its wait, or with a cause to take. -/
def selectable (s : State) (x : Nat) : Bool :=
  let c := s.ctx x
  match c.run with
  | .ready => ctxNo x != 7 || !(s.core (coreOf x)).asleep
  | .parked drain _ =>
    (c.outstanding.isEmpty && (c.causePending || !(drain && s.reqs.any fun r => r.x == x))) || (c.pendPreempt && resultsIn s x)
  | .waiting w => waitEnds s x w || c.pendDroop.isSome || c.pendPreempt
  | _ => false

/-- The user context that a slot serves among those not in `skip` (R21, R91): a run of K hints first, else the first selectable one after the
last, leaving out those that a Y hint or YIELD holds back while another can go. -/
def pickFrom (s : State) (k : Nat) (skip : List Nat) : Option Nat :=
  let kc := s.core k
  let can := (userCtxs k).filter fun x => selectable s x && !(skip.contains x)
  let free := can.filter fun x => (s.ctx x).held == 0
  let pool := if free.isEmpty then can else free
  let run := ctxKey k kc.last
  if kc.krun ≠ 0 ∧ kc.krun < 16 ∧ pool.contains run ∧ (s.ctx run).run = .ready then some run
  else (((List.range 7).map fun i => ctxKey k ((kc.last + 1 + i) % 7))).find? fun x => pool.contains x

/-- The user context that a slot serves (R21). -/
def pickUser (s : State) (k : Nat) : Option Nat := pickFrom s k []

/-- One slot has passed for the contexts that YIELD or a Y hint holds back; a slot of context 7 is no selection among them (R21, R91). -/
def passSlot (s : State) (k : Nat) (user : Bool) : State :=
  (userCtxs k).foldl (fun t x =>
    let h := (t.ctx x).held
    if h = 0 ∨ (h = 1 ∧ user = false) then t
    else t.modCtx x fun c => { c with held := if h ≤ 2 then 0 else h - 1 }) s

/-- Run an instruction in context `x`. -/
def runIn (x : Nat) (i : Instr) (s : State) : Out := exec i { s with cur := x }

/-- Run again an instruction whose access was held: if the slot's fill failed meanwhile, the access gets its error response (R240). -/
def runAgain (x : Nat) (i : Instr) (s : State) : Out :=
  match (s.ctx x).failAt with
  | none => runIn x i s
  | some (m, slot) =>
    match runIn x i ((s.modCtx x fun c => { c with failAt := none }).modCore m fun c => { c with failSlot := some slot }) with
    | .next t => .next (t.modCore m fun c => { c with failSlot := none })
    | o => o

/-- Did the instruction at `pc` end in its own synchronous trap. -/
def syncTrapped (x : Nat) (pc : Word) (o : Out) : Bool :=
  match o with
  | .next t => (t.ctx x).run == .stopped && (t.ctx x).epc == pc && (t.ctx x).fpc == pc
  | _ => false

/-- Issue the next instruction of a Ready context: a pending throttle notice comes after the instruction's own synchronous causes (R36). -/
def issueNext (x : Nat) (s : State) : Out :=
  let pc := (s.ctx x).pc
  match nextInstr x s with
  | (.error t, s1) => .next (takeTrap x t s1)
  | (.ok i, s1) =>
    let o := runIn x i s1
    match (s.ctx x).pendThrottle.isSome, nextThrottle x s with
    | true, some (t, s2) => if syncTrapped x pc o then o else .next (takeTrap x t s2)
    | _, _ => o

/-- Let the chosen context go on at its boundary (R20, R33, R36): a pending trap, the end of its wait or park, or the next instruction. -/
def runContext (x : Nat) (s : State) : Out :=
  let c := s.ctx x
  match boundaryTrap x s with
  | some t => .next t
  | none =>
    match c.run with
    | .waiting w => runAgain x w.instr s
    | .parked _ (some i) => runAgain x i s
    | .parked _ none => issueNext x (s.setCtx x { c with run := .ready })
    | .ready => issueNext x s
    | _ => .next s

/-- A slot in which nothing can issue lets work under way go on, where there is any: the oldest request of the core's contexts is performed,
or the oldest performed result of a context is written, or device time passes (log entry 3). -/
def idleSlot (k : Nat) (s : State) : State :=
  match (List.range s.reqs.length).find? (fun i => match s.reqs[i]? with | some r => r.src == k && reqFirst s i | none => false) with
  | some i => performAt i s
  | none =>
    match (coreCtxs k).find? (fun x => (s.core k).droopAt.isNone && (s.ctx x).canLand.isSome) with
    | some x => landResult x ((s.ctx x).canLand.getD 0) s
    | none => s.modPkg fun p => { p with time := p.time + 1 }

/-- Is a context in the middle of an instruction: it waits, or its access is held. -/
def midway (s : State) (x : Nat) : Bool :=
  match (s.ctx x).run with
  | .waiting _ => true
  | .parked _ (some _) => true
  | _ => false

/-- Does a context that goes on now issue an instruction, rather than go on with one or take a pending trap. -/
def issues (s : State) (x : Nat) : Bool := !(midway s x) && (boundaryTrap x s).isNone

/-- A slot of the user contexts (R21, R32): only an issue uses it up. A context that goes on with an instruction, or takes a pending trap, does so
beside it, and one that still waits keeps no other from issuing. -/
def userSlot (k : Nat) : Nat → List Nat → State → Out
  | 0, _, s => .next (passSlot s k true)
  | n + 1, skip, s =>
    match pickFrom s k skip with
    | none => .next (if skip.any fun x => !(midway s x) then passSlot s k true else idleSlot k (passSlot s k true))
    | some x =>
      if issues (passSlot s k true) x then runContext x (passSlot s k true)
      else match runContext x s with
        | .next t => userSlot k n (x :: skip) t
        | o => o

/-- One open issue slot of a core (R21): context 7 first; user contexts only where the fetch duty is at least 1. After a droop stop the contexts
take their traps before context 7 goes on (R227). -/
def slotTurn (k : Nat) (s : State) : Out :=
  if 1536 ≤ k then .fault .noSuchUnit
  else if !(clockRuns s k) then .next (idleSlot k s)
  else if droopDue s k then
    (match (userCtxs k).find? fun x => (s.ctx x).pendDroop.isSome && selectable s x with
    | some x => runContext x s
    | none => .next (idleSlot k s))
  else
    let users := fun t => if (t.core k).dutyD = 0 then .next (idleSlot k (passSlot t k true)) else userSlot k 8 [] t
    if selectable s (ctxKey k 7) then
      if issues (passSlot s k false) (ctxKey k 7) then runContext (ctxKey k 7) (passSlot s k false)
      else match runContext (ctxKey k 7) s with
        | .next t => if midway t (ctxKey k 7) then users t else .next (passSlot t k false)
        | o => o
    else users s

/-- One turn of the machine: what the agenda lists first, else an issue slot of the focus core (log entry 3). -/
def turn (s : State) : Out :=
  match s.agenda with
  | [] => slotTurn s.focus s
  | t :: rest =>
    let s1 := { s with agenda := rest }
    match t with
    | .slot k => slotTurn k s1
    | .event i => if isWord i then .next s1 else exec i s1
    | .tick n => .next (s1.modPkg fun p => { p with time := p.time + n })

/-- The context that the model places a table word for: context 7 for an instruction reserved to it, else context 0. -/
def placeCtx (s : State) (i : Option Instr) : Nat :=
  ctxKey s.focus (match i with | some j => if j.supervisorOnly then 7 else 0 | none => 0)

/-- Make the next turn fetch and issue a word: a Ready context with nothing pending, its die and its core running, the word in the
instruction cache at its PC, and a slot of its core next. -/
def stageWord (s : State) (x : Nat) (w : BitVec 96) : State :=
  let s1 := s.modCtx x fun c =>
    { c with run := .ready, pend := [], pendDroop := none, pendPreempt := false, pendStep := none, pendThrottle := none, deferArmed := false,
             bkpt := [], held := 0 }
  let s2 := s1.modDie (coreDie (coreOf x)) fun d => { d with run := .running }
  let s3 := s2.modCore (coreOf x) fun c =>
    { c with asleep := ctxNo x != 7, killed := false, droopAt := none, dutyD := max 1 c.dutyD }
  let s4 := if ctxNo x = 7 then s3 else (coreCtxs (coreOf x)).foldl (fun t y =>
    if y = x then t else t.modCtx y fun c => { c with run := .free }) s3
  { placeWord s4 x w with agenda := .slot (coreOf x) :: s.agenda }

end Sys2Proof.Machine
end

