-- ==== Sys2Proof/Machine/Step.lean ====
section
/-! DEFINITION. One step of the machine, and the placing of a word for the next step. -/

namespace Sys2Proof.Machine

/-- ONE STEP: one turn of the schedule. -/
def step (s : State) : Host.Outcome State Fault Refusal := turn s

/-- The state in which the next step runs the instruction whose bits are `w` (log entry 8). -/
def State.withFetchWord (s : State) (nbits w : Nat) : State :=
  stageWord s (placeCtx s (decodeTableWord nbits w)) (BitVec.ofNat 96 (w % 2 ^ nbits))

end Sys2Proof.Machine
end

