-- ==== Sys2Proof/Laws/State.lean ====
section
/-! SUPPORT. Small lemmas of the sparse map, of the state's updates and of a context's registers: what each accessor reads after each
update. -/

namespace Sys2Proof

namespace SMap

variable {α : Type}

/-- Reading through a list of smaller keys. -/
theorem getD_filter_lt (m : SMap α) (k j : Nat) (d : α) (l : SMap α) :
    getD (m.filter (fun e => e.1 < k) ++ l) j d = if j < k then getD m j (getD l j d) else getD l j d := by
  induction m with
  | nil => simp [getD]
  | cons e m ih =>
    obtain ⟨i, x⟩ := e
    by_cases hi : i < k
    · by_cases hj : i = j
      · subst hj; simp [hi, getD]
      · simp [hi, getD, hj, ih]
    · by_cases hj : i = j
      · subst hj; simp [hi, ih]
      · simp [hi, getD, hj, ih]

/-- Reading through a list of larger keys. -/
theorem getD_filter_gt (m : SMap α) (k j : Nat) (d : α) :
    getD (m.filter (fun e => k < e.1)) j d = if k < j then getD m j d else d := by
  induction m with
  | nil => simp [getD]
  | cons e m ih =>
    obtain ⟨i, x⟩ := e
    by_cases hi : k < i
    · by_cases hj : i = j
      · subst hj; simp [hi, getD]
      · simp [hi, getD, hj, ih]
    · by_cases hj : i = j
      · subst hj; simp [hi, ih]
      · simp [hi, getD, hj, ih]

/-- A default that the list answers with is not looked at where a value is listed. -/
theorem getD_getD (m : SMap α) (j : Nat) (d : α) : getD m j (getD m j d) = getD m j d := by
  induction m with
  | nil => rfl
  | cons e m ih =>
    obtain ⟨i, x⟩ := e
    by_cases hj : i = j <;> simp [getD, hj, ih]

@[simp] theorem getD_put_same (m : SMap α) (k : Nat) (x d : α) : getD (put m k x) k d = x := by
  simp [put, getD_filter_lt, getD]

theorem getD_put_ne (m : SMap α) (k j : Nat) (x d : α) (h : j ≠ k) : getD (put m k x) j d = getD m j d := by
  have hk : k ≠ j := fun e => h e.symm
  by_cases hlt : j < k
  · have hg : ¬ k < j := by omega
    simp [put, getD_filter_lt, getD, hlt, hk, getD_filter_gt, hg]
  · have hg : k < j := by omega
    simp [put, getD_filter_lt, getD, hlt, hk, getD_filter_gt, hg]

theorem getD_put (m : SMap α) (k j : Nat) (x d : α) : getD (put m k x) j d = if j = k then x else getD m j d := by
  by_cases h : j = k
  · subst h; simp
  · simp [h, getD_put_ne]

theorem getD_erase (m : SMap α) (k j : Nat) (d : α) : getD (erase m k) j d = if j = k then d else getD m j d := by
  by_cases h : j = k
  · subst h; simp [erase, getD_filter_lt, getD_filter_gt]
  · by_cases hlt : j < k
    · have hg : ¬ k < j := by omega
      simp [erase, getD_filter_lt, getD_filter_gt, h, hlt, hg]
    · have hg : k < j := by omega
      simp [erase, getD_filter_lt, getD_filter_gt, h, hlt, hg]

theorem getD_putD [DecidableEq α] (m : SMap α) (k j : Nat) (d x : α) : getD (putD m k d x) j d = if j = k then x else getD m j d := by
  unfold putD
  by_cases hx : x = d
  · subst hx; simp [getD_erase]
  · simp [hx, getD_put]

end SMap

namespace Machine

/-! ### Updates of the state -/
@[simp] theorem State.setCtx_cores (s : State) (x : Nat) (c : Ctx) : (s.setCtx x c).cores = s.cores := rfl
@[simp] theorem State.setCtx_clusters (s : State) (x : Nat) (c : Ctx) : (s.setCtx x c).clusters = s.clusters := rfl
@[simp] theorem State.setCtx_dies (s : State) (x : Nat) (c : Ctx) : (s.setCtx x c).dies = s.dies := rfl
@[simp] theorem State.setCtx_pkg (s : State) (x : Nat) (c : Ctx) : (s.setCtx x c).pkg = s.pkg := rfl
@[simp] theorem State.setCtx_mem (s : State) (x : Nat) (c : Ctx) : (s.setCtx x c).mem = s.mem := rfl
@[simp] theorem State.setCtx_poison (s : State) (x : Nat) (c : Ctx) : (s.setCtx x c).poison = s.poison := rfl
@[simp] theorem State.setCtx_reqs (s : State) (x : Nat) (c : Ctx) : (s.setCtx x c).reqs = s.reqs := rfl
@[simp] theorem State.setCtx_cmds (s : State) (x : Nat) (c : Ctx) : (s.setCtx x c).cmds = s.cmds := rfl
@[simp] theorem State.setCtx_replies (s : State) (x : Nat) (c : Ctx) : (s.setCtx x c).replies = s.replies := rfl
@[simp] theorem State.setCtx_recs (s : State) (x : Nat) (c : Ctx) : (s.setCtx x c).recs = s.recs := rfl
@[simp] theorem State.setCtx_evs (s : State) (x : Nat) (c : Ctx) : (s.setCtx x c).evs = s.evs := rfl
@[simp] theorem State.setCtx_migs (s : State) (x : Nat) (c : Ctx) : (s.setCtx x c).migs = s.migs := rfl
@[simp] theorem State.setCtx_cur (s : State) (x : Nat) (c : Ctx) : (s.setCtx x c).cur = s.cur := rfl
@[simp] theorem State.setCtx_agenda (s : State) (x : Nat) (c : Ctx) : (s.setCtx x c).agenda = s.agenda := rfl
@[simp] theorem State.setCtx_focus (s : State) (x : Nat) (c : Ctx) : (s.setCtx x c).focus = s.focus := rfl
@[simp] theorem State.setCtx_nextId (s : State) (x : Nat) (c : Ctx) : (s.setCtx x c).nextId = s.nextId := rfl
@[simp] theorem State.setCtx_freeCtr (s : State) (x : Nat) (c : Ctx) : (s.setCtx x c).freeCtr = s.freeCtr := rfl
@[simp] theorem State.modCtx_cores (s : State) (x : Nat) (g : Ctx → Ctx) : (s.modCtx x g).cores = s.cores := rfl
@[simp] theorem State.modCtx_clusters (s : State) (x : Nat) (g : Ctx → Ctx) : (s.modCtx x g).clusters = s.clusters := rfl
@[simp] theorem State.modCtx_dies (s : State) (x : Nat) (g : Ctx → Ctx) : (s.modCtx x g).dies = s.dies := rfl
@[simp] theorem State.modCtx_pkg (s : State) (x : Nat) (g : Ctx → Ctx) : (s.modCtx x g).pkg = s.pkg := rfl
@[simp] theorem State.modCtx_mem (s : State) (x : Nat) (g : Ctx → Ctx) : (s.modCtx x g).mem = s.mem := rfl
@[simp] theorem State.modCtx_poison (s : State) (x : Nat) (g : Ctx → Ctx) : (s.modCtx x g).poison = s.poison := rfl
@[simp] theorem State.modCtx_reqs (s : State) (x : Nat) (g : Ctx → Ctx) : (s.modCtx x g).reqs = s.reqs := rfl
@[simp] theorem State.modCtx_cmds (s : State) (x : Nat) (g : Ctx → Ctx) : (s.modCtx x g).cmds = s.cmds := rfl
@[simp] theorem State.modCtx_replies (s : State) (x : Nat) (g : Ctx → Ctx) : (s.modCtx x g).replies = s.replies := rfl
@[simp] theorem State.modCtx_recs (s : State) (x : Nat) (g : Ctx → Ctx) : (s.modCtx x g).recs = s.recs := rfl
@[simp] theorem State.modCtx_evs (s : State) (x : Nat) (g : Ctx → Ctx) : (s.modCtx x g).evs = s.evs := rfl
@[simp] theorem State.modCtx_migs (s : State) (x : Nat) (g : Ctx → Ctx) : (s.modCtx x g).migs = s.migs := rfl
@[simp] theorem State.modCtx_cur (s : State) (x : Nat) (g : Ctx → Ctx) : (s.modCtx x g).cur = s.cur := rfl
@[simp] theorem State.modCtx_agenda (s : State) (x : Nat) (g : Ctx → Ctx) : (s.modCtx x g).agenda = s.agenda := rfl
@[simp] theorem State.modCtx_focus (s : State) (x : Nat) (g : Ctx → Ctx) : (s.modCtx x g).focus = s.focus := rfl
@[simp] theorem State.modCtx_nextId (s : State) (x : Nat) (g : Ctx → Ctx) : (s.modCtx x g).nextId = s.nextId := rfl
@[simp] theorem State.modCtx_freeCtr (s : State) (x : Nat) (g : Ctx → Ctx) : (s.modCtx x g).freeCtr = s.freeCtr := rfl
@[simp] theorem State.setCore_ctxs (s : State) (k : Nat) (c : Core) : (s.setCore k c).ctxs = s.ctxs := rfl
@[simp] theorem State.setCore_clusters (s : State) (k : Nat) (c : Core) : (s.setCore k c).clusters = s.clusters := rfl
@[simp] theorem State.setCore_dies (s : State) (k : Nat) (c : Core) : (s.setCore k c).dies = s.dies := rfl
@[simp] theorem State.setCore_pkg (s : State) (k : Nat) (c : Core) : (s.setCore k c).pkg = s.pkg := rfl
@[simp] theorem State.setCore_mem (s : State) (k : Nat) (c : Core) : (s.setCore k c).mem = s.mem := rfl
@[simp] theorem State.setCore_poison (s : State) (k : Nat) (c : Core) : (s.setCore k c).poison = s.poison := rfl
@[simp] theorem State.setCore_reqs (s : State) (k : Nat) (c : Core) : (s.setCore k c).reqs = s.reqs := rfl
@[simp] theorem State.setCore_cmds (s : State) (k : Nat) (c : Core) : (s.setCore k c).cmds = s.cmds := rfl
@[simp] theorem State.setCore_replies (s : State) (k : Nat) (c : Core) : (s.setCore k c).replies = s.replies := rfl
@[simp] theorem State.setCore_recs (s : State) (k : Nat) (c : Core) : (s.setCore k c).recs = s.recs := rfl
@[simp] theorem State.setCore_evs (s : State) (k : Nat) (c : Core) : (s.setCore k c).evs = s.evs := rfl
@[simp] theorem State.setCore_migs (s : State) (k : Nat) (c : Core) : (s.setCore k c).migs = s.migs := rfl
@[simp] theorem State.setCore_cur (s : State) (k : Nat) (c : Core) : (s.setCore k c).cur = s.cur := rfl
@[simp] theorem State.setCore_agenda (s : State) (k : Nat) (c : Core) : (s.setCore k c).agenda = s.agenda := rfl
@[simp] theorem State.setCore_focus (s : State) (k : Nat) (c : Core) : (s.setCore k c).focus = s.focus := rfl
@[simp] theorem State.setCore_nextId (s : State) (k : Nat) (c : Core) : (s.setCore k c).nextId = s.nextId := rfl
@[simp] theorem State.setCore_freeCtr (s : State) (k : Nat) (c : Core) : (s.setCore k c).freeCtr = s.freeCtr := rfl
@[simp] theorem State.modCore_ctxs (s : State) (k : Nat) (g : Core → Core) : (s.modCore k g).ctxs = s.ctxs := rfl
@[simp] theorem State.modCore_clusters (s : State) (k : Nat) (g : Core → Core) : (s.modCore k g).clusters = s.clusters := rfl
@[simp] theorem State.modCore_dies (s : State) (k : Nat) (g : Core → Core) : (s.modCore k g).dies = s.dies := rfl
@[simp] theorem State.modCore_pkg (s : State) (k : Nat) (g : Core → Core) : (s.modCore k g).pkg = s.pkg := rfl
@[simp] theorem State.modCore_mem (s : State) (k : Nat) (g : Core → Core) : (s.modCore k g).mem = s.mem := rfl
@[simp] theorem State.modCore_poison (s : State) (k : Nat) (g : Core → Core) : (s.modCore k g).poison = s.poison := rfl
@[simp] theorem State.modCore_reqs (s : State) (k : Nat) (g : Core → Core) : (s.modCore k g).reqs = s.reqs := rfl
@[simp] theorem State.modCore_cmds (s : State) (k : Nat) (g : Core → Core) : (s.modCore k g).cmds = s.cmds := rfl
@[simp] theorem State.modCore_replies (s : State) (k : Nat) (g : Core → Core) : (s.modCore k g).replies = s.replies := rfl
@[simp] theorem State.modCore_recs (s : State) (k : Nat) (g : Core → Core) : (s.modCore k g).recs = s.recs := rfl
@[simp] theorem State.modCore_evs (s : State) (k : Nat) (g : Core → Core) : (s.modCore k g).evs = s.evs := rfl
@[simp] theorem State.modCore_migs (s : State) (k : Nat) (g : Core → Core) : (s.modCore k g).migs = s.migs := rfl
@[simp] theorem State.modCore_cur (s : State) (k : Nat) (g : Core → Core) : (s.modCore k g).cur = s.cur := rfl
@[simp] theorem State.modCore_agenda (s : State) (k : Nat) (g : Core → Core) : (s.modCore k g).agenda = s.agenda := rfl
@[simp] theorem State.modCore_focus (s : State) (k : Nat) (g : Core → Core) : (s.modCore k g).focus = s.focus := rfl
@[simp] theorem State.modCore_nextId (s : State) (k : Nat) (g : Core → Core) : (s.modCore k g).nextId = s.nextId := rfl
@[simp] theorem State.modCore_freeCtr (s : State) (k : Nat) (g : Core → Core) : (s.modCore k g).freeCtr = s.freeCtr := rfl
@[simp] theorem State.modCluster_ctxs (s : State) (q : Nat) (g : Cluster → Cluster) : (s.modCluster q g).ctxs = s.ctxs := rfl
@[simp] theorem State.modCluster_cores (s : State) (q : Nat) (g : Cluster → Cluster) : (s.modCluster q g).cores = s.cores := rfl
@[simp] theorem State.modCluster_dies (s : State) (q : Nat) (g : Cluster → Cluster) : (s.modCluster q g).dies = s.dies := rfl
@[simp] theorem State.modCluster_pkg (s : State) (q : Nat) (g : Cluster → Cluster) : (s.modCluster q g).pkg = s.pkg := rfl
@[simp] theorem State.modCluster_mem (s : State) (q : Nat) (g : Cluster → Cluster) : (s.modCluster q g).mem = s.mem := rfl
@[simp] theorem State.modCluster_poison (s : State) (q : Nat) (g : Cluster → Cluster) : (s.modCluster q g).poison = s.poison := rfl
@[simp] theorem State.modCluster_reqs (s : State) (q : Nat) (g : Cluster → Cluster) : (s.modCluster q g).reqs = s.reqs := rfl
@[simp] theorem State.modCluster_cmds (s : State) (q : Nat) (g : Cluster → Cluster) : (s.modCluster q g).cmds = s.cmds := rfl
@[simp] theorem State.modCluster_replies (s : State) (q : Nat) (g : Cluster → Cluster) : (s.modCluster q g).replies = s.replies := rfl
@[simp] theorem State.modCluster_recs (s : State) (q : Nat) (g : Cluster → Cluster) : (s.modCluster q g).recs = s.recs := rfl
@[simp] theorem State.modCluster_evs (s : State) (q : Nat) (g : Cluster → Cluster) : (s.modCluster q g).evs = s.evs := rfl
@[simp] theorem State.modCluster_migs (s : State) (q : Nat) (g : Cluster → Cluster) : (s.modCluster q g).migs = s.migs := rfl
@[simp] theorem State.modCluster_cur (s : State) (q : Nat) (g : Cluster → Cluster) : (s.modCluster q g).cur = s.cur := rfl
@[simp] theorem State.modCluster_agenda (s : State) (q : Nat) (g : Cluster → Cluster) : (s.modCluster q g).agenda = s.agenda := rfl
@[simp] theorem State.modCluster_focus (s : State) (q : Nat) (g : Cluster → Cluster) : (s.modCluster q g).focus = s.focus := rfl
@[simp] theorem State.modCluster_nextId (s : State) (q : Nat) (g : Cluster → Cluster) : (s.modCluster q g).nextId = s.nextId := rfl
@[simp] theorem State.modCluster_freeCtr (s : State) (q : Nat) (g : Cluster → Cluster) : (s.modCluster q g).freeCtr = s.freeCtr := rfl
@[simp] theorem State.modDie_ctxs (s : State) (d : Nat) (g : Die → Die) : (s.modDie d g).ctxs = s.ctxs := rfl
@[simp] theorem State.modDie_cores (s : State) (d : Nat) (g : Die → Die) : (s.modDie d g).cores = s.cores := rfl
@[simp] theorem State.modDie_clusters (s : State) (d : Nat) (g : Die → Die) : (s.modDie d g).clusters = s.clusters := rfl
@[simp] theorem State.modDie_pkg (s : State) (d : Nat) (g : Die → Die) : (s.modDie d g).pkg = s.pkg := rfl
@[simp] theorem State.modDie_mem (s : State) (d : Nat) (g : Die → Die) : (s.modDie d g).mem = s.mem := rfl
@[simp] theorem State.modDie_poison (s : State) (d : Nat) (g : Die → Die) : (s.modDie d g).poison = s.poison := rfl
@[simp] theorem State.modDie_reqs (s : State) (d : Nat) (g : Die → Die) : (s.modDie d g).reqs = s.reqs := rfl
@[simp] theorem State.modDie_cmds (s : State) (d : Nat) (g : Die → Die) : (s.modDie d g).cmds = s.cmds := rfl
@[simp] theorem State.modDie_replies (s : State) (d : Nat) (g : Die → Die) : (s.modDie d g).replies = s.replies := rfl
@[simp] theorem State.modDie_recs (s : State) (d : Nat) (g : Die → Die) : (s.modDie d g).recs = s.recs := rfl
@[simp] theorem State.modDie_evs (s : State) (d : Nat) (g : Die → Die) : (s.modDie d g).evs = s.evs := rfl
@[simp] theorem State.modDie_migs (s : State) (d : Nat) (g : Die → Die) : (s.modDie d g).migs = s.migs := rfl
@[simp] theorem State.modDie_cur (s : State) (d : Nat) (g : Die → Die) : (s.modDie d g).cur = s.cur := rfl
@[simp] theorem State.modDie_agenda (s : State) (d : Nat) (g : Die → Die) : (s.modDie d g).agenda = s.agenda := rfl
@[simp] theorem State.modDie_focus (s : State) (d : Nat) (g : Die → Die) : (s.modDie d g).focus = s.focus := rfl
@[simp] theorem State.modDie_nextId (s : State) (d : Nat) (g : Die → Die) : (s.modDie d g).nextId = s.nextId := rfl
@[simp] theorem State.modDie_freeCtr (s : State) (d : Nat) (g : Die → Die) : (s.modDie d g).freeCtr = s.freeCtr := rfl
@[simp] theorem State.modPkg_ctxs (s : State) (g : Package → Package) : (s.modPkg g).ctxs = s.ctxs := rfl
@[simp] theorem State.modPkg_cores (s : State) (g : Package → Package) : (s.modPkg g).cores = s.cores := rfl
@[simp] theorem State.modPkg_clusters (s : State) (g : Package → Package) : (s.modPkg g).clusters = s.clusters := rfl
@[simp] theorem State.modPkg_dies (s : State) (g : Package → Package) : (s.modPkg g).dies = s.dies := rfl
@[simp] theorem State.modPkg_mem (s : State) (g : Package → Package) : (s.modPkg g).mem = s.mem := rfl
@[simp] theorem State.modPkg_poison (s : State) (g : Package → Package) : (s.modPkg g).poison = s.poison := rfl
@[simp] theorem State.modPkg_reqs (s : State) (g : Package → Package) : (s.modPkg g).reqs = s.reqs := rfl
@[simp] theorem State.modPkg_cmds (s : State) (g : Package → Package) : (s.modPkg g).cmds = s.cmds := rfl
@[simp] theorem State.modPkg_replies (s : State) (g : Package → Package) : (s.modPkg g).replies = s.replies := rfl
@[simp] theorem State.modPkg_recs (s : State) (g : Package → Package) : (s.modPkg g).recs = s.recs := rfl
@[simp] theorem State.modPkg_evs (s : State) (g : Package → Package) : (s.modPkg g).evs = s.evs := rfl
@[simp] theorem State.modPkg_migs (s : State) (g : Package → Package) : (s.modPkg g).migs = s.migs := rfl
@[simp] theorem State.modPkg_cur (s : State) (g : Package → Package) : (s.modPkg g).cur = s.cur := rfl
@[simp] theorem State.modPkg_agenda (s : State) (g : Package → Package) : (s.modPkg g).agenda = s.agenda := rfl
@[simp] theorem State.modPkg_focus (s : State) (g : Package → Package) : (s.modPkg g).focus = s.focus := rfl
@[simp] theorem State.modPkg_nextId (s : State) (g : Package → Package) : (s.modPkg g).nextId = s.nextId := rfl
@[simp] theorem State.modPkg_freeCtr (s : State) (g : Package → Package) : (s.modPkg g).freeCtr = s.freeCtr := rfl
@[simp] theorem State.modPkg_pkg (s : State) (g : Package → Package) : (s.modPkg g).pkg = g s.pkg := rfl
@[simp] theorem State.setCtx_ctx_same (s : State) (x : Nat) (c : Ctx) : (s.setCtx x c).ctx x = c := by
  simp [State.setCtx, State.ctx]
theorem State.setCtx_ctx_ne (s : State) (x : Nat) (c : Ctx) (y : Nat) (h : y ≠ x) : (s.setCtx x c).ctx y = s.ctx y := by
  simp [State.setCtx, State.ctx, SMap.getD_put, h]
theorem State.setCtx_ctx (s : State) (x : Nat) (c : Ctx) (y : Nat) : (s.setCtx x c).ctx y = if y = x then c else s.ctx y := by
  by_cases h : y = x
  · subst h; simp
  · simp [h, State.setCtx_ctx_ne]
@[simp] theorem State.modCtx_ctx_same (s : State) (x : Nat) (g : Ctx → Ctx) : (s.modCtx x g).ctx x = g (s.ctx x) := by
  simp [State.modCtx, State.ctx, State.setCtx]
theorem State.modCtx_ctx_ne (s : State) (x : Nat) (g : Ctx → Ctx) (y : Nat) (h : y ≠ x) : (s.modCtx x g).ctx y = s.ctx y := by
  simp [State.modCtx, State.ctx, State.setCtx, SMap.getD_put, h]
theorem State.modCtx_ctx (s : State) (x : Nat) (g : Ctx → Ctx) (y : Nat) : (s.modCtx x g).ctx y = if y = x then g (s.ctx x) else s.ctx y := by
  by_cases h : y = x
  · subst h; simp
  · simp [h, State.modCtx_ctx_ne]
@[simp] theorem State.setCore_ctx (s : State) (k : Nat) (c : Core) (y : Nat) : (s.setCore k c).ctx y = s.ctx y := rfl
@[simp] theorem State.modCore_ctx (s : State) (k : Nat) (g : Core → Core) (y : Nat) : (s.modCore k g).ctx y = s.ctx y := rfl
@[simp] theorem State.modCluster_ctx (s : State) (q : Nat) (g : Cluster → Cluster) (y : Nat) : (s.modCluster q g).ctx y = s.ctx y := rfl
@[simp] theorem State.modDie_ctx (s : State) (d : Nat) (g : Die → Die) (y : Nat) : (s.modDie d g).ctx y = s.ctx y := rfl
@[simp] theorem State.modPkg_ctx (s : State) (g : Package → Package) (y : Nat) : (s.modPkg g).ctx y = s.ctx y := rfl
@[simp] theorem State.setCtx_core (s : State) (x : Nat) (c : Ctx) (y : Nat) : (s.setCtx x c).core y = s.core y := rfl
@[simp] theorem State.modCtx_core (s : State) (x : Nat) (g : Ctx → Ctx) (y : Nat) : (s.modCtx x g).core y = s.core y := rfl
@[simp] theorem State.setCore_core_same (s : State) (k : Nat) (c : Core) : (s.setCore k c).core k = c := by
  simp [State.setCore, State.core]
theorem State.setCore_core_ne (s : State) (k : Nat) (c : Core) (y : Nat) (h : y ≠ k) : (s.setCore k c).core y = s.core y := by
  simp [State.setCore, State.core, SMap.getD_put, h]
theorem State.setCore_core (s : State) (k : Nat) (c : Core) (y : Nat) : (s.setCore k c).core y = if y = k then c else s.core y := by
  by_cases h : y = k
  · subst h; simp
  · simp [h, State.setCore_core_ne]
@[simp] theorem State.modCore_core_same (s : State) (k : Nat) (g : Core → Core) : (s.modCore k g).core k = g (s.core k) := by
  simp [State.modCore, State.core, State.setCore]
theorem State.modCore_core_ne (s : State) (k : Nat) (g : Core → Core) (y : Nat) (h : y ≠ k) : (s.modCore k g).core y = s.core y := by
  simp [State.modCore, State.core, State.setCore, SMap.getD_put, h]
theorem State.modCore_core (s : State) (k : Nat) (g : Core → Core) (y : Nat) : (s.modCore k g).core y = if y = k then g (s.core k) else s.core y := by
  by_cases h : y = k
  · subst h; simp
  · simp [h, State.modCore_core_ne]
@[simp] theorem State.modCluster_core (s : State) (q : Nat) (g : Cluster → Cluster) (y : Nat) : (s.modCluster q g).core y = s.core y := rfl
@[simp] theorem State.modDie_core (s : State) (d : Nat) (g : Die → Die) (y : Nat) : (s.modDie d g).core y = s.core y := rfl
@[simp] theorem State.modPkg_core (s : State) (g : Package → Package) (y : Nat) : (s.modPkg g).core y = s.core y := rfl
@[simp] theorem State.setCtx_cluster (s : State) (x : Nat) (c : Ctx) (y : Nat) : (s.setCtx x c).cluster y = s.cluster y := rfl
@[simp] theorem State.modCtx_cluster (s : State) (x : Nat) (g : Ctx → Ctx) (y : Nat) : (s.modCtx x g).cluster y = s.cluster y := rfl
@[simp] theorem State.setCore_cluster (s : State) (k : Nat) (c : Core) (y : Nat) : (s.setCore k c).cluster y = s.cluster y := rfl
@[simp] theorem State.modCore_cluster (s : State) (k : Nat) (g : Core → Core) (y : Nat) : (s.modCore k g).cluster y = s.cluster y := rfl
@[simp] theorem State.modCluster_cluster_same (s : State) (q : Nat) (g : Cluster → Cluster) : (s.modCluster q g).cluster q = g (s.cluster q) := by
  simp [State.modCluster, State.cluster]
theorem State.modCluster_cluster_ne (s : State) (q : Nat) (g : Cluster → Cluster) (y : Nat) (h : y ≠ q) : (s.modCluster q g).cluster y = s.cluster y := by
  simp [State.modCluster, State.cluster, SMap.getD_put, h]
theorem State.modCluster_cluster (s : State) (q : Nat) (g : Cluster → Cluster) (y : Nat) : (s.modCluster q g).cluster y = if y = q then g (s.cluster q) else s.cluster y := by
  by_cases h : y = q
  · subst h; simp
  · simp [h, State.modCluster_cluster_ne]
@[simp] theorem State.modDie_cluster (s : State) (d : Nat) (g : Die → Die) (y : Nat) : (s.modDie d g).cluster y = s.cluster y := rfl
@[simp] theorem State.modPkg_cluster (s : State) (g : Package → Package) (y : Nat) : (s.modPkg g).cluster y = s.cluster y := rfl
@[simp] theorem State.setCtx_die (s : State) (x : Nat) (c : Ctx) (y : Nat) : (s.setCtx x c).die y = s.die y := rfl
@[simp] theorem State.modCtx_die (s : State) (x : Nat) (g : Ctx → Ctx) (y : Nat) : (s.modCtx x g).die y = s.die y := rfl
@[simp] theorem State.setCore_die (s : State) (k : Nat) (c : Core) (y : Nat) : (s.setCore k c).die y = s.die y := rfl
@[simp] theorem State.modCore_die (s : State) (k : Nat) (g : Core → Core) (y : Nat) : (s.modCore k g).die y = s.die y := rfl
@[simp] theorem State.modCluster_die (s : State) (q : Nat) (g : Cluster → Cluster) (y : Nat) : (s.modCluster q g).die y = s.die y := rfl
@[simp] theorem State.modDie_die_same (s : State) (d : Nat) (g : Die → Die) : (s.modDie d g).die d = g (s.die d) := by
  simp [State.modDie, State.die]
theorem State.modDie_die_ne (s : State) (d : Nat) (g : Die → Die) (y : Nat) (h : y ≠ d) : (s.modDie d g).die y = s.die y := by
  simp [State.modDie, State.die, SMap.getD_put, h]
theorem State.modDie_die (s : State) (d : Nat) (g : Die → Die) (y : Nat) : (s.modDie d g).die y = if y = d then g (s.die d) else s.die y := by
  by_cases h : y = d
  · subst h; simp
  · simp [h, State.modDie_die_ne]
@[simp] theorem State.modPkg_die (s : State) (g : Package → Package) (y : Nat) : (s.modPkg g).die y = s.die y := rfl
@[simp] theorem State.fresh_fst (s : State) : s.fresh.1 = s.nextId := rfl
@[simp] theorem State.free_fst (s : State) : s.free.1 = Config.freeWord s.freeCtr := rfl

@[simp] theorem State.fresh_ctxs (s : State) : s.fresh.2.ctxs = s.ctxs := rfl
@[simp] theorem State.fresh_cores (s : State) : s.fresh.2.cores = s.cores := rfl
@[simp] theorem State.fresh_clusters (s : State) : s.fresh.2.clusters = s.clusters := rfl
@[simp] theorem State.fresh_dies (s : State) : s.fresh.2.dies = s.dies := rfl
@[simp] theorem State.fresh_pkg (s : State) : s.fresh.2.pkg = s.pkg := rfl
@[simp] theorem State.fresh_mem (s : State) : s.fresh.2.mem = s.mem := rfl
@[simp] theorem State.fresh_poison (s : State) : s.fresh.2.poison = s.poison := rfl
@[simp] theorem State.fresh_reqs (s : State) : s.fresh.2.reqs = s.reqs := rfl
@[simp] theorem State.fresh_cmds (s : State) : s.fresh.2.cmds = s.cmds := rfl
@[simp] theorem State.fresh_replies (s : State) : s.fresh.2.replies = s.replies := rfl
@[simp] theorem State.fresh_recs (s : State) : s.fresh.2.recs = s.recs := rfl
@[simp] theorem State.fresh_evs (s : State) : s.fresh.2.evs = s.evs := rfl
@[simp] theorem State.fresh_migs (s : State) : s.fresh.2.migs = s.migs := rfl
@[simp] theorem State.fresh_cur (s : State) : s.fresh.2.cur = s.cur := rfl
@[simp] theorem State.fresh_agenda (s : State) : s.fresh.2.agenda = s.agenda := rfl
@[simp] theorem State.fresh_focus (s : State) : s.fresh.2.focus = s.focus := rfl
@[simp] theorem State.fresh_nextId (s : State) : s.fresh.2.nextId = s.nextId + 1 := rfl
@[simp] theorem State.fresh_freeCtr (s : State) : s.fresh.2.freeCtr = s.freeCtr := rfl
@[simp] theorem State.fresh_ctx (s : State) (y : Nat) : s.fresh.2.ctx y = s.ctx y := rfl
@[simp] theorem State.fresh_core (s : State) (y : Nat) : s.fresh.2.core y = s.core y := rfl
@[simp] theorem State.fresh_cluster (s : State) (y : Nat) : s.fresh.2.cluster y = s.cluster y := rfl
@[simp] theorem State.fresh_die (s : State) (y : Nat) : s.fresh.2.die y = s.die y := rfl
@[simp] theorem State.free_ctxs (s : State) : s.free.2.ctxs = s.ctxs := rfl
@[simp] theorem State.free_cores (s : State) : s.free.2.cores = s.cores := rfl
@[simp] theorem State.free_clusters (s : State) : s.free.2.clusters = s.clusters := rfl
@[simp] theorem State.free_dies (s : State) : s.free.2.dies = s.dies := rfl
@[simp] theorem State.free_pkg (s : State) : s.free.2.pkg = s.pkg := rfl
@[simp] theorem State.free_mem (s : State) : s.free.2.mem = s.mem := rfl
@[simp] theorem State.free_poison (s : State) : s.free.2.poison = s.poison := rfl
@[simp] theorem State.free_reqs (s : State) : s.free.2.reqs = s.reqs := rfl
@[simp] theorem State.free_cmds (s : State) : s.free.2.cmds = s.cmds := rfl
@[simp] theorem State.free_replies (s : State) : s.free.2.replies = s.replies := rfl
@[simp] theorem State.free_recs (s : State) : s.free.2.recs = s.recs := rfl
@[simp] theorem State.free_evs (s : State) : s.free.2.evs = s.evs := rfl
@[simp] theorem State.free_migs (s : State) : s.free.2.migs = s.migs := rfl
@[simp] theorem State.free_cur (s : State) : s.free.2.cur = s.cur := rfl
@[simp] theorem State.free_agenda (s : State) : s.free.2.agenda = s.agenda := rfl
@[simp] theorem State.free_focus (s : State) : s.free.2.focus = s.focus := rfl
@[simp] theorem State.free_nextId (s : State) : s.free.2.nextId = s.nextId := rfl
@[simp] theorem State.free_freeCtr (s : State) : s.free.2.freeCtr = s.freeCtr + 1 := rfl
@[simp] theorem State.free_ctx (s : State) (y : Nat) : s.free.2.ctx y = s.ctx y := rfl
@[simp] theorem State.free_core (s : State) (y : Nat) : s.free.2.core y = s.core y := rfl
@[simp] theorem State.free_cluster (s : State) (y : Nat) : s.free.2.cluster y = s.cluster y := rfl
@[simp] theorem State.free_die (s : State) (y : Nat) : s.free.2.die y = s.die y := rfl

/-! ### Registers of a context -/

@[simp] theorem Ctx.pred_zero (c : Ctx) : c.pred 0 = allOf true := rfl
@[simp] theorem Ctx.setPred_zero (c : Ctx) (v : Word) : c.setPred 0 v = c := rfl

theorem Ctx.pred_setPred (c : Ctx) (n m : Nat) (v : Word) :
    (c.setPred n v).pred m = if m = n ∧ n ≠ 0 then v else c.pred m := by
  by_cases hn : n = 0
  · subst hn; simp
  · by_cases hm : m = n
    · subst hm; simp [Ctx.setPred, Ctx.pred, hn]
    · simp [Ctx.setPred, Ctx.pred, hn, hm, SMap.getD_put]

@[simp] theorem Ctx.setPred_w (c : Ctx) (n m : Nat) (v : Word) : (c.setPred n v).w m = c.w m := by
  unfold Ctx.setPred Ctx.w Ctx.entry
  split <;> rfl

@[simp] theorem Ctx.setPred_vec (c : Ctx) (n m : Nat) (v : Word) : (c.setPred n v).vec m = c.vec m := by
  unfold Ctx.setPred Ctx.vec
  split <;> rfl

@[simp] theorem Ctx.setEntry_pred (c : Ctx) (e m : Nat) (v : Word) : (c.setEntry e v).pred m = c.pred m := rfl
@[simp] theorem Ctx.setEntry_vec (c : Ctx) (e m : Nat) (v : Word) : (c.setEntry e v).vec m = c.vec m := rfl
@[simp] theorem Ctx.setEntry_wf (c : Ctx) (e : Nat) (v : Word) : (c.setEntry e v).wf = c.wf := rfl
@[simp] theorem Ctx.setW_pred (c : Ctx) (n m : Nat) (v : Word) : (c.setW n v).pred m = c.pred m := rfl
@[simp] theorem Ctx.setW_vec (c : Ctx) (n m : Nat) (v : Word) : (c.setW n v).vec m = c.vec m := rfl

/-- Two names of one window are two entries. -/
theorem Ctx.entry_inj (c : Ctx) (n m : Nat) (hn : n < 16) (hm : m < 16) : c.entry n = c.entry m ↔ n = m := by
  simp only [Ctx.entry]; omega

@[simp] theorem Ctx.setW_w_same (c : Ctx) (n : Nat) (v : Word) : (c.setW n v).w n = v := by
  simp [Ctx.setW, Ctx.setEntry, Ctx.w, Ctx.entry]

theorem Ctx.setW_w (c : Ctx) (n m : Nat) (v : Word) (hn : n < 16) (hm : m < 16) :
    (c.setW n v).w m = if m = n then v else c.w m := by
  by_cases h : m = n
  · subst h; simp
  · have hne : (8 * c.wf + m) % 64 ≠ (8 * c.wf + n) % 64 := by omega
    simp [Ctx.setW, Ctx.setEntry, Ctx.w, Ctx.entry, h, SMap.getD_put, hne]

@[simp] theorem Ctx.setVec_same (c : Ctx) (n : Nat) (v : VReg) : (c.setVec n v).vec n = v := by
  simp [Ctx.setVec, Ctx.vec]

theorem Ctx.setVec_vec (c : Ctx) (n m : Nat) (v : VReg) : (c.setVec n v).vec m = if m = n then v else c.vec m := by
  simp [Ctx.setVec, Ctx.vec, SMap.getD_put]

@[simp] theorem Ctx.setVec_w (c : Ctx) (n m : Nat) (v : VReg) : (c.setVec n v).w m = c.w m := rfl
@[simp] theorem Ctx.setVec_pred (c : Ctx) (n m : Nat) (v : VReg) : (c.setVec n v).pred m = c.pred m := rfl

end Machine

end Sys2Proof
end

