-- ==== Sys2Proof/Laws/Issue.lean ====
section
/-! SUPPORT. What issuing and retiring an instruction can do: one lemma per shared operation. -/

namespace Sys2Proof.Machine

/-! ### Retiring (R23, R35, R75, R80) -/

/-- Where the flow goes after an instruction that does not transfer: only the PC and the loop registers move. -/
theorem fallThrough_eq (c : Ctx) (pc : Word) :
    fallThrough c pc = { c with pc := (fallThrough c pc).pc, loopcnt := (fallThrough c pc).loopcnt, lbody := (fallThrough c pc).lbody } := by
  unfold fallThrough; split <;> (try split) <;> rfl

/-- Outside an active loop's last instruction the flow goes on 12 bytes further. -/
theorem fallThrough_plain (c : Ctx) (pc : Word) (h : bitAt c.lbody 0 = false ∨ pc ≠ loopEnd c.lbody) :
    fallThrough c pc = { c with pc := pc + 12 } := by
  unfold fallThrough
  rw [if_neg]
  rcases h with h | h <;> simp [h]

/-- What the completion of an instruction can change in its context. -/
theorem Ctx.retire_eq (c : Ctx) (u : Bool) (pc : Word) (sw : Bool) (tgt : Option Word) :
    c.retire u pc sw tgt = { c with
      pc := (c.retire u pc sw tgt).pc
      loopcnt := (c.retire u pc sw tgt).loopcnt
      lbody := (c.retire u pc sw tgt).lbody
      pendStep := (c.retire u pc sw tgt).pendStep
      run := (c.retire u pc sw tgt).run
      deferArmed := (c.retire u pc sw tgt).deferArmed } := by
  unfold Ctx.retire
  cases tgt with
  | none => rw [fallThrough_eq]; cases sw <;> cases hu : u && bitAt c.dbgctl 0 <;> simp_all
  | some t => cases sw <;> cases hu : u && bitAt c.dbgctl 0 <;> simp_all

theorem Ctx.retire_w (c : Ctx) (u : Bool) (pc : Word) (sw : Bool) (tgt : Option Word) (n : Nat) :
    (c.retire u pc sw tgt).w n = c.w n := by rw [Ctx.retire_eq]; rfl
theorem Ctx.retire_pred (c : Ctx) (u : Bool) (pc : Word) (sw : Bool) (tgt : Option Word) (n : Nat) :
    (c.retire u pc sw tgt).pred n = c.pred n := by rw [Ctx.retire_eq]; rfl
theorem Ctx.retire_vec (c : Ctx) (u : Bool) (pc : Word) (sw : Bool) (tgt : Option Word) (n : Nat) :
    (c.retire u pc sw tgt).vec n = c.vec n := by rw [Ctx.retire_eq]; rfl
theorem Ctx.retire_stack (c : Ctx) (u : Bool) (pc : Word) (sw : Bool) (tgt : Option Word) :
    (c.retire u pc sw tgt).stack = c.stack := by rw [Ctx.retire_eq]
theorem Ctx.retire_p (c : Ctx) (u : Bool) (pc : Word) (sw : Bool) (tgt : Option Word) :
    (c.retire u pc sw tgt).p = c.p := by rw [Ctx.retire_eq]
theorem Ctx.retire_icount (c : Ctx) (u : Bool) (pc : Word) (sw : Bool) (tgt : Option Word) :
    (c.retire u pc sw tgt).icount = c.icount := by rw [Ctx.retire_eq]
theorem Ctx.retire_outstanding (c : Ctx) (u : Bool) (pc : Word) (sw : Bool) (tgt : Option Word) :
    (c.retire u pc sw tgt).outstanding = c.outstanding := by rw [Ctx.retire_eq]
theorem Ctx.retire_pc_none (c : Ctx) (u : Bool) (pc : Word) (sw : Bool) :
    (c.retire u pc sw none).pc = (fallThrough c pc).pc := by
  unfold Ctx.retire; cases sw <;> cases hu : u && bitAt c.dbgctl 0 <;> simp_all
theorem Ctx.retire_loopcnt_none (c : Ctx) (u : Bool) (pc : Word) (sw : Bool) :
    (c.retire u pc sw none).loopcnt = (fallThrough c pc).loopcnt := by
  unfold Ctx.retire; cases sw <;> cases hu : u && bitAt c.dbgctl 0 <;> simp_all
theorem Ctx.retire_lbody_none (c : Ctx) (u : Bool) (pc : Word) (sw : Bool) :
    (c.retire u pc sw none).lbody = (fallThrough c pc).lbody := by
  unfold Ctx.retire; cases sw <;> cases hu : u && bitAt c.dbgctl 0 <;> simp_all
theorem Ctx.retire_pc_some (c : Ctx) (u : Bool) (pc : Word) (sw : Bool) (t : Word) :
    (c.retire u pc sw (some t)).pc = t := by
  unfold Ctx.retire; cases sw <;> cases hu : u && bitAt c.dbgctl 0 <;> simp_all
theorem Ctx.retire_run_plain (c : Ctx) (u : Bool) (pc : Word) (tgt : Option Word) :
    (c.retire u pc false tgt).run = .ready := by
  unfold Ctx.retire; simp

theorem retire_ctx_same (x : Nat) (pc : Word) (sw : Bool) (tgt : Option Word) (s : State) :
    (retire x pc sw tgt s).ctx x = (s.ctx x).retire (ctxNo x != 7) pc sw tgt := State.modCtx_ctx_same _ _ _
theorem retire_ctx_ne (x y : Nat) (pc : Word) (sw : Bool) (tgt : Option Word) (s : State) (h : y ≠ x) :
    (retire x pc sw tgt s).ctx y = s.ctx y := State.modCtx_ctx_ne _ _ _ _ h
/-- Retiring touches one context and nothing else. -/
theorem retire_frame (x : Nat) (pc : Word) (sw : Bool) (tgt : Option Word) (s : State) :
    retire x pc sw tgt s = { s with ctxs := (retire x pc sw tgt s).ctxs } := rfl

/-! ### The choice of the next context (R21, R91) -/

/-- A fold that changes one context at a time in its hold count changes nothing else. -/
theorem holdFold_eq (x : Nat) (l : List Nat) (s : State) :
    let t := l.foldl (fun t y => if (t.ctx y).held = 0 ∨ y = x then t else t.modCtx y fun c => { c with held := 0 }) s
    t = { s with ctxs := t.ctxs } ∧ t.ctx x = s.ctx x ∧ ∀ y, t.ctx y = { s.ctx y with held := (t.ctx y).held } := by
  induction l generalizing s with
  | nil => exact ⟨rfl, rfl, fun _ => rfl⟩
  | cons a l ih =>
    simp only [List.foldl_cons]
    split
    · exact ih s
    · rename_i h
      obtain ⟨h1, h2, h3⟩ := ih (s.modCtx a fun c => { c with held := 0 })
      refine ⟨?_, ?_, ?_⟩
      · rw [h1]; simp [State.modCtx, State.setCtx]
      · rw [h2, State.modCtx_ctx_ne]; exact fun e => h (Or.inr e.symm)
      · intro y
        rw [h3 y]
        by_cases hy : y = a
        · subst hy; simp
        · rw [State.modCtx_ctx_ne _ _ _ _ hy]

/-- What an issue does to the choice of the next context: hold counts, and the core's `last` and `krun`. -/
theorem noteIssue_spec (x : Nat) (h : Hdr) (s : State) :
    noteIssue x h s = { s with ctxs := (noteIssue x h s).ctxs, cores := (noteIssue x h s).cores } ∧
    (∀ y, (noteIssue x h s).ctx y = { s.ctx y with held := ((noteIssue x h s).ctx y).held }) ∧
    (∀ k, (noteIssue x h s).core k = { s.core k with krun := ((noteIssue x h s).core k).krun, last := ((noteIssue x h s).core k).last }) := by
  unfold noteIssue
  dsimp only
  split
  · exact ⟨rfl, fun _ => rfl, fun _ => rfl⟩
  · obtain ⟨h1, h2, h3⟩ := holdFold_eq x (userCtxs (coreOf x)) s
    revert h1 h2 h3
    generalize (userCtxs (coreOf x)).foldl _ s = t
    intro h1 h2 h3
    have hc : t.cores = s.cores := by rw [h1]
    have hk : ∀ k, t.core k = s.core k := fun k => by simp only [State.core, hc]
    split
    · refine ⟨?_, ?_, ?_⟩
      · rw [h1]; rfl
      · intro y
        rw [State.modCtx_ctx]
        by_cases hy : y = x
        · subst hy; simp only [if_true]; rw [State.modCore_ctx, h3 y]
        · simp only [if_neg hy]; rw [State.modCore_ctx, h3 y]
      · intro k
        rw [State.modCtx_core, State.modCore_core]
        by_cases hkx : k = coreOf x
        · subst hkx; simp only [if_true, hk]
        · simp only [if_neg hkx, hk]
    · refine ⟨?_, ?_, ?_⟩
      · rw [h1]; rfl
      · intro y; rw [State.modCore_ctx, h3 y]
      · intro k
        rw [State.modCore_core]
        by_cases hkx : k = coreOf x
        · subst hkx; simp only [if_true, hk]
        · simp only [if_neg hkx, hk]

/-- What the charge of an issue does: the core's count of issues and its charges (R449). -/
theorem chargeIssue_spec (x : Nat) (s : State) :
    chargeIssue x s = { s with cores := (chargeIssue x s).cores } ∧
    (∀ y, (chargeIssue x s).ctx y = s.ctx y) ∧
    (∀ k, (chargeIssue x s).core k = { s.core k with issues := ((chargeIssue x s).core k).issues, charges := ((chargeIssue x s).core k).charges }) := by
  unfold chargeIssue
  refine ⟨rfl, fun y => State.modCore_ctx _ _ _ _, fun k => ?_⟩
  dsimp only
  rw [State.modCore_core]
  by_cases hk : k = coreOf x
  · subst hk; simp only [if_true]
  · simp only [if_neg hk]

theorem issued_eq (x : Nat) (h : Hdr) (s : State) :
    issued x h s = { s with ctxs := (issued x h s).ctxs, cores := (issued x h s).cores } := by
  have h1 := (noteIssue_spec x h (s.modCtx x fun c => { c with icount := c.icount + 1 })).1
  unfold issued
  revert h1
  generalize noteIssue x h (s.modCtx x fun c => { c with icount := c.icount + 1 }) = t
  intro h1
  rw [(chargeIssue_spec x t).1]
  dsimp only
  rw [h1]
  rfl

theorem issued_ctx (x y : Nat) (h : Hdr) (s : State) :
    (issued x h s).ctx y = (noteIssue x h (s.modCtx x fun c => { c with icount := c.icount + 1 })).ctx y := (chargeIssue_spec x _).2.1 y

theorem issued_ctx_same (x : Nat) (h : Hdr) (s : State) :
    (issued x h s).ctx x = { s.ctx x with icount := (s.ctx x).icount + 1, held := ((issued x h s).ctx x).held } := by
  have := (noteIssue_spec x h (s.modCtx x fun c => { c with icount := c.icount + 1 })).2.1 x
  rw [State.modCtx_ctx_same] at this
  rw [issued_ctx]
  exact this

theorem issued_ctx_ne (x y : Nat) (h : Hdr) (s : State) (hy : y ≠ x) :
    (issued x h s).ctx y = { s.ctx y with held := ((issued x h s).ctx y).held } := by
  have := (noteIssue_spec x h (s.modCtx x fun c => { c with icount := c.icount + 1 })).2.1 y
  rw [State.modCtx_ctx_ne _ _ _ _ hy] at this
  rw [issued_ctx]
  exact this

theorem issued_core (x : Nat) (h : Hdr) (s : State) (k : Nat) :
    (issued x h s).core k = { s.core k with
      krun := ((issued x h s).core k).krun, last := ((issued x h s).core k).last
      issues := ((issued x h s).core k).issues, charges := ((issued x h s).core k).charges } := by
  have h1 := (noteIssue_spec x h (s.modCtx x fun c => { c with icount := c.icount + 1 })).2.2 k
  rw [State.modCtx_core] at h1
  unfold issued
  revert h1
  generalize noteIssue x h (s.modCtx x fun c => { c with icount := c.icount + 1 }) = t
  intro h1
  rw [(chargeIssue_spec x t).2.2 k]
  dsimp only
  rw [h1]

/-! ### Issue -/

/-- A Ready context whose instruction is not reserved away from it, whose guard passes and which sends no packet as a dual copy: the effect
runs and is settled. -/
theorem issue_ready (i : Instr) (sup always : Bool) (eff : Nat → Ctx → State → Eff) (s : State)
    (hr : (s.ctx s.cur).run = .ready) (hs : sup = false ∨ ctxNo s.cur = 7)
    (hg : always = true ∨ guardPasses i.hdr (s.ctx s.cur) = true)
    (hd : (s.ctx s.cur).dual = none ∨ Instr.packet i = false) :
    issue i sup always eff s =
      .next (settle s.cur (s.ctx s.cur).pc i.hdr (eff s.cur ((issued s.cur i.hdr s).ctx s.cur) (issued s.cur i.hdr s))) := by
  unfold issue
  simp only [hr]
  rw [if_neg (by rcases hs with h | h <;> simp [h])]
  rw [if_pos (by rcases hg with h | h <;> simp [h])]
  rw [if_neg (by rcases hd with h | h <;> simp [h])]

/-- A guard that does not pass: the instruction takes its slot and its marker counts, and nothing else happens (R38). -/
theorem issue_guarded (i : Instr) (sup : Bool) (eff : Nat → Ctx → State → Eff) (s : State)
    (hr : (s.ctx s.cur).run = .ready) (hs : sup = false ∨ ctxNo s.cur = 7) (hg : guardPasses i.hdr (s.ctx s.cur) = false) :
    issue i sup false eff s = .next (retire s.cur (s.ctx s.cur).pc i.hdr.sw none (issued s.cur i.hdr s)) := by
  unfold issue
  simp only [hr]
  rw [if_neg (by rcases hs with h | h <;> simp [h])]
  rw [if_neg (by simp [hg])]

/-- An instruction reserved to context 7 traps 0x03 in a user context (R51). -/
theorem issue_reserved (i : Instr) (always : Bool) (eff : Nat → Ctx → State → Eff) (s : State)
    (hr : (s.ctx s.cur).run = .ready) (hs : ctxNo s.cur ≠ 7) :
    issue i true always eff s = .next (takeTrap s.cur (syncTrap 0x03 (s.ctx s.cur).pc none 0) s) := by
  unfold issue
  simp [hr, hs]

/-- A Waiting context goes on with the instruction it waits in. -/
theorem issue_waiting (i : Instr) (sup always : Bool) (eff : Nat → Ctx → State → Eff) (s : State) (w : Wait)
    (hr : (s.ctx s.cur).run = .waiting w) :
    issue i sup always eff s = .next (settle s.cur (s.ctx s.cur).pc i.hdr (eff s.cur (s.ctx s.cur) s)) := by
  unfold issue
  simp only [hr]

/-- A Parked context whose marker precedes the instruction's own effect goes on with it (R25). -/
theorem issue_parked (i : Instr) (sup always : Bool) (eff : Nat → Ctx → State → Eff) (s : State) (d : Bool) (j : Instr)
    (hr : (s.ctx s.cur).run = .parked d (some j)) :
    issue i sup always eff s = .next (settle s.cur (s.ctx s.cur).pc i.hdr (eff s.cur (s.ctx s.cur) s)) := by
  unfold issue
  simp only [hr]

/-- Whatever the effect, issuing answers a next state. -/
theorem issue_goes (i : Instr) (sup always : Bool) (eff : Nat → Ctx → State → Eff) (s : State) :
    ∃ t, issue i sup always eff s = .next t := by
  unfold issue
  simp only
  split <;> (try split) <;> (try split) <;> (try split) <;> exact ⟨_, rfl⟩

/-! ### Links and results -/

/-- An instruction that names no link has its sources at once. -/
theorem withLinks_none (x : Nat) (i : Instr) (f : Fields) (s : State) (k : SMap Word → State → Eff) (hl : f.links = [])
    (hw : (s.ctx x).wait? = none) : withLinks x i f s k = k [] s := by
  unfold withLinks
  simp [hw, hl, takeLinks]

/-- A short result is written at once (R22). -/
theorem writeResult_short (x : Nat) (f : Fields) (v : Word) (s : State) (hl : f.links = []) :
    writeResult x f v s = s.modCtx x fun c => c.writeD f.d v := by
  simp [writeResult, hl]

/-- The result of an instruction with a link source is long (R22). -/
theorem writeResult_long (x : Nat) (f : Fields) (v : Word) (s : State) (hl : f.links ≠ []) :
    writeResult x f v s = (startLong x ((s.ctx x).resultDst f.d) (some (.ok v.toNat)) s).2 := by
  unfold writeResult
  rw [if_neg]
  simpa using hl

/-- Starting a long result takes a fresh number and lists the result with the context's outstanding ones. -/
theorem startLong_ctx_same (x : Nat) (dst : LongDst) (v : Option LongVal) (s : State) :
    (startLong x dst v s).2.ctx x = { s.ctx x with outstanding := (s.ctx x).outstanding ++ [⟨s.nextId, dst, v, 0⟩] } := by
  simp [startLong, State.fresh, State.modCtx, State.setCtx, State.ctx]

end Sys2Proof.Machine
end

