-- ==== Sys2Proof/Laws/Memory.lean ====
section
/-! SUPPORT. Device memory: reading after writing, and that every operation on the list of cells keeps its canonical form. -/

namespace Sys2Proof.Machine

/-! ### One byte -/

@[simp] theorem memByte_memPut_same (m : List Host.Cell) (a : Nat) (b : Byte) : memByte (memPut m a b) a = b := by
  simp [memByte, memPut, SMap.getD_putD]

theorem memByte_memPut (m : List Host.Cell) (a j : Nat) (b : Byte) :
    memByte (memPut m a b) j = if j = a then b else memByte m j := by
  simp [memByte, memPut, SMap.getD_putD]

/-! ### The canonical form -/

@[simp] theorem Memory.wf_nil : Memory.wf [] = true := rfl

/-- The form, said of all cells at once: no zero byte is listed, and the addresses rise. -/
theorem Memory.wf_iff (m : List Host.Cell) :
    Memory.wf m = true ↔ (∀ c ∈ m, c.2 ≠ 0) ∧ m.Pairwise (fun a b => a.1 < b.1) := by
  induction m with
  | nil => simp
  | cons c rest ih =>
    cases rest with
    | nil => simp [Memory.wf]
    | cons e rest =>
      rw [Memory.wf, Bool.and_eq_true, Bool.and_eq_true, ih]
      simp only [bne_iff_ne, ne_eq, decide_eq_true_eq, List.mem_cons, List.pairwise_cons, forall_eq_or_imp]
      constructor
      · rintro ⟨⟨hc, hlt⟩, ⟨he, hr⟩, hp, hq⟩
        exact ⟨⟨hc, he, hr⟩, ⟨hlt, fun a ha => lt_trans hlt (hp a ha)⟩, hp, hq⟩
      · rintro ⟨⟨hc, he, hr⟩, ⟨hlt, _⟩, hp, hq⟩
        exact ⟨⟨hc, hlt⟩, ⟨he, hr⟩, hp, hq⟩

/-- A part of a canonical list is canonical. -/
theorem Memory.wf_sublist {m n : List Host.Cell} (h : m.Sublist n) (hn : Memory.wf n = true) : Memory.wf m = true := by
  rw [Memory.wf_iff] at *
  exact ⟨fun c hc => hn.1 c (h.subset hc), hn.2.sublist h⟩

theorem Memory.wf_filter {m : List Host.Cell} (p : Host.Cell → Bool) (h : Memory.wf m = true) : Memory.wf (m.filter p) = true :=
  Memory.wf_sublist (List.filter_sublist) h

/-- Writing one byte keeps the form. -/
theorem Memory.wf_memPut {m : List Host.Cell} (a : Nat) (b : Byte) (h : Memory.wf m = true) : Memory.wf (memPut m a b) = true := by
  rw [Memory.wf_iff] at *
  unfold memPut SMap.putD
  split
  · refine ⟨?_, ?_⟩
    · intro c hc
      simp only [SMap.erase, List.mem_append, List.mem_filter] at hc
      rcases hc with hc | hc <;> exact h.1 c hc.1
    · simp only [SMap.erase, List.pairwise_append]
      refine ⟨h.2.filter _, h.2.filter _, ?_⟩
      intro x hx y hy
      simp only [List.mem_filter, decide_eq_true_eq] at hx hy
      omega
  · rename_i hb
    refine ⟨?_, ?_⟩
    · intro c hc
      simp only [SMap.put, List.mem_append, List.mem_cons, List.mem_filter] at hc
      rcases hc with hc | rfl | hc
      · exact h.1 c hc.1
      · exact hb
      · exact h.1 c hc.1
    · simp only [SMap.put, List.pairwise_append, List.pairwise_cons]
      refine ⟨h.2.filter _, ⟨?_, h.2.filter _⟩, ?_⟩
      · intro y hy
        simp only [List.mem_filter, decide_eq_true_eq] at hy
        exact hy.2
      · intro x hx y hy
        simp only [List.mem_filter, decide_eq_true_eq, List.mem_cons] at hx hy
        rcases hy with rfl | hy
        · exact hx.2
        · omega

/-- Writing `n` bytes keeps the form. -/
theorem Memory.wf_memWrite {m : List Host.Cell} (a v n : Nat) (h : Memory.wf m = true) : Memory.wf (memWrite m a v n) = true := by
  induction n generalizing m a v with
  | zero => exact h
  | succ n ih => exact ih _ _ (Memory.wf_memPut _ _ h)

/-- Writing the marked bytes of a line keeps the form. -/
theorem Memory.wf_foldl_memPut {α : Type} {m : List Host.Cell} (l : List α) (a : α → Nat) (b : α → Byte) (h : Memory.wf m = true) :
    Memory.wf (l.foldl (fun m c => memPut m (a c) (b c)) m) = true := by
  induction l generalizing m with
  | nil => exact h
  | cons c l ih => exact ih (Memory.wf_memPut _ _ h)

/-! ### Several bytes -/

/-- A byte outside the bytes written reads as before. -/
theorem memByte_memWrite_ne (m : List Host.Cell) (a v n j : Nat) (h : j < a ∨ a + n ≤ j) : memByte (memWrite m a v n) j = memByte m j := by
  induction n generalizing m a v with
  | zero => rfl
  | succ n ih =>
    rw [memWrite, ih _ _ _ (by omega), memByte_memPut, if_neg (by omega)]

/-- A byte that is written reads as the value's byte (R4). -/
theorem memByte_memWrite (m : List Host.Cell) (a v n j : Nat) (h1 : a ≤ j) (h2 : j < a + n) :
    memByte (memWrite m a v n) j = BitVec.ofNat 8 (v / 256 ^ (j - a)) := by
  induction n generalizing m a v with
  | zero => omega
  | succ n ih =>
    by_cases hj : j = a
    · subst hj
      rw [memWrite, memByte_memWrite_ne _ _ _ _ _ (by omega)]
      simp
    · rw [memWrite, ih _ _ _ (by omega) (by omega), Nat.div_div_eq_div_mul]
      have he : j - a = (j - (a + 1)) + 1 := by omega
      rw [he, Nat.pow_succ']

/-- Reading the bytes just written gives the value (R4). -/
theorem memRead_memWrite (m : List Host.Cell) (a v n : Nat) : memRead (memWrite m a v n) a n = v % 256 ^ n := by
  induction n generalizing m a v with
  | zero => simp [memRead, Nat.mod_one]
  | succ n ih =>
    rw [memRead, memWrite, ih, memByte_memWrite_ne _ _ _ _ _ (by omega), memByte_memPut_same]
    simp only [BitVec.toNat_ofNat]
    rw [show (2 : Nat) ^ 8 = 256 by norm_num, Nat.pow_succ', Nat.mod_mul]

/-- Bytes that no write touches read as before. -/
theorem memRead_memWrite_ne (m : List Host.Cell) (a v n b k : Nat) (h : b + k ≤ a ∨ a + n ≤ b) :
    memRead (memWrite m a v n) b k = memRead m b k := by
  induction k generalizing b with
  | zero => rfl
  | succ k ih =>
    simp only [memRead]
    rw [memByte_memWrite_ne _ _ _ _ _ (by omega), ih (b + 1) (by omega)]

end Sys2Proof.Machine
end

