-- ==== Sys2Proof/Safety.lean ====
section
/-! DEFINITION. What counts as a safe run: one that never stops in a fault or a refusal. -/

namespace Sys2Proof.Machine

/-- The step answers a next state. -/
def State.Goes (s : State) : Prop := ∃ t, step s = .next t

/-- A run of `n` steps never stops. -/
def State.Safe (n : Nat) (s : State) : Prop := ∃ t, Sys2Proof.core.run n s = .next t

end Sys2Proof.Machine
end

