-- ==== Sys2Proof/Certificates/Slice0/Obligations.lean ====
section
/-! DEFINITION. What is claimed of the machine: one definition per statement, with the few words they share. -/

namespace Sys2Proof.Claims

open Sys2Proof.Machine

/-! ### Words that the statements share -/

/-- The context that executes. -/
abbrev me (s : State) : Ctx := s.ctx s.cur

/-- The core of the context that executes. -/
abbrev core (s : State) : Core := s.core (coreOf s.cur)

/-- The executing context is Ready and the guard of the word passes (R20, R38). -/
abbrev Runs (h : Hdr) (s : State) : Prop := (me s).run = .ready ∧ guardPasses h (me s) = true

/-- The same, for a context that is no dual-dispatched copy: the packet of a copy goes to the pairing stop first (R365), which
`DualDispatch` states. -/
abbrev RunsAlone (h : Hdr) (s : State) : Prop := Runs h s ∧ (me s).dual = none

/-- Every link that a word names holds a value, and no context that registered earlier waits for it (R14). -/
abbrev LinksHere (f : Fields) (s : State) : Prop :=
  ∀ n ∈ f.links, (core s).links.get? n ≠ none ∧ ∀ e ∈ (core s).linkWait, e.1 ≠ n

/-- A source: a register, a link's value, a predicate, or a sign-extended immediate (R42, R62). -/
def source (s : State) : Opnd → Word
  | .w n => (me s).w n.toNat
  | .p n => (me s).pred n.toNat
  | .l n => (core s).links.getD n.toNat 0
  | .imm n => n.signExtend 64
  | _ => 0

/-- A count or a position: its immediate is zero-extended (R62). -/
def count (s : State) : Opnd → Word
  | .imm n => n.setWidth 64
  | o => source s o

/-- N of a scalar element type (R62). -/
def width (ty : Nat) : Nat := 8 * 2 ^ (ty / 2)

/-- The low N bits, unsigned (R62). -/
def un (ty : Nat) (a : Word) : Int := ((a.toNat % 2 ^ width ty : Nat) : Int)

/-- The low N bits, as two's complement (R62). -/
def si (ty : Nat) (a : Word) : Int := Int.bmod a.toNat (2 ^ width ty)

/-- A result modulo 2^N, extended by the type: even codes are signed (R49, R62). -/
def fit (ty : Nat) (r : Int) : Word :=
  if ty % 2 = 0 then BitVec.ofInt 64 (Int.bmod r (2 ^ width ty)) else BitVec.ofInt 64 (r % (2 ^ width ty : Nat))

/-- What D reads as after a word wrote `v` to it: a `w` register; a predicate, where `p0` discards the write (R9, R12). -/
def Reads (c : Ctx) (d : Opnd) (v : Word) : Prop :=
  match d with
  | .w n => c.w n.toNat = v
  | .p n => c.pred n.toNat = if n = 0 then BitVec.allOnes 64 else v
  | _ => True

/-- The result of a word: at once where it has no link source, else as one more long result with that value, bound for D (R14, R22). -/
def Result (s t : State) (f : Fields) (v : Word) : Prop :=
  if f.links = [] then Reads (t.ctx s.cur) f.d v ∧ (t.ctx s.cur).outstanding = (me s).outstanding
  else (t.ctx s.cur).outstanding = (me s).outstanding ++ [⟨s.nextId, (me s).resultDst f.d, some (.ok v.toNat), 0⟩]

/-- The executing context has completed a word without a transfer: the count of instructions, the next PC with the loop registers (R75),
and the switch marker (R23). -/
def Advances (h : Hdr) (c d : Ctx) : Prop :=
  d.icount = c.icount + 1 ∧ d.pc = (fallThrough c c.pc).pc ∧ d.loopcnt = (fallThrough c c.pc).loopcnt ∧
    d.lbody = (fallThrough c c.pc).lbody ∧
    d.run = (if h.sw = true ∧ d.outstanding ≠ [] then .parked false none else .ready)

/-- The word completes with the result `v` in D. -/
def Gives (i : Instr) (h : Hdr) (f : Fields) (s : State) (v : Word) : Prop :=
  ∃ t, exec i s = .next t ∧ Result s t f v ∧ Advances h (me s) (t.ctx s.cur)

end Sys2Proof.Claims

/-! ### Contexts after a word -/

namespace Sys2Proof.Claims

open Sys2Proof.Machine

/-- The other contexts change only in their hold counts, the cores only in their choice of the next context and in what their issues have cost (R449), and
nothing else of the device changes at all. -/
def OthersKept (s t : State) : Prop :=
  (∀ y, y ≠ s.cur → t.ctx y = { s.ctx y with held := (t.ctx y).held }) ∧
  (∀ k, t.core k = { s.core k with
    krun := (t.core k).krun, last := (t.core k).last, issues := (t.core k).issues, charges := (t.core k).charges }) ∧
  t = { s with ctxs := t.ctxs, cores := t.cores }

/-- The context `c`, as a word with header `h` left it, after the count of instructions, the switch marker with the store faults it makes due
(R23, R35), and the single step (R80). -/
def settled (h : Hdr) (s : State) (c : Ctx) (held : Nat) : Ctx :=
  { c with
    icount := (me s).icount + 1
    held := held
    run := if h.sw = true ∧ c.outstanding ≠ [] then .parked false none else .ready
    pendStep := if ctxNo s.cur ≠ 7 ∧ c.dbgctl.getLsbD 0 = true then some (me s).pc else c.pendStep
    deferArmed := c.deferArmed || (h.sw && c.deferred.any fun d => !d.taken) }

/-- The word completes, leaves `c` in the executing context, and touches nothing else. -/
def Leaves (i : Instr) (h : Hdr) (s : State) (c : Ctx) : Prop :=
  ∃ t, exec i s = .next t ∧ t.ctx s.cur = settled h s c (t.ctx s.cur).held ∧ OthersKept s t

/-- An item is queued for the core's Withy, or kept by its source where the queue holds 64, and context 7 does not sleep on (R215). -/
def Wakes (s t : State) (k typ data : Nat) : Prop :=
  (t.core k).asleep = false ∧
  (if (s.core k).supq.length < 64 then (t.core k).supq = (s.core k).supq ++ [⟨typ, data⟩] ∧ (t.core k).supqKept = (s.core k).supqKept
   else (t.core k).supq = (s.core k).supq ∧ (t.core k).supqKept = (s.core k).supqKept ++ [⟨typ, data⟩])

/-- The executing context has taken a trap (R33): it is Stopped with the trap registers written, context 7 has its TYPE 0 item, and neither
the other registers nor memory have changed. -/
def Trapped (s t : State) (cause : Nat) (epc fpc : Word) (faddr : Option Word) (finfo : Word) : Prop :=
  let c := me s
  let d := t.ctx s.cur
  d = { c with run := .stopped, cause := BitVec.ofNat 64 cause, epc := epc, fpc := fpc, faddr := faddr.getD c.faddr, finfo := finfo
               icount := d.icount, held := d.held } ∧
  Wakes s t (coreOf s.cur) 0 (ctxNo s.cur) ∧ t.mem = s.mem

/-- The word takes its own synchronous trap: the resume PC is the instruction (R34). -/
def Traps (i : Instr) (s : State) (cause : Nat) (faddr : Option Word) (finfo : Word) : Prop :=
  ∃ t, exec i s = .next t ∧ Trapped s t cause (me s).pc (me s).pc faddr finfo

/-- A user context, Ready. -/
abbrev UserReady (s : State) : Prop := (me s).run = .ready ∧ ctxNo s.cur ≠ 7

/-- The word completes in a state of which `P` holds. -/
def Ends (i : Instr) (s : State) (P : State → Prop) : Prop := ∃ t, exec i s = .next t ∧ P t

/-- The effective address of a word (R46). -/
def addr (s : State) (f : Fields) : Word :=
  (match f.a with | .w n => (me s).w n.toNat | _ => 0) +
  (match f.b with | .w n => (me s).w n.toNat * BitVec.ofNat 64 (2 ^ (f.sub.toNat % 8)) | _ => 0) +
  (match f.x with | .m _ _ _ _ ofs => ofs.signExtend 64 | _ => 0)

/-- The offset of a B-format word, in bytes (R47). -/
def branchTarget (s : State) (f : Fields) : Word :=
  (me s).pc + (match f.x with | .b v => v.signExtend 64 | _ => 0) * 4

end Sys2Proof.Claims

namespace Sys2Proof.Claims

open Sys2Proof.Machine

/-- Nothing of the device but contexts, the choice of the next one and the counter of long results has changed. -/
def OnlyNextId (s t : State) : Prop := t = { s with ctxs := t.ctxs, cores := t.cores, nextId := t.nextId }

/-- An aligned access of `n` bytes at an address that names the executing core's own scratchpad at an offset whose slot is resident; the core
is neither killed nor stopped by a droop, and no request of the thread is on its way (R157 to R162). -/
abbrev OwnSlot (s : State) (a : Word) (n off : Nat) : Prop :=
  resolve (coreOf s.cur) a = .spad (coreOf s.cur) off ∧ a.toNat % n = 0 ∧ resident s (coreOf s.cur) off = true ∧
    (core s).killed = false ∧ (core s).droopAt = none ∧ ∀ r ∈ s.reqs, r.x ≠ s.cur

/-- The same, and the word has no uncorrectable error (R160). -/
abbrev OwnWord (s : State) (a : Word) (n off : Nat) : Prop := OwnSlot s a n off ∧ spadBad s (coreOf s.cur) off = false

/-- One more long result of the executing context, bound for `dst`, whose access has been performed with the bits `v` (R22 to R24). -/
def LongResult (s t : State) (dst : LongDst) (v : Nat) : Prop :=
  (t.ctx s.cur).outstanding.length = (me s).outstanding.length + 1 ∧
    (t.ctx s.cur).outstanding.getLast? = some ⟨s.nextId, dst, some (.ok v), 0⟩

/-- The same for an access that has failed. -/
def LongFailure (s t : State) (dst : LongDst) (p : TrapInfo) : Prop :=
  (t.ctx s.cur).outstanding.length = (me s).outstanding.length + 1 ∧
    (t.ctx s.cur).outstanding.getLast? = some ⟨s.nextId, dst, some (.fail p), 0⟩

/-- Nothing of the executing context but its PC, its count, its run state, its hold count, its pending step and its long results has
changed. -/
def RegistersKept (s t : State) : Prop :=
  t.ctx s.cur = { me s with
    pc := (t.ctx s.cur).pc, loopcnt := (t.ctx s.cur).loopcnt, lbody := (t.ctx s.cur).lbody, icount := (t.ctx s.cur).icount
    run := (t.ctx s.cur).run, held := (t.ctx s.cur).held, pendStep := (t.ctx s.cur).pendStep, deferArmed := (t.ctx s.cur).deferArmed
    outstanding := (t.ctx s.cur).outstanding }

/-- No word of the core's scratchpad but the one at `off`, no tag but its own, and no other scratchpad has changed. -/
def OnlyWord (s t : State) (off : Nat) : Prop :=
  (∀ j, j ≠ off / 8 → (t.core (coreOf s.cur)).spad.getD j 0 = (core s).spad.getD j 0) ∧
  (∀ j, j ≠ off / 8 → (t.core (coreOf s.cur)).tags.getD j false = (core s).tags.getD j false) ∧
  (∀ k, k ≠ coreOf s.cur → (t.core k).spad = (s.core k).spad ∧ (t.core k).tags = (s.core k).tags)

/-- The word of the executing core's scratchpad at an offset. -/
def ownSpad (s : State) (off : Nat) : Word := (core s).spad.getD (off / 8) 0

/-- A value that path T may read of an own scratchpad word: the word as it stands, or as it stood before a write of another path that no XFENCE has
ordered before the read (R254). -/
def Seen (s : State) (off : Nat) (m : Word) : Prop :=
  m = ownSpad s off ∨ ∃ e ∈ (core s).older, e.word = off / 8 ∧ e.readers.testBit 0 = true ∧ m = e.old

/-- Its full/empty tag. -/
def ownTag (s : State) (off : Nat) : Bool := (core s).tags.getD (off / 8) false

end Sys2Proof.Claims

open Sys2Proof Sys2Proof.Machine Sys2Proof.Claims

/-! ### Scalar words (R62 to R70) -/

/-- R62, R63: every arithmetic and logical word writes its exact result, computed on the integers, modulo 2^N and extended by TY. -/
def Claims.ScalarArithmeticResults : Prop :=
  ∀ (h : Hdr) (f : Fields) (s : State), Runs h s → LinksHere f s → f.ty < 8 →
    let ty := f.ty
    let a := source s f.a
    let b := source s f.b
    Gives (.add h f) h f s (fit ty (un ty a + un ty b)) ∧
    Gives (.sub h f) h f s (fit ty (un ty a - un ty b)) ∧
    Gives (.mul h f) h f s (fit ty (un ty a * un ty b)) ∧
    Gives (.mulh h f) h f s (fit ty (Int.fdiv (si ty a * si ty b) (2 ^ width ty))) ∧
    Gives (.mulhn h f) h f s (fit ty (Int.fdiv (un ty a * un ty b) (2 ^ width ty))) ∧
    Gives (.div h f) h f s (fit ty (if si ty b = 0 then 2 ^ width ty - 1 else Int.tdiv (si ty a) (si ty b))) ∧
    Gives (.divn h f) h f s (fit ty (if un ty b = 0 then 2 ^ width ty - 1 else Int.fdiv (un ty a) (un ty b))) ∧
    Gives (.rem h f) h f s
      (fit ty (if si ty b = 0 then un ty a else si ty a - si ty b * Int.tdiv (si ty a) (si ty b))) ∧
    Gives (.remn h f) h f s (fit ty (if un ty b = 0 then un ty a else un ty a - un ty b * Int.fdiv (un ty a) (un ty b))) ∧
    Gives (.and h f) h f s (fit ty (un ty (a &&& b))) ∧
    Gives (.or h f) h f s (fit ty (un ty (a ||| b))) ∧
    Gives (.xor h f) h f s (fit ty (un ty (a ^^^ b))) ∧
    Gives (.andn h f) h f s (fit ty (un ty (a &&& ~~~b))) ∧
    Gives (.min h f) h f s (fit ty (min (si ty a) (si ty b))) ∧
    Gives (.max h f) h f s (fit ty (max (si ty a) (si ty b))) ∧
    Gives (.minn h f) h f s (fit ty (min (un ty a) (un ty b))) ∧
    Gives (.maxn h f) h f s (fit ty (max (un ty a) (un ty b))) ∧
    Gives (.sext h f) h f s (BitVec.ofInt 64 (si ty a)) ∧
    Gives (.zext h f) h f s (BitVec.ofInt 64 (un ty a))

/-- The bit of a number at a place below `n` that is set, counted from the top and from the bottom: zeros above, zeros below, and how many
(R63). -/
def Claims.ZerosAbove (n : Nat) (a : Nat) (k : Nat) : Prop :=
  k ≤ n ∧ (∀ j, n - k ≤ j → j < n → a.testBit j = false) ∧ (k < n → a.testBit (n - k - 1) = true)

/-- Zeros below the lowest 1 among `n` bits. -/
def Claims.ZerosBelow (n : Nat) (a : Nat) (k : Nat) : Prop :=
  k ≤ n ∧ (∀ j, j < k → a.testBit j = false) ∧ (k < n → a.testBit k = true)

/-- R63, R64, R65: the counts, shifts, rotations and bit fields. The count of a shift is the full 64-bit source. -/
def Claims.ShiftCountAndFieldResults : Prop :=
  ∀ (h : Hdr) (f : Fields) (s : State), Runs h s → LinksHere f s → f.ty < 8 →
    let ty := f.ty
    let n := width ty
    let a := source s f.a
    let c := (count s f.b).toNat
    Gives (.shl h f) h f s (fit ty (if c < n then un ty a * 2 ^ c else 0)) ∧
    Gives (.shr h f) h f s (fit ty (if c < n then Int.fdiv (un ty a) (2 ^ c) else 0)) ∧
    Gives (.sra h f) h f s (fit ty (if c < n then Int.fdiv (si ty a) (2 ^ c) else if si ty a < 0 then -1 else 0)) ∧
    (∃ r : Nat, (∀ j, j < n → r.testBit ((j + c) % n) = a.toNat.testBit j) ∧ r < 2 ^ n ∧ Gives (.rol h f) h f s (fit ty r)) ∧
    (∃ k : Nat, Claims.ZerosAbove n a.toNat k ∧ Gives (.clz h f) h f s (fit ty k)) ∧
    (∃ k : Nat, Claims.ZerosBelow n a.toNat k ∧ Gives (.ctz h f) h f s (fit ty k)) ∧
    Gives (.popc h f) h f s (fit ty ((List.range n).countP fun j => a.toNat.testBit j)) ∧
    (6 ≤ ty →
      let pos := c % 64
      let len := f.sub.toNat + 1
      let e := a.toNat / 2 ^ pos % 2 ^ len
      (len ≤ 64 → Gives (.bfx h f) h f s (BitVec.ofInt 64 (if ty = 6 then Int.bmod e (2 ^ len) else e))) ∧
      (∀ r, f.d = .w r → len ≤ 64 → ∃ v : Word, Gives (.bfi h f) h f s v ∧
        ∀ j, j < 64 → v.getLsbD j =
          (if pos ≤ j ∧ j < pos + len then a.getLsbD (j - pos) else ((me s).w r.toNat).getLsbD j)))

/-- R62 to R65: arithmetic and logic, shifts, counts and fields. -/
def Obligations.ScalarArithmeticShiftsAndFields : Prop :=
  Claims.ScalarArithmeticResults ∧ Claims.ShiftCountAndFieldResults

/-- R66, R67, R68: immediates, effective addresses and selection. LEA accesses nothing. -/
def Obligations.MoveAndAddressResults : Prop :=
  ∀ (h : Hdr) (f : Fields) (s : State), Runs h s → LinksHere f s →
    (∀ v, f.x = .i v → f.a = .none → f.b = .none →
      Gives (.movi h f) h f s (v.signExtend 64) ∧
      (∀ r, f.d = .w r → v.toNat < 2 ^ 24 →
        Gives (.moviHi h f) h f s (BitVec.ofNat 64 (v.toNat * 2 ^ 40 + ((me s).w r.toNat).toNat % 2 ^ 40)))) ∧
    (f.a.link? = none → f.b.link? = none → Gives (.lea h f) h f s (addr s f)) ∧
    Gives (.sel h f) h f s (if ((me s).pred f.sub.toNat).getLsbD 0 then source s f.a else source s f.b)

/-- R9, R12, R69, R70: a comparison writes 64 copies of its outcome, and the predicate instructions act on all 64 bits. -/
def Obligations.ScalarComparisonsAndPredicates : Prop :=
  ∀ (h : Hdr) (f : Fields) (s : State), Runs h s → LinksHere f s →
    let a := source s f.a
    let b := source s f.b
    let ty := f.ty
    (ty < 8 → f.sub.toNat < 8 →
      let lt : Prop := if ty % 2 = 0 then si ty a < si ty b else un ty a < un ty b
      let eq : Prop := un ty a = un ty b
      let holds : Prop := match f.sub.toNat with
        | 0 => eq
        | 1 => ¬ eq
        | 2 => lt
        | 3 => lt ∨ eq
        | 4 => ¬ lt ∧ ¬ eq
        | 5 => ¬ lt
        | 6 => un ty (a &&& b) ≠ 0
        | _ => un ty (a &&& b) = 0
      (holds → Gives (.cmp h f) h f s (BitVec.allOnes 64)) ∧ (¬ holds → Gives (.cmp h f) h f s 0)) ∧
    (f.sub = 0 → Gives (.pand h f) h f s (a &&& b) ∧ Gives (.por h f) h f s (a ||| b) ∧ Gives (.pxor h f) h f s (a ^^^ b)) ∧
    (f.sub = 1 → Gives (.pand h f) h f s (a &&& ~~~b) ∧ Gives (.por h f) h f s (a ||| ~~~b) ∧ Gives (.pxor h f) h f s (~~~(a ^^^ b))) ∧
    Gives (.pnot h f) h f s (~~~a) ∧
    Gives (.pmov h f) h f s a

/-- The words of this group: scalar arithmetic, moves, comparisons and predicates. -/
def Claims.scalarWord : Instr → Option (Hdr × Fields)
  | .add h f | .sub h f | .mul h f | .mulh h f | .mulhn h f | .div h f | .divn h f | .rem h f | .remn h f => some (h, f)
  | .and h f | .or h f | .xor h f | .andn h f | .shl h f | .shr h f | .sra h f | .rol h f => some (h, f)
  | .clz h f | .ctz h f | .popc h f | .min h f | .max h f | .minn h f | .maxn h f | .sext h f | .zext h f => some (h, f)
  | .bfx h f | .bfi h f | .movi h f | .moviHi h f | .lea h f | .sel h f | .cmp h f => some (h, f)
  | .pand h f | .por h f | .pxor h f | .pnot h f | .pmov h f => some (h, f)
  | _ => none

/-- The frame of the scalar words: where one completes, no register but D changes, of its own context or of another; only the hold counts of
the contexts, the core's choice of the next context and what its issues have cost move; no byte of memory or of a scratchpad changes; and a word with no link source
changes nothing else in the whole device. -/
def Obligations.ScalarWordsChangeNothingElse : Prop :=
  ∀ (i : Instr) (h : Hdr) (f : Fields) (s t : State), Claims.scalarWord i = some (h, f) → Runs h s → LinksHere f s → exec i s = .next t →
    let x := s.cur
    let c := s.ctx x
    let d := t.ctx x
    (∀ n : BitVec 4, f.d ≠ .w n → d.w n.toNat = c.w n.toNat) ∧
    (∀ e, (∀ n : BitVec 4, e ≠ c.entry n.toNat) → d.stack.getD e 0 = c.stack.getD e 0) ∧
    (∀ n : BitVec 3, f.d ≠ .p n → d.pred n.toNat = c.pred n.toNat) ∧
    d = { c with
      stack := d.stack, p := d.p, pc := d.pc, loopcnt := d.loopcnt, lbody := d.lbody, icount := d.icount, run := d.run, held := d.held
      pendStep := d.pendStep, deferArmed := d.deferArmed, outstanding := d.outstanding } ∧
    (∀ y, y ≠ x → t.ctx y = { s.ctx y with held := (t.ctx y).held }) ∧
    (∀ a, memByte t.mem a = memByte s.mem a) ∧
    (∀ k, (t.core k).spad = (s.core k).spad ∧ (t.core k).tags = (s.core k).tags) ∧
    (f.links = [] → t = { s with ctxs := t.ctxs, cores := t.cores } ∧
      ∀ k, t.core k = { s.core k with
        krun := (t.core k).krun, last := (t.core k).last, issues := (t.core k).issues, charges := (t.core k).charges })

/-! ### Guards, privilege, control flow and traps (R33 to R38, R51, R71 to R84, R91) -/

/-- The words that only context 7 may execute: those of R51 (check 6), and MFSR and MTSR of a register that a user context may not access
(R83). -/
def Claims.reserved (i : Instr) : Bool :=
  i.supervisorOnly || (match i with
    | .mfsr _ f => yPrivate f.a.num
    | .mtsr _ f => yPrivate f.d.num || yWriteTraps f.d.num
    | _ => false)

/-- R38: a word whose guard does not pass takes its issue slot, its marker and its place in a loop body, and does nothing else. ILL and BRK
look at no guard; a word reserved to context 7 traps elsewhere before its guard is read. -/
def Claims.FailedGuardDoesNothing : Prop :=
  ∀ (i : Instr) (s : State), isWord i = true → i.opcode ≠ some 0x00 → i.opcode ≠ some 0x02 →
    (Claims.reserved i = true → ctxNo s.cur = 7) → (me s).run = .ready → guardPasses i.hdr (me s) = false →
    Leaves i i.hdr s (fallThrough (me s) (me s).pc)

/-- R51 (check 6), R34: RTE, SLEEP, the forms of MFSR and MTSR that name another context and those of a register reserved to Withy trap 0x03 in a user
context, whatever the guard. -/
def Claims.SupervisorWordsTrapInUserContexts : Prop :=
  ∀ (i : Instr) (s : State), Claims.reserved i = true → UserReady s → Traps i s 0x03 none 0

/-- R38, R51 (check 6), R34, R83: what a failed guard leaves, and the words that only context 7 may execute. -/
def Obligations.GuardsAndReservedWords : Prop :=
  Claims.FailedGuardDoesNothing ∧ Claims.SupervisorWordsTrapInUserContexts

/-- R34, R36, R78, R79, R81: ILL traps 0x01 and BRK 0x09 whatever their guard, before they execute; TRAP traps 0x11 after it has executed, where
its guard passes, with the resume PC at the next instruction. -/
def Obligations.TrapWordsTakeTheirTraps : Prop :=
  ∀ (h : Hdr) (f : Fields) (raw : BitVec 88) (v : BitVec 40) (s : State), UserReady s → f.x = .i v →
    Traps (.ill raw) s 0x01 none 0 ∧
    Traps (.brk h f) s 0x09 none (BitVec.ofNat 64 (2 ^ 63 + v.toNat)) ∧
    (guardPasses h (me s) = true → ∃ t, exec (.trap h f) s = .next t ∧
      let d := t.ctx s.cur
      d.run = .stopped ∧ d.cause = 0x11 ∧ d.epc = (fallThrough (me s) (me s).pc).pc ∧ d.fpc = (me s).pc ∧ d.faddr = (me s).faddr ∧
        d.finfo = BitVec.ofNat 64 v.toNat ∧ d.stack = (me s).stack ∧ d.p = (me s).p ∧ d.v = (me s).v ∧
        Wakes s t (coreOf s.cur) 0 (ctxNo s.cur) ∧ t.mem = s.mem)

/-- R33: taking a trap stops the context, saves the cause, the resume PC, the faulting PC, the address where the cause has one and the detail,
and wakes context 7; no other context and no memory changes. -/
def Claims.TakingATrapSavesAndWakes : Prop :=
  ∀ (x : Nat) (p : TrapInfo) (s : State), ctxNo x ≠ 7 → ¬(p.cause = 0x0C ∧ p.finfo.toNat % 256 = 4 ∧ p.finfo.getLsbD 63 = false) →
    let t := takeTrap x p s
    let c := s.ctx x
    t.ctx x = { c with run := .stopped, cause := BitVec.ofNat 64 p.cause, epc := p.epc.getD c.pc, fpc := p.fpc
                       faddr := p.faddr.getD c.faddr, finfo := p.finfo } ∧
    Wakes s t (coreOf x) 0 (ctxNo x) ∧ (∀ y, y ≠ x → t.ctx y = s.ctx y) ∧ (∀ k, k ≠ coreOf x → t.core k = s.core k) ∧
    t = { s with ctxs := t.ctxs, cores := t.cores }

/-- R214, R228: a cause that would trap context 7 kills its core instead; memory is as it was unless the core's cluster has a fused L1, whose
slice then writes back (R237). -/
def Claims.SupervisorFaultKillsTheCore : Prop :=
  ∀ (x : Nat) (p : TrapInfo) (s : State), ctxNo x = 7 →
    let t := takeTrap x p s
    (t.core (coreOf x)).killed = true ∧ ((s.core (coreOf x)).killed = false → (t.core (coreOf x)).offline = true) ∧
      (t.ctx x).pc = (s.ctx x).pc ∧
      ((s.cluster (clusterOf (coreOf x))).fused = false → ∀ a, memByte t.mem a = memByte s.mem a)

/-- R33, R214, R228: taking a trap, in a user context and in context 7. -/
def Obligations.TakingATrap : Prop :=
  Claims.TakingATrapSavesAndWakes ∧ Claims.SupervisorFaultKillsTheCore

/-- R33, R35, R36: at a boundary the causes are taken in the order of the table: droop stop, pre-emption, the replies that have arrived, deferred
store faults, the single step; each leaves its own code and is pending no more; a poisoned context takes no trap, its core is killed (R228). A
Parked context's results are written first; a wait that does not end is cancelled by a droop's or a pre-emption's trap alone. -/
def Obligations.PendingTrapsAreTakenInOrder : Prop :=
  ∀ (x : Nat) (s : State), ctxNo x ≠ 7 → clockRuns s (coreOf x) = true →
    let c := s.ctx x
    (∀ drain j, c.run = .parked drain j → c.outstanding ≠ [] → c.pendPreempt = false → exec (.trapTaken x) s = .next s) ∧
    (∀ w, c.run = .waiting w → c.pendDroop = none → c.pendPreempt = false → exec (.trapTaken x) s = .next s) ∧
    (∀ w, c.run = .waiting w → waitEnds s x w = false → c.pendDroop = none → c.pendPreempt = true → ∃ t, exec (.trapTaken x) s = .next t ∧
      (t.ctx x).run = .stopped ∧ (t.ctx x).cause = 0x0F ∧ (t.ctx x).epc = c.pc ∧ (t.ctx x).pendPreempt = false) ∧
    (c.run = .ready →
    (∀ fi, c.pendDroop = some fi → ∃ t, exec (.trapTaken x) s = .next t ∧ (t.ctx x).run = .stopped ∧ (t.ctx x).cause = 0x0E ∧
      (t.ctx x).epc = c.pc ∧ (t.ctx x).finfo = fi ∧ (t.ctx x).pendDroop = none) ∧
    (c.pendDroop = none → c.pendPreempt = true → ∃ t, exec (.trapTaken x) s = .next t ∧ (t.ctx x).run = .stopped ∧
      (t.ctx x).cause = 0x0F ∧ (t.ctx x).epc = c.pc ∧ (t.ctx x).pendPreempt = false) ∧
    (c.pendDroop = none → c.pendPreempt = false → ∀ p rest, c.pend = p :: rest →
      ¬(p.cause = 0x0C ∧ p.finfo.toNat % 256 = 4 ∧ p.finfo.getLsbD 63 = false) →
      ∃ t, exec (.trapTaken x) s = .next t ∧ (t.ctx x).run = .stopped ∧ (t.ctx x).cause = BitVec.ofNat 64 p.cause ∧
        (t.ctx x).fpc = p.fpc ∧ (t.ctx x).finfo = p.finfo ∧ (t.ctx x).pend = rest) ∧
    (c.pendDroop = none → c.pendPreempt = false → ∀ p rest, c.pend = p :: rest → p.cause = 0x0C → p.finfo.toNat % 256 = 4 →
      p.finfo.getLsbD 63 = false → ∃ t, exec (.trapTaken x) s = .next t ∧ (t.core (coreOf x)).killed = true) ∧
    (c.pendDroop = none → c.pendPreempt = false → c.pend = [] → c.deferArmed = true → ∀ q, c.deferred.find? (fun e => !e.taken) = some q →
      ∃ t, exec (.trapTaken x) s = .next t ∧ (t.ctx x).run = .stopped ∧ (t.ctx x).cause = 0x05 ∧ (t.ctx x).epc = c.pc ∧
        (t.ctx x).fpc = q.fpc ∧ (t.ctx x).faddr = q.faddr ∧ (t.ctx x).finfo = q.finfo ∧
        ∀ e ∈ (t.ctx x).deferred, e.group = q.group → e.taken = true) ∧
    (c.pendDroop = none → c.pendPreempt = false → c.pend = [] → c.deferArmed = false → ∀ a, c.pendStep = some a →
      ∃ t, exec (.trapTaken x) s = .next t ∧ (t.ctx x).run = .stopped ∧ (t.ctx x).cause = 0x0A ∧ (t.ctx x).epc = c.pc ∧
        (t.ctx x).fpc = a ∧ (t.ctx x).pendStep = none))

/-- R71, R72, R73: branches, calls and returns: the targets, the moves of the register window with its link, and the traps of a target that is
malformed or misaligned, of a full and of an empty window. -/
def Claims.BranchesCallsAndReturns : Prop :=
  ∀ (h : Hdr) (f : Fields) (s : State), Runs h s →
    let c := me s
    let target := branchTarget s f
    let reg := match f.a with | .w n => c.w n.toNat | _ => 0
    let entered : State → Word → Prop := fun t pc =>
      let d := t.ctx s.cur
      d.pc = pc ∧ d.wf = (c.wf + 1) % 8 ∧ d.w 7 = c.pc + 12 ∧ (∀ n, n < 7 → d.w n = c.w (n + 8)) ∧
        (∀ n, 8 ≤ n → n < 16 → d.w n = 0) ∧ d.p = c.p ∧ d.icount = c.icount + 1 ∧ d.run = .ready
    (target.toNat < 2 ^ 54 → Leaves (.br h f) h s { c with pc := target }) ∧
    (∀ n, f.a = .w n → reg.toNat % 4 = 0 → Leaves (.brx h f) h s { c with pc := reg }) ∧
    (∀ n, f.a = .w n → ctxNo s.cur ≠ 7 → reg.toNat % 4 ≠ 0 →
      Traps (.brx h f) s 0x04 (some reg) 0 ∧ Traps (.callx h f) s 0x04 (some reg) 0) ∧
    (ctxNo s.cur ≠ 7 → 2 ^ 54 ≤ target.toNat →
      Traps (.br h f) s 0x05 (some target) 0xF03 ∧ Traps (.call h f) s 0x05 (some target) 0xF03) ∧
    (h.sw = false → c.res < 6 → target.toNat < 2 ^ 54 → ∃ t, exec (.call h f) s = .next t ∧ entered t target ∧
      (t.ctx s.cur).res = c.res + 1 ∧ OthersKept s t) ∧
    (∀ n, f.a = .w n → h.sw = false → c.res < 6 → reg.toNat % 4 = 0 → ∃ t, exec (.callx h f) s = .next t ∧ entered t reg ∧
      (t.ctx s.cur).res = c.res + 1 ∧ OthersKept s t) ∧
    (ctxNo s.cur ≠ 7 → c.res = 6 → target.toNat < 2 ^ 54 → c.wsp.toNat < c.wlim.toNat + 64 → Traps (.call h f) s 0x07 none 0) ∧
    (c.res ≠ 0 → ∃ t, exec (.ret h f) s = .next t ∧ OthersKept s t ∧
      let d := t.ctx s.cur
      d.pc = c.w 7 &&& ~~~3 ∧ d.wf = (c.wf + 7) % 8 ∧ d.res = c.res - 1 ∧ (∀ n, n < 8 → d.w (n + 8) = c.w n) ∧ d.p = c.p) ∧
    (ctxNo s.cur ≠ 7 → c.res = 0 → c.spl = 0 → Traps (.ret h f) s 0x08 none 0)

/-- R11, R72, R73: a call with six resident frames spills the oldest below `y.wsp` first, and a return with none fills from `y.wsp`; what the
store and the load do is what the model's own `wordsStore` and `wordsLoad` answer; a dual-dispatched copy's go past the L1 (R365). -/
def Claims.WindowSpillsAndFills : Prop :=
  ∀ (h : Hdr) (f : Fields) (s : State), Runs h s →
    let c := me s
    let u := issued s.cur h s
    (∀ s1, c.res = 6 → c.wlim.toNat + 64 ≤ c.wsp.toNat → (branchTarget s f).toNat < 2 ^ 54 →
      wordsStore u (coreOf s.cur) (some s.cur) c.pid (if c.dual = none then 0 else 1) (c.wsp - 64) (c.frame (c.wf + 2)) = (.ok (), s1) →
      ∃ t, exec (.call h f) s = .next t ∧ (∀ a, memByte t.mem a = memByte s1.mem a) ∧ (∀ k, (t.core k).spad = (s1.core k).spad) ∧
        let d := t.ctx s.cur
        d.wsp = c.wsp - 64 ∧ d.spl = c.spl + 1 ∧ d.res = 6 ∧ d.wf = (c.wf + 1) % 8 ∧ d.w 7 = c.pc + 12 ∧ d.pc = branchTarget s f) ∧
    (∀ ws s1, c.res = 0 → c.spl ≠ 0 → wordsLoad u (coreOf s.cur) c.pid (if c.dual = none then 0 else 1) c.wsp 8 = (.ok ws, s1) →
      ∃ t, exec (.ret h f) s = .next t ∧
        let d := t.ctx s.cur
        d.wsp = c.wsp + 64 ∧ d.spl = c.spl - 1 ∧ d.res = 0 ∧ d.wf = (c.wf + 7) % 8 ∧ d.pc = c.w 7 &&& ~~~3 ∧
          (∀ n, n < 8 → d.w n = ws.getD n 0))

/-- R75: LOOP with a count starts a loop over its body, with none it ends any loop and skips the body; the last instruction of an active
body goes back to the start while iterations remain, and falls through after the last. -/
def Claims.LoopsCountDown : Prop :=
  ∀ (h : Hdr) (f : Fields) (v : BitVec 40) (s : State), Runs h s → f.x = .b v → f.a.link? = none →
    let c := me s
    let n := count s f.a
    let start : Word := c.lbody &&& 0x3F_FFFF_FFFF_FFFC
    let last : Word := start + 12 * (c.lbody >>> 60)
    (n = 0 → Leaves (.loop h f) h s
      { c with loopcnt := 0, lbody := c.lbody &&& 0xFFFF_FFFF_FFFF_FFFE, pc := c.pc + 4 * v.setWidth 64 + 12 }) ∧
    (n ≠ 0 → c.pc.toNat < 2 ^ 53 → c.pc.toNat % 4 = 0 → v.toNat % 3 = 0 → 3 ≤ v.toNat → v.toNat ≤ 48 →
      Leaves (.loop h f) h s
        { c with loopcnt := n, pc := c.pc + 12, lbody := BitVec.ofNat 64 ((v.toNat / 3 - 1) * 2 ^ 60 + (c.pc.toNat + 12) + 1) }) ∧
    (c.lbody.getLsbD 0 = true → c.pc = last → 1 < c.loopcnt.toNat →
      Leaves (.nop h f) h s { c with loopcnt := c.loopcnt - 1, pc := start }) ∧
    (c.lbody.getLsbD 0 = true → c.pc = last → c.loopcnt.toNat ≤ 1 →
      Leaves (.nop h f) h s { c with loopcnt := 0, lbody := c.lbody &&& 0xFFFF_FFFF_FFFF_FFFE, pc := c.pc + 12 }) ∧
    (c.lbody.getLsbD 0 = false ∨ c.pc ≠ last → Leaves (.nop h f) h s { c with pc := c.pc + 12 })

/-- R11, R71 to R73, R75: transfers of control, the register window, and loops. -/
def Obligations.BranchesCallsReturnsAndLoops : Prop :=
  Claims.BranchesCallsAndReturns ∧ Claims.WindowSpillsAndFills ∧ Claims.LoopsCountDown

/-- R23, R80: after a word with the switch marker the context is Parked while a long result is outstanding, and under single step the next
boundary has trap 0x0A pending; said for NOP, and for every other word by `Leaves`. YIELD (R91) holds a user context back, and IFLUSH
(R84) empties the instruction cache or drops one line of it. -/
def Claims.MarkersYieldAndFlush : Prop :=
  ∀ (h : Hdr) (f : Fields) (s : State), Runs h s →
    let c := me s
    let k := coreOf s.cur
    (∃ t, exec (.nop h f) s = .next t ∧
      (h.sw = true → c.outstanding ≠ [] → (t.ctx s.cur).run = .parked false none) ∧
      (h.sw = false ∨ c.outstanding = [] → (t.ctx s.cur).run = .ready) ∧
      (ctxNo s.cur ≠ 7 → c.dbgctl.getLsbD 0 = true → (t.ctx s.cur).pendStep = some c.pc)) ∧
    (∃ t, exec (.yield h f) s = .next t ∧ Advances h c (t.ctx s.cur) ∧ t.mem = s.mem ∧
      (ctxNo s.cur ≠ 7 → (t.ctx s.cur).held = 17 ∧ (t.core k).krun = 0)) ∧
    (f.sub = 8 → ∃ t, exec (.iflush h f) s = .next t ∧ (t.core k).icache = [] ∧ (t.ctx s.cur).pc = (fallThrough c c.pc).pc ∧
      (t.ctx s.cur).stack = c.stack ∧ (t.ctx s.cur).p = c.p) ∧
    (f.sub ≠ 8 → (addr s f).toNat < 2 ^ 53 → ∀ p s1,
      translate (issued s.cur h s) (coreDie k) c.pid (addr s f).toNat .read = (.ok p, s1) →
      ∃ t, exec (.iflush h f) s = .next t ∧ (t.ctx s.cur).pc = (fallThrough c c.pc).pc ∧
        (∀ l ∈ (t.core k).icache, ¬(l.pid = c.pid ∧ l.vln = (addr s f).toNat / 128)) ∧
        (∀ l ∈ (s.core k).icache, ¬(l.pid = c.pid ∧ l.vln = (addr s f).toNat / 128) → l ∈ (t.core k).icache))

/-- R54, R77: LDL reads eight bytes of a literal through the instruction cache into a long result; an offset that is not a multiple of eight
traps 0x04. -/
def Claims.LiteralLoads : Prop :=
  ∀ (h : Hdr) (f : Fields) (n : BitVec 4) (s : State), Runs h s → f.d = .w n →
    let c := me s
    let target := branchTarget s f
    (target.toNat < 2 ^ 53 → target.toNat % 8 = 0 → ∀ l, iFind s (coreOf s.cur) c.pid (target.toNat / 128) = some l → l.poison = false →
      Ends (.ldl h f) s (fun t =>
        Advances h c (t.ctx s.cur) ∧ t.mem = s.mem ∧
        (t.ctx s.cur).outstanding = c.outstanding ++
          [⟨s.nextId, .w ((8 * c.wf + n.toNat) % 64), some (.ok (l.bits.toNat / 2 ^ (8 * (target.toNat % 128)) % 2 ^ 64)), 0⟩])) ∧
    (ctxNo s.cur ≠ 7 → target.toNat < 2 ^ 54 → target.toNat % 8 ≠ 0 → Traps (.ldl h f) s 0x04 (some target) 0)

/-- R23, R54, R77, R80, R84, R91: what ends an instruction beside its result, and the words that touch the instruction cache. -/
def Obligations.MarkersYieldFlushAndLiterals : Prop :=
  Claims.MarkersYieldAndFlush ∧ Claims.LiteralLoads

/-! ### System registers, returns and threads (R19, R27, R82 to R91, R210 to R213) -/

/-- The per-context registers that hold one field of the context, by number (R92, R241). -/
def Claims.plainRegister (c : Ctx) (n : Nat) : Option Word :=
  match n with
  | 0 => some c.tsp | 1 => some c.wsp | 3 => some c.tcomp | 4 => some c.migmode | 5 => some c.jctr | 8 => some c.loopcnt
  | 9 => some c.lbody | 10 => some c.wlim | 11 => some c.cause | 12 => some c.epc | 13 => some c.fpc | 14 => some c.faddr
  | 15 => some c.finfo | 32 => some c.xsrc | 33 => some c.xdst | 34 => some c.xlay | 35 => some c.xbox | 36 => some c.xext
  | 37 => some c.xopt | 38 => some c.xcw | 39 => some c.xcv
  | _ => none

/-- R10, R83, R92 to R94: MFSR reads the issuing context's register, composed where the map composes it. -/
def Claims.SystemRegisterReads : Prop :=
  ∀ (h : Hdr) (f : Fields) (n : BitVec 4) (r : BitVec 7) (s : State), Runs h s → f.sub = 0 → f.d = .w n → f.a = .y r →
    let c := me s
    let k := coreOf s.cur
    let gives : Word → Prop := fun v => Leaves (.mfsr h f) h s (fallThrough (c.setW n.toNat v) c.pc)
    (∀ v, Claims.plainRegister c r.toNat = some v → gives v) ∧
    (r = 2 → c.spl < 2 ^ 16 → c.res < 8 → c.wf < 8 → gives (BitVec.ofNat 64
      (c.spl * 2 ^ 48 + (if c.vz then 2 ^ 13 else 0) + (if c.vl then 2 ^ 12 else 0) + c.res * 2 ^ 8 + c.wf))) ∧
    (r = 6 → gives (BitVec.ofNat 64
      (2 ^ 53 + (k / 768 % 2) * 2 ^ 49 + (k % 768 / 32) * 2 ^ 44 + (k % 32) * 2 ^ 39 + s.cur % 8))) ∧
    (r = 7 → c.pid < 2 ^ 12 → c.ectx < 2 ^ 8 → c.pri < 4 → gives (BitVec.ofNat 64 (c.pid * 2 ^ 16 + c.ectx * 2 ^ 8 + c.pri))) ∧
    (r = 21 → gives (BitVec.ofNat 64 s.pkg.time)) ∧
    (r = 22 → gives (c.icount + 1)) ∧
    (r = 80 → gives (s.core k).hbase)

/-- R6, R83, R92: MTSR writes the issuing context's register with the bits its map lets through; a register that is RO for the thread keeps
its value. -/
def Claims.SystemRegisterWrites : Prop :=
  ∀ (h : Hdr) (f : Fields) (r : BitVec 7) (s : State), Runs h s → f.sub = 0 → f.d = .y r → f.a.link? = none →
    let c := me s
    let v := source s f.a
    let leaves : Ctx → Prop := fun d => Leaves (.mtsr h f) h s (fallThrough d c.pc)
    (r = 0 → leaves { c with tsp := v }) ∧
    (r = 1 → leaves { c with wsp := v &&& ~~~63 }) ∧
    (r = 10 → leaves { c with wlim := v &&& ~~~63 }) ∧
    (r = 3 → v.toNat % 8 < 6 → leaves { c with tcomp := v &&& 0x3F_FFFF_FFFF_FFFF }) ∧
    (r = 3 → 6 ≤ v.toNat % 8 → leaves { c with tcomp := (v &&& 0x3F_FFFF_FFFF_FFF8) ||| 4 }) ∧
    (r = 4 → leaves { c with migmode := v &&& 0xFF01 }) ∧
    (r = 8 → leaves { c with loopcnt := v }) ∧
    (r = 32 → leaves { c with xsrc := v }) ∧ (r = 33 → leaves { c with xdst := v }) ∧ (r = 35 → leaves { c with xbox := v }) ∧
    (r = 36 → leaves { c with xext := v }) ∧ (r = 38 → leaves { c with xcw := v }) ∧ (r = 39 → leaves { c with xcv := v }) ∧
    (ctxNo s.cur ≠ 7 → (r = 2 ∧ v.getLsbD 13 = false) ∨ r = 6 ∨ r = 7 ∨ r = 11 ∨ r = 12 ∨ r = 13 ∨ r = 14 ∨ r = 15 ∨ r = 21 ∨ r = 22 →
      leaves c)

/-- R6, R83, R92: reading and writing the issuing context's registers. -/
def Obligations.SystemRegisters : Prop :=
  Claims.SystemRegisterReads ∧ Claims.SystemRegisterWrites

/-- R83: in context 7 the `.t`, `.stk` and `.prd` forms read and write another context of the core that is Stopped or free, and leave every
other one alone: a read of it gives 0. -/
def Obligations.OtherContextsThroughMfsrAndMtsr : Prop :=
  ∀ (h : Hdr) (f : Fields) (s : State), Runs h s → ctxNo s.cur = 7 → (core s).tctx < 7 →
    let y := 8 * coreOf s.cur + (core s).tctx
    let open' := (s.ctx y).run = .stopped ∨ (s.ctx y).run = .free
    (∀ n : BitVec 4, f.d = .w n →
      (∀ (b : BitVec 7) v, f.sub = 1 → f.a = .y b → Claims.plainRegister (s.ctx y) b.toNat = some v →
        Ends (.mfsr h f) s fun t => (t.ctx s.cur).w n.toNat = if open' then v else 0) ∧
      (f.sub = 2 → f.b.link? = none → Ends (.mfsr h f) s fun t =>
        (t.ctx s.cur).w n.toNat = if open' then (s.ctx y).stack.getD ((count s f.b).toNat % 64) 0 else 0) ∧
      (∀ b : BitVec 7, f.sub = 3 → f.b = .imm b → b.toNat < 8 →
        Ends (.mfsr h f) s fun t => (t.ctx s.cur).w n.toNat = if open' then (s.ctx y).pred b.toNat else 0)) ∧
    (f.a.link? = none →
      let v := source s f.a
      (f.sub = 1 → f.d = .y 12 → Ends (.mtsr h f) s fun t => (t.ctx y).epc = if open' then v else (s.ctx y).epc) ∧
      (f.sub = 2 → f.b.link? = none → Ends (.mtsr h f) s fun t => (t.ctx y).stack.getD ((count s f.b).toNat % 64) 0 =
          if open' then v else (s.ctx y).stack.getD ((count s f.b).toNat % 64) 0) ∧
      (∀ b : BitVec 7, f.sub = 3 → f.b = .imm b → b.toNat < 8 → Ends (.mtsr h f) s fun t => (t.ctx y).pred b.toNat =
          if b = 0 then BitVec.allOnes 64 else if open' then v else (s.ctx y).pred b.toNat))

/-- R19, R25, R82: in context 7, RTE resumes a Stopped target at its `y.epc`, RTE.END ends its thread with the completion release, RTE.DROP
without; the outcome is all ones in P[D]. A target that is not Stopped, or a number outside 0 to 6, is left alone and the outcome is 0; so is the
target whose completion atomic fails, which has the trap registers of a failing EXIT. Where a launch ends with the thread, the L1s of its cores are
emptied (R237). What `y.fpc` holds then is the model's choice (log entry
22). -/
def Obligations.ReturnsFromATrap : Prop :=
  ∀ (h : Hdr) (f : Fields) (s : State), Runs h s → ctxNo s.cur = 7 → ((∃ m, f.a = .w m) ∨ ∃ v, f.a = .imm v) →
    let n := match f.a with | .imm v => v.toNat | o => (source s o).toNat % 8
    let y := 8 * coreOf s.cur + n
    let c := s.ctx y
    let tells : State → Bool → Prop := fun t b =>
      ∀ p : BitVec 3, f.d = .p p → (t.ctx s.cur).pred p.toNat = if p = 0 ∨ b = true then BitVec.allOnes 64 else 0
    let u := issued s.cur h s
    (n ≤ 6 → c.run = .stopped →
      (Ends (.rte h f) s fun t => tells t true ∧ (t.ctx y).pc = c.epc ∧ ((t.ctx y).run = .ready ∨ (t.ctx y).run = .parked false none)) ∧
      (c.deferred = [] → Ends (.rte h f) s fun t => tells t true ∧ (t.ctx y).pc = c.epc ∧ (t.ctx y).stack = c.stack ∧ (t.ctx y).p = c.p ∧
        (t.ctx y).run = (if c.outstanding = [] then .ready else .parked false none) ∧ t.mem = s.mem) ∧
      (drainOver s y = true → c.tcomp.toNat / 8 % 2 ^ 51 = 0 →
        Ends (.rteEnd h f) s fun t => tells t true ∧ (t.ctx y).run = .free ∧ (t.ctx y).pair = c.pair) ∧
      (∀ v, drainOver s y = true → completionRelease y c.epc u = .ok v → Ends (.rteEnd h f) s fun t => tells t true ∧ (t.ctx y).run = .free ∧
        t.mem = (launchOver c.lid (endThread y v)).mem) ∧
      (∀ e v, drainOver s y = true → completionRelease y c.epc u = .error (some e, v) → Ends (.rteEnd h f) s fun t => tells t false ∧
        (t.ctx y).run = .stopped ∧ (t.ctx y).epc = (v.ctx y).epc ∧ (t.ctx y).cause = BitVec.ofNat 64 e.cause ∧ (t.ctx y).finfo = e.finfo) ∧
      Ends (.rteDrop h f) s fun t => tells t true ∧ (t.ctx y).run = .free ∧ (t.ctx y).pair = c.pair ∧
        ((t.ctx y).closing = true ↔ c.mstat.unf + c.spstat.unf + c.rqstat.unf ≠ 0)) ∧
    (6 < n ∨ c.run ≠ .stopped →
      (Ends (.rte h f) s fun t => tells t false ∧ OthersKept s t) ∧
      (Ends (.rteEnd h f) s fun t => tells t false ∧ OthersKept s t) ∧
      (Ends (.rteDrop h f) s fun t => tells t false ∧ OthersKept s t))

/-- R85, R86, R87: a child that finds room becomes a kind-0 record with the target, the four arguments and the join counter of its parent, and
P[D] is all ones; with no room, entries reserved for records on their way (R208) counted in, it runs inline as a call whose link has bit 0 set, and P[D] is 0. Said for a thread without a join
counter. -/
def Obligations.ChildrenAreQueuedOrRunInline : Prop :=
  ∀ (h : Hdr) (f : Fields) (p : BitVec 3) (n : BitVec 4) (s : State), RunsAlone h s → f.d = .p p → f.b = .w n → h.sw = false →
    let c := me s
    let k := coreOf s.cur
    let target := branchTarget s f
    let u := issued s.cur h s
    let child : Queued → Prop := fun q =>
      q.r.w1 = target ∧ q.r.w2 = c.w n.toNat ∧ q.r.w3 = c.w (n.toNat + 1) ∧ q.r.w4 = c.w (n.toNat + 2) ∧ q.r.w5 = c.w (n.toNat + 3) ∧
        q.r.w6 = c.jctr ∧ q.r.w0.toNat % 16 = 0 ∧ q.r.w0.toNat / 2 ^ 8 % 4 = f.sub.toNat % 4 ∧
        q.r.w0.getLsbD 4 = f.sub.getLsbD 2 ∧ q.lid = threadLaunch s s.cur
    let placed : State → Prop := fun t =>
      Advances h c (t.ctx s.cur) ∧ (t.ctx s.cur).pred p.toNat = BitVec.allOnes 64 ∧ (t.core k).seq = ((s.core k).seq + 1) % 2 ^ 32 ∧
        t.mem = s.mem
    let inline : State → Prop := fun t =>
      (t.ctx s.cur).pc = target ∧ (t.ctx s.cur).w 7 = c.pc + 13 ∧ (∀ j, j < 4 → (t.ctx s.cur).w j = c.w (n.toNat + j)) ∧
        (t.ctx s.cur).pred p.toNat = (if p = 0 then BitVec.allOnes 64 else 0) ∧ (t.ctx s.cur).res = c.res + 1 ∧ OthersKept s t
    target.toNat < 2 ^ 54 → target.toNat % 4 = 0 → c.jctr = 0 →
      (dequeDepth s k < 32 → Ends (.fork h f) s fun t => placed t ∧
        ∃ q, (t.core k).deque = (s.core k).deque ++ [q] ∧ child q ∧ q.r.w0.getLsbD 5 = false) ∧
      (32 ≤ dequeDepth s k → c.res < 6 → Ends (.fork h f) s inline) ∧
      (∀ (m : BitVec 4) j, f.a = .w m → badHint (c.w m.toNat) = false →
        placementWalk u (threadLaunch s s.cur) (k, false) (c.w m.toNat) = some j →
        Ends (.spawn h f) s fun t => placed t ∧
          ∃ q, (t.core j).deque = q :: (s.core j).deque ∧ child q ∧ q.r.w0.getLsbD 5 = f.sub.getLsbD 3) ∧
      (∀ m : BitVec 4, f.a = .w m → badHint (c.w m.toNat) = false →
        placementWalk u (threadLaunch s s.cur) (k, false) (c.w m.toNat) = none → c.res < 6 → Ends (.spawn h f) s inline) ∧
      (∀ m : BitVec 4, f.a = .w m → ctxNo s.cur ≠ 7 → badHint (c.w m.toNat) = true → Traps (.spawn h f) s 0x13 (some 0) 1)

/-- R19, R74, R82, R210, R211: EXIT of an inline frame returns; EXIT of the outermost frame and EVNEXT free the context, which keeps its area
pair, once nothing of the thread is under way, after lowering the completion word where there is one. Said of a thread without a
completion word, and for EXIT of one whose word lies in its own core's scratchpad. Where a launch ends with the thread, the L1s of its cores are written
back (R237). -/
def Claims.ThreadsEnd : Prop :=
  ∀ (h : Hdr) (f : Fields) (s : State), RunsAlone h s →
    let c := me s
    let k := coreOf s.cur
    c.outstanding = [] → c.pend = [] → c.deferred = [] →
      (c.res + c.spl ≠ 0 → (c.w 7).getLsbD 0 = true → c.res ≠ 0 → Ends (.exit h f) s fun t =>
        (t.ctx s.cur).pc = c.w 7 &&& ~~~3 ∧ (t.ctx s.cur).res = c.res - 1 ∧ OthersKept s t) ∧
      (drainOver s s.cur = true → c.tcomp.toNat / 8 % 2 ^ 51 = 0 →
        (c.res + c.spl = 0 ∨ (c.w 7).getLsbD 0 = false →
          Ends (.exit h f) s fun t => (t.ctx s.cur).run = .free ∧ (t.ctx s.cur).pair = c.pair ∧
            t.mem = (launchOver c.lid (endThread s.cur (issued s.cur h s))).mem ∧ (c.lid = none → ∀ a, memByte t.mem a = memByte s.mem a)) ∧
        Ends (.evnext h f) s fun t => (t.ctx s.cur).run = .free ∧ (t.ctx s.cur).pair = c.pair) ∧
      (∀ off, drainOver s s.cur = true → c.res + c.spl = 0 → c.tcomp.toNat % 8 = 1 → c.tcomp.toNat / 8 % 2 ^ 51 ≠ 0 →
        resolve k (wordAddr c.tcomp) = .spad k off → (s.core k).killed = false → (s.core k).droopAt = none → (s.core k).waiters = [] →
        resident s k off = true → spadBad s k off = false →
        Ends (.exit h f) s fun t => (t.ctx s.cur).run = .free ∧
          (t.core k).spad.getD (off / 8) 0 = (s.core k).spad.getD (off / 8) 0 - 1 ∧
          ∀ j, j ≠ off / 8 → (t.core k).spad.getD j 0 = (s.core k).spad.getD j 0)

/-- R27, R88, R89, R212, R213: MIGR to the thread's own core goes on, as every MIGR of context 7 does (the model's choice, log entry 21), and to another core it leaves with a thread packet that carries the PC
after it; JOIN on a counter that reads 0 goes on; SLEEP puts context 7 to sleep where no item is pending; POPR takes the bottom record
of the deque, and nothing where there is none or where it is dual-dispatched. -/
def Claims.ThreadWordsComplete : Prop :=
  ∀ (h : Hdr) (f : Fields) (s : State), RunsAlone h s →
    let c := me s
    let k := coreOf s.cur
    (∀ n : BitVec 4, f.a = .w n → c.outstanding = [] → c.pend = [] → c.deferred = [] →
      (resolve k (c.w n.toNat) = .spad k 0 ∨ ctxNo s.cur = 7 → Leaves (.migr h f) h s (fallThrough c c.pc)) ∧
      (∀ dst, (c.w n.toNat).getLsbD 53 = true → (c.w n.toNat).getLsbD 52 = false → coreNamed (c.w n.toNat) = some dst → dst ≠ k →
        ctxNo s.cur ≠ 7 →
        c.wlim.toNat + 64 * c.res + 128 ≤ c.wsp.toNat → drainOver s s.cur = true → c.xbatches = [] → c.xopen = 0 →
        (∀ u, depart s.cur dst false ((issued s.cur h s).modCtx s.cur Ctx.seal) = .ok u →
          Ends (.migr h f) s fun t => (t.ctx s.cur).run = .migrating ∧ t.migs.length = s.migs.length + 1 ∧
            ∃ m ∈ t.migs, m.dst = dst ∧ m.ctx.pc = (fallThrough c c.pc).pc ∧ m.ctx.p = c.p))) ∧
    (∀ off, OwnWord s (addr s f) 8 off → (core s).waiters = [] → (core s).spad.getD (off / 8) 0 = 0 →
      Ends (.join h f) s fun t => Advances h c (t.ctx s.cur) ∧ (t.core k).spad = (s.core k).spad ∧ t.mem = s.mem) ∧
    (∀ v, ctxNo s.cur = 7 → f.x = .i v →
      ((core s).supq = [] → Ends (.sleep h f) s fun t => Advances h c (t.ctx s.cur) ∧ (t.core k).asleep = true ∧
        (t.core k).sleepAt = if v = 0 then none else some (s.pkg.time + v.toNat)) ∧
      ((core s).supq ≠ [] → Leaves (.sleep h f) h s (fallThrough c c.pc))) ∧
    (∀ (p : BitVec 3) (n : BitVec 4), f.d = .p p → f.a = .w n → n.toNat ≤ 8 →
      (∀ q rest, (core s).deque = rest ++ [q] → q.r.dualFlag = false → Ends (.popr h f) s fun t =>
        Advances h c (t.ctx s.cur) ∧ (t.core k).deque = rest ∧ (t.ctx s.cur).pred p.toNat = BitVec.allOnes 64 ∧
          ∀ j, j < 8 → (t.ctx s.cur).w (n.toNat + j) = q.r.word j) ∧
      (∀ q rest, (core s).deque = rest ++ [q] → q.r.dualFlag = true →
        Leaves (.popr h f) h s (fallThrough (c.setPred p.toNat 0) c.pc)) ∧
      ((core s).deque = [] → Leaves (.popr h f) h s (fallThrough (c.setPred p.toNat 0) c.pc)))

/-- R19, R27, R74, R82, R88, R89, R210 to R213: the words that end, move, join, wait and look at work. -/
def Obligations.ThreadWords : Prop :=
  Claims.ThreadsEnd ∧ Claims.ThreadWordsComplete

/-! ### Memory words (R157 to R191) -/

/-- The value of a load: sign-extended for the signed integer types, zero-extended for every other (R170). -/
def Claims.loaded (ty n : Nat) : Nat :=
  if ty = 0 ∨ ty = 2 ∨ ty = 4 ∨ ty = 6 then (BitVec.ofInt 64 (Int.bmod n (2 ^ (8 * tyBytes ty)))).toNat else n

/-- The bytes of an own scratchpad word that an access names. -/
def Claims.ownBytes (s : State) (off n : Nat) : Nat := (ownSpad s off).toNat / 2 ^ (8 * (off % 8)) % 2 ^ (8 * n)

/-- R170, R171, R174, R177, R180: loads of an own scratchpad word: LD extends what path T sees of it (R254), or fails with code 4 where the word has an uncorrectable error (R160); LDF empties the
tag and LDFF keeps it, TAGR reads it, WAITA whose condition holds reports it, ACQ reads. No byte of memory and no scratchpad word changes. -/
def Claims.OwnScratchpadLoads : Prop :=
  ∀ (h : Hdr) (f : Fields) (n : BitVec 4) (off : Nat) (s : State), RunsAlone h s → f.d = .w n → f.x.ty < 16 → f.x.ty ≠ 14 →
    let c := me s
    let b := tyBytes f.x.ty
    let dst := LongDst.w ((8 * c.wf + n.toNat) % 64)
    let word := (ownSpad s off).toNat
    let kept : State → Prop := fun t =>
      Advances h c (t.ctx s.cur) ∧ (t.core (coreOf s.cur)).spad = (core s).spad ∧ (∀ a, memByte t.mem a = memByte s.mem a)
    (OwnWord s (addr s f) b off → Ends (.ld h f) s fun t =>
      (∃ m, Seen s off m ∧ LongResult s t dst (Claims.loaded f.x.ty (m.toNat / 2 ^ (8 * (off % 8)) % 2 ^ (8 * b)))) ∧ RegistersKept s t ∧ kept t ∧
        (t.core (coreOf s.cur)).tags = (core s).tags) ∧
    (OwnSlot s (addr s f) b off → spadBad s (coreOf s.cur) off = true → Ends (.ld h f) s fun t =>
      LongFailure s t dst ⟨0x0C, none, c.pc, some (addr s f), 4⟩ ∧ RegistersKept s t ∧ kept t) ∧
    (OwnWord s (addr s f) 8 off →
      (Ends (.tagr h f) s fun t => LongResult s t dst (if ownTag s off then 1 else 0) ∧ RegistersKept s t ∧ kept t) ∧
      (Ends (.acq h f) s fun t => LongResult s t dst word ∧ RegistersKept s t ∧ kept t) ∧
      (ownTag s off = true → (core s).waiters = [] →
        (Ends (.ldf h f) s fun t => kept t ∧ (t.ctx s.cur).w n.toNat = BitVec.ofNat 64 word ∧ ownTag t off = false) ∧
        (Ends (.ldff h f) s fun t => kept t ∧ (t.ctx s.cur).w n.toNat = BitVec.ofNat 64 word ∧
          (t.core (coreOf s.cur)).tags = (core s).tags))) ∧
    (OwnWord s (addr s f) b off → 4 ≤ f.x.ty → f.x.ty < 8 →
      let m := Claims.ownBytes s off b
      let v := (c.w n.toNat).toNat % 2 ^ (8 * b)
      let ge : Prop := if f.x.ty % 2 = 0 then Int.bmod v (2 ^ (8 * b)) ≤ Int.bmod m (2 ^ (8 * b)) else v ≤ m
      (match f.sub.toNat / 32 % 4 with | 0 => m = v | 1 => m ≠ v | 2 => ge | _ => False) →
      Ends (.waita h f) s fun t => kept t ∧ (t.ctx s.cur).w n.toNat = BitVec.ofNat 64 (Claims.loaded f.x.ty m) ∧
        (t.ctx s.cur).pred (f.sub.toNat / 128) = BitVec.allOnes 64)

/-- The value that a store takes from D: a register or a sign-extended immediate (R170). -/
def Claims.stored (s : State) (f : Fields) : Word := source s f.d

/-- The device after the write-backs of a release of the word at the effective address (R181). -/
def Claims.released (h : Hdr) (f : Fields) (s : State) : State :=
  releaseObj (issued s.cur h s) (coreOf s.cur) (me s).pid f.x.sc (globalOf (coreOf s.cur) (addr s f)).toNat

/-- R170, R171, R181: stores to an own scratchpad word with no waiter at the core: ST replaces the bytes it names and no tag, STE fills an
empty word, STF any word, TAGW writes the tag alone, REL writes the object; a store of a whole word overwrites an error in it. No other word or tag of any scratchpad changes, and device memory is as the release's write-backs leave it. That a store of a whole word overwrites the error is the model's choice (log entry 50). -/
def Claims.OwnScratchpadStores : Prop :=
  ∀ (h : Hdr) (f : Fields) (off : Nat) (s : State), RunsAlone h s → f.d.link? = none → f.x.ty < 16 → f.x.ty ≠ 14 →
    (core s).waiters = [] →
    let b := tyBytes f.x.ty
    let lo := 8 * (off % 8)
    let done : State → Prop := fun t => Advances h (me s) (t.ctx s.cur) ∧ (t.ctx s.cur).stack = (me s).stack ∧ (t.ctx s.cur).p = (me s).p
    let same : State → State → Prop := fun t u => ∀ a, memByte t.mem a = memByte u.mem a
    let rel := Claims.released h f s
    (OwnSlot s (addr s f) b off → spadBad s (coreOf s.cur) off = false ∨ b = 8 → Ends (.st h f) s fun t => done t ∧ OnlyWord s t off ∧ same t s ∧ ownTag t off = ownTag s off ∧
      ∀ j, j < 64 → (ownSpad t off).getLsbD j =
        if lo ≤ j ∧ j < lo + 8 * b then (Claims.stored s f).getLsbD (j - lo) else (ownSpad s off).getLsbD j) ∧
    (OwnSlot s (addr s f) 8 off →
      (spadBad s (coreOf s.cur) off = false → Ends (.tagw h f) s fun t => done t ∧ OnlyWord s t off ∧ same t s ∧ ownSpad t off = ownSpad s off ∧
        ownTag t off = (Claims.stored s f).getLsbD 0) ∧
      (ownTag s off = false → Ends (.ste h f) s fun t =>
        done t ∧ OnlyWord s t off ∧ same t rel ∧ ownSpad t off = Claims.stored s f ∧ ownTag t off = true ∧
          spadBad t (coreOf s.cur) off = false) ∧
      (Ends (.stf h f) s fun t => done t ∧ OnlyWord s t off ∧ same t rel ∧ ownSpad t off = Claims.stored s f ∧ ownTag t off = true) ∧
      ((me s).outstanding = [] → (me s).pend = [] → (me s).deferred = [] → Ends (.rel h f) s fun t =>
        done t ∧ OnlyWord s t off ∧ same t rel ∧ ownSpad t off = Claims.stored s f ∧ ownTag t off = ownTag s off))

/-- R158, R159, R170 to R172: loads and stores of the executing core's own scratchpad. -/
def Obligations.OwnScratchpadLoadsAndStores : Prop :=
  Claims.OwnScratchpadLoads ∧ Claims.OwnScratchpadStores

/-- What one atomic makes of the old word `m` and the operand `v`, both of `b` bytes (R184). -/
def Claims.newWord (i : Instr) (b m v e : Nat) (signed : Bool) : Option Nat :=
  let less : Nat → Nat → Bool := fun p q =>
    if signed then decide (Int.bmod p (2 ^ (8 * b)) < Int.bmod q (2 ^ (8 * b))) else decide (p < q)
  match i with
  | .aadd _ _ => some ((m + v) % 2 ^ (8 * b))
  | .afadd _ _ => some (fAdd fFP32 0 m v % 2 ^ (8 * b))
  | .amin _ _ => some (if less v m then v else m)
  | .amax _ _ => some (if less m v then v else m)
  | .aand _ _ => some (m &&& v)
  | .aor _ _ => some (m ||| v)
  | .axor _ _ => some (m ^^^ v)
  | .aswp _ _ => some v
  | .acas _ _ => some (if m = v then e else m)
  | _ => none

/-- R183 to R186: an atomic on an own scratchpad word with no waiter at the core: the new word of its operation, in the bytes it names alone;
the old one as a long result but for the `.nr` form, whose operand may be an immediate. ACAS compares with W[D] and writes W[D + 1]. A release
also performs what other threads of the core have sent to the slices that it writes back to (R345). -/
def Obligations.OwnScratchpadAtomics : Prop :=
  ∀ (i : Instr) (h : Hdr) (f : Fields) (n : BitVec 4) (off new : Nat) (s : State),
    i ∈ ([.aadd h f, .afadd h f, .amin h f, .amax h f, .aand h f, .aor h f, .axor h f, .aswp h f, .acas h f] : List Instr) →
    RunsAlone h s → (f.d = .w n ∨ (∃ v, f.d = .imm v) ∧ f.sub.getLsbD 5 = true ∧ i ≠ .acas h f) → 4 ≤ f.x.ty → f.x.ty ≤ 8 →
    OwnWord s (addr s f) (tyBytes f.x.ty) off → (core s).waiters = [] →
    let c := me s
    let b := tyBytes f.x.ty
    let lo := 8 * (off % 8)
    let m := Claims.ownBytes s off b
    Claims.newWord i b m ((source s f.d).toNat % 2 ^ (8 * b)) ((c.w (n.toNat + 1)).toNat % 2 ^ (8 * b)) (f.x.ty == 4 || f.x.ty == 6) = some new →
    Ends i s fun t => Advances h c (t.ctx s.cur) ∧ (f.sub.getLsbD 3 = false ∨ (∀ r ∈ s.reqs, r.src ≠ coreOf s.cur) → RegistersKept s t) ∧
      (t.ctx s.cur).stack = c.stack ∧ (t.ctx s.cur).p = c.p ∧ (t.ctx s.cur).v = c.v ∧ OnlyWord s t off ∧ ownTag t off = ownTag s off ∧
      (∀ a, memByte t.mem a = memByte (if f.sub.getLsbD 3 then Claims.released h f s else s).mem a) ∧
      (∀ j, j < 64 → (ownSpad t off).getLsbD j =
        if lo ≤ j ∧ j < lo + 8 * b then new.testBit (j - lo) else (ownSpad s off).getLsbD j) ∧
      (f.sub.getLsbD 5 = false → LongResult s t (.w ((8 * c.wf + n.toNat) % 64)) (Claims.loaded f.x.ty m)) ∧
      (f.sub.getLsbD 5 = true → (t.ctx s.cur).outstanding.length = c.outstanding.length)

/-- Every word that accesses data at its effective address, with the size of the access (R168). -/
def Claims.accessSize : Instr → Option (Hdr × Fields × Nat)
  | .ld h f | .st h f => some (h, f, tyBytes f.x.ty)
  | .ldf h f | .ldff h f | .ste h f | .stf h f | .tagr h f | .tagw h f | .acq h f | .rel h f | .join h f => some (h, f, 8)
  | .waita h f | .aadd h f | .afadd h f | .amin h f | .amax h f | .aand h f | .aor h f | .axor h f | .aswp h f | .acas h f =>
    some (h, f, tyBytes f.x.ty)
  | _ => none

/-- R36, R157, R158, R162, R171: the checks of a data access, in their order: a malformed address traps 0x05 with detail 0xF03, a misaligned
one 0x04, one whose own scratchpad slot is not resident 0x06 with the slot; a tagged word in device memory traps 0x04 with detail 2. -/
def Claims.DataAccessChecks : Prop :=
  ∀ (i : Instr) (h : Hdr) (f : Fields) (n : Nat) (s : State), Claims.accessSize i = some (h, f, n) → RunsAlone h s → ctxNo s.cur ≠ 7 →
    let a := addr s f
    (resolve (coreOf s.cur) a = .bad → Traps i s 0x05 (some a) 0xF03) ∧
    (resolve (coreOf s.cur) a ≠ .bad → a.toNat % n ≠ 0 → Traps i s 0x04 (some a) 0) ∧
    (∀ off, resolve (coreOf s.cur) a = .spad (coreOf s.cur) off → a.toNat % n = 0 → resident s (coreOf s.cur) off = false →
      Traps i s 0x06 (some a) (BitVec.ofNat 64 (off / 8192 % 32))) ∧
    (a.toNat < 2 ^ 53 → a.toNat % n = 0 → (∀ r ∈ s.reqs, r.x ≠ s.cur) →
      (match i with | .ldf .. | .ldff .. | .ste .. | .stf .. | .tagr .. | .tagw .. => True | _ => False) → Traps i s 0x04 (some a) 2)

/-- R157: which space an address names: its top ten bits zero; device memory below bit 53; the alias of the core's own scratchpad; a
core's scratchpad by its coordinate, on rows 0 to 23. -/
def Claims.DataAddressSpaces : Prop :=
  ∀ (k : Nat) (a : Word),
    let n := a.toNat
    let die := n / 2 ^ 49 % 2
    let row := n / 2 ^ 44 % 32
    let col := n / 2 ^ 39 % 32
    (2 ^ 54 ≤ n → resolve k a = .bad) ∧
    (n < 2 ^ 53 → resolve k a = .dev n) ∧
    (n / 2 ^ 52 = 3 → resolve k a = if n / 2 ^ 18 % 2 ^ 34 = 0 then .spad k (n % 2 ^ 18) else .bad) ∧
    (n / 2 ^ 52 = 2 → resolve k a =
      if n / 2 ^ 50 % 4 = 0 ∧ n / 2 ^ 18 % 2 ^ 21 = 0 ∧ row ≤ 23 then .spad (768 * die + 32 * row + col) (n % 2 ^ 18) else .bad)

/-- R157, R158, R168: the space an address names, and the checks of an access. -/
def Obligations.DataAddresses : Prop :=
  Claims.DataAccessChecks ∧ Claims.DataAddressSpaces

/-- R164, R165, R169, R170, R183: accesses to device memory, by what the model's own `devLoad` and `devStore` answer for the translated address
and the policy: a load's value or failure is a long result; a store whose translation fails is kept for the next marker; an
atomic is sent to its home slice. Each is made behind the core's earlier packets to the same slice (R345). -/
def Obligations.DeviceMemoryAccesses : Prop :=
  ∀ (h : Hdr) (f : Fields) (n : BitVec 4) (s : State), RunsAlone h s → f.d = .w n → f.x.ty < 16 → f.x.ty ≠ 14 → (∀ r ∈ s.reqs, r.x ≠ s.cur) →
    let c := me s
    let k := coreOf s.cur
    let a := addr s f
    let b := tyBytes f.x.ty
    let u := issued s.cur h s
    let ul := inOrder k c.pid f.x.cp a.toNat .read u
    let us := inOrder k c.pid f.x.cp a.toNat .write u.fresh.2
    let dst := LongDst.w ((8 * c.wf + n.toNat) % 64)
    a.toNat < 2 ^ 53 → a.toNat % b = 0 →
      (∀ v u1, devLoad ul k c.pid f.x.cp a.toNat b = (.ok v, u1) → Ends (.ld h f) s fun t =>
        Advances h c (t.ctx s.cur) ∧ t.mem = u1.mem ∧ t.dies = u1.dies ∧
          (t.ctx s.cur).outstanding.getLast? = some ⟨u1.nextId, dst, some (.ok (Claims.loaded f.x.ty (v % 2 ^ (8 * b)))), 0⟩) ∧
      (∀ e u1, devLoad ul k c.pid f.x.cp a.toNat b = (.error e, u1) → Ends (.ld h f) s fun t =>
        Advances h c (t.ctx s.cur) ∧ t.mem = u1.mem ∧
          (t.ctx s.cur).outstanding.getLast? = some ⟨u1.nextId, dst, some (.fail (e.trap c.pc a)), 0⟩) ∧
      (∀ u1, devStore us k (some s.cur) c.pid f.x.cp a.toNat b ((c.w n.toNat).toNat % 2 ^ (8 * b)) = (.ok (), u1) →
        Ends (.st h f) s fun t => (t.ctx s.cur).pc = (fallThrough c c.pc).pc ∧ t.mem = u1.mem ∧ t.dies = u1.dies ∧
          (t.ctx s.cur).stack = c.stack ∧ (t.ctx s.cur).deferred = c.deferred) ∧
      (∀ e u1, devStore us k (some s.cur) c.pid f.x.cp a.toNat b ((c.w n.toNat).toNat % 2 ^ (8 * b)) = (.error (.xlate e), u1) →
        Ends (.st h f) s fun t => (t.ctx s.cur).pc = (fallThrough c c.pc).pc ∧ t.mem = u1.mem ∧
          ∃ q, (t.ctx s.cur).deferred = c.deferred ++ [q] ∧ q.fpc = c.pc ∧ q.faddr = a ∧ q.finfo = BitVec.ofNat 64 e ∧ q.taken = false) ∧
      (∀ i u1, devStore us k (some s.cur) c.pid f.x.cp a.toNat b (((i : BitVec 7).signExtend 64).toNat % 2 ^ (8 * b)) = (.ok (), u1) →
        Ends (.st h { f with d := .imm i }) s fun t => (t.ctx s.cur).pc = (fallThrough c c.pc).pc ∧ t.mem = u1.mem ∧
          (t.ctx s.cur).stack = c.stack) ∧
      (∀ home u1, 4 ≤ f.x.ty → f.x.ty < 8 → f.sub.getLsbD 3 = false → devHome u k c.pid a.toNat .write = (.ok home, u1) →
        Ends (.aadd h f) s fun t => Advances h c (t.ctx s.cur) ∧ t.mem = u1.mem ∧ t.reqs.length = s.reqs.length + 1 ∧
          ∃ r ∈ t.reqs, r.op = .atom .add ∧ r.home = home ∧ r.x = s.cur ∧ r.size = b ∧ r.val = (c.w n.toNat).toNat)

/-- R182, R188, R189, R190: FENCE goes on once its marker is over, with the write-backs of its release and then the drops of its acquire
(`ReleasesAndAcquires` says what they do); at core scope it does neither; PREF does nothing; CFLUSH and CINV of a scratchpad address do nothing; NSEND sends a value to the neighbour that
its direction names, and posts trap 0x0C with detail 1 where there is none. -/
def Claims.OrderingWordsComplete : Prop :=
  ∀ (h : Hdr) (f : Fields) (s : State), RunsAlone h s → (∀ r ∈ s.reqs, r.x ≠ s.cur) →
    let c := me s
    let k := coreOf s.cur
    Leaves (.pref h f) h s (fallThrough c c.pc) ∧
    (∀ m off, resolve k (addr s f) = .spad m off → f.sub.toNat < 8 →
      Leaves (.cflush h f) h s (fallThrough c c.pc) ∧ Leaves (.cinv h f) h s (fallThrough c c.pc)) ∧
    (c.outstanding = [] → c.pend = [] → c.deferred = [] →
      (Ends (.fence h f) s fun t => (t.ctx s.cur).pc = (fallThrough c c.pc).pc ∧ (t.ctx s.cur).stack = c.stack ∧ (t.ctx s.cur).p = c.p ∧
        (∀ j, (t.core j).spad = (s.core j).spad) ∧
        (let v := if f.sub.getLsbD 3 then releaseVia (issued s.cur h s) k c.pid f.x.sc none else issued s.cur h s
         let w := if f.sub.getLsbD 4 then acquireLines v k c.pid f.x.sc none else v
         t.mem = w.mem ∧ t.dies = w.dies ∧ t.cores = w.cores) ∧
        (f.sub.getLsbD 4 = true → f.x.sc = 3 → (s.cluster (clusterOf k)).fused = false → ∀ l ∈ (t.core k).l1, l.dirty ≠ 0)) ∧
      (f.x.sc ≤ 1 → Leaves (.fence h f) h s (fallThrough c c.pc))) ∧
    (∀ n, f.d = .l n → f.a.link? = none → f.sub.getLsbD 2 = false →
      (∀ m, (neighbours k).getD (f.sub.toNat % 4) none = some m → (s.core m).offline = false → (s.core m).killed = false →
        Ends (.nsend h f) s fun t => Advances h c (t.ctx s.cur) ∧ RegistersKept s t ∧ t.mem = s.mem ∧
          ∃ r, t.reqs = s.reqs ++ [r] ∧ r.op = .link n.toNat false ∧ r.x = s.cur ∧ r.val = (source s f.a).toNat ∧ r.atCore m = true) ∧
      ((neighbours k).getD (f.sub.toNat % 4) none = none →
        Ends (.nsend h f) s fun t => (t.ctx s.cur).pc = (fallThrough c c.pc).pc ∧
          ∃ p, (t.ctx s.cur).pend = c.pend ++ [p] ∧ p.cause = 0x0C ∧ p.finfo = 1 ∧ p.fpc = c.pc))

/-- R164, R166, R180, R182: what the write-backs of a fence's release and the drops of its acquire do, at every scope, with the fused L1 and without: at
a scope whose point of coherence is the L1 nothing; beyond it the release leaves no dirty byte in any L1 that the core's accesses go through, and at
device and system scope none in the die's copies of lines homed on the other die; the acquire leaves only dirty bytes there, and writes nothing. The
write-back of one line puts its dirty bytes, and no others, into memory. -/
def Claims.ReleasesAndAcquires : Prop :=
  ∀ (s : State) (k pid sc : Nat),
    let fused := (s.cluster (clusterOf k)).fused
    let d := coreDie k
    let r := releaseLines s k pid sc none
    let a := acquireLines s k pid sc none
    let atL1 : Prop := sc ≤ 1 ∨ sc = 2 ∧ fused = true
    (atL1 → r = s ∧ a = s) ∧
    (¬atL1 → ∀ m, m ∈ l1Cores s k →
      (∀ l ∈ (r.core m).l1, l.dirty = 0) ∧ (∀ l ∈ (a.core m).l1, l.dirty ≠ 0 ∧ l.stale = true)) ∧
    (4 ≤ sc → (∀ e ∈ (r.die d).llc, e.2.dirty = 0) ∧ (∀ e ∈ (a.die d).llc, e.2.dirty ≠ 0 ∧ e.2.stale = true)) ∧
    a.mem = s.mem ∧
    (∀ l p s1, l.dirty ≠ 0 → translate s d l.pid (128 * l.vln) .read = (.ok p, s1) → l.poison = false → homeDie (128 * (p.pa / 128)) = d →
      ∀ i, i < 128 → memByte (l1WriteBack s k l).mem (128 * (p.pa / 128) + i) =
        if l.dirty.getLsbD i then l.bits.extractLsb' (8 * i) 8 else memByte s1.mem (128 * (p.pa / 128) + i)) ∧
    (∀ ln l, (s.die d).llc.get? ln = some l → fencedFrom s d (homeDie (128 * ln)) = false →
      ∀ i, i < 128 → memByte (llcClean s d ln).mem (128 * ln + i) =
        if l.dirty.getLsbD i then l.bits.extractLsb' (8 * i) 8 else memByte s.mem (128 * ln + i))

/-- R189: CFLUSH and CINV of a device address write the line back towards the scope's point, as the model's own `flushLine` says; CINV with
a clean own line leaves no copy of it in the core's L1. -/
def Claims.CacheLineWords : Prop :=
  ∀ (h : Hdr) (f : Fields) (u1 : State) (s : State), RunsAlone h s → (∀ r ∈ s.reqs, r.x ≠ s.cur) → f.sub.toNat < 8 → (addr s f).toNat < 2 ^ 53 →
    let c := me s
    let k := coreOf s.cur
    let vln := (addr s f).toNat / 128
    (flushLine k c.pid vln f.x.sc false (issued s.cur h s) = .ok u1 →
      Ends (.cflush h f) s fun t => t.mem = u1.mem ∧ t.dies = u1.dies ∧ t.cores = u1.cores ∧ (t.ctx s.cur).pc = (fallThrough c c.pc).pc) ∧
    (flushLine k c.pid vln f.x.sc true (issued s.cur h s) = .ok u1 →
      Ends (.cinv h f) s fun t => t.mem = u1.mem ∧ t.dies = u1.dies ∧ t.cores = u1.cores ∧ (t.ctx s.cur).pc = (fallThrough c c.pc).pc ∧
        (2 ≤ f.x.sc → (s.cluster (clusterOf k)).fused = false → ∀ l ∈ (t.core k).l1, ¬(l.pid = c.pid ∧ l.vln = vln)))

/-- R182, R188 to R190: fences, ordered accesses, prefetches, and the words that write lines back or drop them. -/
def Obligations.OrderingAndCacheWords : Prop :=
  Claims.OrderingWordsComplete ∧ Claims.ReleasesAndAcquires ∧ Claims.CacheLineWords

/-- R177, R178, R351: BIND adds an entry to the thread's region table and answers 0, 0 again where the binding exists, 1 with 15 ranges
bound, 2 with a full table, 3 for a range that is empty or leaves its space; a table that cannot be read fails the answer of BIND; UNBIND removes
the entry that starts at its address, or with `.all` every entry of the object. A malformed address traps 0x05, an object address that is no multiple
of 8 traps 0x04. -/
def Obligations.BindingsAddAndRemoveEntries : Prop :=
  ∀ (h : Hdr) (f : Fields) (n : BitVec 4) (s : State), RunsAlone h s → f.d = .w n → n.toNat ≤ 14 →
    let c := me s
    let k := coreOf s.cur
    let a := addr s f
    let o := c.w n.toNat
    let len := (c.w (n.toNat + 1)).toNat
    let u := issued s.cur h s
    let start := globalOf k a
    let obj := (globalOf k o).toNat
    let answers : Nat → State → Prop := fun v t =>
      Advances h c (t.ctx s.cur) ∧ LongResult s t (.w ((8 * c.wf + n.toNat + 1) % 64)) v
    let goes : State → Prop := fun t => Advances h c (t.ctx s.cur) ∧ (t.ctx s.cur).stack = c.stack ∧ (t.ctx s.cur).p = c.p
    (ctxNo s.cur ≠ 7 →
      (resolve k a = .bad → Traps (.bind h f) s 0x05 (some a) 0xF03 ∧ (f.sub.getLsbD 3 = false → Traps (.unbind h f) s 0x05 (some a) 0xF03)) ∧
      (resolve k a ≠ .bad → resolve k o = .bad → Traps (.bind h f) s 0x05 (some o) 0xF03 ∧ Traps (.unbind h f) s 0x05 (some o) 0xF03) ∧
      (resolve k a ≠ .bad → resolve k o ≠ .bad → o.toNat % 8 ≠ 0 → Traps (.bind h f) s 0x04 (some o) 0 ∧ Traps (.unbind h f) s 0x04 (some o) 0)) ∧
    (∀ e v, resolve k o ≠ .bad → o.toNat % 8 = 0 → resolve k a ≠ .bad → readDesc u (coreDie k) c.pid = (.error e, v) →
      (rangeBad start len = false → Ends (.bind h f) s fun t => Advances h c (t.ctx s.cur) ∧
        LongFailure s t (.w ((8 * c.wf + n.toNat + 1) % 64)) ⟨0x05, none, c.pc, some a, BitVec.ofNat 64 e⟩) ∧
      Ends (.unbind h f) s fun t => (t.ctx s.cur).pend = c.pend ++ [⟨0x05, none, c.pc, some a, BitVec.ofNat 64 e⟩]) ∧
    (resolve k o ≠ .bad → o.toNat % 8 = 0 →
      (resolve k a ≠ .bad → Ends (.bind h f) s fun t => goes t ∧ (t.ctx s.cur).outstanding.length = c.outstanding.length + 1) ∧
      (f.sub.getLsbD 3 = true ∨ resolve k a ≠ .bad → Ends (.unbind h f) s goes) ∧
      (resolve k a ≠ .bad → rangeBad start len = true → Ends (.bind h f) s fun t => answers 3 t ∧ t.mem = s.mem) ∧
      ∀ root table v, readDesc u (coreDie k) c.pid = (.ok (root, table), v) →
        let es := regionEntries v table
        let mine := es.filter fun e => e.2.1 == obj
        (resolve k a ≠ .bad → rangeBad start len = false →
          ((∃ e ∈ mine, e.2.2.1 = start.toNat ∧ e.2.2.2 = len) → Ends (.bind h f) s fun t => answers 0 t ∧ t.mem = v.mem) ∧
          ((∀ e ∈ mine, ¬(e.2.2.1 = start.toNat ∧ e.2.2.2 = len)) →
            (15 ≤ mine.length → Ends (.bind h f) s fun t => answers 1 t ∧ t.mem = v.mem) ∧
            (mine.length < 15 → (∀ j, j < 4096 → ∃ e ∈ es, e.1 = j) → Ends (.bind h f) s fun t => answers 2 t ∧ t.mem = v.mem) ∧
            (∀ j, mine.length < 15 → j < 4096 → (∀ e ∈ es, e.1 ≠ j) → (∀ i, i < j → ∃ e ∈ es, e.1 = i) →
              Ends (.bind h f) s fun t => answers 0 t ∧ t.mem = (putRegion v table j (some (obj, start.toNat, len))).mem))) ∧
        (f.sub.getLsbD 3 = false → resolve k a ≠ .bad → (∀ e ∈ es, ¬(e.2.1 = obj ∧ e.2.2.1 = start.toNat)) →
          Ends (.unbind h f) s fun t => goes t ∧ t.mem = v.mem) ∧
        (∀ e, f.sub.getLsbD 3 = false → resolve k a ≠ .bad → (es.filter fun e => e.2.1 == obj && e.2.2.1 == start.toNat) = [e] →
          Ends (.unbind h f) s fun t => goes t ∧ t.mem = (putRegion v table e.1 none).mem) ∧
        (f.sub.getLsbD 3 = true → Ends (.unbind h f) s fun t => goes t ∧
          t.mem = (mine.foldl (fun w e => putRegion w table e.1 none) v).mem))

/-- R4, R164, R165: what a core has stored to device memory it loads back, through the same cache policy, under the same PID; a normal
store is held in the line of the core's L1, but for one that misses to a poisoned line (R349); a bypass or streaming store to a line homed on the core's
die is in memory, and its load reads it there, where the address translates alike for both. -/
def Claims.LoadAfterStoreOfDeviceMemory : Prop :=
  ∀ (k x pid cp va n v : Nat) (s s1 : State), n ∈ [1, 2, 4, 8] → va % n = 0 → cp ≤ 2 →
    devStore s k (some x) pid cp va n v = (.ok (), s1) →
    (cp = 0 → ∀ m l, l1Home s k (va / 128) = some m → l1Find s1 m pid (va / 128) = some l → l.poison = false → l.stale = false →
      (devLoad s1 k pid 0 va n).1 = .ok (v % 2 ^ (8 * n))) ∧
    (cp = 0 → (s.cluster (clusterOf k)).fused = false → (l1Fill s k pid (va / 128) .write).1 ≠ .error (.resp 4) → ∃ l, l1Find s1 k pid (va / 128) = some l ∧ l.owner = some x ∧
      l.bits.toNat / 2 ^ (8 * (va % 128)) % 2 ^ (8 * n) = v % 2 ^ (8 * n)) ∧
    (∀ p w, cp ≠ 0 → translate (l1Bypass s k pid va) (coreDie k) pid va .write = (.ok p, w) → homeDie p.pa = coreDie k → p.pa % 128 + n ≤ 128 →
      memRead s1.mem p.pa n = v % 2 ^ (8 * n) ∧ ((s.cluster (clusterOf k)).fused = false → l1Find s1 k pid (va / 128) = none)) ∧
    (∀ p w, cp ≠ 0 → translate (l1Bypass s k pid va) (coreDie k) pid va .write = (.ok p, w) → translate s1 (coreDie k) pid va .read = (.ok p, s1) →
      homeDie p.pa = coreDie k → p.pa % 128 + n ≤ 128 → s1.poison.contains (p.pa / 128) = false → (s1.die (coreDie k)).llc.get? (p.pa / 128) = none →
      (s.cluster (clusterOf k)).fused = false → (devLoad s1 k pid cp va n).1 = .ok (v % 2 ^ (8 * n)))

/-- R347, R349: a write at a home slice is read back there; the bytes around it keep their values; a write of a whole line clears its poison
mark, a partial one keeps it; a read of a poisoned line answers error 4. -/
def Claims.HomeSliceReadAfterWrite : Prop :=
  ∀ (s : State) (d pa n v : Nat), pa % 128 + n ≤ 128 →
    let t := homeWrite s pa n v
    (memRead t.mem pa n = v % 256 ^ n) ∧
    (∀ a, a < pa ∨ pa + n ≤ a → memByte t.mem a = memByte s.mem a) ∧
    (pa % 128 = 0 → n = 128 → pa / 128 ∉ t.poison) ∧
    (n < 128 → t.poison = s.poison) ∧
    (fencedFrom s d (homeDie pa) = false → s.poison.contains (pa / 128) = true → homeRead s d pa n = .error 4) ∧
    (fencedFrom s d (homeDie pa) = false → s.poison.contains (pa / 128) = false → homeRead s d pa n = .ok (memRead s.mem pa n))

/-- R4, R164, R165, R347, R349: reading after writing. -/
def Obligations.DeviceMemoryReadsBack : Prop :=
  Claims.LoadAfterStoreOfDeviceMemory ∧ Claims.HomeSliceReadAfterWrite

/-! ### Vector words (R129 to R156) -/

/-- Lane `i`, `w` bits wide, of a register. -/
def Claims.lane (v : VReg) (w i : Nat) : Nat := v.toNat / 2 ^ (w * i) % 2 ^ w

/-- Lane `i` of a source: a vector register's, or the low bits of a scalar source for every lane (R133). -/
def Claims.laneOf (s : State) (o : Opnd) (w i : Nat) : Nat :=
  match o with
  | .v n => Claims.lane ((me s).vec n.toNat) w i
  | o => (source s o).toNat % 2 ^ w

/-- A lane's count of a shift: read unsigned, an immediate zero-extended (R139). -/
def Claims.laneCount (s : State) (o : Opnd) (w i : Nat) : Nat :=
  match o with
  | .v n => Claims.lane ((me s).vec n.toNat) w i
  | o => (count s o).toNat

/-- Does the mask of the word enable lane `i` (R131). -/
def Claims.enabled (s : State) (f : Fields) (i : Nat) : Bool := !f.x.mkEn || ((me s).pred f.x.mkP).getLsbD i

/-- A lane as an integer: signed for even type codes. -/
def Claims.laneValue (ty n : Nat) : Int := if ty % 2 = 0 then Int.bmod n (2 ^ width ty) else (n : Int)

/-- An exact integer clamped to the range of the type (R138). -/
def Claims.clamp (ty : Nat) (r : Int) : Int :=
  if ty % 2 = 0 then max (-(2 ^ (width ty - 1) : Int)) (min (2 ^ (width ty - 1) - 1) r) else max 0 (min (2 ^ width ty - 1) r)

/-- An integer modulo 2^w. -/
def Claims.wrap (w : Nat) (r : Int) : Nat := (r % (2 ^ w : Nat)).toNat

/-- The word replaces the enabled lanes of vector register `d` by `g`, leaves its other lanes and every other register, makes the vector state
live (R13), and touches nothing else. -/
def Claims.VecGives (i : Instr) (h : Hdr) (f : Fields) (d : BitVec 5) (s : State) (w n : Nat) (g : Nat → Nat) : Prop :=
  Ends i s fun t => Advances h (me s) (t.ctx s.cur) ∧ OthersKept s t ∧ (t.ctx s.cur).vl = true ∧
    (∀ j, j < n → Claims.lane ((t.ctx s.cur).vec d.toNat) w j =
      if Claims.enabled s f j then g j % 2 ^ w else Claims.lane ((me s).vec d.toNat) w j) ∧
    (∀ m, m ≠ d.toNat → (t.ctx s.cur).vec m = (me s).vec m) ∧ (t.ctx s.cur).stack = (me s).stack ∧ (t.ctx s.cur).p = (me s).p

/-- R129, R131, R133, R135, R136, R138, R139: every integer lane holds its exact result wrapped to the lane, or clamped by the saturating
forms; a lane that the mask leaves out keeps its value. -/
def Claims.VectorIntegerLanes : Prop :=
  ∀ (h : Hdr) (f : Fields) (d : BitVec 5) (s : State), Runs h s → f.d = .v d → f.x.ty < 8 → f.a.link? = none → f.b.link? = none →
    let ty := f.x.ty
    let w := width ty
    let a := Claims.laneOf s f.a w
    let b := Claims.laneOf s f.b w
    let o := Claims.lane ((me s).vec d.toNat) w
    let c := Claims.laneCount s f.b w
    let sa := fun j => Claims.laneValue ty (a j)
    let sb := fun j => Claims.laneValue ty (b j)
    let gives := fun (i : Instr) (g : Nat → Nat) => Claims.VecGives i h f d s w (512 / w) g
    (f.sub.getLsbD 0 = false → gives (.viadd h f) (fun j => a j + b j) ∧ gives (.visub h f) (fun j => a j + (2 ^ w - b j))) ∧
    (f.sub.getLsbD 0 = true → gives (.viadd h f) (fun j => Claims.wrap w (Claims.clamp ty (sa j + sb j))) ∧
      gives (.visub h f) (fun j => Claims.wrap w (Claims.clamp ty (sa j - sb j)))) ∧
    gives (.vimul h f) (fun j => a j * b j) ∧
    gives (.vimulh h f) (fun j => Claims.wrap w (Int.fdiv (sa j * sb j) (2 ^ w))) ∧
    gives (.vimad h f) (fun j => o j + a j * b j) ∧
    gives (.vshl h f) (fun j => if c j < w then a j * 2 ^ c j else 0) ∧
    gives (.vshr h f) (fun j => if c j < w then a j / 2 ^ c j else 0) ∧
    gives (.vsra h f) (fun j => Claims.wrap w (if c j < w then Int.fdiv (Int.bmod (a j) (2 ^ w)) (2 ^ c j)
      else if Int.bmod (a j) (2 ^ w) < 0 then -1 else 0)) ∧
    gives (.vand h f) (fun j => a j &&& b j) ∧ gives (.vor h f) (fun j => a j ||| b j) ∧ gives (.vxor h f) (fun j => a j ^^^ b j) ∧
    gives (.vandn h f) (fun j => a j &&& (2 ^ w - 1 - b j)) ∧
    gives (.vpopc h f) (fun j => (List.range w).countP fun m => (a j).testBit m) ∧
    (∃ k : Nat → Nat, (∀ j, Claims.ZerosAbove w (a j) (k j)) ∧ gives (.vclz h f) k) ∧
    gives (.vmin h f) (fun j => if sb j < sa j then b j else a j) ∧
    gives (.vmax h f) (fun j => if sa j < sb j then b j else a j) ∧
    gives (.vabs h f) (fun j => Claims.wrap w (if sa j < 0 then -(sa j) else sa j)) ∧
    gives (.vneg h f) (fun j => 2 ^ w - a j)

/-- The lanes and the lane width of a float type (R101, R129). -/
def Claims.floatWidth (ty : Nat) : Nat := if ty = 8 ∨ ty = 11 then 32 else if ty = 9 ∨ ty = 10 then 16 else 8

/-- R134 to R136: every enabled float lane holds the result of the type's operation, as the model's own arithmetic gives it for the rounding mode
of the word (`FloatSumsAndProductsRoundToNearest` says what that arithmetic is). -/
def Claims.VectorFloatLanes : Prop :=
  ∀ (h : Hdr) (f : Fields) (d : BitVec 5) (s : State), Runs h s → f.d = .v d → 8 ≤ f.x.ty → f.x.ty ≤ 11 →
    f.a.link? = none → f.b.link? = none →
    let g := tyFmt f.x.ty
    let w := Claims.floatWidth f.x.ty
    let a := Claims.laneOf s f.a w
    let b := Claims.laneOf s f.b w
    let o := Claims.lane ((me s).vec d.toNat) w
    let rm := f.x.rm
    let gives := fun (i : Instr) (r : Nat → Nat) => Claims.VecGives i h f d s w (512 / w) r
    gives (.vadd h f) (fun j => fAdd g rm (a j) (b j)) ∧ gives (.vsub h f) (fun j => fSub g rm (a j) (b j)) ∧
    gives (.vmul h f) (fun j => fMul g rm (a j) (b j)) ∧
    gives (.vfma h f) (fun j => fMulAdd g rm false false (a j) (b j) (o j)) ∧
    gives (.vfms h f) (fun j => fMulAdd g rm false true (a j) (b j) (o j)) ∧
    gives (.vfnma h f) (fun j => fMulAdd g rm true false (a j) (b j) (o j)) ∧
    gives (.vmin h f) (fun j => fMinMax g false (a j) (b j)) ∧ gives (.vmax h f) (fun j => fMinMax g true (a j) (b j)) ∧
    gives (.vabs h f) (fun j => fSign g false (a j)) ∧ gives (.vneg h f) (fun j => fSign g true (a j)) ∧
    (f.x.ty = 8 → gives (.vsca h f) (fun j => scaleLane (f.sub.getLsbD 2) (f.sub.getLsbD 1) (f.sub.getLsbD 0) rm
      ((source s f.b).toNat % 256) ((source s f.b).toNat / 256 % 256) (a j) (o j)))

/-- The value of a finite code of a format, as a rational. -/
def Claims.rational : FV → Option ℚ
  | .fin neg m e => some ((if neg then -1 else 1) * (m : ℚ) * (2 : ℚ) ^ e)
  | _ => none

/-- The FP32 code `n` is Round(x) under round to nearest, ties to even (R106, R107): below the magnitude from which rounding passes the largest finite
value it is a finite number nearest to x, and of two equally near the one whose last fraction bit is 0; from there on the infinity of x's sign. -/
def Claims.Rounds (n : Nat) (x : ℚ) : Prop :=
  (|x| < 2 ^ 128 - 2 ^ 103 → ∃ r, Claims.rational (fFP32.read n) = some r ∧ ∀ (y : Nat) (z : ℚ), y < 2 ^ 32 →
    Claims.rational (fFP32.read y) = some z → |r - x| ≤ |z - x| ∧ (z ≠ r → |z - x| = |r - x| → n % 2 = 0)) ∧
  (2 ^ 128 - 2 ^ 103 ≤ |x| → n = if x < 0 then 0xFF80_0000 else 0x7F80_0000)

/-- R105, R106, R107, R134: in FP32 a sum and a product of finite numbers under round to nearest are the exact result rounded once, ties to even. -/
def Claims.FloatSumsAndProductsRoundToNearest : Prop :=
  ∀ (a b : Nat) (p q : ℚ), a < 2 ^ 32 → b < 2 ^ 32 → Claims.rational (fFP32.read a) = some p → Claims.rational (fFP32.read b) = some q →
    Claims.Rounds (fAdd fFP32 0 a b) (p + q) ∧ Claims.Rounds (fMul fFP32 0 a b) (p * q)

/-- R109: the first NaN operand, made quiet, is the result of a float sum or product. -/
def Claims.FloatNanOperandsPropagate : Prop :=
  ∀ (a b rm : Nat), a < 2 ^ 32 → b < 2 ^ 32 →
    let nan := fun n : Nat => n / 2 ^ 23 % 256 = 255 ∧ n % 2 ^ 23 ≠ 0
    (nan a → fAdd fFP32 rm a b = a ||| 0x40_0000 ∧ fMul fFP32 rm a b = a ||| 0x40_0000) ∧
    (¬ nan a → nan b → fAdd fFP32 rm a b = b ||| 0x40_0000 ∧ fMul fFP32 rm a b = b ||| 0x40_0000)

/-- R106, R109: sums and products of floats. -/
def Obligations.FloatSumsAndProducts : Prop :=
  Claims.FloatSumsAndProductsRoundToNearest ∧ Claims.FloatNanOperandsPropagate

/-- R22, R125 to R128, R134, R137: the long float words start one long result for each enabled lane, the lowest first, with the lane's value. -/
def Claims.VectorLongFloatLanes : Prop :=
  ∀ (h : Hdr) (f : Fields) (d : BitVec 5) (s : State), Runs h s → f.d = .v d → 8 ≤ f.x.ty → f.x.ty ≤ 11 →
    f.a.link? = none → f.b.link? = none →
    let g := tyFmt f.x.ty
    let w := Claims.floatWidth f.x.ty
    let a := Claims.laneOf s f.a w
    let b := Claims.laneOf s f.b w
    let rm := f.x.rm
    let gives := fun (i : Instr) (r : Nat → Nat) =>
      Ends i s fun t => Advances h (me s) (t.ctx s.cur) ∧ OnlyNextId s t ∧ (t.ctx s.cur).vl = true ∧ (t.ctx s.cur).v = (me s).v ∧
        (t.ctx s.cur).outstanding.map (fun e => (e.dst, e.val)) = (me s).outstanding.map (fun e => (e.dst, e.val)) ++
          ((List.range (512 / w)).filter (Claims.enabled s f)).map fun j => (LongDst.v d.toNat (w * j) w, some (LongVal.ok (r j)))
    gives (.vdiv h f) (fun j => fDiv g rm (a j) (b j)) ∧ gives (.vsqrt h f) (fun j => fSqrt g rm (a j)) ∧
    gives (.vrcp h f) (fun j => fRcp rm (a j)) ∧ gives (.vrsq h f) (fun j => fRsq rm (a j)) ∧
    gives (.vexp2 h f) (fun j => fExp2 rm (a j)) ∧ gives (.vlog2 h f) (fun j => fLog2 rm (a j))

/-- R22, R125 to R129, R134 to R137: float lanes, short and long. -/
def Obligations.VectorFloatWords : Prop :=
  Claims.VectorFloatLanes ∧ Claims.VectorLongFloatLanes

/-- R12, R130, R140, R141: a vector comparison writes bit i of P[D] for lane i, keeps the bits of the lanes its mask leaves out, and clears the
bits above; p0 discards it. -/
def Claims.VectorComparisons : Prop :=
  ∀ (h : Hdr) (f : Fields) (d : BitVec 3) (s : State), Runs h s → f.d = .p d → f.a.link? = none → f.b.link? = none →
    let ty := f.x.ty
    let gives := fun (i : Instr) (n : Nat) (r : Nat → Prop) =>
      Ends i s fun t => Advances h (me s) (t.ctx s.cur) ∧ OthersKept s t ∧ (t.ctx s.cur).v = (me s).v ∧
        (t.ctx s.cur).stack = (me s).stack ∧ (∀ m, m ≠ d.toNat → (t.ctx s.cur).pred m = (me s).pred m) ∧
        if d = 0 then (t.ctx s.cur).p = (me s).p
        else ∀ j, j < 64 → (((t.ctx s.cur).pred d.toNat).getLsbD j = true ↔
          j < n ∧ (if Claims.enabled s f j then r j else ((me s).pred d.toNat).getLsbD j = true))
    (ty < 8 →
      let w := width ty
      let a := Claims.laneOf s f.a w
      let b := Claims.laneOf s f.b w
      gives (.vicmp h f) (512 / w) fun j =>
        match f.sub.toNat % 8 with
        | 0 => a j = b j
        | 1 => a j ≠ b j
        | 2 => Claims.laneValue ty (a j) < Claims.laneValue ty (b j)
        | 3 => Claims.laneValue ty (a j) ≤ Claims.laneValue ty (b j)
        | 4 => Claims.laneValue ty (b j) < Claims.laneValue ty (a j)
        | 5 => Claims.laneValue ty (b j) ≤ Claims.laneValue ty (a j)
        | 6 => a j &&& b j ≠ 0
        | _ => a j &&& b j = 0) ∧
    (8 ≤ ty → ty ≤ 11 →
      let w := Claims.floatWidth ty
      gives (.vfcmp h f) (512 / w) fun j =>
        floatCond (tyFmt ty) (f.sub.toNat % 8) (Claims.laneOf s f.a w j) (Claims.laneOf s f.b w j) = true)

/-- R12, R124, R130 to R133, R140, R141: integer lanes, and comparisons of lanes. -/
def Obligations.VectorIntegerLanesAndComparisons : Prop :=
  Claims.VectorIntegerLanes ∧ Claims.VectorComparisons

/-- R142 to R147: moves, broadcasts, insertion, extraction and permutations of the lanes of an integer type. -/
def Claims.VectorMovesAndPermutations : Prop :=
  ∀ (h : Hdr) (f : Fields) (d : BitVec 5) (s : State), Runs h s → f.x.ty < 8 → f.a.link? = none → f.b.link? = none →
    let c := me s
    let ty := f.x.ty
    let w := width ty
    let n := 512 / w
    let la := fun j => match f.a with | .v m => Claims.lane (c.vec m.toNat) w j | _ => 0
    let lb := fun j => match f.b with | .v m => Claims.lane (c.vec m.toNat) w j | _ => 0
    let k := (count s f.b).toNat % n
    let gives := fun (i : Instr) (g : Nat → Nat) => Claims.VecGives i h f d s w n g
    (f.d = .v d →
      gives (.vmov h f) (Claims.laneOf s f.a w) ∧
      gives (.vbcst h f) (Claims.laneOf s f.a w) ∧
      (∀ p : BitVec 3, f.sub.toNat % 8 = p.toNat →
        gives (.vsel h f) fun j => if (c.pred p.toNat).getLsbD j then Claims.laneOf s f.a w j else Claims.laneOf s f.b w j) ∧
      (f.sub.getLsbD 0 = false → gives (.viota h f) id) ∧
      (∀ p : BitVec 3, f.a = .p p → f.sub.getLsbD 0 = true →
        gives (.viota h f) fun j => (List.range j).countP fun m => (c.pred p.toNat).getLsbD m) ∧
      (∀ m, f.a = .v m → gives (.vperm h f) fun j => la (Claims.laneOf s f.b w j % n)) ∧
      (∀ m m', f.a = .v m → f.b = .v m' →
        (f.sub = 0 → gives (.vshuf h f) fun j => if j % 2 = 0 then la (j / 2) else lb (j / 2)) ∧
        (f.sub = 1 → gives (.vshuf h f) fun j => if j % 2 = 0 then la (n / 2 + j / 2) else lb (n / 2 + j / 2)) ∧
        (f.sub = 2 → gives (.vshuf h f) fun j => if 2 * j < n then la (2 * j) else lb (2 * j - n)) ∧
        (f.sub = 3 → gives (.vshuf h f) fun j => if 2 * j + 1 < n then la (2 * j + 1) else lb (2 * j + 1 - n)) ∧
        (64 ≤ f.sub.toNat → f.sub.toNat % 64 < n → gives (.vshuf h f) fun j =>
          if j + f.sub.toNat % 64 < n then la (j + f.sub.toNat % 64) else lb (j + f.sub.toNat % 64 - n))) ∧
      (Ends (.vins h f) s fun t => Advances h c (t.ctx s.cur) ∧ OthersKept s t ∧
        ∀ j, j < n → Claims.lane ((t.ctx s.cur).vec d.toNat) w j =
          if j = k then (source s f.a).toNat % 2 ^ w else Claims.lane (c.vec d.toNat) w j) ∧
      (∀ (m : BitVec 5) (p : BitVec 3), f.a = .v m → f.b = .p p → f.x.mkEn = false →
        let picked := (List.range n).filter fun j => (c.pred p.toNat).getLsbD j
        gives (.vcomp h f) (fun j => (picked.map la).getD j 0) ∧
        gives (.vexpd h f) (fun j => if (c.pred p.toNat).getLsbD j
          then la ((List.range j).countP fun m => (c.pred p.toNat).getLsbD m) else Claims.lane (c.vec d.toNat) w j))) ∧
    (∀ (r : BitVec 4) (m : BitVec 5), f.d = .w r → f.a = .v m →
      Leaves (.vext h f) h s (fallThrough (c.setW r.toNat (fit ty (la k))) c.pc)) ∧
    (c.outstanding = [] → c.pend = [] → c.deferred = [] → Ends (.vmovClr h f) s fun t =>
      Advances h c (t.ctx s.cur) ∧ OthersKept s t ∧ (t.ctx s.cur).vl = false ∧ ∀ m, (t.ctx s.cur).vec m = 0)

/-- R148, R150, R151: a reduction by addition is the sum of the enabled lanes; a conversion writes what the model's own `convert` gives for each
enabled element of its part; an integer dot product adds the products of each group to the 32-bit lane of D. -/
def Claims.VectorReductionsConversionsAndDotProducts : Prop :=
  ∀ (h : Hdr) (f : Fields) (m : BitVec 5) (s : State), Runs h s → f.a = .v m → f.b.link? = none →
    let c := me s
    let ty := f.x.ty
    let w := width ty
    let la := fun j => Claims.lane (c.vec m.toNat) w j
    let on := Claims.enabled s f
    (∀ r : BitVec 4, ty < 8 → f.sub.toNat % 16 = 0 → f.d = .w r →
      Leaves (.vred h f) h s (fallThrough (c.setW r.toNat (fit ty (((List.range (512 / w)).map fun j => if on j then la j else 0).sum : Nat))) c.pc)) ∧
    (∀ d : BitVec 5, ty < 8 → f.sub.toNat % 16 = 0 → f.d = .v d → Ends (.vred h f) s fun t =>
      Advances h c (t.ctx s.cur) ∧ OthersKept s t ∧
        ((t.ctx s.cur).vec d.toNat).toNat = (((List.range (512 / w)).map fun j => if on j then la j else 0).sum) % 2 ^ w) ∧
    (∀ d : BitVec 5, ty < 4 → f.d = .v d →
      Claims.VecGives (.vdot h f) h f d s 32 16 fun i => Claims.wrap 32 ((Claims.lane (c.vec d.toNat) 32 i : Int) +
        ((List.range (32 / w)).map fun j => Claims.laneValue ty (la (32 / w * i + j)) *
          Claims.laneValue ty (Claims.laneOf s f.b 32 i / 2 ^ (w * j) % 2 ^ w)).sum)) ∧
    (∀ (d : BitVec 5) (p : BitVec 7) (v : Nat → Nat), f.d = .v d → f.b = .imm p → Instr.check (.vcvt h f) = none →
      let src := f.sub.toNat % 32
      let dst := f.sub.toNat / 32
      let ns := cvtLanes src
      let nd := cvtLanes dst
      let l := min ns nd
      p.toNat * l + l ≤ max ns nd →
      (∀ j, j < l → convert src dst f.x.rm (Claims.lane (c.vec m.toNat) (cvtBits src) (if nd < ns then p.toNat * l + j else j)) = some (v j)) →
      Ends (.vcvt h f) s fun t => Advances h c (t.ctx s.cur) ∧
        (∀ j, j < l → Claims.lane ((t.ctx s.cur).vec d.toNat) (cvtBits dst) ((if ns < nd then p.toNat * l else 0) + j) =
          if on j then v j % 2 ^ cvtBits dst
          else Claims.lane (c.vec d.toNat) (cvtBits dst) ((if ns < nd then p.toNat * l else 0) + j)) ∧
        (∀ n, n ≠ d.toNat → (t.ctx s.cur).vec n = c.vec n) ∧ t.mem = s.mem)

/-- R142 to R148, R150, R151: moves and permutations of lanes, reductions, conversions and dot products. -/
def Obligations.VectorMovesReductionsAndConversions : Prop :=
  Claims.VectorMovesAndPermutations ∧ Claims.VectorReductionsConversionsAndDotProducts

/-- R153, R154: element `i` of a vector access lies at the effective address plus i elements, at base plus i strides, or at base plus a
sign-extended 32-bit index, and is made where the mask predicate of the word enables it; an LNS6 register is 48 elements of one byte. -/
def Claims.VectorElementAddresses : Prop :=
  ∀ (f : Fields) (n m : BitVec 4) (k : BitVec 5) (o : BitVec 30) (ty : BitVec 4) (sc : BitVec 3) (cp : BitVec 2) (ord : Bool) (i : Nat) (s : State),
    f.a = .w n → f.x = .m ty sc cp ord o →
    let c := me s
    let base := c.w n.toNat + o.signExtend 64
    let sh := f.sub.toNat % 8
    (f.b = .w m → f.sub.toNat / 8 % 8 = 0 → elemAddr c f i = addr s f + BitVec.ofNat 64 (i * tyBytes ty.toNat)) ∧
    (f.b = .none → f.sub.toNat / 8 % 8 = 0 → elemAddr c f i = base + BitVec.ofNat 64 (i * tyBytes ty.toNat)) ∧
    (f.b = .w m → f.sub.toNat / 8 % 8 = 1 → elemAddr c f i = base + BitVec.ofNat 64 (i * ((c.w m.toNat).toNat * 2 ^ sh))) ∧
    (f.b = .v k → f.sub.toNat / 8 % 8 = 2 →
      elemAddr c f i = base + BitVec.ofInt 64 (Int.bmod (Claims.lane (c.vec k.toNat) 32 i) (2 ^ 32) * 2 ^ sh)) ∧
    (elemOn c f i = true ↔ f.sub.getLsbD 9 = false ∨ (c.pred (f.sub.toNat / 64 % 8)).getLsbD i = true)

/-- R153, R155, R156: a vector load of own scratchpad words starts one long result for each enabled element, bound for its lane of D, with the
element's bytes as path T sees them (R254; under LNS6 one for each of 48 bytes, and one for the zero bits above them); a vector store writes each enabled element's bytes of D at its address, and nothing else. -/
def Claims.VectorLoadsAndStores : Prop :=
  ∀ (h : Hdr) (f : Fields) (d : BitVec 5) (off : Nat → Nat) (s : State), RunsAlone h s → f.d = .v d → (∀ r ∈ s.reqs, r.x ≠ s.cur) →
    let c := me s
    let b := tyBytes f.x.ty
    let es := vecAddrs c f
    (∀ e ∈ es, OwnWord s e.2 b (off e.1)) →
      (Ends (.vld h f) s fun t => (t.ctx s.cur).pc = (fallThrough c c.pc).pc ∧ (t.ctx s.cur).v = c.v ∧
        (t.core (coreOf s.cur)).spad = (core s).spad ∧ (∀ a, memByte t.mem a = memByte s.mem a) ∧
        (t.ctx s.cur).outstanding.length = c.outstanding.length + es.length + (if f.x.ty = 14 then 1 else 0) ∧
        ∀ e ∈ es, ∃ r ∈ (t.ctx s.cur).outstanding,
          r.dst = (if f.x.ty = 14 then .v6 d.toNat (8 * e.1) else .v d.toNat (8 * b * e.1) (8 * b)) ∧
          ∃ m, Seen s (off e.1) m ∧ r.val = some (.ok (m.toNat / 2 ^ (8 * (off e.1 % 8)) % 2 ^ (8 * b)))) ∧
      ((core s).waiters = [] → (∀ p ∈ es, ∀ q ∈ es, p.1 ≠ q.1 → off p.1 ≠ off q.1) →
        Ends (.vst h f) s fun t => Advances h c (t.ctx s.cur) ∧ (t.ctx s.cur).v = c.v ∧
        (∀ e ∈ es, Claims.ownBytes t (off e.1) b = Claims.lane (c.vec d.toNat) (8 * b) e.1) ∧
        (∀ j, (∀ e ∈ es, off e.1 / 8 ≠ j) → (t.core (coreOf s.cur)).spad.getD j 0 = (core s).spad.getD j 0) ∧
        (∀ a, memByte t.mem a = memByte s.mem a))

/-- R153, R155, R165: vector accesses to device memory are made element by element, the lowest first, as the model's own `vecLoadOne` and
`vecStoreOne` make one; that order, and that an access with no enabled element does nothing, are the model's choice (log entry 47). -/
def Claims.VectorAccessesToDeviceMemory : Prop :=
  ∀ (h : Hdr) (f : Fields) (d : BitVec 5) (s : State), RunsAlone h s → f.d = .v d → (∀ r ∈ s.reqs, r.x ≠ s.cur) →
    let c := me s
    let u := issued s.cur h s
    let es := vecAddrs c f
    es ≠ [] → (∀ e ∈ es, e.2.toNat < 2 ^ 53 ∧ e.2.toNat % tyBytes f.x.ty = 0) →
      (let r0 := es.foldl (fun w e => vecLoadOne s.cur f (s.nextId + 1) e w) { u with nextId := u.nextId + 2 }
       let r := if f.x.ty = 14 then inGroup s.cur (s.nextId + 1) r0.nextId (startLong s.cur (.v d.toNat 384 128) (some (.ok 0)) r0).2 else r0
       Ends (.vld h f) s fun t => t.mem = r.mem ∧ t.dies = r.dies ∧ (t.ctx s.cur).outstanding = (r.ctx s.cur).outstanding ∧
         (t.ctx s.cur).pc = (fallThrough c c.pc).pc) ∧
      (let r := es.foldl (fun w e => vecStoreOne s.cur f s.nextId e w) u.fresh.2
       Ends (.vst h f) s fun t => t.mem = r.mem ∧ t.dies = r.dies ∧ (t.ctx s.cur).deferred = (r.ctx s.cur).deferred ∧
         (t.ctx s.cur).pc = (fallThrough c c.pc).pc)

/-- R153 to R156, R165: the addresses of vector elements, and the accesses to them. -/
def Obligations.VectorAccesses : Prop :=
  Claims.VectorElementAddresses ∧ Claims.VectorLoadsAndStores ∧ Claims.VectorAccessesToDeviceMemory

/-! ### Words of the units: batches, barriers, engines, weaver, task graph, integrator, leases -/

/-- The executing context waits in the instruction for the condition of a kind, and issues nothing more until it holds (R20). -/
def Claims.Waits (i : Instr) (s : State) (kind : WaitKind) (key : Nat) (deadline : Option Nat) : Prop :=
  Ends i s fun t => ∃ w, (t.ctx s.cur).run = .waiting w ∧ w.instr = i ∧ w.kind = kind ∧ w.key = key ∧ w.deadline = deadline ∧
    w.reply = none ∧ w.timedOut = false ∧ (t.ctx s.cur).pc = (me s).pc ∧ (t.ctx s.cur).stack = (me s).stack ∧ (t.ctx s.cur).p = (me s).p

/-- The word completes with one more response trap pending in its context (R35). -/
def Claims.Responds (i : Instr) (h : Hdr) (s : State) (cause : Nat) (finfo : Word) : Prop :=
  Ends i s fun t => Advances h (me s) (t.ctx s.cur) ∧
    ∃ p, (t.ctx s.cur).pend = (me s).pend ++ [p] ∧ p.cause = cause ∧ p.finfo = finfo ∧ p.fpc = (me s).pc

/-- A context after a result in D: a `w` register, a predicate, or nothing where the word names no D. -/
def Claims.wrote (c : Ctx) (d : Opnd) (v : Word) : Ctx :=
  match d with
  | .w n => c.setW n.toNat v
  | .p n => c.setPred n.toNat v
  | _ => c

/-- All ones or zero: the outcome that a word writes to a predicate. -/
def Claims.outcome (b : Bool) : Word := if b then BitVec.allOnes 64 else 0

/-- R251, R254, R255: XFENCE between units' paths goes on, and into the thread's path it leaves no clean line in the core's L1; in the scratchpads that its
scope covers no path of TO may read on what a path of FROM has overwritten, and those beyond are as they were; XSEAL numbers and seals the open
batch, or waits with 16 unfinished; XWAIT tells at once of the open batch and of finished ones, and waits for an unfinished one. -/
def Claims.FencesBetweenPathsAndBatches : Prop :=
  ∀ (h : Hdr) (f : Fields) (s : State), RunsAlone h s → (∀ r ∈ s.reqs, r.x ≠ s.cur) →
    let c := me s
    let k := coreOf s.cur
    let leaves : Instr → Ctx → Prop := fun i d => Leaves i h s (fallThrough d c.pc)
    (c.outstanding = [] → c.pend = [] → c.deferred = [] →
      (f.xBits 8 1 = 0 → f.xBits 0 1 = 0 → Ends (.xfence h f) s fun t =>
        t.ctx s.cur = settled h s (fallThrough c c.pc) (t.ctx s.cur).held ∧ (∀ y, y ≠ s.cur → t.ctx y = { s.ctx y with held := (t.ctx y).held }) ∧
        (∀ j, t.core j = { s.core j with
          krun := (t.core j).krun, last := (t.core j).last, issues := (t.core j).issues, charges := (t.core j).charges
          older := (t.core j).older }) ∧
        t = { s with ctxs := t.ctxs, cores := t.cores }) ∧
      (Ends (.xfence h f) s fun t => (t.ctx s.cur).pc = (fallThrough c c.pc).pc ∧ ∀ j,
        (scopeHasCore (f.xBits 33 3) k j = true → ∀ e ∈ (t.core j).older,
          ((f.xBits 8 8).testBit e.path = true → e.readers &&& f.xBits 0 8 = 0) ∧
          ∃ o ∈ (s.core j).older, e.word = o.word ∧ e.path = o.path ∧ e.old = o.old ∧ e.readers &&& o.readers = e.readers) ∧
        (scopeHasCore (f.xBits 33 3) k j = false → (t.core j).older = (s.core j).older)) ∧
      (f.xBits 0 1 = 1 → f.xBits 33 3 = 3 → (s.cluster (clusterOf k)).fused = false → Ends (.xfence h f) s fun t =>
        (t.ctx s.cur).pc = (fallThrough c c.pc).pc ∧ (t.ctx s.cur).stack = c.stack ∧ (t.ctx s.cur).p = c.p ∧
          (∀ l ∈ (t.core k).l1, l.dirty ≠ 0) ∧ ∀ j, (t.core j).spad = (s.core j).spad)) ∧
    (let sealed : List Batch → Ctx := fun bs =>
        Claims.wrote { c with xbatches := bs, xopen := 0, xnext := (c.xnext + 1) % 65536 } f.d (BitVec.ofNat 64 c.xnext);
      (c.xbatches.length < 16 → c.xopen ≠ 0 → (∀ b ∈ c.xbatches, b.left ≠ 0) →
        leaves (.xseal h f) (sealed (c.xbatches ++ [⟨c.xnext, c.xopen⟩]))) ∧
      (c.xbatches = [] → c.xopen = 0 → leaves (.xseal h f) (sealed [])) ∧
      (16 ≤ c.xbatches.length → Claims.Waits (.xseal h f) s .xseal 0 none)) ∧
    (f.a.link? = none →
      let dist := (c.xnext + 65536 - (count s f.a).toNat % 65536) % 65536
      (dist = 0 ∨ 32768 ≤ dist → leaves (.xwait h f) (Claims.wrote c f.d 0)) ∧
      (0 < dist → dist < 32768 → c.xbatches.length < dist →
        leaves (.xwait h f) (Claims.wrote c f.d (Claims.outcome (!c.xerr)))) ∧
      (0 < dist → dist < 32768 → dist ≤ c.xbatches.length → Claims.Waits (.xwait h f) s .xwait dist none))

/-- R257, R258, R260: BARI, BARA and BARD send their messages to the barrier unit and go on, with the token as a long result still due; a count
above 4,095 and an offline target answer with a trap 0x0D, a target on a die in reset with 0x0C and FINFO 5 (R438); BARW of a completed phase goes on, of an inactive barrier answers 0x0D, else
waits, until its timeout where it has one. -/
def Claims.BarrierWords : Prop :=
  ∀ (h : Hdr) (f : Fields) (s : State), RunsAlone h s → (∀ r ∈ s.reqs, r.x ≠ s.cur) →
    let c := me s
    let k := coreOf s.cur
    let own := clusterOf k
    let sends : Instr → Nat → BarMsg → List LongRes → Prop := fun i q m due => Ends i s fun t =>
      Advances h c (t.ctx s.cur) ∧ (t.ctx s.cur).stack = c.stack ∧ (t.ctx s.cur).outstanding = c.outstanding ++ due ∧
        (t.cluster q).barMsgs = (s.cluster q).barMsgs ++ [m] ∧ (∀ j, j ≠ q → t.cluster j = s.cluster j) ∧ t.mem = s.mem
    (f.b.link? = none →
      ((count s f.b).toNat ≤ 4095 → sends (.bari h f) own
        ⟨f.a.num, s.cur, k, false, false, some ((count s f.b).toNat, f.xBits 33 3), none, c.pc⟩ []) ∧
      (4095 < (count s f.b).toNat → Claims.Responds (.bari h f) h s 0x0D 3)) ∧
    (f.sub ≠ 0 →
      (f.b = .none → ∀ n : BitVec 4, f.d = .w n →
        let due : List LongRes := [⟨s.nextId, .w ((8 * c.wf + n.toNat) % 64), none, 0⟩]
        sends (.bara h f) own ⟨f.a.num, s.cur, k, false, false, none, some s.nextId, c.pc⟩ due ∧
        sends (.bard h f) own ⟨f.a.num, s.cur, k, false, true, none, some s.nextId, c.pc⟩ due) ∧
      (f.b = .none → f.d = .none →
        sends (.bara h f) own ⟨f.a.num, s.cur, k, false, false, none, none, c.pc⟩ [] ∧
        sends (.bard h f) own ⟨f.a.num, s.cur, k, false, true, none, none, c.pc⟩ []) ∧
      (∀ (m : BitVec 4) q, f.b = .w m → f.d = .none → clusterNamed (c.w m.toNat) = some q →
        (fencedFrom s (coreDie k) (q / 96) = false → q = own ∨ clusterServes s s.cur q = true →
          sends (.bara h f) q ⟨f.a.num, s.cur, k, q != own, false, none, none, c.pc⟩ [] ∧
          sends (.bard h f) q ⟨f.a.num, s.cur, k, q != own, true, none, none, c.pc⟩ []) ∧
        (fencedFrom s (coreDie k) (q / 96) = false → q ≠ own → clusterServes s s.cur q = false →
          Claims.Responds (.bara h f) h s 0x0D 2 ∧ Claims.Responds (.bard h f) h s 0x0D 2) ∧
        (fencedFrom s (coreDie k) (q / 96) = true →
          Claims.Responds (.bara h f) h s 0x0C 5 ∧ Claims.Responds (.bard h f) h s 0x0C 5)) ∧
      (∀ (m n : BitVec 4) q, f.b = .w m → f.d = .w n → clusterNamed (c.w m.toNat) = some q → fencedFrom s (coreDie k) (q / 96) = true →
        let fails : Instr → Prop := fun i => Ends i s fun t => Advances h c (t.ctx s.cur) ∧ (t.ctx s.cur).stack = c.stack ∧
          (t.cluster q).barMsgs = (s.cluster q).barMsgs ∧ (t.ctx s.cur).outstanding = c.outstanding ++
            [⟨s.nextId, .w ((8 * c.wf + n.toNat) % 64), some (.fail ⟨0x0C, none, c.pc, some 0, 5⟩), 0⟩]
        fails (.bara h f) ∧ fails (.bard h f)) ∧
      (∀ m : BitVec 4, f.b = .w m → (c.w m.toNat).getLsbD 53 = false →
        Claims.Responds (.bara h f) h s 0x0D 2 ∧ Claims.Responds (.bard h f) h s 0x0D 2)) ∧
    (f.sub = 0 → c.outstanding = [] → c.pend = [] → c.deferred = [] →
      ∀ q, (f.b = .none ∧ q = own) ∨ (∃ m : BitVec 4, f.b = .w m ∧ clusterNamed (c.w m.toNat) = some q ∧
        fencedFrom s (coreDie k) (q / 96) = false ∧ (q = own ∨ clusterServes s s.cur q = true)) →
      let arrives : Instr → Bool → Prop := fun i drop => Ends i s fun t => (t.ctx s.cur).pc = (fallThrough c c.pc).pc ∧
        ∃ m, (t.cluster q).barMsgs = (s.cluster q).barMsgs ++ [m] ∧ m.bar = f.a.num ∧ m.x = s.cur ∧ m.remote = (q != own) ∧ m.drop = drop ∧
          m.init = none
      arrives (.bara h f) false ∧ arrives (.bard h f) true) ∧
    (∀ n : BitVec 4, f.b = .w n →
      let b := (s.cluster own).bars.getD f.a.num Barrier.reset
      let token := (c.w n.toNat).toNat % 65536
      let ns := (c.w (n.toNat + 1)).toNat
      let phases := (b.ph + 65536 - token) % 65536
      let past : Prop := 1 ≤ phases ∧ phases < 32768
      (past → Ends (.barw h f) s fun t => Advances h c (t.ctx s.cur) ∧ Reads (t.ctx s.cur) f.d (BitVec.allOnes 64) ∧ t.mem = s.mem ∧
        (b.bs = 3 → (s.cluster own).fused = false → ∀ l ∈ (t.core k).l1, l.dirty ≠ 0)) ∧
      (¬ past → b.cnt = 0 → Claims.Responds (.barw h f) h s 0x0D 1) ∧
      (¬ past → b.cnt ≠ 0 → Claims.Waits (.barw h f) s .barw token (if ns = 0 then none else some (s.pkg.time + ns))))

/-- R251, R254, R255, R257, R258, R260: the words that order paths and batches, and those of barriers. -/
def Obligations.PathFencesAndBarriers : Prop :=
  Claims.FencesBetweenPathsAndBatches ∧ Claims.BarrierWords

/-- The matrix engine's commands. -/
def Claims.mxeWord : Instr → Option (Hdr × Fields)
  | .tcfg h f | .kclm h f | .krel h f | .kld h f | .ald h f | .ast h f | .azero h f | .mma h f | .mmas h f | .asca h f | .acvt h f =>
    some (h, f)
  | _ => none

/-- The sum-product engine's commands. -/
def Claims.speWord : Instr → Option (Hdr × Fields)
  | .spld h f | .spst h f | .spshp h f | .spup h f | .spdn h f | .spmode h f | .spnorm h f => some (h, f)
  | _ => none

/-- The ray unit's commands, with the vector registers and the mask that travel with them. -/
def Claims.rquWord (s : State) : Instr → Option (Hdr × Fields × List VReg × Word)
  | .rqset h f => some (h, f, [], 0)
  | .rqray h f => some (h, f, (List.range 8).map fun i => (me s).vec (f.a.num + i),
      match f.b with | .p n => (me s).pred n.toNat | _ => BitVec.allOnes 64)
  | .rqnear h f => some (h, f, [(me s).vec f.a.num], 0)
  | _ => none

/-- The command that a word makes of what it reads at issue (R267, R296, R329). -/
def Claims.Commands (i : Instr) (f : Fields) (s : State) (m : EngCmd) : Prop :=
  some m.opc = i.opcode ∧ m.x = s.cur ∧ m.core = coreOf s.cur ∧ m.pc = (me s).pc ∧ m.f = f ∧ m.wd = (me s).w f.d.num ∧ m.wa1 = (me s).w (f.a.num + 1) ∧
    m.wb1 = (me s).w (f.b.num + 1) ∧ (f.a.link? = none → m.wa = count s f.a) ∧ (f.b.link? = none → m.wb = count s f.b) ∧
    m.cap = (core s).mcap ∧ m.pri = (me s).pri ∧ m.ectx = (me s).ectx ∧ m.pid = (me s).pid

/-- The long results still due of a command: KCLM's, and SPMODE's and SPNORM's where they name a register. -/
def Claims.due (i : Instr) (s : State) : List LongRes :=
  match i with
  | .kclm _ f => [⟨s.nextId, (me s).longDst f.d, none, 0⟩]
  | .spmode _ f | .spnorm _ f => if f.d = .none then [] else [⟨s.nextId, (me s).longDst f.d, none, 0⟩]
  | _ => []

/-- The executing context's registers after a command: its count of unfinished ones is one more. -/
def Claims.Sent (i : Instr) (h : Hdr) (s t : State) (u : UnitKind) : Prop :=
  let c := me s
  let d := t.ctx s.cur
  d.outstanding = c.outstanding ++ Claims.due i s ∧
  Advances h c d ∧ d.stack = c.stack ∧ d.p = c.p ∧ d.v = c.v ∧ d.eng u = { c.eng u with unf := (c.eng u).unf + 1 } ∧ t.mem = s.mem

/-- R267 to R269, R296, R297, R331: a command counts as unfinished and leaves with everything its issue reads: a matrix command travels to its
engine, a sum-product or ray command reaches its queue of 16, or its mesh stop keeps it. KCLM, SPMODE and SPNORM have a long result still due.
At the limit of unfinished commands the context waits. -/
def Claims.EngineCommandsAreQueued : Prop :=
  ∀ (i : Instr) (h : Hdr) (f : Fields) (s : State), RunsAlone h s →
    let c := me s
    let q := clusterOf (coreOf s.cur)
    let fresh : Prop := ∀ m ∈ s.cmds, ¬(m.cmd.x = s.cur)
    (Claims.mxeWord i = some (h, f) →
      (c.mstat.unf < 32 → f.xBits 35 1 = 0 → Ends i s fun t => Claims.Sent i h s t .mxe ∧
        ∃ m, t.cmds = s.cmds ++ [m] ∧ m.unit = .mxe ∧ m.target = some q ∧ m.refused = false ∧ Claims.Commands i f s m.cmd) ∧
      (c.mstat.unf < 32 → f.xBits 35 1 = 1 → Ends i s fun t => Claims.Sent i h s t .mxe ∧
        ∃ m, t.cmds = s.cmds ++ [m] ∧ m.target = clusterNamed (c.w (f.xBits 31 4)) ∧ Claims.Commands i f s m.cmd) ∧
      (32 ≤ c.mstat.unf → Claims.Waits i s .engine 0 none)) ∧
    (Claims.speWord i = some (h, f) →
      (c.spstat.unf < 16 → fresh →
        ((s.cluster q).spe.queue.length < 16 → Ends i s fun t => Claims.Sent i h s t .spe ∧ t.cmds = s.cmds ∧
          ∃ m, (t.cluster q).spe.queue = (s.cluster q).spe.queue ++ [m] ∧ Claims.Commands i f s m) ∧
        (16 ≤ (s.cluster q).spe.queue.length → Ends i s fun t => Claims.Sent i h s t .spe ∧
          (t.cluster q).spe = (s.cluster q).spe ∧ ∃ m, t.cmds = s.cmds ++ [m] ∧ m.refused = true ∧ Claims.Commands i f s m.cmd)) ∧
      (16 ≤ c.spstat.unf → Claims.Waits i s .engine 1 none)) ∧
    (∀ vec mask, Claims.rquWord s i = some (h, f, vec, mask) →
      (c.rqstat.unf < 16 → fresh →
        ((s.cluster q).rqu.queue.length < 16 → Ends i s fun t => Claims.Sent i h s t .rqu ∧ t.cmds = s.cmds ∧
          ∃ m, (t.cluster q).rqu.queue = (s.cluster q).rqu.queue ++ [m] ∧ Claims.Commands i f s m ∧ m.vec = vec ∧ m.mask = mask) ∧
        (16 ≤ (s.cluster q).rqu.queue.length → Ends i s fun t => Claims.Sent i h s t .rqu ∧
          (t.cluster q).rqu = (s.cluster q).rqu ∧ ∃ m, t.cmds = s.cmds ++ [m] ∧ m.refused = true ∧ Claims.Commands i f s m.cmd)) ∧
      (16 ≤ c.rqstat.unf → Claims.Waits i s .engine 2 none))

/-- R291, R308, R331: MWAIT, SPWAIT and RQWAIT go on with at most the bound of unfinished commands, tell in P[D] whether none has failed, and with TRAP
take trap 0x0D of a failure after they have completed; else they wait. -/
def Claims.EngineWaits : Prop :=
  ∀ (h : Hdr) (f : Fields) (s : State), RunsAlone h s → f.a.link? = none →
    let c := me s
    let n := (count s f.a).toNat
    let ends : Instr → EngStat → WaitKind → Prop := fun i e kind =>
      (e.unf ≤ n → f.xBits 30 1 = 0 ∨ e.err = false →
        Leaves i h s (fallThrough (Claims.wrote c f.d (Claims.outcome (!e.err))) c.pc)) ∧
      (e.unf ≤ n → f.xBits 30 1 = 1 → e.err = true → ctxNo s.cur ≠ 7 → e.fopc < 256 → e.stat < 256 → Ends i s fun t =>
        (t.ctx s.cur).run = .stopped ∧ (t.ctx s.cur).cause = 0x0D ∧ (t.ctx s.cur).fpc = c.pc ∧
          (t.ctx s.cur).epc = (fallThrough c c.pc).pc ∧ (t.ctx s.cur).finfo = BitVec.ofNat 64 (2 ^ 63 + e.fopc * 256 + e.stat) ∧
          Reads (t.ctx s.cur) f.d 0) ∧
      (n < e.unf → Claims.Waits i s kind n none)
    ends (.mwait h f) c.mstat .mwait ∧ ends (.spwait h f) c.spstat .spwait ∧ ends (.rqwait h f) c.rqstat .rqwait

/-- R267, R269, R291, R297, R308, R331: engine commands at their issue, and the waits for them. -/
def Obligations.EngineWords : Prop :=
  Claims.EngineCommandsAreQueued ∧ Claims.EngineWaits

/-- R316, R320, R324: WVCFG installs a valid descriptor, or disables the channel with the reason; WVARM arms it, with a new target where one is
given; WVFLSH gives the open buffer cause bit 3, with which it closes at the end of the mesh cycle, unless its TMO has passed before, at which it
has closed by then; WVSTAT reads the status after what
has closed by then and clears the counts where asked. -/
def Obligations.WeaverWords : Prop :=
  ∀ (h : Hdr) (f : Fields) (s : State), RunsAlone h s → f.a.link? = none →
    let c := me s
    let k := coreOf s.cur
    let q := clusterOf k
    let ch := f.xBits 32 2
    let a := source s f.a
    let w := wvChan s q ch
    let w1 := w.settle s.pkg.time false
    let told : State → Nat → Prop := fun t v =>
      Advances h c (t.ctx s.cur) ∧ ∀ n : BitVec 4, f.d = .w n → ∃ id, (t.ctx s.cur).outstanding.getLast? = some ⟨id, .w ((8 * c.wf + n.toNat) % 64), some (.ok v), 0⟩
    (a.toNat % 8 ≠ 0 → Ends (.wvcfg h f) s fun t => told t 2 ∧ (wvChan t q ch).en = false ∧ (wvChan t q ch).err = 2) ∧
    (∀ ws u, a.toNat % 8 = 0 → pathWords (issued s.cur h s) 3 (coreDie k) k c.pid a 8 = (.ok ws, u) →
      (wvValid ws = true → Ends (.wvcfg h f) s fun t => told t 0 ∧
        let g := wvChan t q ch
        g.en = (ws.getD 0 0).getLsbD 6 ∧ g.w0 = ws.getD 0 0 ∧ g.w2 = ws.getD 2 0 ∧ g.w3 = ws.getD 3 0 ∧ g.w4 = ws.getD 4 0 ∧ g.arm = true ∧
          g.drop = 0 ∧ g.out = 0 ∧ g.err = 0 ∧ g.b0 = WvBuf.reset ∧ g.b1 = WvBuf.reset ∧
          ((ws.getD 0 0).getLsbD 2 = false → g.target = ws.getD 1 0)) ∧
      (wvValid ws = false → Ends (.wvcfg h f) s fun t => told t 1 ∧ (wvChan t q ch).en = false ∧ (wvChan t q ch).err = 1)) ∧
    (Ends (.wvarm h f) s fun t => Advances h c (t.ctx s.cur) ∧ (t.ctx s.cur).stack = c.stack ∧ t.mem = s.mem ∧
      wvChan t q ch = { w with arm := true, target := if f.a = .none then w.target else if w.w0.getLsbD 2 then globalOf k a else a }) ∧
    (∀ b, w.openBuf = some b → (w.buf b).dueAt = none →
      let tmo := fld w.w3 16 16
      let out := (w.buf b).openedAt + 1000 * tmo
      (tmo = 0 ∨ s.pkg.time < out → Ends (.wvflsh h f) s fun t => Advances h c (t.ctx s.cur) ∧
        (wvChan t q ch).buf b = { w.buf b with cause := (w.buf b).cause ||| 8, dueAt := some s.pkg.time }) ∧
      (tmo ≠ 0 → out < s.pkg.time → Ends (.wvflsh h f) s fun t => Advances h c (t.ctx s.cur) ∧
        ((wvChan t q ch).buf b).st = .pending ∧ ((wvChan t q ch).buf b).cause = (w.buf b).cause ||| w.holds (w.buf b) out)) ∧
    (w.openBuf = none → Ends (.wvflsh h f) s fun t => Advances h c (t.ctx s.cur) ∧ wvChan t q ch = w) ∧
    (Ends (.wvstat h f) s fun t => told t w1.status.toNat ∧
      wvChan t q ch = if f.sub.getLsbD 0 then { w1 with drop := 0, out := 0 } else w1)

/-- R374 to R383: GNODE and GRANGE refuse a bad descriptor with reason 2, and submit a good one to the pool of their die; GDONE of a handle that names
nothing tells 0, of a plain node that waits for nothing frees its slot; GWAIT goes on with at most n nodes left, else waits. -/
def Obligations.TaskGraphWords : Prop :=
  ∀ (h : Hdr) (f : Fields) (m : BitVec 4) (s : State), RunsAlone h s → (∀ r ∈ s.reqs, r.x ≠ s.cur) → f.a = .w m →
    let c := me s
    let k := coreOf s.cur
    let d := coreDie k
    let a := c.w m.toNat
    let lid := threadLaunch s s.cur
    let told : State → Bool → Prop := fun t b =>
      Advances h c (t.ctx s.cur) ∧ Reads (t.ctx s.cur) f.d (Claims.outcome b)
    (∀ ws u, firstBad (issued s.cur h s) s.cur c.pc a 16 = none →
      wordsLoad (issued s.cur h s) k c.pid 0 a 16 = (.ok ws, u) →
      (descOk k ws = false →
        (Ends (.gnode h f) s fun t => told t false ∧ (t.ctx s.cur).gerr = true ∧ (t.ctx s.cur).grsn = 2) ∧
        (Ends (.grange h f) s fun t => told t false ∧ (t.ctx s.cur).gerr = true ∧ (t.ctx s.cur).grsn = 2)) ∧
      (descOk k ws = true →
        (∀ slot v, submitNode d (descNode d k lid c.pid c.ectx ws) u = (.ok slot, v) →
          Ends (.gnode h f) s fun t => told t true ∧ (t.die d).pool = (v.die d).pool) ∧
        (∀ e v, submitNode d (descNode d k lid c.pid c.ectx ws) u = (.error e, v) →
          Ends (.gnode h f) s fun t => told t false ∧ (t.ctx s.cur).gerr = true ∧ (t.ctx s.cur).grsn = e) ∧
        (∀ (b : BitVec 4) v, f.b = .w b →
          submitRange d (descNode d k lid c.pid c.ectx ws) ((c.w b.toNat).toNat % 2 ^ 32) (f.xBits 0 16) u = (.ok (), v) →
          Ends (.grange h f) s fun t => told t true ∧ (t.die 0).pool = (v.die 0).pool ∧ (t.die 1).pool = (v.die 1).pool))) ∧
    (c.outstanding = [] → c.pend = [] → c.deferred = [] →
      let slot := a.toNat % 4096
      let e := a.toNat / 2 ^ 32 % 2
      (∀ u, applyDone a (f.xBits 33 3) (releaseVia (issued s.cur h s) k c.pid (f.xBits 33 3) none) = some u → Ends (.gdone h f) s fun t =>
        Reads (t.ctx s.cur) f.d (BitVec.allOnes 64) ∧ (t.die 0).pool = (u.die 0).pool ∧ (t.die 1).pool = (u.die 1).pool) ∧
      ((s.die e).pool.get? slot = none → Ends (.gdone h f) s fun t => Reads (t.ctx s.cur) f.d 0) ∧
      (∀ n, (s.die e).pool.get? slot = some n → n.gen = a.toNat / 2 ^ 48 → n.shadowOf = none → n.range = false → n.succs = [] → n.isq = none →
        a.toNat / 2 ^ 33 % 2 ^ 15 = 0 → a.toNat / 2 ^ 12 % 16 = 0 → a.toNat / 2 ^ 16 % 2 ^ 16 = 0 →
        (∀ j, (s.die j).pool.all fun y => y.2.shadowOf.isNone) →
        Ends (.gdone h f) s fun t => Reads (t.ctx s.cur) f.d (BitVec.allOnes 64) ∧ (t.die e).pool = ((s.die e).pool.erase slot).map (fun y =>
          (y.1, { y.2 with succs := y.2.succs.filter (· ≠ slot) })) ∧
          (t.die e).gens.getD slot 0 = ((s.die e).gens.getD slot 0 + 1) % 65536)) ∧
    (f.b.link? = none →
      let left := undoneNodes s lid d (a.toNat % 64)
      let n := (count s f.b).toNat
      let tmo := (c.w (m.toNat + 1)).toNat
      (left ≤ n → Ends (.gwait h f) s fun t => told t true ∧ t.mem = s.mem) ∧
      (n < left → Claims.Waits (.gwait h f) s .gwait (64 * n + a.toNat % 64) (if tmo = 0 then none else some (s.pkg.time + tmo))))

/-- R412 to R416: the sequencer's words: status 1 of one not granted to the launch, 2 of an active set, 4 of a bad address, 3 of a bad table or
header; SQTAB keeps a good table, SQGO starts a set, SQSTAT reads the status or waits, SQSTOP asks a running set to stop. That status 2 is told before
4 and 3, and 6 for a set that is pre-empted, is log entry 62, the model's choice. -/
def Obligations.SequencerWords : Prop :=
  ∀ (h : Hdr) (f : Fields) (s : State), RunsAlone h s →
    let c := me s
    let k := coreOf s.cur
    let d := coreDie k
    let j := f.xBits 0 2
    let slot := f.xBits 4 2
    let q := isqOf s d j
    let mine : Prop := q.granted ≠ none ∧ q.granted = threadLaunch s s.cur
    let u := issued s.cur h s
    let tells : Nat → Ctx := fun v => fallThrough (Claims.wrote c f.d (BitVec.ofNat 64 v)) c.pc
    (¬ mine → Leaves (.sqtab h f) h s (tells 1) ∧ Leaves (.sqgo h f) h s (tells 1) ∧ Leaves (.sqstop h f) h s (tells 1) ∧
      (f.sub.getLsbD 0 = false → Leaves (.sqstat h f) h s (tells (7 * 2 ^ 61)))) ∧
    (mine → ∀ m : BitVec 4, f.a = .w m →
      let a := c.w m.toNat
      let quiet : Prop := q.state = 0 ∨ 4 < q.state
      (1 ≤ q.state → q.state ≤ 4 → fld (q.word 0) 34 2 = slot → Leaves (.sqtab h f) h s (tells 2)) ∧
      (q.progDue = false → 1 ≤ q.state → q.state ≤ 4 → f.sub.getLsbD 0 = false → Leaves (.sqgo h f) h s (tells 2)) ∧
      (quiet → a.toNat % 8 ≠ 0 → Leaves (.sqtab h f) h s (tells 4) ∧ (q.progDue = false → Leaves (.sqgo h f) h s (tells 4))) ∧
      (∀ ws v, quiet → a.toNat % 8 = 0 → resolve k a ≠ .bad → pathWords u 6 d k c.pid a 46 = (.ok ws, v) →
        (tabOk (tableHalves ws) = true → Ends (.sqtab h f) s fun t => Reads (t.ctx s.cur) f.d 0 ∧ Advances h c (t.ctx s.cur) ∧
          (isqOf t d j).tabs.get? slot = some (tabDerive (tableHalves ws))) ∧
        (tabOk (tableHalves ws) = false → Ends (.sqtab h f) s fun t => Reads (t.ctx s.cur) f.d 3 ∧ isqOf t d j = isqOf v d j)) ∧
      (∀ ws v, quiet → q.progDue = false → a.toNat % 64 = 0 → resolve k a ≠ .bad → pathWords u 6 d k c.pid a 16 = (.ok ws, v) →
        let res := f.sub.getLsbD 0
        let good : Prop := hdrOk u q ws = true ∧ (res = true → (ws.getD 15 0).toNat / 2 ^ 61 = 3)
        (¬ good → Ends (.sqgo h f) s fun t => Reads (t.ctx s.cur) f.d 3) ∧
        (good → ∀ v1 v2, startSet d j { q with
            tab := q.tabs.getD (fld (ws.getD 0 0) 34 2) [], hdrAddr := a, hdr := ws, cause := 0,
            stg := if res then (ws.getD 15 0).toNat / 2 ^ 44 % 8 else 0, batch := [], handle := none,
            toSubmit := false, stageDone := false, stopReq := false, preReq := false, pid := c.pid, ectx := c.ectx, core := k, acc := 0,
            rej := 0 } res v = (.ok v1, v2) →
          Ends (.sqgo h f) s fun t => Reads (t.ctx s.cur) f.d 0 ∧ isqOf t d j = isqOf v1 d j ∧ t.mem = v1.mem)) ∧
      (q.state = 1 ∨ q.state = 2 → Ends (.sqstop h f) s fun t => Reads (t.ctx s.cur) f.d 0 ∧ Advances h c (t.ctx s.cur) ∧
        isqOf t d j = { q with state := 2, stopReq := true } ∧ t.mem = s.mem) ∧
      (q.state ≠ 1 → q.state ≠ 2 → Leaves (.sqstop h f) h s (tells 6))) ∧
    (mine → f.sub.getLsbD 0 = false → Leaves (.sqstat h f) h s (fallThrough (Claims.wrote c f.d q.status) c.pc)) ∧
    (mine → f.sub.getLsbD 0 = true → ∀ n : BitVec 4, f.d = .w n → (∀ m, f.b ≠ .w m) → q.state < 8 →
      let tmo := (c.w (n.toNat + 1)).toNat
      (q.state ≠ 1 → q.state ≠ 2 → q.state ≠ 4 → Ends (.sqstat h f) s fun t =>
        (t.ctx s.cur).w n.toNat = q.status ∧ Reads (t.ctx s.cur) f.b (BitVec.allOnes 64) ∧ t.mem = s.mem) ∧
      (q.state = 1 ∨ q.state = 2 ∨ q.state = 4 →
        Claims.Waits (.sqstat h f) s .sqstat j (if tmo = 0 then none else some (s.pkg.time + tmo))))

/-! ### What moves without an instruction: replies, records, traps of other contexts -/

/-- The step touches no other context, and no byte of memory. -/
def Claims.OnlyContext (s t : State) (x : Nat) : Prop := (∀ y, y ≠ x → t.ctx y = s.ctx y) ∧ t.mem = s.mem

/-- R23, R24, R160, R162, R173, R174, R183, R191, R227, R437: a performed long result is written or posts its trap, and a droop-stopped core holds it; a
link value becomes present or goes to the holding slot; an access is performed at the home port or held at a slot that is not resident;
an atomic replaces the word at its home, once the requester's own copies of the line have left, and answers with the old one; a WAITA at its
timeout has its reply; a stale request is translated anew. That the requester's own copies leave first is log entry 9, and that a store of a whole
word to an uncorrectable one succeeds is entry 50, both the model's. -/
def Obligations.RequestsArePerformedAtTheirHomes : Prop :=
  ∀ (x i : Nat) (r : Req) (s : State),
    let c := s.ctx x
    let rest : State := { s with reqs := dropAt s.reqs i }
    let own := ownCopies r rest
    let mine : Prop := s.reqs[i]? = some r ∧ reqFirst s i = true
    (∀ e, c.outstanding[i]? = some e → e.group = 0 → (s.core (coreOf x)).droopAt = none →
      (∀ bits n, e.val = some (.ok bits) → e.dst = .w n → Ends (.longResultArrival x i) s fun t =>
        (t.ctx x).outstanding = dropAt c.outstanding i ∧ (t.ctx x).stack.getD (n % 64) 0 = BitVec.ofNat 64 bits ∧
          (∀ j, j ≠ n % 64 → (t.ctx x).stack.getD j 0 = c.stack.getD j 0) ∧ (t.ctx x).pc = c.pc ∧ (t.ctx x).run = c.run ∧
          Claims.OnlyContext s t x) ∧
      (∀ p, e.val = some (.fail p) → Ends (.longResultArrival x i) s fun t =>
        t.ctx x = { c with outstanding := dropAt c.outstanding i, pend := c.pend ++ [p] } ∧ Claims.OnlyContext s t x)) ∧
    ((s.core (coreOf x)).droopAt ≠ none → exec (.longResultArrival x i) s = .next s) ∧
    (∀ n rel k off, mine → r.op = .link n rel → r.home = .spad k off → fencedFrom s (coreDie r.src) (coreDie k) = false →
      (s.core k).killed = false → (s.core k).offline = false → (s.core k).droopAt = none →
      ((s.core k).links.get? n = none → Ends (.linkValueArrival i) s fun t =>
        t.reqs = rest.reqs ∧ (t.core k).links.get? n = some (BitVec.ofNat 64 r.val) ∧ (∀ y, t.ctx y = s.ctx y)) ∧
      (∀ v, (s.core k).links.get? n = some v → (s.core k).linkHold.get? n = none → Ends (.linkValueArrival i) s fun t =>
        t.reqs = rest.reqs ∧ (t.core k).links = (s.core k).links ∧ (t.core k).linkHold.get? n = some (BitVec.ofNat 64 r.val, rel))) ∧
    (∀ k off, mine → r.home = .spad k off → fencedFrom s (coreDie r.src) (coreDie k) = false → (s.core k).killed = false →
      (s.core k).droopAt = none → r.refused = false →
      (resident s k off = true → r.op = .store → (spadBad s k off = false ∨ r.size = 8) → r.lr = none → r.waits = false → r.vst = none →
        r.acq = 0 → (s.core k).waiters = [] → off % 8 + r.size ≤ 8 → Ends (.remoteScratchpadAccess i) s fun t =>
          t.reqs = rest.reqs ∧ spadGet t k off r.size = r.val % 2 ^ (8 * r.size) ∧ (∀ y, t.ctx y = s.ctx y) ∧ t.mem = s.mem ∧
            ∀ j, j ≠ off / 8 % 32768 → (t.core k).spad.getD j 0 = (s.core k).spad.getD j 0) ∧
      (resident s k off = false → r.op = .store → heldAtPort rest k < 64 → Ends (.remoteScratchpadAccess i) s fun t =>
        t.reqs = s.reqs.set i { r with heldAt := true } ∧ ∀ j, (t.core j).spad = (s.core j).spad)) ∧
    (∀ op pa old id, mine → r.op = .atom op → r.home = .dev pa → r.refused = false → r.stale = false → r.lr = some id → r.waits = false →
      r.acq = 0 → (own.ctx r.x).dual = none → homeRead own (coreDie r.src) pa r.size = .ok old → (own.die (homeDie pa)).waiters = [] →
      Ends (.atomicAtHome i) s fun t => t.reqs = own.reqs ∧
        memRead t.mem pa r.size = atomNew op r.ty r.size old r.val r.cmp ∧
        (∀ a, a < pa ∨ pa + r.size ≤ a → memByte t.mem a = memByte own.mem a) ∧
        (t.ctx r.x).outstanding = (own.ctx r.x).outstanding.map fun e =>
          if e.id = id then { e with val := some (.ok (extendTy r.ty old).toNat) } else e) ∧
    (∀ pa w, mine → r.op = .join → r.home = .dev pa → r.refused = true → r.stale = false → r.waits = true → r.acq = 0 →
      (own.ctx r.x).dual = none → (own.ctx r.x).run = .waiting w → homeRead own (coreDie r.src) pa r.size = .ok 0 →
      Ends (.waiterRetry i) s fun t => t.reqs = own.reqs ∧ (t.ctx r.x).run = .waiting { w with reply := some (.ok 0) } ∧ t.mem = own.mem) ∧
    (∀ w q v due, c.run = .waiting w → w.kind = .waita → w.deadline = some due → due ≤ s.pkg.time → w.reply = none → w.timedOut = false →
      w.got = [] → c.dual = none → waitingReq s x = some q → wordNow q s = (some v, s) →
      Ends (.waitaTimeout x) s fun t => (t.ctx x).run = .waiting { w with reply := some v, timedOut := true } ∧ Claims.OnlyContext s t x ∧
        ∀ e ∈ t.reqs, ¬(e.x = x ∧ e.waits = true)) ∧
    (∀ home u, s.reqs[i]? = some r → r.stale = true →
      devHome s r.src r.pid r.va.toNat (if r.isAtom then .write else .read) = (.ok home, u) →
      exec (.staleRequestRefusal i) s = .next { u with reqs := u.reqs.set i { r with home := home, stale := false } })

/-- R175, R176, R222, R223: where every context of a core waits and work is queued, the longest waiter is saved and its context has a spare pair, while what is under way for it goes on under a number that the held thread keeps (log entry 33, the model's
choice); a held
thread whose word has changed enters the held list once; CTXOP saves a Stopped context and frees it, restores an image into a free one
that is then Stopped, and sets ERR in every other state. -/
def Claims.ThreadsAreHeldAndImaged : Prop :=
  ∀ (k i : Nat) (s : State),
    let kc := s.core k
    let y := ctxKey k kc.ctxopCtx
    (∀ x r pair spare u, (∀ z ∈ userCtxs k, holdable s z = true) → kc.deque ≠ [] → kc.heldList.length < 8 → longestWait s k = some x →
      (s.ctx x).pendDroop = none → (s.ctx x).pendPreempt = false →
      let s0 := settleThread x s
      (quiet s0 x = true ∨ ((s0.ctx x).dual = none ∧ k < 1536)) → holdable s0 x = true → waitingReq s0 x = some r → kc.spare = pair :: spare →
      writeImage x (s0.ctx x).pid (s0.ctx x).pc (cancelBoth x s0) = (.ok (), u) →
      Ends (.forwardProgressHold k) s fun t => t.ctx x = { Ctx.reset with pair := pair } ∧ (t.core k).spare = spare ∧ t.mem = u.mem ∧
        ∃ l e, (t.core k).heldList = l ++ [e] ∧ e = { (s0.ctx x).heldAs r.home with key := e.key } ∧ (quiet s0 x = true → e.key = none) ∧
          (quiet s0 x = false → (∀ m ∈ t.reqs, m.x ≠ x) ∧ ∃ n, e.key = some n ∧ (t.ctx n).outstanding = (s0.ctx x).outstanding)) ∧
    (∀ h, kc.heldList[i]? = some h → h.changed = true → h.woken = false → Ends (.heldThreadWake k i) s fun t =>
      t.core k = { kc with heldList := kc.heldList.set i { h with woken := true, order := kc.arrivals }, arrivals := kc.arrivals + 1 } ∧
        (∀ x, t.ctx x = s.ctx x)) ∧
    (kc.ctxopBsy = true → kc.ctxopOp = 1 →
      ((s.ctx y).run ≠ .stopped → Ends (.ctxopSave k) s fun t => (t.core k).ctxopBsy = false ∧ (t.core k).ctxopErr = true ∧ t.ctx y = s.ctx y) ∧
      (∀ u, (s.ctx y).run = .stopped → resultsIn s y = true → saveContext y (s.ctx y).epc s = .ok u →
        Ends (.ctxopSave k) s fun t => (t.core k).ctxopBsy = false ∧ (t.core k).ctxopErr = false ∧
          t.ctx y = { Ctx.reset with pair := (s.ctx y).pair } ∧ t.mem = u.mem)) ∧
    (kc.ctxopBsy = true → kc.ctxopOp = 2 →
      ((s.ctx y).run ≠ .free → Ends (.ctxopRestore k) s fun t =>
        (t.core k).ctxopBsy = false ∧ (t.core k).ctxopErr = true ∧ t.ctx y = s.ctx y) ∧
      (∀ d u, (s.ctx y).run = .free → readImage (s.ctx y) k (imagePid s k y) (s.ctx y).wsp s = (.ok d, u) →
        Ends (.ctxopRestore k) s fun t => (t.core k).ctxopBsy = false ∧ (t.core k).ctxopErr = false ∧
          (t.ctx y).run = .stopped ∧ (t.ctx y).pc = d.pc ∧ (t.ctx y).epc = d.epc ∧ (t.ctx y).stack = d.stack ∧ (t.ctx y).p = d.p ∧
          (t.ctx y).v = d.v))

/-- R197 to R208, R212, R369, R370: an event enters the inbox with its arrival time, and is discarded and counted at a core that is offline; a checked
record enters the deque that the walk names, and is kept 1 µs where every core refuses; one that levelling has shipped enters the deque of its core
while that holds fewer than 32; the wake unit starts a thread on the first event of the
inbox; a record is raised once; levelling ships to a neighbour two or more below; the sleep timer queues its item. -/
def Obligations.RecordsAndEventsAreQueuedAndBound : Prop :=
  ∀ (k i lvl : Nat) (s : State),
    let kc := s.core k
    (∀ m, s.evs[i]? = some m → m.weaver = none → m.group = none → evFirst s i m = true →
      (coreOnline s m.core = true → (s.core m.core).inbox.length < 64 → Ends (.eventArrival i) s fun t =>
        t.evs = dropAt s.evs i ∧ (t.core m.core).inbox = (s.core m.core).inbox ++ [{ m.e with arr := s.pkg.time % 2 ^ 48, ord := (s.core m.core).arrivals }] ∧
          (∀ x, t.ctx x = s.ctx x)) ∧
      (coreOnline s m.core = true → 64 ≤ (s.core m.core).inbox.length → exec (.eventArrival i) s = .next s) ∧
      (coreOnline s m.core = false → m.e.grp = none → Ends (.eventArrival i) s fun t =>
        t.evs = dropAt s.evs i ∧ (t.core m.core).inbox = (s.core m.core).inbox ∧
          (t.die m.die).badEvents.getD m.port 0 = min (2 ^ 32 - 1) ((s.die m.die).badEvents.getD m.port 0 + 1))) ∧
    (∀ m, s.recs[i]? = some m → m.core = none → m.raised = false →
      (∀ j, placementWalk s m.lid m.sender m.r.w7 = some j → recordBad m.r = false → kindNotice m.r.kind = false →
        let placed : State → Prop := fun t => t.recs = dropAt s.recs i ∧ ∃ q, (t.core j).deque = q :: (s.core j).deque ∧ q.r.w0 = m.r.w0 ∧
          q.r.w1 = m.r.w1 ∧ q.r.w2 = m.r.w2 ∧ q.r.w6 = m.r.w6 ∧ q.lid = m.lid ∧ q.acq = m.acq
        (m.again = 0 → Ends (.recordArrival i) s placed) ∧
        (m.again ≠ 0 → m.again ≤ s.pkg.time → Ends (.placementReoffer i) s placed)) ∧
      (placementWalk s m.lid m.sender m.r.w7 = none →
        let kept : State → Prop := fun t => t = { s with recs := s.recs.set i { m with again := s.pkg.time + 1000 } }
        (m.again = 0 → Ends (.recordArrival i) s kept) ∧ (m.again ≠ 0 → m.again ≤ s.pkg.time → Ends (.placementReoffer i) s kept))) ∧
    (∀ m j, s.recs[i]? = some m → m.core = some j → m.levelled = true →
      (∀ e ∈ s.recs.take i, ¬(e.core = m.core ∧ e.sender = m.sender ∧ e.again = 0)) → coreOnline s j = true →
      (recordBad m.r = false → kindNotice m.r.kind = false → (s.core j).deque.length < 32 → Ends (.recordArrival i) s fun t =>
        t.recs = dropAt s.recs i ∧ ∃ q, (t.core j).deque = q :: (s.core j).deque ∧ q.r.w0 = m.r.w0 ∧ q.r.w1 = m.r.w1 ∧ q.r.w2 = m.r.w2 ∧
          q.raised = m.raised ∧ q.lid = m.lid) ∧
      (32 ≤ (s.core j).deque.length → exec (.recordArrival i) s = .next s)) ∧
    (∀ m j, s.recs[i]? = some m → m.core = some j → m.again ≠ 0 →
      (∀ u, deliverNotice j m.r { s with recs := dropAt s.recs i } = some u → exec (.noticeRetry i) s = .next u) ∧
      ((8 ≤ (s.core j).notices.length ∨ (s.core j).faultWait ≠ [] ∨ (s.core j).droopAt ≠ none) → (s.core j).killed = false → exec (.noticeRetry i) s = .next s)) ∧
    (∀ c e rest pc ser u, c < 7 → (s.ctx (ctxKey k c)).run = .free → (s.ctx (ctxKey k c)).closing = false → kc.halted = false → kc.killed = false →
      kc.droopAt = none → (s.die (coreDie k)).run = .running → kc.inbox = e :: rest → handlerOf s k e.kind e.src = (some (pc, ser), u) →
      (ser = true → liveHandler u k e.src e.ord = false) →
      Ends (.wakeBinding k c) s fun t =>
        let d := t.ctx (ctxKey k c)
        (t.core k).inbox = rest ∧ d.run = .ready ∧ d.pc = pc ∧ d.w 0 = e.w0 ∧ d.w 1 = e.w1 ∧ d.w 3 = 0 ∧ d.made = .event e ∧ d.res = 0 ∧
          d.pair = (s.ctx (ctxKey k c)).pair) ∧
    (∀ c q, c < 7 → (s.ctx (ctxKey k c)).run = .free → (s.ctx (ctxKey k c)).closing = false → kc.halted = false → kc.killed = false →
      kc.droopAt = none → (s.die (coreDie k)).run = .running → kc.inbox = [] → firstHeld kc = none → kc.deque = [q] → kc.notices = [] →
      q.needsPair = false → q.acq = 0 → q.dual = none → kindNotice q.r.kind = false →
      Ends (.wakeBinding k c) s fun t =>
        let d := t.ctx (ctxKey k c)
        (t.core k).deque = [] ∧ d.run = .ready ∧ d.pc = q.r.w1 ∧ d.w 0 = q.r.w2 ∧ d.w 1 = q.r.w3 ∧ d.w 2 = q.r.w4 ∧ d.w 3 = q.r.w5 ∧
          d.made = .record q.r ∧ d.lid = q.lid ∧ d.pri = q.r.pri) ∧
    (∀ q, kc.deque = [q] → kc.notices = [] → q.level = lvl → Ends (.recordRaise k lvl) s fun t =>
      (t.core k).deque = [{ q with raised := true }] ∧ (t.core k).notices = []) ∧
    (kc.levelEn = true → kc.levelAt + 1000 * (kc.levelInt + 1) ≤ s.pkg.time → coreOnline s k = true →
      (levelNeighbours s k = [] → Ends (.loadLevelling k) s fun t => Wakes s t k 3 0 ∧ (t.core k).levelAt = s.pkg.time ∧ t.recs = s.recs) ∧
      (∀ n q l, levelNeighbours s k = [n] → kc.deque = q :: l → l.length + 1 = 3 + dequeDepth s n → dequeDepth s k = l.length + 1 →
        q.r.pinned = false → q.dual = none → q.needsPair = false → dequeDepth s n < 32 →
        Ends (.loadLevelling k) s fun t => (t.core k).deque = l ∧
          ∃ m, t.recs = s.recs ++ [m] ∧ m.r = q.r ∧ m.core = some n ∧ m.levelled = true ∧ m.raised = q.raised ∧ m.lid = q.lid)) ∧
    (∀ due, kc.sleepAt = some due → kc.asleep = true → due ≤ s.pkg.time → Ends (.sleepTimerExpiry k) s fun t =>
      Wakes s t k 4 0 ∧ ∀ x, t.ctx x = s.ctx x)

/-- R27 to R31: the thread packet's context is bound at the destination with the state the packet and the departure frame carry, once the origin's lines
have left the destination's caches; the acknowledgement frees the origin's context, which takes the destination's pair; a refusal resumes the
thread at the origin, with trap 0x14 and the reason where it was a MIGR. -/
def Claims.MigrationsArriveOrAreRefused : Prop :=
  ∀ (x c : Nat) (m : MigMsg) (s : State), migOf s x = some m →
    let y := ctxKey m.dst c
    (∀ frame u, m.ack = none → refusal s m = none → (s.core m.dst).droopAt = none → y ∈ freeCtxs s m.dst →
      wordsLoad (invalidateLines m.dst m.ctx.pid m.lines s) m.dst m.ctx.pid 0 m.frame 16 = (.ok frame, u) →
      Ends (.migrationArrival x c) s fun t =>
        let d := t.ctx y
        d.run = .ready ∧ d.pc = m.ctx.pc ∧ (∀ j, j < 16 → d.w j = m.ctx.w j) ∧ (∀ j, 1 ≤ j → j ≤ 7 → d.pred j = frame.getD (j - 1) 0) ∧
          d.tcomp = scopeReg (frame.getD 7 0) ∧ d.jctr = scopeReg (frame.getD 8 0) ∧ d.origin = originReg (frame.getD 9 0) ∧
          d.wlim = lineReg (frame.getD 10 0) ∧ d.wsp = m.frame + 128 ∧
          d.tsp = m.ctx.tsp ∧ d.spl = m.ctx.spl ∧ d.res = 0 ∧ d.vl = false ∧ d.vz = (m.ctx.vz || m.ctx.vl) ∧ d.pid = m.ctx.pid ∧
          d.pri = m.ctx.pri ∧ d.loopcnt = 0 ∧ d.chunks = m.ctx.chunks ∧ d.wrote = m.ctx.wrote ∧
          ∀ e ∈ t.migs, e.x = x → e.ack = some ((u.ctx y).pair)) ∧
    (∀ pair, m.ack = some pair → (s.core (coreOf x)).killed = false → Ends (.migrationAcknowledge x) s fun t =>
      t.ctx x = { Ctx.reset with pair := pair } ∧ (∀ e ∈ t.migs, e.x ≠ x) ∧ t.mem = s.mem) ∧
    (∀ reason, m.ack = none → refusal s m = some reason → (s.core (coreOf x)).killed = false →
      (m.automatic = true → Ends (.migrationRefused x) s fun t =>
        (t.ctx x).run = .ready ∧ (t.ctx x).pc = m.pc ∧ (t.ctx x).stack = m.ctx.stack ∧ (t.ctx x).p = m.ctx.p ∧ ∀ e ∈ t.migs, e.x ≠ x) ∧
      (m.automatic = false → ctxNo x ≠ 7 → Ends (.migrationRefused x) s fun t =>
        (t.ctx x).run = .stopped ∧ (t.ctx x).cause = 0x14 ∧ (t.ctx x).epc = m.pc ∧ (t.ctx x).fpc = m.pc ∧
          (t.ctx x).finfo = BitVec.ofNat 64 reason ∧ (t.ctx x).stack = m.ctx.stack ∧ Wakes s t (coreOf x) 0 (ctxNo x)))

/-- R27 to R31, R175, R176, R222, R223: threads that leave their context and come back. -/
def Obligations.ThreadsHeldImagedAndMigrated : Prop :=
  Claims.ThreadsAreHeldAndImaged ∧ Claims.MigrationsArriveOrAreRefused

/-! ### The supervisor's queue and registers, kills, power -/

/-- R204, R215, R218, R487: a read of the supervisor queue takes its oldest item, and 0 where there is none; a write of `y.hbase` drops the cached handler
entries; a write of `y.pairs` assigns the area pairs while no user context holds a thread, and is ignored otherwise; R362: `y.epost` posts a
record of the core. -/
def Claims.SupervisorServices : Prop :=
  ∀ (k : Nat) (n : BitVec 4) (v : Word) (s : State),
    let kc := s.core k
    let seven := ctxKey k 7
    (kc.supq = [] → kc.faultWait = [] → Ends (.supqRead k n) s fun t => (t.ctx seven).w n.toNat = 0 ∧ t.core k = kc) ∧
    (∀ it rest, kc.supq = it :: rest → kc.supqKept = [] → kc.faultWait = [] → it.typ < 2 ^ 8 → it.data < 2 ^ 16 → Ends (.supqRead k n) s fun t =>
      (t.ctx seven).w n.toNat = BitVec.ofNat 64 (2 ^ 63 + it.typ * 2 ^ 48 + it.data) ∧ t.core k = { kc with supq := rest }) ∧
    (∀ it rest m more, kc.supq = it :: rest → kc.supqKept = m :: more → kc.faultWait = [] → Ends (.supqRead k n) s fun t =>
      (t.core k).supq = rest ++ [m] ∧ (t.core k).supqKept = more) ∧
    (Ends (.hbaseWrite k v) s fun t => (t.core k).hbase = v &&& 0x3F_FFFF_FFFF_FF00 ∧ (t.core k).hcache = [] ∧ t.ctxs = s.ctxs ∧ t.mem = s.mem) ∧
    ((∀ x ∈ userCtxs k, (s.ctx x).run = .free) → Ends (.pairsWrite k v) s fun t =>
      let size := kc.pairsz.toNat / 2 ^ 32 + kc.pairsz.toNat % 2 ^ 32
      let start := v &&& 0x3F_FFFF_FFFF_FFC0
      (t.core k).pairs = start ∧ (t.core k).spare.length = 8 ∧
        ∀ c, c < 7 → (t.ctx (ctxKey k c)).pair = start + BitVec.ofNat 64 (c * size) ∧ (t.ctx (ctxKey k c)).run = .free) ∧
    (∀ x ∈ userCtxs k, (s.ctx x).run ≠ .free → exec (.pairsWrite k v) s = .next s) ∧
    (v.toNat / 2 ^ 62 = 0 ∨ 0x13 ≤ v.toNat / 2 ^ 48 % 256 → exec (.errorPost k v) s = .next s) ∧
    (v.toNat / 2 ^ 62 ≠ 0 → v.toNat / 2 ^ 48 % 256 < 0x13 →
      ((s.die (coreDie k)).banks.getD (coreBank s k) Bank.reset).w0.getLsbD 63 = false → Ends (.errorPost k v) s fun t =>
        let b := (t.die (coreDie k)).banks.getD (coreBank s k) Bank.reset
        b.w0.toNat / 2 ^ 60 = 8 + v.toNat / 2 ^ 62 ∧ b.w0.toNat / 2 ^ 48 % 256 = v.toNat / 2 ^ 48 % 256 ∧ b.w1 = kc.eaddr ∧ b.w5 = kc.edet ∧
          b.w4 = BitVec.ofNat 64 s.pkg.time)

/-- R224 to R230: a pre-emption request halts its core and leaves trap 0x0F pending in every thread of the launch; a kill takes the core off line and answers
what its scratchpad was asked, and a killed core is killed once; the postmaster places a restartable record again as kind 8 with its count one
up, and frees the contexts. -/
def Claims.PreemptionsAndKills : Prop :=
  ∀ (k lid : Nat) (s : State),
    let kc := s.core k
    let pm := postmaster s (clusterOf k)
    (k ∈ s.pkg.lctlCores → s.pkg.lctlLid = lid → s.pkg.lctlOp = 1 → lid < 65536 →
      (kc.killed = false → pairsAt s k lid = [] → Ends (.preEmptionRequest k lid) s fun t =>
        (t.core k).halted = true ∧ Wakes s t k 2 lid ∧ k ∉ t.pkg.lctlCores ∧ t.mem = s.mem ∧
          (∀ x ∈ lidCtxs s k lid, t.ctx x = { s.ctx x with pendPreempt := true }) ∧
          (∀ x, x ∉ lidCtxs s k lid → t.ctx x = s.ctx x) ∧
          (t.cluster (clusterOf k)).spe.stopped = true ∧ (t.cluster (clusterOf k)).rqu.stopped = true) ∧
      (kc.killed = true → Ends (.preEmptionRequest k lid) s fun t => t.core k = kc ∧ t.ctxs = s.ctxs ∧ k ∉ t.pkg.lctlCores)) ∧
    (∀ bad, k < 1536 → kc.killed = false → Ends (.coreKill (k + 2048 * bad)) s fun t =>
      (t.core k).killed = true ∧ (t.core k).offline = true ∧ (t.core k).waiters = [] ∧ (t.core k).inbox = [] ∧ (t.core k).spad = kc.spad ∧
        (∀ n, n ∈ (t.core k).badRecs ↔ bad.testBit n) ∧ (∀ r ∈ t.reqs, r.atCore k = false) ∧ ((s.cluster (clusterOf k)).fused = false → t.mem = s.mem)) ∧
    (∀ bad, k < 1536 → kc.killed = true → exec (.coreKill (k + 2048 * bad)) s = .next s) ∧
    (kc.killed = false → exec (.postmasterRestart k) s = .next s) ∧
    (kc.killed = true → clockRuns s pm = true →
      (∀ n w, lostWork s k = [(n, w)] → n ∈ kc.badRecs → Ends (.postmasterRestart k) s fun t => t.recs = s.recs) ∧
      (∀ n w r, lostWork s k = [(n, w)] → n ∉ kc.badRecs → w.r = some r → r.restart = true → r.w0.toNat / 2 ^ 32 % 16 < 3 → Ends (.postmasterRestart k) s fun t =>
        ∃ m, t.recs = s.recs ++ [m] ∧ m.core = none ∧ m.lid = w.lid ∧ m.acq = w.acq ∧ m.r.w0.toNat % 16 = 8 ∧
          m.r.w0.toNat / 2 ^ 32 % 16 = r.w0.toNat / 2 ^ 32 % 16 + 1 ∧ m.r.w1 = r.w1 ∧ m.r.w2 = r.w2 ∧ m.r.w6 = r.w6) ∧
      (lostWork s k = [] → Ends (.postmasterRestart k) s fun t => t.recs = s.recs ∧ (∀ h ∈ (t.core k).heldList, h.dual ≠ none) ∧
        ∀ x ∈ userCtxs k, (s.ctx x).dual = none → (s.ctx x).run ≠ .migrating → (t.ctx x).run = .free))

/-- R204, R215, R218, R224 to R230, R487: what Withy is served with, and pre-emption and kills. -/
def Obligations.SupervisorWorkAndPreemption : Prop :=
  Claims.SupervisorServices ∧ Claims.PreemptionsAndKills

/-- A reset without the write-back has begun on die `d` for a brownout: a dump with cause 2 is due, and the other die has fenced it off. -/
def Claims.BrownedOut (s t : State) (d : Nat) : Prop :=
  (t.die d).run = .reset ∧ (t.die (1 - d)).fenced = true ∧
    ∃ r, t.pkg.dumps = s.pkg.dumps ++ [r] ∧ r.mask = 2 ^ d ∧ r.cause = 2 ∧ r.time = s.pkg.time

/-- R227, R286, R448: a soft droop is counted; a hard one stops its core or pauses its engine; at recovery the threads have trap 0x0E pending with
the duration, and Withy has one item, once no thread still has to take it; a droop of 1 ms, and a brownout, reset the die. How HARD_DROOP_LIMIT names an engine, 2048 + 8 × cluster + kind, is log entry 41, the model's own. -/
def Obligations.DroopsStopCoresAndEngines : Prop :=
  ∀ (k q d : Nat) (s : State),
    let kc := s.core k
    let cl := s.cluster q
    (k < 1536 → exec (.softDroop k) s = .next (s.setCore k { kc with droopSoft := min 65535 (kc.droopSoft + 1) })) ∧
    (k < 1536 → kc.droopAt = none → exec (.hardDroop 0 k) s =
      .next (s.setCore k { kc with droopAt := some s.pkg.time, droopHard := min 65535 (kc.droopHard + 1) })) ∧
    (kc.droopAt ≠ none → exec (.hardDroop 0 k) s = .next s) ∧
    (Ends (.hardDroop 1 q) s fun t => t.cluster q = { cl with mxe := { cl.mxe with paused := true } }) ∧
    (Ends (.hardDroop 2 q) s fun t => t.cluster q = { cl with spe := { cl.spe with paused := true } }) ∧
    (Ends (.hardDroop 3 q) s fun t => t.cluster q = { cl with rqu := { cl.rqu with paused := true } }) ∧
    (Ends (.hardDroop 4 q) s fun t => isqOf t (q / 4) (q % 4) = { isqOf s (q / 4) (q % 4) with paused := true }) ∧
    (Ends (.engineSupplyRecovery 1 q) s fun t => t.cluster q = { cl with mxe := { cl.mxe with paused := false } }) ∧
    (Ends (.engineSupplyRecovery 2 q) s fun t => t.cluster q = { cl with spe := { cl.spe with paused := false } }) ∧
    (Ends (.engineSupplyRecovery 3 q) s fun t => t.cluster q = { cl with rqu := { cl.rqu with paused := false } }) ∧
    (Ends (.engineSupplyRecovery 4 q) s fun t => isqOf t (q / 4) (q % 4) = { isqOf s (q / 4) (q % 4) with paused := false }) ∧
    (∀ t0, kc.droopAt = some t0 →
      let dur := min (2 ^ 32 - 1) (s.pkg.time - t0)
      (Ends (.droopRecovery k) s fun t => (t.core k).droopAt = none ∧ (t.core k).droopLast = dur ∧
        (kc.droopItem = false → (∀ x ∈ userCtxs k, (s.ctx x).run = .free ∨ (s.ctx x).run = .stopped) →
          Wakes s t k 7 (min 0xFFFF ((s.pkg.time - t0) / 1000)) ∧ (t.core k).droopItem = false) ∧
        (kc.droopItem = false → (∃ x ∈ userCtxs k, (s.ctx x).run = .ready) →
          t.core k = { kc with droopAt := none, droopLast := dur, droopItem := true }) ∧
        ((∀ x ∈ coreCtxs k, (s.ctx x).canLand = none) →
          (∀ x ∈ userCtxs k, (s.ctx x).run ≠ .free → (s.ctx x).run ≠ .stopped →
            t.ctx x = { s.ctx x with pendDroop := some (BitVec.ofNat 64 dur) }) ∧
          (∀ x, x ∉ userCtxs k → t.ctx x = s.ctx x))) ∧
      (k < 1536 → t0 + 1000000 ≤ s.pkg.time → Ends (.hardDroopLimit k) s fun t => Claims.BrownedOut s t (coreDie k)) ∧
      (k < 1536 → s.pkg.time < t0 + 1000000 → exec (.hardDroopLimit k) s = .next s)) ∧
    (∀ t0, q < 192 → cl.mxe.paused = true → s.pkg.pausedAt.get? (8 * q + 1) = some t0 →
      (t0 + 1000000 ≤ s.pkg.time → Ends (.hardDroopLimit (2048 + (8 * q + 1))) s fun t => Claims.BrownedOut s t (q / 96)) ∧
      (s.pkg.time < t0 + 1000000 → exec (.hardDroopLimit (2048 + (8 * q + 1))) s = .next s)) ∧
    (d < 2 → (s.die d).run ≠ .reset → Ends (.brownout d) s fun t => Claims.BrownedOut s t d)

/-- R440, R443 to R447, R449: a budget interval gives each core the duty that the tree grants and charges the energy of the interval and of what its cores have issued; BLEASE answers 0 to 4 and holds the
lease that it grants, BREL ends it; a lease ends at its expiry, and 20 µs after its revocation; a recalled lender sets RCL first and then drops its
borrower to nominal. That the codes of BLEASE are tested 4, 3, 2 and then 1 or 0, and that a revoked lease ends at the earlier of its expiry and
20 µs, is log entry 63, the model's choice. -/
def Obligations.BudgetsAndLeases : Prop :=
  ∀ (h : Hdr) (f : Fields) (x d n : Nat) (s : State),
    (s.pkg.time % 10000 ≠ 0 → ∀ demand allowance charges mw slack, exec (.budgetInterval demand allowance charges mw slack) s = .next s) ∧
    (s.pkg.time % 10000 = 0 → s.pkg.sync = [] → ∀ demand allowance mw slack c e, c < 256 → (∀ p ∈ demand, p.1 < 2048) →
      let total := (demand.filter fun p => p.1 < 1536).foldl (fun a p => a + p.2) 0
      let budget := s.pkg.power * 1000000 - allowance
      let paid := ((coreCharges s 0).filter fun p => p.1 = c).foldl (fun a p => a + p.2) 0
      Ends (.budgetInterval demand allowance [(c, e)] mw slack) s fun t =>
        (∀ k, k < 1536 → (t.core k).dutyD =
          if SMap.getD demand k 0 = 0 then 16
          else if total ≤ budget then min (s.core k).dutyCap 16 else min (s.core k).dutyCap (16 * budget / total)) ∧
        (t.die 0).energyAcc.getD c 0 = ((s.die 0).energyAcc.getD c 0 + e + paid) % 1024 ∧
        (t.die 0).energy.getD c 0 = ((s.die 0).energy.getD c 0 + ((s.die 0).energyAcc.getD c 0 + e + paid) / 1024) % 2 ^ 64 ∧
        ∀ k, (t.core k).charges = []) ∧
    (Runs h s → f.a.link? = none →
      let c := me s
      let q := s.cluster (clusterOf (coreOf s.cur))
      let die := coreDie (coreOf s.cur)
      let len := (count s f.a).toNat
      let step := f.xBits 32 2
      let answers : Nat → Ctx → Prop := fun code e => Leaves (.blease h f) h s (fallThrough (Claims.wrote e f.d (BitVec.ofNat 64 code)) c.pc)
      let lease : Nat → Ctx := fun g => { c with lease := ⟨true, false, g, s.pkg.time + 1000 * len⟩ }
      (ctxNo s.cur = 7 → answers 4 c) ∧
      (ctxNo s.cur ≠ 7 → len = 0 ∨ 1000 < len → answers 3 c) ∧
      (ctxNo s.cur ≠ 7 → 0 < len → len ≤ 1000 →
        (q.perm = 0 ∨ (q.slot = false ∧ (s.die die).slotsFree = 0) → answers 2 c) ∧
        (q.perm ≠ 0 → q.slot = true ∨ (s.die die).slotsFree ≠ 0 →
          (step = 3 → q.perm < 3 → answers 1 (lease 2)) ∧ (step = 3 → 3 ≤ q.perm → answers 0 (lease 3)) ∧ (step ≠ 3 → answers 0 (lease step)))) ∧
      Leaves (.brel h f) h s (fallThrough { c with lease := ⟨false, false, 0, 0⟩ } c.pc)) ∧
    (let l := (s.ctx x).lease;
      (l.act = true → l.rvk = false → l.ends ≤ s.pkg.time → exec (.leaseExpiry x) s = .next (s.setCtx x { s.ctx x with lease := ⟨false, false, 0, 0⟩ })) ∧
      (s.pkg.time < l.ends → exec (.leaseExpiry x) s = .next s ∧ exec (.revokedLeaseEnd x) s = .next s) ∧
      (l.act = true → l.rvk = false → exec (.leaseRevocation x) s =
        .next (s.setCtx x { s.ctx x with lease := ⟨true, true, l.step, min l.ends (s.pkg.time + 20000)⟩ })) ∧
      (l.act = true → l.rvk = true → l.ends ≤ s.pkg.time → exec (.revokedLeaseEnd x) s =
        .next (s.setCtx x { s.ctx x with lease := ⟨false, false, 0, 0⟩ }))) ∧
    (let e := (s.die d).lending.getD n 0;
      (e.getLsbD 54 = false → exec (.lenderRecall d n) s = .next s) ∧
      (e.getLsbD 54 = true → e.getLsbD 62 = false → Ends (.lenderRecall d n) s fun t =>
        (t.die d).lending.getD n 0 = e ||| 0x4000_0000_0000_0000 ∧ t.clusters = s.clusters) ∧
      (e.getLsbD 54 = true → e.getLsbD 62 = true → Ends (.lenderRecall d n) s fun t =>
        (t.die d).lending.getD n 0 = 0 ∧ (t.cluster (96 * d + e.toNat / 2 ^ 55 % 128)).brw = false ∧
          (t.cluster (96 * d + e.toNat / 2 ^ 55 % 128)).step = 1 ∧
          (t.cluster (96 * d + e.toNat / 2 ^ 55 % 128)).perm = (s.cluster (96 * d + e.toNat / 2 ^ 55 % 128)).perm))

/-! ### Upkeep of memory, translation and links -/

/-- A record of rank, type and words 1 and 5 stands in a bank that was not valid before (R359, R361). -/
def Claims.BankHolds (t : State) (d b rank typ : Nat) : Prop :=
  let w := ((t.die d).banks.getD b Bank.reset).w0.toNat
  w / 2 ^ 63 = 1 ∧ w / 2 ^ 60 % 4 = rank ∧ w / 2 ^ 48 % 256 = typ

/-- The bank has no record. -/
def Claims.BankFree (s : State) (d b : Nat) : Prop := ((s.die d).banks.getD b Bank.reset).w0.getLsbD 63 = false

/-- A dump and a reset of the dies of a mask are due after a fatal error (R438, R450, R472). -/
def Claims.Fatal (s t : State) (mask : Nat) : Prop :=
  (∃ r, t.pkg.dumps = s.pkg.dumps ++ [r] ∧ r.mask = mask ∧ r.cause = 1 ∧ r.time = s.pkg.time) ∧
    ∃ r, t.pkg.resets = s.pkg.resets ++ [r] ∧ r.mask = mask ∧ r.began = false

/-- R346, R431, R473, R474: a replay that passes starts the count of failures again and leaves a corrected record where the bank is free; the
16th failure in a row is fatal for the die, disables the UCIe module, or takes the peer port down; the last module that fails is fatal for
both dies; a port that comes up again has its link bit. -/
def Claims.LinkReplays : Prop :=
  ∀ (d link m p : Nat) (s : State),
    (Ends (.flitReplay d link true) s fun t => (t.die d).flitFails.getD link 0 = 0 ∧ t.pkg = s.pkg ∧ t.mem = s.mem ∧
      (Claims.BankFree s d 15 → Claims.BankHolds t d 15 1 0x09)) ∧
    ((s.die d).flitFails.getD link 0 < 15 → Ends (.flitReplay d link false) s fun t =>
      (t.die d).flitFails.getD link 0 = (s.die d).flitFails.getD link 0 + 1 ∧ t.pkg = s.pkg) ∧
    ((s.die d).flitFails.getD link 0 = 15 → Ends (.flitReplay d link false) s fun t => Claims.Fatal s t (2 ^ d)) ∧
    (m < 4 → (Ends (.ucieReplay d m 0) s fun t => t.pkg.replayFails.getD (4 * d + m) 0 = 0 ∧ t.pkg.modulesOff = s.pkg.modulesOff ∧
        (Claims.BankFree s d 15 → Claims.BankHolds t d 15 1 0x0A)) ∧
      (s.pkg.replayFails.getD (4 * d + m) 0 = 15 → Ends (.ucieReplay d m 1) s fun t => m ∈ t.pkg.modulesOff) ∧
      ((∃ j, j < 4 ∧ j ≠ m ∧ j ∉ s.pkg.modulesOff) → m ∉ s.pkg.modulesOff → Ends (.ucieReplay d m 2) s fun t =>
        t.pkg.modulesOff = s.pkg.modulesOff ++ [m] ∧ t.pkg.dumps = s.pkg.dumps) ∧
      ((∀ j, j < 4 → j ≠ m → j ∈ s.pkg.modulesOff) → Ends (.ucieReplay d m 2) s fun t => Claims.Fatal s t 3) ∧
      (Ends (.ucieReplay d m 3) s fun t => Claims.Fatal s t 3)) ∧
    (4 ≤ m → exec (.ucieReplay d m p) s = .next s) ∧
    (p < 2 → (s.pkg.peerFails.getD p 0 < 15 → Ends (.peerFrameReplay p false) s fun t =>
        t.pkg.peerFails.getD p 0 = s.pkg.peerFails.getD p 0 + 1 ∧ (t.die 1).lnk0 = (s.die 1).lnk0 ∧ (t.die 1).lnk1 = (s.die 1).lnk1) ∧
      (s.pkg.peerFails.getD p 0 = 15 → Ends (.peerFrameReplay p false) s fun t =>
        (if p = 0 then (t.die 1).lnk0 else (t.die 1).lnk1) = false) ∧
      (Ends (.peerPortLinkUp p) s fun t => (if p = 0 then (t.die 1).lnk0 else (t.die 1).lnk1) = true ∧ t.pkg.peerFails.getD p 0 = 0)) ∧
    (2 ≤ p → exec (.peerFrameReplay p true) s = .next s)

/-- R160, R164, R348, R353 to R357, R361, R363, R368, R435 to R437: a replaced line leaves its cache, and its dirty bytes go on; an uncorrectable one leaves the
poison mark; a walk caches its leaf; a shootdown leaves no entry that it names; a page migration writes the new leaf or sets ERR; the cluster
map takes a write, and applies a permutation or sets ERR; a scrub marks an uncorrectable line; a record reaches its bank; a scratchpad word can be found uncorrectable, and an
error of an ISQ with no set to fail leaves it as it is (R420). That a write of PMIG with SZ 11 still clears ERR by W1C is log entry 64, and how
ERROR_RECORD_APPLY packs a bank, b, b + 16, b + 32, with a second record and a clearing is entry 41: the model's choices. -/
def Claims.MemoryAndTranslationUpkeep : Prop :=
  ∀ (k pid vln d ln va n b : Nat) (v w1 w2 w3 w5 : BitVec 64) (s : State),
    (l1Find s k pid vln = none → ∀ bad, exec (.l1Replacement k pid vln bad) s = .next s) ∧
    (∀ l bad, l1Find s k pid vln = some l → Ends (.l1Replacement k pid vln bad) s fun t =>
      (∀ e ∈ (t.core k).l1, ¬(e.pid = pid ∧ e.vln = vln)) ∧ (l.dirty = 0 → t.mem = s.mem) ∧
        ∀ p u, l.dirty ≠ 0 → bad = true → translate s (coreDie k) pid (128 * vln) .read = (.ok p, u) → p.pa / 128 ∈ t.poison) ∧
    (∀ l, llcCopy s d ln = some l →
      (Ends (.llcReplacement d ln false) s fun t => llcCopy t d ln = none ∧
        (fencedFrom s d (homeDie (128 * ln)) = false → t.mem = writeMasked s.mem (128 * ln) l.bits l.dirty 128)) ∧
      (l.dirty ≠ 0 → fencedFrom s d (homeDie (128 * ln)) = false → Ends (.llcReplacement d ln true) s fun t =>
        llcCopy t d ln = none ∧ ln ∈ t.poison)) ∧
    (llcCopy s d ln = none → exec (.llcReplacement d ln false) s = .next s) ∧
    (∀ leaf level slot p u, (∀ e ∈ (s.die d).tlb, e.covers pid va = false) → walk s d pid va = (.ok (leaf, level, slot), u) →
      leafAccess s.usable leaf level va .read = .ok p → ((u.die d).tlb.filter fun e => e.station == stationOf va).length < 4096 →
      Ends (.translationWalk d pid va 0) s fun t => (t.die d).tlb = (u.die d).tlb ++ [tlbEntry pid va leaf level] ∧ t.mem = u.mem ∧ t.ctxs = u.ctxs) ∧
    (∀ e acc u, walk s d pid va = (.error e, u) → (∀ q ∈ (s.die d).tlb, q.covers pid va = false) → exec (.translationWalk d pid va acc) s = .next u) ∧
    ((s.die 0).tinvBsy = false → (s.die 1).tinvBsy = false → d < 2 → Ends (.tinvWrite d v) s fun t => (t.die d).tinvBsy = false ∧
      ∀ j e, j < 2 → e ∈ (t.die j).tlb →
        ¬((v.getLsbD 62 = true ∨ e.glob = true ∨ e.pid = v.toNat / 2 ^ 49 % 4096) ∧
          (v.getLsbD 61 = true ∨ (e.vpn < v.toNat % 2 ^ 40 + ((s.die d).tinvLen + 1) ∧ v.toNat % 2 ^ 40 < e.vpn + e.pages)))) ∧
    ((s.die d).pmigBsy = false → (s.die d).pmig = none →
      let sz := v.toNat / 2 ^ 60 % 4
      let who := v.toNat / 2 ^ 48 % 4096
      let bytes := 2 ^ levelShift sz
      let page := 8192 * (v.toNat % 2 ^ 40) / bytes * bytes
      let s0 := startPmig d v s
      let err := (s.die d).pmigErr && !v.getLsbD 62
      (sz = 3 → Ends (.pageMigration d v) s fun t => t.mem = s.mem ∧ (t.die d).pmigErr = err ∧ (t.die d).pmig = none) ∧
      (∀ e u, sz ≠ 3 → walk s0 d who page = (.error e, u) → Ends (.pageMigration d v) s fun t =>
        (t.die d).pmigErr = true ∧ (t.die d).pmigBsy = false) ∧
      (∀ leaf level slot u, sz ≠ 3 → walk s0 d who page = (.ok (leaf, level, slot), u) → level ≠ sz → Ends (.pageMigration d v) s fun t =>
        (t.die d).pmigErr = true ∧ (t.die d).pmigBsy = false) ∧
      (∀ slot leaf new u w, sz ≠ 3 → walk s0 d who page = (.ok (leaf, sz, slot), u) → walkRead u d (s.die d).pmigSlot.toNat = (.ok new, w) →
        (s.die d).pmigDst.toNat / bytes * bytes + bytes ≤ s.usable → leaf / 2 ^ 11 % 2 ^ 27 * 2048 + bytes ≤ s.usable →
        fencedFrom s d 0 = false → fencedFrom s d 1 = false → Ends (.pageMigration d v) s fun t =>
          memRead t.mem slot 8 = new % 2 ^ 64 ∧ (t.die d).pmigErr = err ∧ (t.die d).pmigBsy = false)) ∧
    (n < 96 → Ends (.cmapWrite d n v) s fun t => t.mem = s.mem ∧ t.ctxs = s.ctxs ∧
      cmapOf t d n = ⟨(cmapOf s d n).err && !v.getLsbD 16, true, v.toNat / 2 ^ 8 % 128, (cmapOf s d n).phy⟩ ∧
        ∀ m, m ≠ n → cmapOf t d m = cmapOf s d m) ∧
    (96 ≤ n → exec (.cmapWrite d n v) s = .next s) ∧
    ((∀ m, m < 96 → (cmapOf s d m).pnd = false) → exec (.mapApply d) s = .next s) ∧
    (s.pkg.launches = [] → (∃ m, m < 96 ∧ (cmapOf s d m).pnd = true) →
      let place := fun m => if (cmapOf s d m).pnd then (cmapOf s d m).new else (cmapOf s d m).phy
      (∀ p, p < 96 → (∀ m, m < 96 → place m ≠ p) → Ends (.mapApply d) s fun t => t.cores = s.cores ∧ t.ctxs = s.ctxs ∧
        ∀ m, m < 96 → (cmapOf s d m).pnd = true → (cmapOf t d m).err = true ∧ (cmapOf t d m).pnd = true ∧ (cmapOf t d m).phy = (cmapOf s d m).phy) ∧
      ((∀ p, p < 96 → ∃ m, m < 96 ∧ place m = p) → d < 2 → Ends (.mapApply d) s fun t =>
        (∀ m, m < 96 → (cmapOf t d m).pnd = false ∧ (cmapOf t d m).phy = place m) ∧
        ∀ m j i, m < 96 → j < 96 → i < 8 → place m = (cmapOf s d j).phy → (∀ a, a < 96 → (cmapOf s d a).phy = (cmapOf s d j).phy → a = j) →
          t.core (clusterCore (96 * d + m) i) = s.core (clusterCore (96 * d + j) i))) ∧
    (ln ∉ s.poison → 128 * ln < s.usable →
      let e := homeDie (128 * ln)
      let c := homeStation (128 * ln)
      exec (.patrolScrub ln 0) s = .next s ∧
      (Ends (.patrolScrub ln 1) s fun t => t.poison = s.poison ∧ t.mem = s.mem ∧ (Claims.BankFree s e c → Claims.BankHolds t e c 1 0x01)) ∧
      (Ends (.patrolScrub ln 2) s fun t => ln ∈ t.poison ∧ t.mem = s.mem ∧ (Claims.BankFree s e c → Claims.BankHolds t e c 3 0x01))) ∧
    (ln ∈ s.poison → ∀ found, exec (.patrolScrub ln found) s = .next s) ∧
    (b < 16 → d < 2 → v.toNat / 2 ^ 60 % 4 ≠ 0 → v.toNat / 2 ^ 48 % 256 < 0x13 → Claims.BankFree s d b →
      Ends (.errorRecordApply d b v w1 w2 w3 w5) s fun t =>
        let q := (t.die d).banks.getD b Bank.reset
        Claims.BankHolds t d b (v.toNat / 2 ^ 60 % 4) (v.toNat / 2 ^ 48 % 256) ∧ q.w1 = w1 ∧ q.w2 = w2 ∧ q.w3 = w3 ∧ q.w5 = w5 ∧
          q.w4 = BitVec.ofNat 64 s.pkg.time) ∧
    (b < 16 → d < 2 → v.toNat / 2 ^ 60 % 4 = 0 → Ends (.errorRecordApply d (b + 32) v w1 w2 w3 w5) s fun t => Claims.BankFree t d b) ∧
    (b < 16 → d < 2 → Claims.BankFree s d b → ∀ v1 v2 a1 a2 s2 : Word, v1.toNat / 2 ^ 60 % 4 = 1 → v2.toNat / 2 ^ 60 % 4 = 2 →
      v1.toNat / 2 ^ 48 % 256 < 0x13 → v2.toNat / 2 ^ 48 % 256 < 0x13 →
      Ends (.errorRecordApply d b v1 a1 w2 w3 w5) s fun u => Ends (.errorRecordApply d (b + 16) v2 a2 s2 w3 w5) u fun t =>
        Claims.BankHolds t d b 2 (v2.toNat / 2 ^ 48 % 256) ∧ ((t.die d).banks.getD b Bank.reset).w0.getLsbD 62 = false ∧
          ((t.die d).banks.getD b Bank.reset).w1 = a2) ∧
    (64 ≤ b → exec (.errorRecordApply d b v w1 w2 w3 w5) s = .next s) ∧
    (Ends (.uncorrectableUnitStateError 0 n b) s fun t => (t.cluster n).mxe.badRows.get? b = some false ∧ t.mem = s.mem) ∧
    (Ends (.uncorrectableUnitStateError 1 n b) s fun t => (t.cluster n).mxe.badAcc.get? b = some false) ∧
    (Ends (.uncorrectableUnitStateError 3 n b) s fun t => (t.cluster n).spe.badQ.get? b = some false) ∧
    (Ends (.uncorrectableUnitStateError 4 n b) s fun t => (t.cluster n).spe.badShape.get? b = some false) ∧
    (Ends (.uncorrectableUnitStateError 12 k n) s fun t => spadBad t k (8 * n) = true ∧ (t.core k).spad = (s.core k).spad) ∧
    ((isqOf s n b).state = 0 ∨ 4 < (isqOf s n b).state → Ends (.uncorrectableUnitStateError 11 n b) s fun t => isqOf t n b = isqOf s n b) ∧
    (13 ≤ va → exec (.uncorrectableUnitStateError va n b) s = .next s)

/-- R164, R346, R348, R353 to R357, R361, R363, R368, R431, R435 to R437, R473: links, lines, pages and records. -/
def Obligations.LinksMemoryAndTranslationUpkeep : Prop :=
  Claims.LinkReplays ∧ Claims.MemoryAndTranslationUpkeep

/-! ### The parcel engine, transfers, barriers, timeouts; sensors and the weaver -/

/-- A parcel command is done: it has left its queue, its core has the item, and a failure is told with its code (R240). -/
def Claims.PceEnds (s t : State) (q : Nat) (p : PceCmd) (rest : List PceCmd) (code : Nat) : Prop :=
  (t.cluster q).pce = rest ∧ Wakes s t p.core 6 (0x8000 + 32 * p.tgt + p.slot) ∧
    (code ≠ 0 → (t.core p.core).pErr = true ∧ (t.core p.core).pCode = code)

/-- R163, R239, R240: the head of the parcel queue: a read gives the residency entry, a write sets its fields but V and BSY, a fill makes the
slot resident with the words read and leaves no error in it, an eviction clears V and writes the words, where DT is set, and the tags away; each
failure has its code; then the command is done. That code 6 is tested before code 5 is log entry 75, and that an evicted uncorrectable word
leaves a poison mark in its line of BACK is entry 74: the model's choices. -/
def Claims.ParcelCommands : Prop :=
  ∀ (q : Nat) (s : State),
    ((s.cluster q).pce = [] → exec (.pceReadEntry q) s = .next s ∧ exec (.pceWriteEntry q) s = .next s ∧ exec (.pceFill q) s = .next s ∧
      exec (.pceEvict q) s = .next s) ∧
    ∀ p rest, (s.cluster q).pce = p :: rest → p.tgt < 8 → p.slot < 32 →
      let m := clusterCore q p.tgt
      let r := residOf s m p.slot
      (pcePermitted s q p = true →
        (p.op = 1 → Ends (.pceReadEntry q) s fun t => Claims.PceEnds s t q p rest 0 ∧ t.mem = s.mem ∧
          (t.core p.core).pent0 = r.word0 ∧ (t.core p.core).pent1 = r.taga ∧ residOf t m p.slot = r) ∧
        (p.op = 2 → Ends (.pceWriteEntry q) s fun t => Claims.PceEnds s t q p rest 0 ∧ t.mem = s.mem ∧
          residOf t m p.slot = ⟨r.v, (s.core p.core).pent0.getLsbD 62, (s.core p.core).pent0.getLsbD 61, r.bsy,
            (s.core p.core).pent0 &&& 0x3F_FFFF_FFFF_E000, (s.core p.core).pent1 &&& 0x3F_FFFF_FFFF_FF80⟩) ∧
        (p.op = 3 →
          (r.v = true → Ends (.pceFill q) s fun t => (t.cluster q).pce = rest ∧ (t.core p.core).pErr = true ∧ (t.core p.core).pCode = 3 ∧
            t.mem = s.mem ∧ (t.core m).spad = (s.core m).spad) ∧
          (∀ ws ts u v, r.v = false → r.bsy = false → unitWords s (coreDie m) m (corePid s m) r.back 1024 = (.ok ws, u) →
            unitWords u (coreDie m) m (corePid u m) r.taga 16 = (.ok ts, v) → (∀ e ∈ v.reqs, e.heldFor m p.slot = false) →
            Ends (.pceFill q) s fun t => (t.cluster q).pce.length = (v.cluster q).pce.length - 1 ∧ (residOf t m p.slot).v = true ∧
              t.mem = v.mem ∧ ∀ j, j < 1024 → (t.core m).spad.getD (1024 * p.slot + j) 0 = ws.getD j 0 ∧
                1024 * p.slot + j ∉ (t.core m).badSpad)) ∧
        (p.op = 4 →
          (r.v = false ∨ r.pn = true → Ends (.pceEvict q) s fun t => Claims.PceEnds s t q p rest 4 ∧ t.mem = s.mem ∧ residOf t m p.slot = r) ∧
          (∀ w u, r.v = true → r.pn = false → slotWaited s m p.slot = false →
            let cleared := s.modCore m fun c => { c with resid := c.resid.put p.slot { r with v := false } }
            (if r.dt then unitPutWords cleared (coreDie m) m (corePid cleared m) r.back
              ((List.range 1024).map fun j => (s.core m).spad.getD (1024 * p.slot + j) 0) else (.ok (), cleared)) = (.ok (), w) →
            let away := if r.dt then poisonBack m p.slot r.back w else w
            unitPutWords away (coreDie m) m (corePid away m) r.taga ((List.range 16).map fun j => BitVec.ofNat 64
              ((List.range 64).foldl (fun n i => if (s.core m).tags.getD (1024 * p.slot + 64 * j + i) false then n + 2 ^ i else n) 0)) =
              (.ok (), u) →
            Ends (.pceEvict q) s fun t => t.mem = u.mem ∧ t.poison = u.poison ∧ (t.cluster q).pce = (u.cluster q).pce.drop 1 ∧
              (residOf t m p.slot).v = false ∧ (t.core m).spad = (u.core m).spad))) ∧
      (∀ i ∈ ([.pceReadEntry q, .pceWriteEntry q, .pceFill q, .pceEvict q] : List Instr),
        (p.op = 0 ∨ 5 ≤ p.op → Ends i s fun t => (t.cluster q).pce = rest ∧ (t.core p.core).pErr = true ∧ (t.core p.core).pCode = 6) ∧
        (1 ≤ p.op → p.op ≤ 4 → pcePermitted s q p = false → Ends i s fun t =>
          (t.cluster q).pce = rest ∧ (t.core p.core).pErr = true ∧ (t.core p.core).pCode = 5))

/-- A waiting context reaches its timeout: it goes on as timed out; before it, nothing happens. -/
def Claims.TimesOut (i : Instr) (x : Nat) (kind : WaitKind) (s : State) : Prop :=
  ∀ w due, (s.ctx x).run = .waiting w → w.kind = kind → w.reply = none → w.deadline = some due →
    (due ≤ s.pkg.time → Ends i s fun t => t.ctx x = { s.ctx x with run := .waiting { w with timedOut := true } } ∧ Claims.OnlyContext s t x) ∧
    (s.pkg.time < due → Ends i s fun t => t.ctx x = s.ctx x ∧ Claims.OnlyContext s t x)

/-- R245 to R251, R257 to R260, R383, R415: a read of `y.xgo` starts a transfer of the open batch with the registers as they are, unless 64 are in
flight; a transfer that has moved its payload writes its completion word and ends; one of zero length has status 6; a barrier applies BARI and the
arrivals, the last of which completes the phase; BARW, GWAIT and SQSTAT have their timeouts. -/
def Claims.TransfersBarriersAndTimeouts : Prop :=
  ∀ (x q b i : Nat) (n : BitVec 4) (s : State),
    let c := s.ctx x
    let k := coreOf x
    let own := clusterOf k
    let cl := s.cluster q
    ((s.cluster own).xfers.length < 64 → c.xnext < 2 ^ 16 → Ends (.bteStart x n) s fun t =>
      (∃ e, (t.cluster own).xfers = (s.cluster own).xfers ++ [e] ∧ e.x = x ∧ e.batch = c.xnext ∧ e.src = globalOf k c.xsrc ∧
        e.dst = globalOf k c.xdst ∧ e.box = c.xbox ∧ e.ext = c.xext ∧ e.opt = c.xopt ∧ e.cv = c.xcv ∧ e.pid = c.pid ∧ e.moved = false) ∧
        ((t.ctx x).w n.toNat).toNat / 2 ^ 63 = 1 ∧ ((t.ctx x).w n.toNat).toNat / 2 ^ 8 % 2 ^ 16 = c.xnext ∧ (t.ctx x).xopen = c.xopen + 1) ∧
    (64 ≤ (s.cluster own).xfers.length → Ends (.bteStart x n) s fun t => t.clusters = s.clusters ∧
      (t.ctx x).w n.toNat = 0x0100_0000_0000_0000 ∧ (t.ctx x).xopen = c.xopen) ∧
    (∀ e, cl.xfers[i]? = some e → e.moved = true → e.notice = none → e.x ≠ nobody → (s.ctx e.x).dual = none →
      (e.opt.getLsbD 5 = false → Ends (.bteTransferComplete q i) s fun t => (t.cluster q).xfers = dropAt cl.xfers i ∧ t.mem = s.mem ∧
        t.ctx e.x = (s.ctx e.x).xferDone e) ∧
      (∀ m off, e.opt.getLsbD 5 = true → e.opt.getLsbD 6 = false → e.stat = 0 → resolve e.core e.cw = .spad m off → off % 8 = 0 →
        fencedFrom s (coreDie e.core) (coreDie m) = false → (s.core m).killed = false → (s.core m).droopAt = none → resident s m off = true → (s.core m).waiters = [] →
        Ends (.bteTransferComplete q i) s fun t => (t.cluster q).xfers = dropAt cl.xfers i ∧ t.mem = s.mem ∧
          (t.core m).spad.getD (off / 8) 0 = e.cv ∧ ∀ j, j ≠ off / 8 → (t.core m).spad.getD j 0 = (s.core m).spad.getD j 0)) ∧
    (∀ e, cl.xfers[i]? = some e → e.moved = false → e.opt.toNat % 4 = 0 → e.opt.getLsbD 5 = false → e.ext.toNat % 2 ^ 32 = 0 → e.x ≠ nobody →
      (s.ctx e.x).dual = none → (s.ctx e.x).xerr = false → Ends (.bteTransferComplete q i) s fun t => (t.cluster q).xfers = dropAt cl.xfers i ∧ t.mem = s.mem ∧
        (t.ctx e.x).xerr = true ∧ (t.ctx e.x).xstatCode = 6 ∧ (t.ctx e.x).xfid = e.id) ∧
    (∀ m rest, cl.barMsgs = m :: rest → m.bar = b →
      let o := cl.bars.getD b Barrier.reset
      (∀ cnt sc, m.init = some (cnt, sc) → Ends (.barrierUpdate q b 1) s fun t => (t.cluster q).barMsgs = rest ∧
        (t.cluster q).bars.getD b Barrier.reset = ⟨cnt, 0, 0, o.ph, sc⟩ ∧ t.mem = s.mem) ∧
      (m.init = none → m.remote = false ∨ clusterDark s q = false → o.cnt ≠ 0 → Ends (.barrierUpdate q b 1) s fun t => (t.cluster q).barMsgs = rest ∧ t.mem = s.mem ∧
        (t.cluster q).bars.getD b Barrier.reset =
          (if o.arr + 1 = o.cnt then ⟨o.cnt - (o.drp + if m.drop then 1 else 0), 0, 0, (o.ph + 1) % 65536, o.bs⟩
           else ⟨o.cnt, o.arr + 1, o.drp + if m.drop then 1 else 0, o.ph, o.bs⟩) ∧
        ∀ id, m.lr = some id → (s.ctx m.x).dual = none → (t.ctx m.x).outstanding = (s.ctx m.x).outstanding.map fun e =>
          if e.id = id then { e with val := some (.ok o.ph) } else e) ∧
      (m.init = none → m.remote = false ∨ clusterDark s q = false → o.cnt = 0 → m.lr = none → (s.ctx m.x).dual = none → Ends (.barrierUpdate q b 1) s fun t =>
        (t.cluster q).barMsgs = rest ∧ ∃ e, (t.ctx m.x).pend = (s.ctx m.x).pend ++ [e] ∧ e.cause = 0x0D ∧ e.finfo = 1)) ∧
    Claims.TimesOut (.barwTimeout x) x .barw s ∧ Claims.TimesOut (.gwaitTimeout x) x .gwait s ∧ Claims.TimesOut (.sqstatWaitTimeout x) x .sqstat s

/-- R161, R239, R240, R242, R252, R257 to R261, R383, R415: parcels, transfers, barriers and timeouts. -/
def Obligations.ClusterServices : Prop :=
  Claims.ParcelCommands ∧ Claims.TransfersBarriersAndTimeouts

/-- R316, R319 to R323, R386 to R389: a packet on a port that is enabled becomes events in its source's FIFO with the postmark and the next number,
or is counted as discarded; a drop marker enters a FIFO with room; an event is sent to the place of its source's entry; an event is woven into a cell, or counts as out or dropped; the open buffer closes at its timeout, with the conditions of that moment; a closed one is written to a
claimed slot, or has status 2, and disarms the channel; its record frees it. -/
def Obligations.SensorsAndWeaver : Prop :=
  ∀ (i q ch d src p chan : Nat) (s : State),
    let w := wvChan s q ch
    let z := w.settle s.pkg.time false
    (∀ m c, s.evs[i]? = some m → m.weaver = some c → m.group = none → evFirst s i m = true → clusterDark s (clusterOf m.core) = false →
      let v := wvChan s (clusterOf m.core) c
      let out := fun (t : State) => wvChan t (clusterOf m.core) c
      (v.en = false → Ends (.weaverEvent i) s fun t => t.evs = dropAt s.evs i ∧ out t = { v with drop := min 65535 (v.drop + 1) }) ∧
      (v.en = true → m.e.drop = false → v.w0.toNat / 2 ^ 24 % 256 = 255 → (∀ b, v.openBuf = some b → (v.buf b).dueAt = none ∧ (v.buf b).grp = none ∧
          (v.w3.toNat / 2 ^ 16 % 65536 = 0 ∨ s.pkg.time < (v.buf b).openedAt + 1000 * (v.w3.toNat / 2 ^ 16 % 65536))) →
        (v.place m.e = none → Ends (.weaverEvent i) s fun t => t.evs = dropAt s.evs i ∧ out t = { v with out := min 65535 (v.out + 1) }) ∧
        (∀ cell b, v.place m.e = some cell → v.openBuf = some b → v.w3.toNat % 65536 = 0 →
          Ends (.weaverEvent i) s fun t => ((out t).buf b).count = (v.buf b).count + 1 ∧ ((out t).buf b).lastPmk = m.e.w0.toNat / 2 ^ 16 ∧
            ((out t).buf b).tb = (v.buf b).tb ∧ ((out t).buf b).st = .opened ∧ (out t).drop = v.drop ∧ (out t).out = v.out ∧
            ∀ j, j ≠ cell → ((out t).buf b).cells.getD j v.empty = (v.buf b).cells.getD j v.empty)) ∧
      (∀ b, v.en = true → v.openBuf = some b → (v.buf b).dueAt = none →
        let tmo := v.w3.toNat / 2 ^ 16 % 65536
        let due := (v.buf b).openedAt + 1000 * tmo
        tmo ≠ 0 → due < s.pkg.time → Ends (.weaverEvent i) s fun t =>
          ((out t).buf b).st = .pending ∧ ((out t).buf b).cause = (v.buf b).cause ||| v.holds (v.buf b) due ∧
            ((out t).buf b).cells = (v.buf b).cells)) ∧
    (let tmo := w.w3.toNat / 2 ^ 16 % 65536
     clusterDark s q = false →
      (∀ b, w.openBuf = some b → (w.buf b).dueAt = none → tmo ≠ 0 → (w.buf b).openedAt + 1000 * tmo ≤ s.pkg.time →
        Ends (.bufferTimeout q ch) s fun t =>
          let after := (wvChan t q ch).settle s.pkg.time false
          (after.buf b).st = .pending ∧ (after.buf b).cause = (w.buf b).cause ||| w.holds (w.buf b) ((w.buf b).openedAt + 1000 * tmo) ∧
            (after.buf b).cells = (w.buf b).cells ∧ t.mem = s.mem) ∧
      (w.openBuf = none ∨ (tmo = 0 ∧ ∀ b, w.openBuf = some b → (w.buf b).dueAt = none) → Ends (.bufferTimeout q ch) s fun t =>
        wvChan t q ch = w ∧ t.mem = s.mem)) ∧
    (clusterDark s q = true → exec (.writeOut q ch) s = .next s ∧ exec (.bufferTimeout q ch) s = .next s) ∧
    (w.arm = false → clusterDark s q = false → Ends (.writeOut q ch) s fun t => wvChan t q ch = z ∧ t.mem = s.mem ∧ t.cores = s.cores) ∧
    (∀ b, w.arm = true → clusterDark s q = false → z.oldest = some b → w.w0.getLsbD 2 = false → (s.cluster q).mxe.cur = none → w.target.toNat < 64 →
      Ends (.writeOut q ch) s fun t => (wvChan t q ch).arm = false ∧ ((wvChan t q ch).buf b).st = .written ∧ t.mem = s.mem ∧
        ((wvChan t q ch).buf b).stat = (if (s.cluster q).mxe.claim.getLsbD w.target.toNat then 0 else 2) ∧
        ((wvChan t q ch).buf b).tgt = w.target) ∧
    (∀ b u, w.arm = true → clusterDark s q = false → z.oldest = some b → w.w0.getLsbD 2 = true → z.targetOk = true →
      pathPutWords (modWv q ch (fun v => v.settle s.pkg.time false) s) 3 (q / 96) (clusterCore q 0) 0 z.target (z.tileWords (z.buf b)) = (.ok (), u) →
      Ends (.writeOut q ch) s fun t => t.mem = u.mem ∧ (∀ k, (t.core k).spad = (u.core k).spad) ∧ (wvChan t q ch).arm = false ∧
        ((wvChan t q ch).buf b).stat = 0) ∧
    (∀ b, b < 2 → ((w.buf b).st ≠ .written ∨ clusterDark s q = true → exec (.bufferFree q ch b) s = .next s) ∧
      ((w.buf b).st = .written → clusterDark s q = false →
        (coreOnline s (hintCore w.w4) = false → Ends (.bufferFree q ch b) s fun t =>
          (wvChan t q ch).buf b = WvBuf.reset ∧ (wvChan t q ch).drop = min 65535 (w.drop + (w.buf b).count)) ∧
        (coreOnline s (hintCore w.w4) = true → (s.core (hintCore w.w4)).droopAt = none → (s.core (hintCore w.w4)).faultWait = [] →
          (s.core (hintCore w.w4)).notices.length < 8 →
          Ends (.bufferFree q ch b) s fun t => ((wvChan t q ch).buf b).st = .free ∧ (wvChan t q ch).buf (1 - b) = w.buf (1 - b)) ∧
        (coreOnline s (hintCore w.w4) = true → 8 ≤ (s.core (hintCore w.w4)).notices.length → exec (.bufferFree q ch b) s = .next s))) ∧
    (let port := p % 4
     let die := s.die (p / 4)
     let cfg := die.portCfg.getD port 0
     (cfg.getLsbD 63 = false → ∀ good bytes, exec (.wirePacketReceive p chan good bytes) s = .next s) ∧
     (p < 8 → cfg.getLsbD 63 = true → (cfg.getLsbD 62 = true ∨ cfg.toNat / 2 ^ 60 % 4 ≠ 3) → die.run = .running → ∀ e, packetSource cfg chan = some e →
        (∀ bytes, Ends (.wirePacketReceive p chan false bytes) s fun t =>
          (t.die (p / 4)).badPackets.getD port 0 = min (2 ^ 32 - 1) (die.badPackets.getD port 0 + 1) ∧ (t.die (p / 4)).fifos = die.fifos) ∧
        (∀ b0 b1 b2 b3 b4 b5 b6 b7 : Byte, e ≤ 4095 → (die.srcTab.getD e 0).getLsbD 63 = true → die.drops.get? e = none →
          fifoCount (die.fifos.getD e []) < 256 → b0.toNat / 16 = 0 → b1 = 0 → die.seqs.getD e 0 < 65536 →
          Ends (.wirePacketReceive p chan true [b0, b1, b2, b3, b4, b5, b6, b7]) s fun t =>
            (t.die (p / 4)).seqs.getD e 0 = (die.seqs.getD e 0 + 1) % 65536 ∧
            ∃ o, (t.die (p / 4)).fifos.getD e [] = die.fifos.getD e [] ++ [o] ∧ o.hb = none ∧ o.port = port ∧ o.e.drop = false ∧
              o.e.w0.toNat = s.pkg.time % 2 ^ 48 * 2 ^ 16 + e * 16 + b0.toNat ∧
              o.e.w1.toNat % 65536 = die.seqs.getD e 0 ∧ o.e.w1.toNat / 2 ^ 16 % 65536 = b2.toNat + 256 * b3.toNat))) ∧
    ((s.die d).drops.get? src = none → exec (.dropMarker d src) s = .next s) ∧
    (∀ r, (s.die d).drops.get? src = some r → fifoCount (fifoOf s d src) < 256 → Ends (.dropMarker d src) s fun t =>
      (t.die d).drops.get? src = none ∧ ∃ o, fifoOf t d src = fifoOf s d src ++ [o] ∧ o.e.drop = true ∧ o.port = r.port ∧ o.hb = none) ∧
    (fifoOf s d src = [] → exec (.eventSend d src) s = .next s) ∧
    (∀ o rest, fifoOf s d src = o :: rest → routeStalled s d src = true → exec (.eventSend d src) s = .next s) ∧
    (∀ o rest, fifoOf s d src = o :: rest → routeStalled s d src = false → o.hb = none → o.ent.getLsbD 59 = false → Ends (.eventSend d src) s fun t =>
      fifoOf t d src = rest ∧ ∃ m, t.evs = s.evs ++ [m] ∧ m.e = o.e ∧ m.src = src ∧ m.die = d ∧ m.port = o.port ∧ m.group = none ∧ m.heartbeat = false ∧
        m.core = coreAt (o.ent.toNat / 2 ^ 49 % 2) (o.ent.toNat / 2 ^ 44 % 32) (o.ent.toNat / 2 ^ 39 % 32) ∧
        m.weaver = if o.ent.getLsbD 62 then some (o.ent.toNat / 2 ^ 60 % 4) else none)

/-- No window of a group is due to be closed by force at destination `e`: no GRACE, or device time has not reached B of the next window plus GRACE
(R391). -/
def Claims.NoForce (s : State) (d g e : Nat) : Prop :=
  let grace := (grpWord s d g 2).toNat % 2 ^ 32
  let st := stopOf s (coreDie (dstCore (grpDst s d g e))) (stopKey d g e)
  grpEnabled s d g = false ∨ grace = 0 ∨
    2 ^ 47 ≤ (s.pkg.time % 2 ^ 48 + 2 ^ 49 - windowStart s d g (st.kOpen + 1) - grace) % 2 ^ 48

/-- R389, R391 to R393: a source silent for HBI has a heartbeat in its FIFO; the stop of a destination records the postmark of every message, counts an
event in its window and lets it pass, holds it while the inbox is full, and drops a late one with its count where the group says so; windows that
every source has passed close, and none closes while one has not; every window that has reached its end and GRACE closes by force; the barrier of
closed windows is told up to the first with an event not yet handled, with the count of their events. -/
def Obligations.WindowGroups : Prop :=
  ∀ (d g e src i : Nat) (s : State),
    let key := 4096 * (16 * g + e) + src
    let quiet := max ((s.die d).grpOn.getD g 0) ((s.die d).hbSent.getD key 0) + (grpWord s d g 2).toNat / 2 ^ 32
    (grpEnabled s d g = true → src ∈ grpSources s d g → e ∈ grpDests s d g →
      (quiet ≤ s.pkg.time → Ends (.heartbeat d g e src) s fun t => (t.die d).hbSent.getD key 0 = s.pkg.time ∧
        ∃ o, fifoOf t d src = fifoOf s d src ++ [o] ∧ o.hb = some e ∧ (src < 4096 → o.e.w0.toNat / 2 ^ 16 = s.pkg.time % 2 ^ 48)) ∧
      (s.pkg.time < quiet → exec (.heartbeat d g e src) s = .next s)) ∧
    (grpEnabled s d g = false → exec (.heartbeat d g e src) s = .next s ∧ exec (.forcedClose d g e) s = .next s ∧
      exec (.windowBarrier d g e) s = .next s) ∧
    (∀ m, s.evs[i]? = some m → m.group = none → exec (.destinationReceive i) s = .next s) ∧
    (∀ m, s.evs[i]? = some m → e < 16 → g < 64 → m.group = some (stopKey d g e) → m.passed = false →
      (∀ o ∈ s.evs.take i, o.follows m = true → o.passed = true) →
      (evServed s m = false → m.heartbeat = false → Ends (.destinationReceive i) s fun t => t.evs = dropAt s.evs i ∧
        (t.die m.die).badEvents.getD m.port 0 = min (2 ^ 32 - 1) ((s.die m.die).badEvents.getD m.port 0 + 1)) ∧
      (evServed s m = true → Claims.NoForce s d g e →
        let st := stopOf s (coreDie m.core) (stopKey d g e)
        let after := fun (t : State) => stopOf t (coreDie m.core) (stopKey d g e)
        let len := grpLen s d g
        let start := windowStart s d g st.kOpen
        let late : Prop := precedes m.e.pmk start = true
        let lp := st.lp.put m.src m.e.pmk
        let n := if grpEnabled s d g then windowsPassed s d g { st with lp := lp } else 0
        ((∃ y ∈ grpSources s d g, ∀ p, lp.get? y = some p → 2 ^ 47 ≤ (p + 2 ^ 49 - start - len) % 2 ^ 48) → n = 0) ∧
        (m.heartbeat = true → Ends (.destinationReceive i) s fun t => t.evs = dropAt s.evs i ∧ after t = { st with lp := lp, kOpen := st.kOpen + n }) ∧
        (m.heartbeat = false → ¬late →
          (m.weaver = none → 64 ≤ inboxTaken s m.core → exec (.destinationReceive i) s = .next s) ∧
          ((m.weaver = none → inboxTaken s m.core < 64) → Ends (.destinationReceive i) s fun t => (after t).lp = lp ∧ (after t).kOpen = st.kOpen + n ∧
            ∃ o, t.evs = s.evs.set i o ∧ o.passed = true ∧ o.e.w0 = m.e.w0 ∧ o.e.w1 = m.e.w1 ∧ o.e.grp = some (stopKey d g e) ∧
              o.e.win = st.kOpen + ((m.e.pmk + 2 ^ 48 - start) % 2 ^ 48) / max 1 len ∧
              (after t).got.getD o.e.win 0 = st.got.getD o.e.win 0 + 1)) ∧
        (m.heartbeat = false → late → m.weaver = none → (grpWord s d g 0).getLsbD 62 = true →
          Ends (.destinationReceive i) s fun t => t.evs = dropAt s.evs i ∧ t.recs = s.recs ∧ (after t).late = (st.late + 1) % 2 ^ 32 ∧
            (after t).got = st.got ∧ (after t).lp = lp ∧ (after t).kOpen = st.kOpen + n) ∧
        (m.heartbeat = false → late → m.weaver = none → (grpWord s d g 0).getLsbD 62 = false →
          Ends (.destinationReceive i) s fun t => t.evs = dropAt s.evs i ∧ (after t).late = st.late ∧ (after t).got = st.got ∧ (after t).lp = lp ∧
            (after t).kOpen = st.kOpen + n ∧
            ∃ r, t.recs = s.recs ++ [r] ∧ r.core = some m.core ∧ r.r.w0.toNat % 16 = 5 ∧ r.r.w2 = m.e.w0 ∧ r.r.w3 = m.e.w1))) ∧
    (let v := grpDst s d g e
     let k := dstCore v
     let st := stopOf s (coreDie k) (stopKey d g e)
     let grace := (grpWord s d g 2).toNat % 2 ^ 32
     let past := (s.pkg.time % 2 ^ 48 + 2 ^ 49 - windowStart s d g (st.kOpen + 1) - grace) % 2 ^ 48
     let n := 1 + past / grpLen s d g
     grpEnabled s d g = true → dstValid v = true → coreOnline s k = true → dstWeaver v = none →
      (grace ≠ 0 → past < 2 ^ 47 → Ends (.forcedClose d g e) s fun t =>
        stopOf t (coreDie k) (stopKey d g e) = { st with kOpen := st.kOpen + n, forced := st.forced ++ (List.range n).map (st.kOpen + ·) }) ∧
      (grace = 0 ∨ 2 ^ 47 ≤ past → exec (.forcedClose d g e) s = .next s) ∧
      (st.kOpen ≤ st.k0 → exec (.windowBarrier d g e) s = .next s) ∧
      (∀ w ∈ st.got, w.1 = st.k0 → st.k0 < st.kOpen → st.handled.getD st.k0 0 ≠ w.2 → exec (.windowBarrier d g e) s = .next s) ∧
      (∀ j, st.k0 < j → j ≤ st.kOpen → (∀ w ∈ st.got, st.k0 ≤ w.1 → w.1 < j → st.handled.getD w.1 0 = w.2) →
        (j < st.kOpen → ∃ w ∈ st.got, w.1 = j ∧ st.handled.getD j 0 ≠ w.2) →
        let count := ((st.got.filter fun w => st.k0 ≤ w.1 && w.1 < j).map (·.2)).sum
        (count = 0 → (grpWord s d g 0).getLsbD 61 = false → exec (.windowBarrier d g e) s = .next s) ∧
        (count ≠ 0 ∨ (grpWord s d g 0).getLsbD 61 = true → (s.core k).droopAt = none → (s.core k).faultWait = [] → (s.core k).notices.length < 8 →
          Ends (.windowBarrier d g e) s fun t =>
            let after := stopOf t (coreDie k) (stopKey d g e)
            after.k0 = j ∧ after.kOpen = st.kOpen ∧ (∀ w, w ∈ after.got ↔ w ∈ st.got ∧ j ≤ w.1) ∧
              ∃ r u u2, deliverNotice k r u = some u2 ∧ t.cores = u2.cores ∧ (∀ x, u.ctx x = s.ctx x) ∧ u.mem = s.mem ∧ r.w0.toNat % 16 = 4 ∧
                r.w2.toNat = (j - 1) % 2 ^ 32 * 2 ^ 32 + st.k0 % 2 ^ 32 ∧ r.w4.toNat / 2 ^ 32 = min (2 ^ 32 - 1) count)))

/-! ### The engines at work -/

/-- A matrix command that its engine does not take: it has left the network, counts as finished, and its thread has the trap pending (R267). -/
def Claims.CommandRefused (s t : State) (i : Nat) (m : CmdMsg) (cause : Nat) (info : Word) : Prop :=
  t.cmds = dropAt s.cmds i ∧ t.clusters = s.clusters ∧ (t.ctx m.cmd.x).mstat.unf = (s.ctx m.cmd.x).mstat.unf - 1 ∧
    ∃ p, (t.ctx m.cmd.x).pend = (s.ctx m.cmd.x).pend ++ [p] ∧ p.cause = cause ∧ p.finfo = info ∧ p.fpc = m.cmd.pc

/-- R238, R267 to R269, R286, R296, R297, R331: a matrix command enters its engine's queue of 32 where the capability is the occupant's, is kept at
the mesh stop by a full queue and sent again, and is refused with trap 0x0D for an offline target, 0x0B for a wrong capability, and 0x0C with
FINFO 5 for a target on a die in reset (R438); that a full queue is looked at before the capability is log entry 82, the model's choice; a
completion reply lowers the count, records the first failure and writes the long result; a core stopped by a droop hears it later. -/
def Obligations.CommandsArriveAndAreAnswered : Prop :=
  ∀ (i : Nat) (s : State),
    (∀ m, s.cmds[i]? = some m → m.unit = .mxe → m.refused = false → (∀ e ∈ s.cmds.take i, e.follows m = false) →
      (s.ctx m.cmd.x).occupied = true → (s.ctx m.cmd.x).dual = none →
      (m.target = none → Ends (.mxeCommandArrival i) s fun t => Claims.CommandRefused s t i m 0x0D 2) ∧
      (∀ q, m.target = some q → fencedFrom s (coreDie m.cmd.core) (q / 96) = true → Ends (.mxeCommandArrival i) s fun t =>
        Claims.CommandRefused s t i m 0x0C 5) ∧
      (∀ q, m.target = some q → q < 192 → fencedFrom s (coreDie m.cmd.core) (q / 96) = false →
        let e := (s.cluster q).mxe
        let may : Prop := m.cmd.cap.getLsbD 63 = true ∧ e.occV = true ∧ m.cmd.cap.toNat / 2 ^ 32 % 65536 = e.occLid ∧
          m.cmd.cap.toNat % 2 ^ 32 = e.occKey
        (clusterDark s q = true → Ends (.mxeCommandArrival i) s fun t => Claims.CommandRefused s t i m 0x0D 2) ∧
        (clusterDark s q = false →
          (32 ≤ e.queue.length → Ends (.mxeCommandArrival i) s fun t => t.cmds = s.cmds.set i { m with refused := true } ∧ t.clusters = s.clusters) ∧
          (e.queue.length < 32 → ¬may → Ends (.mxeCommandArrival i) s fun t =>
            Claims.CommandRefused s t i m 0x0B (BitVec.ofNat 64 (q / 96 * 128 + q % 96))) ∧
          (e.queue.length < 32 → may → Ends (.mxeCommandArrival i) s fun t => t.cmds = dropAt s.cmds i ∧ t.ctxs = s.ctxs ∧
            (t.cluster q).mxe = { e with queue := e.queue ++ [m.cmd] })))) ∧
    (∀ m, s.cmds[i]? = some m → m.refused = true → (∀ e ∈ s.cmds.take i, e.follows m = false) →
      (m.unit = .mxe → Ends (.meshRetry i) s fun t => t.cmds = s.cmds.set i { m with refused := false } ∧ t.clusters = s.clusters) ∧
      (∀ q, m.unit = .spe → m.target = some q →
        ((s.cluster q).spe.queue.length < 16 → Ends (.meshRetry i) s fun t => t.cmds = dropAt s.cmds i ∧
          (t.cluster q).spe.queue = (s.cluster q).spe.queue ++ [m.cmd]) ∧
        (16 ≤ (s.cluster q).spe.queue.length → exec (.meshRetry i) s = .next s)) ∧
      (∀ q, m.unit = .rqu → m.target = some q → (s.cluster q).rqu.queue.length < 16 → Ends (.meshRetry i) s fun t => t.cmds = dropAt s.cmds i ∧
        (t.cluster q).rqu.queue = (s.cluster q).rqu.queue ++ [m.cmd])) ∧
    (∀ p ∈ ([(.mxe, .mxeCompletionReply i), (.spe, .speCompletionReply i), (.rqu, .rquCompletionReply i)] : List (UnitKind × Instr)),
      ∀ r, s.replies[i]? = some r → r.unit = p.1 → (∀ e ∈ s.replies.take i, ¬(e.unit = r.unit ∧ e.q = r.q ∧ e.x = r.x)) →
        ((s.core r.core).droopAt ≠ none → exec p.2 s = .next s) ∧
        ((s.core r.core).droopAt = none → (s.core r.core).killed = false → (s.ctx r.x).dual = none → (s.ctx r.x).occupied = true →
          r.notice = none →
          let old := (s.ctx r.x).eng r.unit
          Ends p.2 s fun t => t.replies = dropAt s.replies i ∧ t.mem = s.mem ∧ ((t.ctx r.x).eng r.unit).unf = old.unf - 1 ∧
            ((t.ctx r.x).eng r.unit).err = (old.err || decide (r.stat ≠ 0)) ∧
            (r.stat ≠ 0 → old.err = false → ((t.ctx r.x).eng r.unit).stat = r.stat ∧ ((t.ctx r.x).eng r.unit).fopc = r.opc) ∧
            (r.lr = none → (t.ctx r.x).outstanding = (s.ctx r.x).outstanding) ∧
            ∀ id v, r.lr = some id → r.lval = some v → (t.ctx r.x).outstanding = (s.ctx r.x).outstanding.map fun e =>
              if e.id = id then { e with val := some (.ok v) } else e))

/-- R270, R273, R274, R276, R283 to R286, R291: nothing moves in an engine that is stopped or paused; one of whose cluster no core is online
refuses what it holds; a queued command begins, or ends at once with
the status of its checks; a step counts, and the last one ends the command with its reply; TCFG writes the TCSB and clears the accumulators, AZERO
clears its tile, KCLM claims a free range and KREL gives it back. That a step whose access is held charges its energy each time it is tried is log entry 58,
the model's choice. -/
def Obligations.MatrixEngineSteps : Prop :=
  ∀ (q : Nat) (s : State),
    let cl := s.cluster q
    let m := cl.mxe
    let low := clusterL q
    (clusterDark s q = false → m.stopped = true ∨ m.paused = true → exec (.mxeStep q) s = .next s) ∧
    (clusterDark s q = true → (Ends (.mxeStep q) s fun t => (t.cluster q).mxe = { m with cur := none, queue := [] } ∧ t.replies = s.replies ∧ t.mem = s.mem) ∧
      ∀ e, m.cur.toList ++ m.queue = [e] → (s.ctx e.x).occupied = true → (s.ctx e.x).dual = none → Ends (.mxeStep q) s fun t =>
        (t.ctx e.x).mstat.unf = (s.ctx e.x).mstat.unf - 1 ∧
          ∃ p, (t.ctx e.x).pend = (s.ctx e.x).pend ++ [p] ∧ p.cause = 0x0D ∧ p.finfo = 2 ∧ p.fpc = e.pc) ∧
    (m.stopped = false → m.paused = false → clusterDark s q = false →
      (m.cur = none → m.queue = [] → exec (.mxeStep q) s = .next s) ∧
      (∀ e rest, m.cur = none → m.queue = e :: rest → (e.check low m).1 ≠ 0 → Ends (.mxeStep q) s fun t =>
        (t.cluster q).mxe = { m with queue := rest } ∧ t.mem = s.mem ∧
          t.replies = s.replies ++ [⟨.mxe, e.x, e.core, q, e.opc, (e.check low m).1, e.lr, none, none⟩]) ∧
      (∀ e u, m.cur = some e → mxeStepOf q e m.done (chargeStep (q / 96) e.ectx s) = (some 0, u) → (u.cluster q).mxe.stopReq = false →
        (m.done + 1 ≠ m.tot → Ends (.mxeStep q) s fun t => t.mem = u.mem ∧ t.replies = u.replies ∧ t.ctxs = u.ctxs ∧
          (t.cluster q).mxe = { (u.cluster q).mxe with done := (u.cluster q).mxe.done + 1 }) ∧
        (m.done + 1 = m.tot → Ends (.mxeStep q) s fun t => (t.cluster q).mxe.cur = none ∧ t.mem = u.mem ∧
          t.replies = u.replies ++ [⟨.mxe, e.x, e.core, q, e.opc, 0, e.lr, (if e.opc = 0xA1 then some (e.claimStep m).2 else none), none⟩])) ∧
      (∀ e u, m.cur = some e → mxeStepOf q e m.done (chargeStep (q / 96) e.ectx s) = (none, u) →
        exec (.mxeStep q) s = .next (chargeStep (q / 96) e.ectx s)) ∧
      (∀ e rest, m.cur = none → m.queue = e :: rest → m.stopReq = false →
        (e.opc = 0xA0 → e.wa.toNat / 2 ^ 33 = 0 → e.wa.toNat / 2 ^ 25 % 128 = 0 → e.wa.toNat / 2 ^ 14 % 4 = 0 → e.wa.toNat / 2 ^ 6 % 4 = 0 →
          Ends (.mxeStep q) s fun t => (t.cluster q).mxe.tcsb = e.wa ∧ (t.cluster q).mxe.acc = [] ∧ (t.cluster q).mxe.rows = m.rows ∧
            (t.cluster q).mxe.claim = m.claim ∧ (t.cluster q).mxe.queue = rest ∧ t.replies = s.replies ++ [⟨.mxe, e.x, e.core, q, 0xA0, 0, e.lr, none, none⟩]) ∧
        (e.opc = 0xA6 → Ends (.mxeStep q) s fun t => (t.cluster q).mxe.tcsb = m.tcsb ∧ (t.cluster q).mxe.rows = m.rows ∧ t.mem = s.mem ∧
          ∀ j k l, k < 64 → l < 64 → (t.cluster q).mxe.cell j k l = if j = e.f.d.num then 0 else m.cell j k l) ∧
        (e.opc = 0xA1 → 0 < e.wb.toNat → e.f.a.num + e.wb.toNat ≤ 64 →
          let busy : Prop := ∃ n, e.f.a.num ≤ n ∧ n < e.f.a.num + e.wb.toNat ∧ m.claim.getLsbD n = true
          (¬busy → Ends (.mxeStep q) s fun t => t.replies = s.replies ++ [⟨.mxe, e.x, e.core, q, 0xA1, 0, e.lr, some 0, none⟩] ∧
            ∀ n, n < 64 → (t.cluster q).mxe.claim.getLsbD n = (m.claim.getLsbD n || decide (e.f.a.num ≤ n ∧ n < e.f.a.num + e.wb.toNat))) ∧
          (busy → Ends (.mxeStep q) s fun t => t.replies = s.replies ++ [⟨.mxe, e.x, e.core, q, 0xA1, 0, e.lr, some 1, none⟩] ∧
            (t.cluster q).mxe.claim = m.claim)) ∧
        (e.opc = 0xA2 → 0 < e.wb.toNat → e.f.a.num + e.wb.toNat ≤ 64 → Ends (.mxeStep q) s fun t =>
          ∀ n, n < 64 → (t.cluster q).mxe.claim.getLsbD n = (m.claim.getLsbD n && decide (¬(e.f.a.num ≤ n ∧ n < e.f.a.num + e.wb.toNat))))))

/-- R296, R298, R303, R313, R326, R330: the oldest queued command of a sum-product engine or a ray unit is executed whole, and its reply is sent; nothing
happens in a unit that is stopped, paused or dark, or while an access is held; SPMODE sets the mode, tells the old state and clears the flags
where asked; RQSET writes a root, a local alias as the global address of the issuer's core, and a query of the root 0 has status 1. -/
def Claims.QueuedEnginesExecute : Prop :=
  ∀ (q : Nat) (s : State),
    let sp := (s.cluster q).spe
    let rq := (s.cluster q).rqu
    (sp.queue = [] ∨ sp.stopped = true ∨ sp.paused = true ∨ clusterDark s q = true → exec (.speCommandExecute q) s = .next s) ∧
    (rq.queue = [] ∨ rq.stopped = true ∨ rq.paused = true ∨ clusterDark s q = true → exec (.rquCommandExecute q) s = .next s) ∧
    (clusterDark s q = false → sp.stopped = false → sp.paused = false → ∀ e rest, sp.queue = e :: rest →
      (∀ st lval u, speRun q e s = (some st, lval, u) → e.ntf = false → Ends (.speCommandExecute q) s fun t =>
        (t.cluster q).spe = { (u.cluster q).spe with queue := rest } ∧ t.mem = u.mem ∧
          t.replies = u.replies ++ [⟨.spe, e.x, e.core, q, e.opc, st, e.lr, lval, none⟩]) ∧
      (∀ u lval, speRun q e s = (none, lval, u) → exec (.speCommandExecute q) s = .next s) ∧
      (e.opc = 0xB5 → sp.badQ = [] → e.wa.toNat % 4 ≠ 3 → e.ntf = false → Ends (.speCommandExecute q) s fun t =>
        (t.cluster q).spe.mode = e.wa.toNat % 4 ∧ (t.cluster q).spe.q = sp.q ∧
          (t.cluster q).spe.oflow = (sp.oflow && !e.f.sub.getLsbD 0) ∧ (t.cluster q).spe.uflow = (sp.uflow && !e.f.sub.getLsbD 0) ∧
          t.replies = s.replies ++ [⟨.spe, e.x, e.core, q, 0xB5, 0, e.lr, some (sp.cfgWord 0).toNat, none⟩]) ∧
      (e.opc = 0xB5 → e.wa.toNat % 4 = 3 → e.ntf = false → Ends (.speCommandExecute q) s fun t =>
        (t.cluster q).spe = { sp with queue := rest } ∧ t.replies = s.replies ++ [⟨.spe, e.x, e.core, q, 0xB5, 8, e.lr, none, none⟩])) ∧
    (clusterDark s q = false → rq.stopped = false → rq.paused = false → ∀ e rest, rq.queue = e :: rest →
      let entry := e.f.xBits 32 3
      (∀ st u, rquRun q e s = (some st, u) → e.f.sub.getLsbD 5 = false → Ends (.rquCommandExecute q) s fun t =>
        (t.cluster q).rqu = { (u.cluster q).rqu with queue := rest } ∧ t.mem = u.mem ∧
          t.replies = u.replies ++ [⟨.rqu, e.x, e.core, q, e.opc, st, e.lr, none, none⟩]) ∧
      (∀ u, rquRun q e s = (none, u) → exec (.rquCommandExecute q) s = .next s) ∧
      (e.opc = 0xBC → Ends (.rquCommandExecute q) s fun t => (t.cluster q).rqu.bvh.getD entry 0 = globalOf e.core e.wa ∧
        (∀ n, n ≠ entry → (t.cluster q).rqu.bvh.getD n 0 = rq.bvh.getD n 0) ∧ (t.cluster q).rqu.queue = rest ∧ t.mem = s.mem) ∧
      (e.opc = 0xBD ∨ e.opc = 0xBE → rq.bvh.getD entry 0 = 0 → e.f.sub.getLsbD 5 = false → Ends (.rquCommandExecute q) s fun t =>
        t.mem = s.mem ∧ t.replies = s.replies ++ [⟨.rqu, e.x, e.core, q, e.opc, 1, e.lr, none, none⟩]))

/-- R288, R314: a save or a restore of an engine image acts only where it was asked for, and ends; a busy engine gives ERR and keeps its state; a save
whose writes succeed leaves the engine at its launch-start state, and a restore whose reads succeed leaves it stopped, with the state that the
words read give; an access that fails gives ERR and leaves the engine as it was (log entry 14, the model's choice), and one that is held at its home
leaves the operation to be tried again. -/
def Claims.EngineImages : Prop :=
  ∀ (q : Nat) (s : State),
    let m := (s.cluster q).mxe
    let u := (s.cluster q).spe
    (m.saving 1 = false → exec (.msaveSave q) s = .next s) ∧ (m.saving 2 = false → exec (.msaveRestore q) s = .next s) ∧
    (u.saving 1 = false → exec (.spsaveSave q) s = .next s) ∧ (u.saving 2 = false → exec (.spsaveRestore q) s = .next s) ∧
    (m.still = false →
      (m.saving 1 = true → exec (.msaveSave q) s = .next (s.modMxe q fun o => { o with saveBsy := false, saveErr := true })) ∧
      (m.saving 2 = true → exec (.msaveRestore q) s = .next (s.modMxe q fun o => { o with saveBsy := false, saveErr := true }))) ∧
    (u.still = false →
      (u.saving 1 = true → exec (.spsaveSave q) s = .next (s.modSpe q fun o => { o with saveBsy := false, saveErr := true })) ∧
      (u.saving 2 = true → exec (.spsaveRestore q) s = .next (s.modSpe q fun o => { o with saveBsy := false, saveErr := true }))) ∧
    (m.still = true →
      (m.saving 1 = true →
        let done := putParts (mxeImage q s).2 2 (q / 96) m.saveCore m.savePid m.saveAddr (mxeImage q s).1
        (done.1 = .ok () → Ends (.msaveSave q) s fun t => t.mem = done.2.mem ∧
          (t.cluster q).mxe = { (done.2.cluster q).mxe.launchStart with saveBsy := false, saveErr := false }) ∧
        (done.1 = .error .held → exec (.msaveSave q) s = .next s) ∧
        (∀ e, e ≠ .held → done.1 = .error e → Ends (.msaveSave q) s fun t => t.mem = done.2.mem ∧
          (t.cluster q).mxe = { (done.2.cluster q).mxe with saveBsy := false, saveErr := true })) ∧
      (m.saving 2 = true →
        let got := getParts s 2 (q / 96) m.saveCore m.savePid m.saveAddr mxeParts
        (∀ ws, got.1 = .ok ws → Ends (.msaveRestore q) s fun t => t.mem = got.2.mem ∧
          let e := (t.cluster q).mxe
          e.stopped = true ∧ e.saveBsy = false ∧ e.saveErr = false ∧ e.claim = (ws.getD 0 []).getD 1 0 ∧
            e.done = ((ws.getD 0 []).getD 2 0).toNat % 2 ^ 16 ∧ e.dimM = ((ws.getD 0 []).getD 0 0).toNat % 64 + 1 ∧
            ∀ a i j, a < 8 → i < 64 → j < 64 →
              e.cell a i j = ((ws.getD 2 []).getD ((4096 * a + 64 * i + j) / 2) 0).toNat / 2 ^ (32 * (j % 2)) % 2 ^ 32) ∧
        (got.1 = .error .held → exec (.msaveRestore q) s = .next s) ∧
        (∀ e, e ≠ .held → got.1 = .error e → Ends (.msaveRestore q) s fun t =>
          (t.cluster q).mxe = { (got.2.cluster q).mxe with saveBsy := false, saveErr := true }))) ∧
    (u.still = true →
      (u.saving 1 = true →
        let done := putParts (speImage q s).2 4 (q / 96) u.saveCore u.savePid u.saveAddr (speImage q s).1
        (done.1 = .ok () → Ends (.spsaveSave q) s fun t => t.mem = done.2.mem ∧
          (t.cluster q).spe = { (done.2.cluster q).spe.launchStart with saveBsy := false, saveErr := false }) ∧
        (done.1 = .error .held → exec (.spsaveSave q) s = .next s) ∧
        (∀ e, e ≠ .held → done.1 = .error e → Ends (.spsaveSave q) s fun t => t.mem = done.2.mem ∧
          (t.cluster q).spe = { (done.2.cluster q).spe with saveBsy := false, saveErr := true })) ∧
      (u.saving 2 = true →
        let got := getParts s 4 (q / 96) u.saveCore u.savePid u.saveAddr speParts
        (∀ ws, got.1 = .ok ws → Ends (.spsaveRestore q) s fun t => t.mem = got.2.mem ∧
          let e := (t.cluster q).spe
          e.stopped = true ∧ e.saveBsy = false ∧ e.saveErr = false ∧ e.mode = ((ws.getD 0 []).getD 0 0).toNat % 4 ∧
            e.stall = ((ws.getD 0 []).getD 1 0).toNat % 2 ^ 32 ∧ ∀ n, n < 1024 → e.q.getD n 0 = (ws.getD 1 []).getD n 0) ∧
        (got.1 = .error .held → exec (.spsaveRestore q) s = .next s) ∧
        (∀ e, e ≠ .held → got.1 = .error e → Ends (.spsaveRestore q) s fun t =>
          (t.cluster q).spe = { (got.2.cluster q).spe with saveBsy := false, saveErr := true })))

/-- R288, R296, R298, R303, R313, R314, R326, R330: the sum-product engine and the ray unit at work, and images of engines. -/
def Obligations.EnginesExecuteAndAreImaged : Prop :=
  Claims.QueuedEnginesExecute ∧ Claims.EngineImages

/-! ### The task graph unit and the integrator sequencers at work -/

/-- R370, R375, R378, R379, R384: the next ready node is placed as a kind-1 record with its handle, or offered again 183 ns later; a range that is next
hands its next chunk to the core whose turn it is; a share that is used up takes the upper half of a share of the other die; nothing happens without
one. That the 256 mesh cycles of an offer are 183 ns is log entry 45, and that only ready shares are stolen from is entry 60: the model's choices. -/
def Claims.NodesAndChunksAreDispatched : Prop :=
  ∀ (d slot : Nat) (s : State), d < 2 →
    (nextNode s d = none → exec (.tguDispatch d) s = .next s) ∧
    (∀ n, nextNode s d = some (slot, n) → n.range = true → exec (.tguDispatch d) s = .next s) ∧
    (∀ n, nextNode s d = some (slot, n) → n.range = false → (s.die d).pool.get? slot = some n →
      (placementWalk s n.lid (tguEntry d, true) n.hint = none → Ends (.tguDispatch d) s fun t =>
        (t.die d).pool.get? slot = some { n with again := s.pkg.time + 183 } ∧ t.cores = s.cores ∧ t.mem = s.mem) ∧
      (∀ k, placementWalk s n.lid (tguEntry d, true) n.hint = some k →
        let handle := handleOf d slot n.gen 0
        Ends (.tguDispatch d) s fun t => (t.die d).pool.get? slot = some { n with dispatched := true } ∧
          (recordBad (nodeRecord n n.hint handle n.arg0 n.arg1 n.arg2 (s.die d).tguSeq) = false →
            ∃ q, (t.core k).deque = q :: (s.core k).deque ∧ q.r.w0.toNat % 16 = 1 ∧ q.r.w1 = n.pc ∧ q.r.w2 = n.arg0 ∧ q.r.w3 = n.arg1 ∧
              q.r.w4 = n.arg2 ∧ q.r.w5 = handle ∧ q.r.w6 = n.comp ∧ q.lid = n.lid ∧ q.acq = n.acq))) ∧
    ((s.die d).pool.get? slot = none → exec (.rangeSteal d slot) s = .next s) ∧
    ((∀ n, nextNode s d = some (slot, n) → n.range = false) → exec (.rangeChunkDispatch d slot) s = .next s) ∧
    (∀ n, nextNode s d = some (slot, n) → (s.die d).pool.get? slot = some n → n.range = true →
      let len := min n.ch (n.hi - n.lo)
      let own := n.shadowOf.getD (4096 * d + slot)
      let handle := handleOf (own / 4096) (own % 4096) (((s.die (own / 4096)).pool.get? (own % 4096)).elim 0 (·.gen)) len
      ∀ k rest j, chunkCores s d n handle = k :: rest → placementWalk s n.lid (tguEntry d, true) (hintAt k n.hint) = some j →
        Ends (.rangeChunkDispatch d slot) s fun t => ∃ m, (t.die d).pool.get? slot = some m ∧ m.lo = n.lo + len ∧ m.hi = n.hi ∧
          m.lastCore = some k ∧
          (recordBad (nodeRecord n (hintAt k n.hint) handle (BitVec.ofNat 64 n.lo) (BitVec.ofNat 64 len) n.arg0 (s.die d).tguSeq) = false →
            ∃ q, (t.core j).deque = q :: (s.core j).deque ∧ q.r.w1 = n.pc ∧ q.r.w2 = BitVec.ofNat 64 n.lo ∧ q.r.w3 = BitVec.ofNat 64 len ∧
              q.r.w4 = n.arg0 ∧ q.r.w5 = handle)) ∧
    (∀ n, (s.die d).pool.get? slot = some n →
      (n.hi ≤ n.lo ∨ n.range = false ∨ n.readyAt = none ∨ lidRuns s n.lid = false → handOut d slot n s = none) ∧
      (n.lo < n.hi ∨ n.range = false ∨ stealFrom s d n = none → exec (.rangeSteal d slot) s = .next s) ∧
      (n.range = true → n.readyAt ≠ none → lidRuns s n.lid = true →
        (∀ vs v, n.hi ≤ n.lo → stealFrom s d n = some (vs, v) → (s.die (1 - d)).pool.get? vs = some v →
          let half := (v.hi - v.lo) / 2
          (v.shadowOf.getD (4096 * (1 - d) + vs) = n.shadowOf.getD (4096 * d + slot) → Ends (.rangeSteal d slot) s fun t =>
            (t.die d).pool.get? slot = some { n with lo := v.hi - half, hi := v.hi } ∧
              (t.die (1 - d)).pool.get? vs = some { v with hi := v.hi - half }) ∧
          (∀ f, v.shadowOf.getD (4096 * (1 - d) + vs) ≠ n.shadowOf.getD (4096 * d + slot) → freeSlot s d = some f → Ends (.rangeSteal d slot) s fun t =>
            (∃ m, (t.die d).pool.get? f = some m ∧ m.lo = v.hi - half ∧ m.hi = v.hi ∧ m.shadowOf = some (v.shadowOf.getD (4096 * (1 - d) + vs)) ∧
              m.readyAt = some (s.die d).readyCtr ∧ m.gen = (s.die d).gens.getD f 0 ∧ m.undone = 0) ∧
            (t.die (1 - d)).pool.get? vs = some { v with hi := v.hi - half }))))

/-- The set has failed (R420): STATE 6 with the cause, and no node of it is waited for. -/
def Claims.SetFailed (t : State) (d j cause : Nat) : Prop :=
  (isqOf t d j).state = 6 ∧ (isqOf t d j).cause = cause ∧ (isqOf t d j).handle = none ∧ (isqOf t d j).toSubmit = false

/-- R403 to R405, R416, R419, R420: a round begins where none is under way; a stop request ends the set at the boundary of a round, a pre-emption at
that of a stage, with PROG written; a stage node is submitted, again every 1 µs where it was refused; its completion copies the rows, and the last
stage ends the round, where every live sample is decided before any record is written; a failed access and a stage that takes too long fail the
set. -/
def Claims.SequencersRunTheirSets : Prop :=
  ∀ (d j : Nat) (s : State),
    let q := isqOf s d j
    let m := q.acc? d
    let all := List.range q.samples
    let done := { q with handle := none, stageDone := false }
    (q.goes = false → (q.progDue = false → exec (.isqRound d j) s = .next s) ∧ exec (.stageComplete d j) s = .next s) ∧
    (q.progDue = false → q.handle ≠ none ∨ q.toSubmit = true → exec (.isqRound d j) s = .next s) ∧
    ((q.state ≠ 1 ∧ q.state ≠ 2) ∨ q.paused = true ∨ q.toSubmit = false → exec (.stageSubmitRetry d j) s = .next s) ∧
    (q.progDue = false → q.goes = true → q.handle = none → q.toSubmit = false →
      (∀ u, q.stopReq = true → writeProg m { q with state := 3, stopReq := false } s = (.ok (), u) → Ends (.isqRound d j) s fun t =>
        isqOf t d j = { q with state := 3, stopReq := false } ∧ t.mem = u.mem) ∧
      (q.stopReq = false →
        (∀ i u, readSamples m q all s = (.error (.xlate i), u) → Ends (.isqRound d j) s fun t => Claims.SetFailed t d j 3) ∧
        (∀ i u, readSamples m q all s = (.error (.resp i), u) → Ends (.isqRound d j) s fun t => Claims.SetFailed t d j 4) ∧
        (∀ u, readSamples m q all s = (.error .held, u) → exec (.isqRound d j) s = .next s) ∧
        (∀ rs u v w, 0 < tabStages q.tab → readSamples m q all s = (.ok rs, u) → (rs.filter fun e => inBatch q e.2) ≠ [] →
          let picked := rs.filter fun e => inBatch q e.2
          let b := { q with stg := 0, batch := picked.map (·.1) }
          writeBatch m b 0 picked 0 u = (.ok (), v) → pathStore v 6 m.d m.k m.pid q.ws 8 (picked.length + 2 ^ 32 * q.rounds) = (.ok (), w) →
          Ends (.isqRound d j) s fun t => (isqOf t d j).batch = picked.map (·.1) ∧ (isqOf t d j).stg = 0 ∧ (isqOf t d j).state = q.state ∧
            t.mem = w.mem ∧ ((isqOf t d j).toSubmit = true ∨ (isqOf t d j).handle ≠ none)))) ∧
    (q.state = 1 ∨ q.state = 2 → q.paused = false → q.toSubmit = true →
      (s.pkg.time < q.submitted + 1000 → exec (.stageSubmitRetry d j) s = .next s) ∧
      (q.submitted + 1000 ≤ s.pkg.time → 4096 ≤ (s.die d).pool.length → Ends (.stageSubmitRetry d j) s fun t =>
        isqOf t d j = { q with submitted := s.pkg.time }) ∧
      (q.submitted + 1000 ≤ s.pkg.time → (s.die d).pool = [] → Ends (.stageSubmitRetry d j) s fun t =>
        (isqOf t d j).toSubmit = false ∧ (isqOf t d j).handle = some (handleOf d 0 ((s.die d).gens.getD 0 0) 0) ∧ (isqOf t d j).submitted = s.pkg.time ∧
          ∃ n, (t.die d).pool.get? 0 = some n ∧ n.isq = some j ∧ n.pc = q.word 1 ∧ n.pid = q.pid ∧ n.lid = q.granted)) ∧
    (q.handle = none ∨ q.stageDone = false → exec (.stageComplete d j) s = .next s) ∧
    (q.goes = true → q.handle ≠ none → q.stageDone = true →
      (∀ i u, copyRows m q q.batch 0 s = (.error (.xlate i), u) → Ends (.stageComplete d j) s fun t => Claims.SetFailed t d j 3) ∧
      (∀ u v w y x rs os, copyRows m q q.batch 0 s = (.ok (), u) → tabStages q.tab ≤ q.stg + 1 →
        readSamples (done.acc? d) done (List.range done.samples) u = (.ok rs, v) →
        decideAll (done.acc? d) done (rs.map fun e => if tabMulti q.tab && q.batch.contains e.1 then (e.1, freshRecord q e.2) else e) v = (.ok os, w) →
        sqWrites (done.acc? d) (os.flatMap (·.writes)) w = (.ok (), y) →
        let a := (os.filter (·.ok)).length
        let r := os.length - a
        let l := (os.filter (·.sts == 0)).length
        writeProg (done.acc? d) { done with
          rounds := (q.rounds + 1) % 2 ^ 32, acc := a, rej := r, live := l, state := if l = 0 then 5 else q.state
          stopReq := q.stopReq && l != 0, preReq := q.preReq && l != 0 } y = (.ok (), x) →
        Ends (.stageComplete d j) s fun t => (isqOf t d j).rounds = (q.rounds + 1) % 2 ^ 32 ∧ (isqOf t d j).live = l ∧ (isqOf t d j).acc = a ∧
          (isqOf t d j).rej = r ∧ (isqOf t d j).state = (if l = 0 then 5 else q.state) ∧ (isqOf t d j).handle = none ∧ t.mem = x.mem)) ∧
    (let tmo := (q.word 9).toNat % 2 ^ 32
     (q.state = 1 ∨ q.state = 2 → q.handle ≠ none → q.stageDone = false → tmo ≠ 0 → q.submitted + 1000 * tmo ≤ s.pkg.time →
        Ends (.stageTimeout d j) s fun t => Claims.SetFailed t d j 6) ∧
     (tmo = 0 ∨ q.handle = none ∨ s.pkg.time < q.submitted + 1000 * tmo → exec (.stageTimeout d j) s = .next s)) ∧
    (q.preReq = false ∨ q.toSubmit = true → exec (.isqPreemptStop d j) s = .next s) ∧
    (∀ u, q.preReq = true → q.state = 1 ∨ q.state = 2 → q.paused = false → q.toSubmit = false → writeProg m { q with state := 4 } s = (.ok (), u) →
      Ends (.isqPreemptStop d j) s fun t => isqOf t d j = { q with state := 4 } ∧ t.mem = u.mem)

/-- R370, R375, R378, R379, R384, R403 to R405, R416, R419, R420: nodes, ranges and integrator sets at work. -/
def Obligations.GraphAndSequencers : Prop :=
  Claims.NodesAndChunksAreDispatched ∧ Claims.SequencersRunTheirSets

/-! ### Queues and their packets -/

/-- A vector is sent, or pending where MSI-X is off or masks it (R464). -/
def Claims.Told (s t : State) (v : Nat) : Prop :=
  if s.pkg.msixEn = true ∧ s.pkg.msixFMask = false ∧ s.pkg.vectorMasked v = false then t.pkg.msixSent = s.pkg.msixSent ++ [v]
  else v ∈ t.pkg.msixPend ∧ t.pkg.msixSent = s.pkg.msixSent

/-- A queue error (R466): EV, ECODE and EIDX in word 3, EN cleared, nothing read any more, and the queue's vector. -/
def Claims.QueueFails (u t : State) (n code idx : Nat) : Prop :=
  (queueWord t n 3).toNat = 2 ^ 63 + code * 2 ^ 48 + idx % 2 ^ 48 ∧
    (queueWord t n 0).toNat = (queueWord u n 0).toNat % 2 ^ 63 ∧ (queueOf t n).cur = none ∧ Claims.Told u t (queueVec u n)

/-- What the queue service does with the packet at RDIX (R466, R467): it waits for V, reads and checks the packet, or reports code 2 or 4. -/
def Claims.PacketRead (i : Instr) (s : State) (n : Nat) : Prop :=
  let d := queueDie s n
  let k := serviceCore d
  let pid := queuePid s n
  let a := queueEntry s n (queueRdix s n)
  let idx := queueRdix s n
  (∀ u, unitLoad s d k pid a 8 = (.error .held, u) → exec i s = .next s) ∧
  (∀ e u, unitLoad s d k pid a 8 = (.error e, u) → e ≠ .held → Ends i s fun t => Claims.QueueFails u t n 4 idx) ∧
  (∀ h u, unitLoad s d k pid a 8 = (.ok h, u) → h.testBit 63 = true →
    (∀ e v, unitWords u d k pid a 8 = (.error e, v) → e ≠ .held → Ends i s fun t => Claims.QueueFails v t n 4 idx) ∧
    (∀ ws v, unitWords u d k pid a 8 = (.ok ws, v) →
      (packetOk ws = true → Ends i s fun t => (queueOf t n).cur = some ws ∧ (queueOf t n).vSince = none ∧ t.mem = v.mem) ∧
      (packetOk ws = false → Ends i s fun t => Claims.QueueFails v t n 2 idx)))

/-- R465, R466, R468: a notification is kept with its WRIX and told to Withy of the queue's die; the service reads the packet at RDIX of an enabled
queue whose WRIX is at most a ring ahead, looks again after 1 µs at one whose V is 0, and gives up after 100 µs; a descriptor that cannot be read
is error 4 (R468 has the codes; that this is code 4 is log entry 68, the model's choice). -/
def Obligations.QueuesAreServed : Prop :=
  ∀ (n : Nat) (v : BitVec 64) (s : State),
    let q := queueOf s n
    let idx := queueRdix s n
    let on : Prop := queueEn s n = true ∧ serviceRuns s (queueDie s n) = true
    let a := queueEntry s n idx
    (256 ≤ n → exec (.notifyWrite n v) s = .next s) ∧
    (n < 256 → Ends (.notifyWrite n v) s fun t => queueOf t n = { q with wrix := v, notified := true } ∧
      Wakes s t (serviceCore (queueDie s n)) 6 (0x2000 + n) ∧ t.mem = s.mem) ∧
    (q.notified = true → serviceRuns s (queueDie s n) = true → queueReadable s n = false → q.offered = false → Ends (.queueService n) s fun t =>
      Claims.QueueFails s t n 4 idx ∧ (queueOf t n).notified = false) ∧
    (q.notified = false ∨ serviceRuns s (queueDie s n) = false → exec (.queueService n) s = .next s) ∧
    (queueReadable s n = true → ¬on ∨ q.cur ≠ none ∨ q.vSince ≠ none → exec (.queueService n) s = .next s) ∧
    (queueReadable s n = true → q.notified = true → on → q.cur = none → q.vSince = none →
      (12 < queueLsz s n → Ends (.queueService n) s fun t => Claims.QueueFails s t n 2 idx) ∧
      (queueLsz s n ≤ 12 →
        (2 ^ (queueLsz s n + 4) < (q.wrix - BitVec.ofNat 64 idx).toNat → Ends (.queueService n) s fun t => Claims.QueueFails s t n 1 idx) ∧
        ((q.wrix - BitVec.ofNat 64 idx).toNat ≤ 2 ^ (queueLsz s n + 4) →
          (q.wrix.toNat = idx → exec (.queueService n) s = .next s) ∧
          (q.wrix.toNat ≠ idx → Claims.PacketRead (.queueService n) s n ∧
            ∀ h u, unitLoad s (queueDie s n) (serviceCore (queueDie s n)) (queuePid s n) a 8 = (.ok h, u) → h.testBit 63 = false →
              Ends (.queueService n) s fun t => (queueOf t n).vSince = some s.pkg.time ∧ (queueOf t n).cur = none ∧ t.mem = u.mem)))) ∧
    (q.vSince = none → exec (.packetValidPoll n) s = .next s) ∧
    (∀ t0, q.vSince = some t0 →
      (¬on ∨ s.pkg.time < q.vLast + 1000 → exec (.packetValidPoll n) s = .next s) ∧
      (on → q.vLast + 1000 ≤ s.pkg.time → q.cur = none →
        ∀ h u, unitLoad s (queueDie s n) (serviceCore (queueDie s n)) (queuePid s n) a 8 = (.ok h, u) →
          (h.testBit 63 = false → s.pkg.time < t0 + 100000 → Ends (.packetValidPoll n) s fun t =>
            (queueOf t n).vSince = some t0 ∧ (queueOf t n).vLast = s.pkg.time ∧ (queueOf t n).cur = none) ∧
          (h.testBit 63 = false → t0 + 100000 ≤ s.pkg.time → Ends (.packetValidPoll n) s fun t => Claims.QueueFails u t n 3 idx) ∧
          (∀ ws v, h.testBit 63 = true → unitWords u (queueDie s n) (serviceCore (queueDie s n)) (queuePid s n) a 8 = (.ok ws, v) →
            packetOk ws = true → Ends (.packetValidPoll n) s fun t => (queueOf t n).cur = some ws ∧ (queueOf t n).vSince = none)))

/-- The packet that an enabled queue of a running service has read is of a type and may be dispatched: with B every earlier packet has
completed, and no wait packet is unresolved (R466 to R468). -/
def Claims.Offered (s : State) (n typ : Nat) (ws : List Word) : Prop :=
  (queueOf s n).cur = some ws ∧ (ws.getD 0 0).toNat % 16 = typ ∧ (queueOf s n).offered = false ∧ (queueOf s n).hold = none ∧
    ((ws.getD 0 0).getLsbD 62 = true → (queueOf s n).inflight = []) ∧ queueEn s n = true ∧ serviceRuns s (queueDie s n) = true

/-- Word 0 of the entry at RDIX is stored as 0. -/
def Claims.EntryFreed (u : State) (n : Nat) (v : State) : Prop :=
  unitStore u (queueDie u n) (serviceCore (queueDie u n)) (queuePid u n) (queueEntry u n (queueRdix u n)) 8 0 = (.ok (), v)

/-- The packet is in flight, and RDIX has gone on (R466). -/
def Claims.Dispatched (u v t : State) (n : Nat) (ws : List Word) (left : Nat) (own done : Bool) : Prop :=
  t.mem = memWrite v.mem (queueAddr v n 2) ((queueRdix u n + 1) % 2 ^ 64) 8 ∧ (queueOf t n).cur = none ∧
    (queueOf t n).inflight = (queueOf v n).inflight ++ [⟨queueRdix u n, ws, left, own, done⟩]

/-- A packet whose threads have been offered is consumed: word 0 of its entry is stored as 0 and RDIX goes on (R466), as a step of its own (R484). -/
def Claims.Consumes (i : Instr) (s : State) (n : Nat) : Prop :=
  (queueOf s n).offered = true → serviceRuns s (queueDie s n) = true →
    (∀ v, Claims.EntryFreed s n v → Ends i s fun t =>
      t.mem = memWrite v.mem (queueAddr s n 2) ((queueRdix s n + 1) % 2 ^ 64) 8 ∧ (queueOf t n).cur = none ∧ (queueOf t n).offered = false ∧
        (queueOf t n).inflight = (queueOf v n).inflight) ∧
    (∀ e v, unitStore s (queueDie s n) (serviceCore (queueDie s n)) (queuePid s n) (queueEntry s n (queueRdix s n)) 8 0 = (.error e, v) → e ≠ .held →
      Ends i s fun t => Claims.QueueFails v t n 4 (queueRdix s n))

/-- R466, R468, R484: a packet of each type is dispatched once it may be, and only then; its operation is performed first, and what keeps it from being
performed is the queue error of its code. The records of a launch packet, and the node of a node packet, are offered before the packet is
consumed. -/
def Obligations.PacketsAreDispatched : Prop :=
  ∀ (n : Nat) (regions : List (Nat × Nat × Nat × Bool)) (ws : List Word) (s : State),
    let d := queueDie s n
    let k := serviceCore d
    let pid := queuePid s n
    let idx := queueRdix s n
    let w := fun i => ws.getD i 0
    ((queueOf s n).cur = none ∨ serviceRuns s d = false ∨ ((queueOf s n).offered = false ∧ ((queueOf s n).hold ≠ none ∨ queueEn s n = false)) →
      exec (.nopPacket n) s = .next s ∧ exec (.launchPacket n regions) s = .next s ∧ exec (.nodePacket n) s = .next s ∧
        exec (.copyPacket n) s = .next s ∧ exec (.collectivePacket n) s = .next s ∧ exec (.signalPacket n) s = .next s ∧
        exec (.leasePacket n) s = .next s) ∧
    (∀ v, Claims.Offered s n 0 ws → Claims.EntryFreed s n v → Ends (.nopPacket n) s fun t => Claims.Dispatched s v t n ws 0 true true) ∧
    ((queueOf s n).cur = some ws → (w 0).toNat % 16 = 1 → Claims.Consumes (.launchPacket n regions) s n) ∧
    ((queueOf s n).cur = some ws → (w 0).toNat % 16 = 2 → Claims.Consumes (.nodePacket n) s n) ∧
    (Claims.Offered s n 1 ws →
      (∀ e u, unitWords s d k pid (w 1) 16 = (.error e, u) → e ≠ .held → Ends (.launchPacket n regions) s fun t => Claims.QueueFails u t n 4 idx) ∧
      (∀ dw u, unitWords s d k pid (w 1) 16 = (.ok dw, u) →
        let l : Launch := ⟨(dw.getD 14 0).toNat / 2 ^ 32 % 65536, dw, .running, packetComp ws (dw.getD 13 0), some n, idx⟩
        (launchOk u l = false → Ends (.launchPacket n regions) s fun t => Claims.QueueFails u t n 5 idx) ∧
        (∀ block x, launchOk u l = true → unitLoad u d k l.pid (l.word 15 + 0x300) 8 = (.ok block, x) →
          Ends (.launchPacket n regions) s fun t => t.pkg.launches.head? = some l ∧ (queueOf t n).cur = some ws ∧ (queueOf t n).offered = true ∧
            (∃ p, (queueOf t n).inflight = (queueOf s n).inflight ++ [p] ∧ p.words = ws ∧ p.left = l.threads ∧ p.own = false) ∧
            ∀ c ∈ l.cores, (t.core c).lid = some l.lid))) ∧
    (Claims.Offered s n 2 ws →
      (∀ e u, unitWords s d k pid (w 1) 16 = (.error e, u) → e ≠ .held → Ends (.nodePacket n) s fun t => Claims.QueueFails u t n 4 idx) ∧
      (∀ dw u, unitWords s d k pid (w 1) 16 = (.ok dw, u) →
        (descOk k dw = false → Ends (.nodePacket n) s fun t => Claims.QueueFails u t n 5 idx) ∧
        (descOk k dw = true → (u.die d).pool = [] → Ends (.nodePacket n) s fun t => (queueOf t n).cur = some ws ∧ (queueOf t n).offered = true ∧
          (∃ p, (queueOf t n).inflight = (queueOf s n).inflight ++ [p] ∧ p.words = ws ∧ p.left = 1 ∧ p.own = false) ∧
          ∃ m, (t.die d).pool.get? 0 = some m ∧ m.pid = pid ∧ m.pkt = some (n, idx)))) ∧
    (Claims.Offered s n 3 ws →
      (∀ u v, dmaCopy ((w 4).getLsbD 0) ((w 4).getLsbD 1) pid (w 1) (w 2) (w 3).toNat s = (.ok (), u) → Claims.EntryFreed u n v →
        Ends (.copyPacket n) s fun t => Claims.Dispatched u v t n ws 0 true true) ∧
      (∀ e u, dmaCopy ((w 4).getLsbD 0) ((w 4).getLsbD 1) pid (w 1) (w 2) (w 3).toNat s = (.error e, u) → e ≠ .held →
        Ends (.copyPacket n) s fun t => Claims.QueueFails u t n 4 idx)) ∧
    (Claims.Offered s n 4 ws →
      (16 ≤ s.pkg.colls.length → exec (.collectivePacket n) s = .next s) ∧
      (∀ dw u, s.pkg.colls.length < 16 → unitWords s d k pid (w 1) 8 = (.ok dw, u) →
        (collOk dw = false → Ends (.collectivePacket n) s fun t => Claims.QueueFails u t n 2 idx) ∧
        (collOk dw = true → Ends (.collectivePacket n) s fun t => (queueOf t n).cur = none ∧
          t.pkg.colls.getLast? = some ⟨n, idx, pid, dw, s.pkg.time⟩ ∧
          t.pkg.sync = (if (dw.getD 0 0).getLsbD 19 = true ∧ ∀ g ∈ u.pkg.sync, g.pid ≠ pid then u.pkg.sync ++ [⟨pid, 16, 0⟩] else u.pkg.sync)))) ∧
    (Claims.Offered s n 5 ws →
      (let op := if (w 4).getLsbD 0 then AtomKind.add else AtomKind.swp
       (∀ old u v, atomicAt s k pid (w 1) op 6 8 (w 2).toNat = (.ok old, u) → Claims.EntryFreed u n v → Ends (.signalPacket n) s fun t =>
          Claims.Dispatched u v t n ws 0 true true) ∧
       (∀ e u, atomicAt s k pid (w 1) op 6 8 (w 2).toNat = (.error e, u) → e ≠ .held → Ends (.signalPacket n) s fun t =>
          Claims.QueueFails u t n 4 (queueRdix s n)))) ∧
    (∀ v, Claims.Offered s n 6 ws → Claims.EntryFreed s n v → Ends (.waitPacket n) s fun t => (queueOf t n).cur = none ∧
      (∃ e ∈ (queueOf t n).inflight, e.idx = idx ∧ e.words = ws) ∧
      ((queueOf t n).hold = none ∨
        (queueOf t n).hold = some ⟨idx, ws, if (w 4).toNat = 0 then none else some (s.pkg.time + (w 4).toNat)⟩)) ∧
    (Claims.Offered s n 7 ws →
      (∀ u v, unitStore (packetLease pid ws s).2 d k pid (queueEntry s n idx + 56) 8 (packetLease pid ws s).1 = (.ok (), u) → Claims.EntryFreed u n v →
        Ends (.leasePacket n) s fun t => Claims.Dispatched u v t n ws 0 true true) ∧
      (∀ c, coreNamed (w 1) = some c → (s.ctx (ctxKey c ((w 1).toNat % 8))).occupied = false → packetLease pid ws s = (2, s)))

/-- The completed packet has left its queue. -/
def Claims.PacketGone (t : State) (n idx : Nat) : Prop := ∀ e ∈ (queueOf t n).inflight, e.idx ≠ idx

/-- The collective at place `i` has left the engine, and its packet is done. -/
def Claims.CollEnds (s t : State) (i : Nat) (c : Coll) : Prop :=
  t.pkg.colls = dropAt s.pkg.colls i ∧ ∀ e ∈ (queueOf t c.queue).inflight, e.idx = c.idx → e.done = true

/-- R463, R464, R467, R468, R476, R477: a wait packet holds its queue until its word meets the condition or its time is over; a packet completes
with the release, the decrement of its signal and the vector where that leaves 0; a collective writes its results, or fails with code 6,
which leaves the queue enabled, both ports down among the causes (that a port counts as down only where both links are is log entry 68, the model's
choice); a pending vector is sent once nothing masks it. -/
def Obligations.PacketsComplete : Prop :=
  ∀ (n idx i vec : Nat) (raw : List (Nat × BitVec 64 × BitVec 64)) (data : List (Nat × List Nat)) (down : Bool) (written : List Nat) (s : State),
    let k := serviceCore (queueDie s n)
    ((queueOf s n).hold = none → exec (.waitPacketTimeout n) s = .next s) ∧
    (∀ h, (queueOf s n).hold = some h →
      let w := fun j => h.words.getD j 0
      let free := fun (t : State) => (queueOf t n).hold = none ∧ ∀ e ∈ (queueOf t n).inflight, e.idx = h.idx → e.done = true
      (∀ t0, h.deadline = some t0 → t0 ≤ s.pkg.time → Ends (.waitPacketTimeout n) s fun t => free t ∧ t.mem = s.mem) ∧
      (∀ t0, h.deadline = some t0 → s.pkg.time < t0 → exec (.waitPacketTimeout n) s = .next s) ∧
      (h.deadline = none → exec (.waitPacketTimeout n) s = .next s) ∧
      (serviceRuns s (queueDie s n) = false → exec (.waitPacket n) s = .next s) ∧
      (∀ x u, serviceRuns s (queueDie s n) = true → unitLoad s (queueDie s n) k (queuePid s n) (w 1) 8 = (.ok x, u) →
        let met : Prop := (w 3 = 0 ∧ x = (w 2).toNat) ∨ (w 3 = 1 ∧ x ≠ (w 2).toNat) ∨ (w 3 = 2 ∧ (w 2).toNat ≤ x)
        (met → Ends (.waitPacket n) s fun t => free t ∧ t.mem = u.mem) ∧
        ((w 3).toNat ≤ 2 → ¬met → exec (.waitPacket n) s = .next u))) ∧
    ((queueOf s n).inflight.find? (fun e => e.idx == idx) = none → exec (.packetCompletion n idx) s = .next s) ∧
    (∀ e, (queueOf s n).inflight.find? (fun p => p.idx == idx) = some e →
      let sig := e.words.getD 6 0
      let h0 := e.words.getD 0 0
      let r := releaseLines s k (queuePid s n) (if h0.toNat % 16 = 4 then 5 else h0.toNat / 2 ^ 55 % 8) none
      (e.own = false → e.left ≠ 0 → exec (.packetCompletion n idx) s = .next s) ∧
      (e.own = false → e.left = 0 → Ends (.packetCompletion n idx) s fun t => Claims.PacketGone t n idx ∧ t.mem = s.mem) ∧
      (e.own = true → e.done = false → exec (.packetCompletion n idx) s = .next s) ∧
      (e.own = true → e.done = true → sig = 0 → Ends (.packetCompletion n idx) s fun t => Claims.PacketGone t n idx ∧ t.mem = r.mem) ∧
      (∀ old u, e.own = true → e.done = true → sig ≠ 0 → atomicAt r k (queuePid s n) sig .add 6 8 (2 ^ 64 - 1) = (.ok old, u) →
        Ends (.packetCompletion n idx) s fun t => Claims.PacketGone t n idx ∧ t.mem = u.mem ∧
          (old = 1 → h0.getLsbD 61 = true → Claims.Told u t (queueVec s n)) ∧
          (old ≠ 1 ∨ h0.getLsbD 61 = false → t.pkg.msixSent = u.pkg.msixSent ∧ t.pkg.msixPend = u.pkg.msixPend))) ∧
    (s.pkg.colls[i]? = none → exec (.collectiveComplete i raw data down written) s = .next s ∧
      exec (.collectiveTimeout i raw data written) s = .next s) ∧
    (∀ c, s.pkg.colls[i]? = some c →
      let me := ringPosition s
      let hdrs := fromRing s raw
      let sent := fromRing s data
      let fails := fun (t : State) => Claims.CollEnds s t i c ∧ (queueWord t c.queue 3).toNat = 2 ^ 63 + 6 * 2 ^ 48 + c.idx % 2 ^ 48
      let limit := c.started + 1000 * ((c.words.getD 4 0).toNat % 2 ^ 32)
      (collFits c.words me = false ∨ collAgrees c me hdrs = false →
        Ends (.collectiveComplete i raw data down written) s fun t => fails t ∧ queueWord t c.queue 0 = queueWord s c.queue 0) ∧
      (collFits c.words me = true → collAgrees c me hdrs = true → down = true ∨ portsDown s c = true → collThere c me hdrs sent = false →
        Ends (.collectiveComplete i raw data down written) s fun t => fails t) ∧
      (collFits c.words me = true → collAgrees c me hdrs = true → portsDown s c = false → collThere c me hdrs sent = false →
        exec (.collectiveComplete i raw data false written) s = .next s) ∧
      (∀ e, collFits c.words me = true → collAgrees c me hdrs = true → portsDown s c = false → collThere c me hdrs sent = true →
        (s.die 1).ringEn = true →
        (∀ u, collStore c me sent none s = (.ok (), u) → u.pkg.colls = s.pkg.colls → Ends (.collectiveComplete i raw data false written) s fun t =>
          Claims.CollEnds s t i c ∧ t.mem = u.mem) ∧
        (∀ u, collStore c me sent none s = (.error e, u) → e ≠ .held → u.pkg.colls = s.pkg.colls →
          Ends (.collectiveComplete i raw data false written) s fun t => fails t)) ∧
      (s.pkg.time < limit → exec (.collectiveTimeout i raw data written) s = .next s) ∧
      (limit ≤ s.pkg.time → collThere c me hdrs sent = false → Ends (.collectiveTimeout i raw data written) s fun t => fails t)) ∧
    (let clear : Prop := s.pkg.msixEn = true ∧ s.pkg.msixFMask = false ∧ s.pkg.vectorMasked vec = false
     (vec ∈ s.pkg.msixPend → clear → Ends (.msixPendingSend vec) s fun t => t.pkg.msixSent = s.pkg.msixSent ++ [vec] ∧ vec ∉ t.pkg.msixPend) ∧
     (vec ∉ s.pkg.msixPend ∨ ¬clear → exec (.msixPendingSend vec) s = .next s))

/-! ### Launch control, the host's accesses, reset and boot -/

/-- R470: LCTL keeps one operation at a time; it fails where no launch has the identifier or where the launch is already so; a pre-emption
is broadcast and ends once everything has stopped and is saved; a resume ends once everything is restored; an end leaves nothing behind. While the
service core of die 0 does not run, a write is kept and nothing else happens. -/
def Obligations.LaunchesAreControlled : Prop :=
  ∀ (lid : Nat) (s : State), lid < 65536 →
    let p := s.pkg
    let ends := fun (t : State) (err : Bool) => t.pkg.lctlBsy = false ∧ t.pkg.lctlErr = (p.lctlErr || err)
    let turned := fun (l : Launch) (r : LaunchRun) (ls : List Launch) => ls.map fun e => if e = l then { e with run := r } else e
    let asks := fun (op : Nat) => s.modPkg fun q => { q with lctlBsy := true, lctlOp := op, lctlLid := lid, lctlCores := [], lctlSent := false }
    (p.lctlBsy = true → (p.lctlOp ≠ 1 → exec (.lctlPreempt lid) s = .next s) ∧ (p.lctlOp ≠ 2 → exec (.lctlResume lid) s = .next s) ∧
      (p.lctlOp ≠ 3 → exec (.lctlEnd lid) s = .next s)) ∧
    (p.lctlBsy = false → lctlServed s = false → exec (.lctlPreempt lid) s = .next (asks 1) ∧ exec (.lctlResume lid) s = .next (asks 2) ∧
      exec (.lctlEnd lid) s = .next (asks 3)) ∧
    (p.lctlBsy = false → lctlServed s = true →
      (launchOf s lid = none → Ends (.lctlPreempt lid) s (fun t => ends t true) ∧ Ends (.lctlResume lid) s (fun t => ends t true) ∧
        Ends (.lctlEnd lid) s (fun t => ends t true)) ∧
      (∀ l, lctlLaunch (asks 1) = some l →
        (l.run = .running → launchLive s l = true → Ends (.lctlPreempt lid) s fun t => t.pkg.lctlBsy = true ∧ t.pkg.lctlErr = p.lctlErr ∧
          t.pkg.lctlCores = l.cores ∧ t.pkg.launches = turned l .preempting s.pkg.launches) ∧
        (l.run ≠ .running ∨ launchLive s l = false → Ends (.lctlPreempt lid) s fun t => ends t true)) ∧
      (∀ l, lctlLaunch (asks 2) = some l →
        (l.run ≠ .preempted → Ends (.lctlResume lid) s fun t => ends t true) ∧
        (∀ u, l.run = .preempted → resumeCores l l.places (l.clusters.foldl (fun t q => reoccupy l q t) (asks 2)) = .ok u → Ends (.lctlResume lid) s fun t =>
          t.pkg.lctlBsy = false ∧ t.pkg.lctlErr = u.pkg.lctlErr ∧ t.pkg.launches = turned l .running u.pkg.launches)) ∧
      (∀ l, lctlLaunch (asks 3) = some l →
        (l.run = .ended → Ends (.lctlEnd lid) s fun t => ends t true) ∧
        (l.run ≠ .ended → Ends (.lctlEnd lid) s fun t => t.pkg.lctlBsy = false ∧ l ∉ t.pkg.launches ∧
          (∀ k ∈ l.cores, (t.core k).lid = none) ∧ (∀ m ∈ t.recs, m.lid ≠ some l.lid) ∧ (∀ m ∈ t.migs, m.ctx.lid ≠ some l.lid) ∧
          ∀ q ∈ l.clusters, (t.cluster q).wv = [] ∧ (t.cluster q).mxe.occV = false))) ∧
    (p.lctlBsy = true → p.lctlOp = 1 → lctlServed s = true → ∀ l, lctlLaunch s = some l → p.lctlSent = true →
      (launchSaveable s l = false → exec (.lctlPreempt lid) s = .next s) ∧
      (∀ u, launchSaveable s l = true → saveCores l l.places s = .ok u → Ends (.lctlPreempt lid) s fun t => t.pkg.lctlBsy = false ∧ t.mem = u.mem ∧
        t.pkg.launches = turned l .preempted u.pkg.launches))

/-- An answer to the host is one more completion. -/
def Claims.Answers (s t : State) (o : HostOut) : Prop := t = { s with pkg := { s.pkg with hostOut := s.pkg.hostOut ++ [o] } }

/-- R460 to R462, R464, R465, R471: the host's registers and memory: an access that nothing answers is an Unsupported Request; a write reaches
the register of its offset, or the home slices; a read gives the values there, or EP with bytes of 0xFF; DCTL asks for a dump or a reset once. That
only ERR of a write of DCTL counts while BSY is 1 is the model's choice (log entry 29); so is that reads of BAR0 are answered within
UNSUPPORTED_REQUEST, and that REGISTER_W 1 writes MSI-X Enable and the Function Mask (entry 68). -/
def Obligations.HostAccesses : Prop :=
  ∀ (bar off pa n mask : Nat) (v : BitVec 64) (bytes : List (BitVec 8)) (s : State),
    let queueReg : Prop := 0x200000 ≤ off ∧ off < 0x300000 ∧ off % 4096 = 0
    let usable := s.usable
    let bytesOf := fun (w : Word) => (List.range 8).map fun i => w.toNat / 256 ^ i % 256
    let reads := fun (a : Nat) (w : Word) => Ends (.unsupportedRequest 0 a) s fun t => Claims.Answers s t ⟨a, bytesOf w, false, false⟩
    (off % 8 ≠ 0 → Ends (.registerWrite 0 off v) s fun t => Claims.Answers s t ⟨off, [], false, true⟩) ∧
    (off < 0x200000 → (s.die (off / 0x100000)).run ≠ .running → Ends (.registerWrite 0 off v) s fun t => Claims.Answers s t ⟨off, [], false, true⟩) ∧
    (queueReg → exec (.registerWrite 0 off v) s = exec (.notifyWrite ((off - 0x200000) / 4096) v) s) ∧
    (Ends (.registerWrite 0 0x300000 v) s fun t => t = { s with pkg := { s.pkg with qtab := BitVec.ofNat 64 (v.toNat / 16384 % 2 ^ 24 * 16384) } }) ∧
    (Ends (.registerWrite 1 off v) s fun t =>
      t = { s with pkg := { s.pkg with msixEn := v.getLsbD 15, msixFMask := v.getLsbD 14 } }) ∧
    ((s.die 0).run = .running → Ends (.registerWrite 0 0x28 v) s fun t => (t.die 0).bslot = min 96 v.toNat) ∧
    ((s.die 1).run = .running → Ends (.registerWrite 0 0x100038 v) s fun t =>
      (t.die 1).ringEn = v.getLsbD 8 ∧ (t.die 1).ringSzm1 = v.toNat / 8 % 8 ∧ (t.die 1).ringPos = v.toNat % 8) ∧
    (reads 0x300000 s.pkg.qtab ∧ reads 0x300008 (flag s.pkg.lctlBsy 63 ||| flag s.pkg.lctlErr 62) ∧
      reads 0x300010 (flag s.pkg.dctlBsy 63 ||| flag s.pkg.dctlErr 62)) ∧
    (n < 256 → reads (0x200000 + 4096 * n) (queueOf s n).wrix) ∧
    (∀ w, (s.die 0).run = .running → off < 0x100000 → dcsRead s 0 off = some w → reads off w) ∧
    (bar0Assigned s off = false → Ends (.unsupportedRequest 0 off) s fun t => Claims.Answers s t ⟨off, [], false, true⟩) ∧
    (s.pkg.dctlBsy = true → v.getLsbD 62 = true → Ends (.registerWrite 0 0x300010 v) s fun t =>
      t = { s with pkg := { s.pkg with dctlErr := false } }) ∧
    (usable ≤ off → Ends (.unsupportedRequest 2 off) s fun t => Claims.Answers s t ⟨off, [], false, true⟩) ∧
    (bar ≠ 0 → off < usable → exec (.unsupportedRequest bar off) s = .next s) ∧
    (usable < pa + bytes.length → Ends (.bar2Write pa bytes) s fun t => Claims.Answers s t ⟨pa, [], false, true⟩) ∧
    (pa + bytes.length ≤ usable → (s.die 0).llc = [] → (s.die 0).fenced = false →
      Ends (.bar2Write pa bytes) s fun t => (∀ i, i < bytes.length → memByte t.mem (pa + i) = bytes.getD i 0) ∧
        ∀ a, a < pa ∨ pa + bytes.length ≤ a → memByte t.mem a = memByte s.mem a) ∧
    (usable < pa + n → Ends (.bar2Read pa n) s fun t => Claims.Answers s t ⟨pa, [], false, true⟩) ∧
    (pa + n ≤ usable → (s.die 0).llc = [] → (s.die 0).fenced = false →
      (s.poison = [] → Ends (.bar2Read pa n) s fun t => t.mem = s.mem ∧
        ∃ o, t.pkg.hostOut = s.pkg.hostOut ++ [o] ∧ o.ep = false ∧ o.ur = false ∧ o.data = (List.range n).map fun i => (memByte s.mem (pa + i)).toNat) ∧
      (pa / 128 ∈ s.poison → 0 < n → Ends (.bar2Read pa n) s fun t => t.mem = s.mem ∧
        ∃ o, t.pkg.hostOut = s.pkg.hostOut ++ [o] ∧ o.ep = true ∧ o.data = List.replicate n 255)) ∧
    (s.pkg.dctlBsy = true → exec (.dctlDump mask) s = .next s ∧ exec (.dctlReset mask) s = .next s) ∧
    (s.pkg.dctlBsy = false → 0 < mask → mask < 4 →
      (courierOn s mask = true → Ends (.dctlDump mask) s (fun t => t = { s with pkg := { s.pkg with dctlErr := true } }) ∧
        Ends (.dctlReset mask) s (fun t => t = { s with pkg := { s.pkg with dctlErr := true } })) ∧
      (courierOn s mask = false →
        (Ends (.dctlDump mask) s fun t => t.pkg.dctlBsy = true ∧ t.pkg.resets = s.pkg.resets ∧
          ∃ r, t.pkg.dumps = s.pkg.dumps ++ [r] ∧ r.mask = mask ∧ r.cause = 4 ∧ r.time = s.pkg.time ∧ r.dctl = true ∧
            r.base0 = (s.die 0).dumpBase.toNat / 2 ^ 20 % 2 ^ 18 * 2 ^ 20) ∧
        (Ends (.dctlReset mask) s fun t => t.pkg.dctlBsy = true ∧ t.pkg.dumps = s.pkg.dumps ∧ t.pkg.resets = s.pkg.resets ++ [⟨mask, false, true, none⟩])))

/-- R438, R439, R450 to R452, R471: a dump that is due is written, its number of bytes last; a reset waits for it, gives every unit of its dies the
reset values and keeps the always-on domain; the other die is fenced and drops what it holds of the dies' memory; a boot whose three images
verify starts Withy in context 7 of every core and lifts the fence, another leaves the die to the courier port with code 0x0201. That a dump of one
die has the layout and the number of bytes of one of both is log entry 36, Withy's start address is entry 4, and what of the host link a reset of
die 0 clears is entry 86: the model's choices. -/
def Obligations.DumpsResetsAndBoots : Prop :=
  ∀ (d : Nat) (host : List (List (BitVec 8))) (s : State), d < 2 →
    let images := [1, 2, 3].map fun kind => bootImage s (host.map imageOf) kind
    let good : Prop := ∀ o ∈ images, ∃ i, o = some i ∧ i.verifies s.pkg.keyDigest = true ∧ s.pkg.minVer.getD i.kind 0 ≤ i.version
    (s.pkg.dumps = [] → exec .dumpWrite s = .next s) ∧
    (∀ r rest, s.pkg.dumps = r :: rest → r.mask = 2 ^ d →
      let base := if d = 0 then r.base0 else r.base1
      Ends .dumpWrite s fun t => t.pkg.dumps = rest ∧ memRead t.mem base 8 = 0x1_4432_4E53 ∧
        memRead t.mem (base + 8) 8 = r.mask + 256 * (r.cause % 256) ∧ memRead t.mem (base + 16) 8 = r.time % 2 ^ 64 ∧
        memRead t.mem (base + 24) 8 = 0xF1A000 + 15 * 2 ^ 20 ∧ (r.dctl = true → t.pkg.dctlBsy = false)) ∧
    ((∀ r ∈ s.pkg.resets, r.began = true ∨ dumpDue s r.mask = true) → exec .dieReset s = .next s) ∧
    (∀ r, s.pkg.resets = [r] → r.began = false → dumpDue s r.mask = false → s.pkg.colls = [] →
      let cleared := fun (t : State) (a : Nat) => (∀ x, coreOf x / 768 = a → t.ctx x = Ctx.reset) ∧ (∀ k, k / 768 = a → t.core k = Core.reset) ∧
        (∀ q, q / 96 = a → t.cluster q = Cluster.reset) ∧ (t.die a).run = .reset ∧ (t.die a).pool = [] ∧ (t.die a).llc = []
      (r.mask = 3 → Ends .dieReset s fun t => cleared t 0 ∧ cleared t 1 ∧ t.pkg.resets = [{ r with began := true }] ∧ t.pkg.time = s.pkg.time ∧
        t.mem = s.mem ∧ (t.die 0).energy = (s.die 0).energy ∧ (t.die 1).energy = (s.die 1).energy ∧ t.pkg.qtab = 0 ∧ ∀ n, (queueOf t n).wrix = 0) ∧
      (r.mask = 2 ^ d → Ends .dieReset s fun t => cleared t d ∧ t.pkg.resets = [{ r with began := true }] ∧ (t.die (1 - d)).fenced = true ∧
        (∀ e ∈ (t.die (1 - d)).llc, homeDie (128 * e.1) ≠ d) ∧ (∀ m ∈ t.reqs, m.home.onDie d = false) ∧
        (d = 0 → t.pkg.qtab = 0 ∧ ∀ n, (queueOf t n).wrix = 0) ∧ (d = 1 → t.pkg.qtab = s.pkg.qtab))) ∧
    ((s.die d).run ≠ .reset → exec (.boot d host) s = .next s) ∧
    ((s.die d).run = .reset →
      (good → Ends (.boot d host) s fun t => (t.die d).run = .running ∧ (t.die (1 - d)).fenced = false ∧
        ((t.die d).fenced = true ↔ (s.die (1 - d)).run ≠ .running) ∧ t.pkg.power = s.pkg.powerNext ∧ t.pkg.running = images.filterMap id ∧
        ∀ k, k / 768 = d → t.ctx (ctxKey k 7) = { Ctx.reset with run := .ready, pc := withyStart d }) ∧
      (¬good → Ends (.boot d host) s fun t => (t.die d).run = .courierOnly ∧ t.ctxs = s.ctxs ∧ ∃ r ∈ t.pkg.courierOut, r.status = 0x0201))

/-! ### The courier port -/

/-- The command answers with a status and a payload, and does nothing else. -/
def Claims.Replies (i : Instr) (s : State) (cmd tag status : Nat) (payload : List Nat) : Prop :=
  Ends i s fun t => t = { s with pkg := { s.pkg with courierOut := s.pkg.courierOut ++ [⟨cmd, tag, status, payload⟩] } }

/-- It answers with a status, whatever else it does. -/
def Claims.Answered (s t : State) (cmd tag status : Nat) : Prop :=
  ∃ r, t.pkg.courierOut = s.pkg.courierOut ++ [r] ∧ r.cmd = cmd ∧ r.tag = tag ∧ r.status = status

/-- R453, R479, R480: while a command runs every other gets 0x0103; a LEN that does not match gets 0x0102; and each command has its effect and its
status. That die code 2 names the always-on part, and what answers for a die in reset, is log entry 18, the model's choice. -/
def Obligations.CourierCommands : Prop :=
  ∀ (tag die off n pa len mask kind w ctx cmd : Nat) (v : BitVec 64) (bytes nonce : List (BitVec 8)) (clear good : Bool) (s : State),
    (s.pkg.courierBusy = true →
      Claims.Replies (.ident tag good) s 1 tag 0x0103 [] ∧ Claims.Replies (.rdreg tag die off n good) s 2 tag 0x0103 [] ∧
      Claims.Replies (.wrreg tag die off v good) s 3 tag 0x0103 [] ∧ Claims.Replies (.rdmem tag pa len good) s 4 tag 0x0103 [] ∧
      Claims.Replies (.dump tag mask good) s 5 tag 0x0103 [] ∧ Claims.Replies (.reset tag mask good) s 6 tag 0x0103 [] ∧
      Claims.Replies (.fwload tag off bytes good) s 7 tag 0x0103 [] ∧ Claims.Replies (.fwinst tag kind good) s 8 tag 0x0103 [] ∧
      Claims.Replies (.attest tag nonce) s 9 tag 0x0103 [] ∧ Claims.Replies (.energy tag die ctx clear good) s 10 tag 0x0103 [] ∧
      Claims.Replies (.power tag w good) s 11 tag 0x0103 [] ∧ Claims.Replies (.unknownCommand cmd tag) s cmd tag 0x0103 []) ∧
    (s.pkg.courierBusy = false →
      (Claims.Replies (.ident tag false) s 1 tag 0x0102 [] ∧ Claims.Replies (.rdreg tag die off n false) s 2 tag 0x0102 [] ∧
        Claims.Replies (.wrreg tag die off v false) s 3 tag 0x0102 [] ∧ Claims.Replies (.rdmem tag pa len false) s 4 tag 0x0102 [] ∧
        Claims.Replies (.dump tag mask false) s 5 tag 0x0102 [] ∧ Claims.Replies (.reset tag mask false) s 6 tag 0x0102 [] ∧
        Claims.Replies (.fwload tag off bytes false) s 7 tag 0x0102 [] ∧ Claims.Replies (.fwinst tag kind false) s 8 tag 0x0102 [] ∧
        Claims.Replies (.energy tag die ctx clear false) s 10 tag 0x0102 [] ∧ Claims.Replies (.power tag w false) s 11 tag 0x0102 []) ∧
      (Ends (.ident tag true) s fun t => t.mem = s.mem ∧ ∃ r, t.pkg.courierOut = s.pkg.courierOut ++ [r] ∧ r.cmd = 1 ∧ r.tag = tag ∧ r.status = 0 ∧
        r.payload.getD 24 0 = dieStateByte s 0 ∧ r.payload.getD 25 0 = dieStateByte s 1) ∧
      (n = 0 ∨ 512 < n → Claims.Replies (.rdreg tag die off n true) s 2 tag 0x0102 []) ∧
      (∀ x, die < 2 → (s.die die).run = .running → dcsRead s die off = some x →
        Claims.Replies (.rdreg tag die off 1 true) s 2 tag 0 ((List.range 8).map fun i => x.toNat / 256 ^ i % 256) ∧
        (∀ u, dcsWrite die off v s = some u → Ends (.wrreg tag die off v true) s fun t => t.dies = u.dies ∧ t.ctxs = u.ctxs ∧ t.mem = u.mem)) ∧
      (die < 2 → (s.die die).run ≠ .running → off < 0x13C0 → 0 < n → n ≤ 512 →
        Claims.Replies (.rdreg tag die off n true) s 2 tag 0x0105 [] ∧ Claims.Replies (.wrreg tag die off v true) s 3 tag 0x0105 []) ∧
      (s.pkg.courierAddr = none → Ends (.wrreg tag 2 0x40 v true) s fun t => t.pkg.courierAddr = some v ∧ Claims.Answered s t 3 tag 0) ∧
      (∀ a, s.pkg.courierAddr = some a → Claims.Replies (.wrreg tag 2 0x40 v true) s 3 tag 0 []) ∧
      (len < 8 ∨ 4096 < len ∨ s.usable < pa + len → Claims.Replies (.rdmem tag pa len true) s 4 tag 0x0102 []) ∧
      (8 ≤ len → len ≤ 4096 → pa + len ≤ s.usable → (s.die 0).run = .running → (s.die 1).run = .running → s.poison = [] →
        (s.die 0).fenced = false → (s.die 1).fenced = false →
        Claims.Replies (.rdmem tag pa len true) s 4 tag 0 ((List.range len).map fun i => (memByte s.mem (pa + i)).toNat)) ∧
      (mask = 0 ∨ 3 < mask → Claims.Replies (.dump tag mask true) s 5 tag 0x0102 [] ∧ Claims.Replies (.reset tag mask true) s 6 tag 0x0102 []) ∧
      (1 ≤ mask → mask ≤ 3 →
        ((s.die 0).run = .running → (s.die 1).run = .running → Ends (.dump tag mask true) s fun t => t.pkg.courierBusy = true ∧
          t.pkg.courierOut = s.pkg.courierOut ∧ ∃ r, t.pkg.dumps = s.pkg.dumps ++ [r] ∧ r.mask = mask ∧ r.cause = 3 ∧ r.courier = some tag) ∧
        ((s.die 0).run ≠ .running → (s.die 1).run ≠ .running → Claims.Replies (.dump tag mask true) s 5 tag 0x0105 []) ∧
        (Ends (.reset tag mask true) s fun t => t.pkg.courierBusy = true ∧ t.pkg.resets = s.pkg.resets ++ [⟨mask, false, false, some tag⟩])) ∧
      (bytes.length ≤ 4096 →
        (2 ^ 21 < off + bytes.length → Claims.Replies (.fwload tag off bytes true) s 7 tag 0x0203 []) ∧
        (off + bytes.length ≤ 2 ^ 21 → Ends (.fwload tag off bytes true) s fun t => Claims.Answered s t 7 tag 0 ∧
          ∀ i, i < bytes.length → t.pkg.staged.get? (off + i) = bytes[i]?)) ∧
      (kind = 0 ∨ 3 < kind → Claims.Replies (.fwinst tag kind true) s 8 tag 0x0102 []) ∧
      (1 ≤ kind → kind ≤ 3 →
        (stagedImage s = none → Claims.Replies (.fwinst tag kind true) s 8 tag 0x0203 []) ∧
        (∀ i, stagedImage s = some i → i.kind = kind →
          (i.verifies s.pkg.keyDigest = false → Claims.Replies (.fwinst tag kind true) s 8 tag 0x0201 []) ∧
          (i.verifies s.pkg.keyDigest = true → i.version < s.pkg.minVer.getD kind 0 → Claims.Replies (.fwinst tag kind true) s 8 tag 0x0202 []) ∧
          (i.verifies s.pkg.keyDigest = true → s.pkg.minVer.getD kind 0 ≤ i.version → Ends (.fwinst tag kind true) s fun t => Claims.Answered s t 8 tag 0 ∧
            t.pkg.flash.find? (fun j => j.kind == kind) = some i ∧ t.pkg.minVer.getD kind 0 = i.version))) ∧
      (nonce.length = 32 →
        (s.pkg.attestPos = 0 → 4096 ≤ s.pkg.attestBlock → Claims.Replies (.attest tag nonce) s 9 tag 0x0303 []) ∧
        (s.pkg.attestPos = 0 → s.pkg.attestBlock < 4096 → Ends (.attest tag nonce) s fun t => Claims.Answered s t 9 tag 0 ∧
          t.pkg.attestBlock = s.pkg.attestBlock + 1 ∧ t.pkg.attestPos = 1) ∧
        (s.pkg.attestPos ≠ 0 → Ends (.attest tag nonce) s fun t => t.pkg.attestBlock = s.pkg.attestBlock ∧
          t.pkg.attestPos = (s.pkg.attestPos + 1) % 256 ∧ ∃ r, t.pkg.courierOut = s.pkg.courierOut ++ [r] ∧ r.status = 0 ∧
            r.payload.take 32 = nonce.map BitVec.toNat)) ∧
      (2 ≤ die ∨ 256 ≤ ctx → Claims.Replies (.energy tag die ctx clear true) s 10 tag 0x0102 []) ∧
      (die < 2 → ctx < 256 → Ends (.energy tag die ctx clear true) s fun t =>
        (t.die die).energy.getD ctx 0 = (if clear then 0 else (s.die die).energy.getD ctx 0) ∧
        t.pkg.courierOut = s.pkg.courierOut ++ [⟨10, tag, 0, (List.range 8).map fun i => (s.die die).energy.getD ctx 0 / 256 ^ i % 256⟩]) ∧
      (w < 120 ∨ 300 < w → Claims.Replies (.power tag w true) s 11 tag 0x0102 []) ∧
      (120 ≤ w → w ≤ 300 → Ends (.power tag w true) s fun t => t.pkg.powerNext = w ∧ t.pkg.power = s.pkg.power ∧ Claims.Answered s t 11 tag 0) ∧
      (1 ≤ cmd → cmd ≤ 11 → exec (.unknownCommand cmd tag) s = .next s) ∧
      (cmd = 0 ∨ 11 < cmd → Claims.Replies (.unknownCommand cmd tag) s cmd tag 0x0101 []))

/-! ### Dual dispatch -/

/-- The pair `id` of a die. -/
def Claims.pairAt (s : State) (d id : Nat) : Option DualPair := (s.die d).pairs.find? fun p => p.id == id

/-- R364 to R366: a primary copy whose secondary is not placed makes the choice, in hop order, and places the secondary pinned; a copy's packet
goes to the pairing stop, where the copy waits; nothing goes out while a packet is missing or the hashes differ, and with equal hashes the
primary's packet goes out once and both copies have its outcome; a mismatch ends both copies, and after two retries the task has failed. -/
def Obligations.DualDispatch : Prop :=
  ∀ (k i d id : Nat) (j : Instr) (s : State),
    ((s.core k).deque[i]? = none → exec (.secondaryChoice k i) s = .next s) ∧
    (∀ q, (s.core k).deque[i]? = some q →
      (q.needsPair = false → exec (.secondaryChoice k i) s = .next s) ∧
      (q.needsPair = true → (∀ c, c / 768 = k / 768 → 2 ≤ hops k c → hops k c ≤ 8 → secondaryOk s k c = false) →
        exec (.secondaryChoice k i) s = .next s) ∧
      (∀ c, q.needsPair = true → q.dual = none → kindNotice q.r.kind = false → k < 1536 → secondaryCore s k = some c → c ≠ k → i < (s.core k).deque.length →
        Ends (.secondaryChoice k i) s fun t =>
          ((t.core k).deque[i]?.bind fun e => e.dual) = some ⟨s.nextId, true⟩ ∧
          (∃ e ∈ (t.core c).deque, e.dual = some ⟨s.nextId, false⟩ ∧ e.r.w0 = q.r.w0 ||| 0x10 ∧ e.r.w1 = q.r.w1) ∧
          ∃ p, Claims.pairAt t (k / 768) s.nextId = some p ∧ p.r = q.r ∧ p.retries = 0)) ∧
    (∀ h f r, (j = .ld h f ∨ j = .st h f ∨ j = .aadd h f ∨ j = .spawn h f ∨ j = .exit h f ∨ j = .nsend h f ∨ j = .gnode h f) → Runs h s →
      (me s).dual = some r → ∀ p, Claims.pairAt s (coreOf s.cur / 768) r.pair = some p → Ends j s fun t =>
        (t.ctx s.cur).run = .waiting ⟨j, .pairing, s.pkg.time, 0, none, none, false, [], 0⟩ ∧ t.mem = s.mem ∧ t.reqs = s.reqs ∧
        ∃ u, Claims.pairAt t (coreOf s.cur / 768) r.pair = some u ∧
          (if r.primary then u.pk0 ≠ none ∧ u.at0 = s.pkg.time ∧ u.pk1 = p.pk1 else u.pk1 ≠ none ∧ u.at1 = s.pkg.time ∧ u.pk0 = p.pk0)) ∧
    (Claims.pairAt s d id = none → exec (.pairingCompare d id) s = .next s ∧ exec (.dualMismatch d id) s = .next s) ∧
    (∀ p, Claims.pairAt s d id = some p →
      (p.pk0 = none ∨ p.pk1 = none → exec (.pairingCompare d id) s = .next s) ∧
      (∀ a b, p.pk0 = some a → p.pk1 = some b →
        (Config.pairHash p.h0 a ≠ Config.pairHash p.h1 b → exec (.pairingCompare d id) s = .next s) ∧
        (∀ x y, Config.pairHash p.h0 a = Config.pairHash p.h1 b → p.prim = some x → p.sec = some y → x ≠ y → pairInstr s x = some j →
          pairInstr s y ≠ none → (∀ e ∈ (s.ctx x).deferred, e.taken = true) →
          let s0 := s.modDie d fun dd => { dd with pairs := dd.pairs.map fun e => if e.id = id then
            { p with h0 := Config.pairHash p.h0 a, h1 := Config.pairHash p.h1 b, pk0 := none, pk1 := none } else e }
          ∀ u, runPacket j { s0.setCtx x { s.ctx x with run := .parked false (some j) } with cur := x } = .next u → (u.ctx x).run = .ready →
            (u.ctx x).wf = (s.ctx x).wf → Ends (.pairingCompare d id) s fun t => t.mem = u.mem ∧ t.reqs = u.reqs ∧ t.ctx x = u.ctx x ∧
              (t.ctx y).run = .ready ∧ (t.ctx y).pc = (u.ctx x).pc)) ∧
      (mismatched s p = false → exec (.dualMismatch d id) s = .next s) ∧
      (mismatched s p = true → d < 2 →
        (p.retries < 2 → Ends (.dualMismatch d id) s fun t => (∃ m, t.recs.getLast? = some m ∧ m.r = p.r ∧ m.lid = p.lid ∧ m.core = none) ∧
          (∀ e ∈ (t.die d).pairs, e.id = id → ∃ o ∈ (s.die d).pairs, o.id = id ∧ e.retries = o.retries + 1) ∧
          ∀ x, (∃ r, (s.ctx x).dual = some r ∧ r.pair = id) → (t.ctx x).run = .free) ∧
        (2 ≤ p.retries → Ends (.dualMismatch d id) s fun t => Claims.pairAt t d id = none ∧
          ∀ x, (∃ r, (s.ctx x).dual = some r ∧ r.pair = id) → (t.ctx x).run = .free)))

/-! ### The words, the step and reset -/

/-- R37 to R52, R209, R272, R300: words written out from the encoding tables decode to the instructions they stand for, and a word of an unassigned
opcode, of a bad operand or of a bad field to none. -/
def Obligations.WordsDecode : Prop :=
  let plain : Hdr := ⟨false, 0, false, false, false, false⟩
  decodeWord 0xC00000000000000000000000 = .ok (.evnext plain ⟨.none, .none, .none, 0, .none⟩) ∧
  decodeWord 0xC10000000000000000000FA0 = .ok (.sleep plain ⟨.none, .none, .none, 0, .i 4000⟩) ∧
  decodeWord 0xC20060484000000000000000 = .ok (.popr plain ⟨.p 1, .w 4, .none, 0, .none⟩) ∧
  decodeWord 0xA700C0B04C24002010000000 = .ok (.mma plain ⟨.e 2, .e 4, .e 9, 0, .e 2 0x010000000⟩) ∧
  decodeWord 0xB300000842181F0000000000 = .ok (.spup plain ⟨.none, .w 4, .w 6, 0x1F, .e 0 0⟩) ∧
  decodeWord 0xB70060780000000000000000 = .ok (.spwait plain ⟨.p 1, .imm 0, .none, 0, .e 0 0⟩) ∧
  decodeWord 0 = .ok (.ill 0) ∧ decodeWord 0xFF0000000000000000000000 = .error .unassigned ∧
  decodeWord 0xC20060490000000000000000 = .error .operand ∧ decodeWord 0xC00000000000000000000001 = .error .field

/-- R37, R40, R44 to R52: encoding and decoding agree, both ways: every well-formed instruction has one word, which decodes to it from its bytes,
and every word that decodes is the word of the well-formed instruction it decodes to. -/
def Obligations.EncodingsAreUnique : Prop :=
  (∀ i : Instr, i.WellFormed → ∃ w, encodeWord i = some w ∧ decodeWord w = .ok i ∧
    ∀ rest, decodeBytes (bytesOfWord w ++ rest) = some (.ok i, rest)) ∧
  (∀ (w : BitVec 96) (i : Instr), decodeWord w = .ok i → i.WellFormed ∧ encodeWord i = some w)

/-- The slot of core `k` goes to context `x` (R21): context 7 where it can go, else a user context where the duty is not 0; in the state
`p` the slot has passed. A core that has just recovered from a droop is not meant (R227). -/
def Claims.Chosen (s : State) (k x : Nat) (p : State) : Prop :=
  k < 1536 ∧ clockRuns s k = true ∧ droopDue s k = false ∧
    ((selectable s (ctxKey k 7) = true ∧ x = ctxKey k 7 ∧ p = passSlot s k false) ∨
     (selectable s (ctxKey k 7) = false ∧ (s.core k).dutyD ≠ 0 ∧ pickUser s k = some x ∧ p = passSlot s k true))

/-- R20, R21, R33, R36, R37: one step of the machine is one turn of its schedule (log entry 3). In a slot, the chosen context that is Ready, with
nothing pending and no breakpoint at its PC, runs the instruction that its twelve bytes decode to, and `step` is `exec` of it; bytes that
decode to none take the trap of an illegal opcode or encoding; a step of the machine is `exec` of it; time passes. -/
def Obligations.AStepRunsTheDecodedInstruction : Prop :=
  ∀ (s p u : State) (k x n : Nat) (w : BitVec 96) (i : Instr) (rest : List Turn),
    let s1 := { s with agenda := rest }
    let ready : Prop := Claims.Chosen s1 k x p ∧ (p.ctx x).run = .ready ∧ boundaryTrap x p = none ∧ (p.ctx x).pendThrottle = none ∧
      (ctxNo x = 7 ∨ breakpointAt (p.ctx x) (p.ctx x).pc = none) ∧ fetchFor p x = (.ok w, u)
    (s.agenda = .slot k :: rest → ready →
      (decodeWord w = .ok i → step s = exec i { u with cur := x }) ∧
      (decodeWord w = .error .unassigned → step s = .next (takeTrap x (syncTrap 0x01 (p.ctx x).pc none 0) u)) ∧
      (decodeWord w = .error .operand ∨ decodeWord w = .error .bank ∨ decodeWord w = .error .sub ∨ decodeWord w = .error .field →
        step s = .next (takeTrap x (syncTrap 0x02 (p.ctx x).pc none 0) u))) ∧
    (s.agenda = [] → rest = [] → s.focus = k → ready → decodeWord w = .ok i → step s = exec i { u with cur := x }) ∧
    (withyBytes p x (p.ctx x).pc 12 = none → fetchFor p x = fetchWord p (coreOf x) (p.ctx x).pid (p.ctx x).pc) ∧
    (ctxNo x ≠ 7 → withyBytes p x (p.ctx x).pc 12 = none) ∧
    (s.agenda = .event i :: rest → i.opcode = none → step s = exec i s1) ∧
    (s.agenda = .tick n :: rest → step s = .next { s1 with pkg := { s1.pkg with time := s.pkg.time + n } }) ∧
    (s.agenda = .slot k :: rest → 1536 ≤ k → step s = .fault .noSuchUnit)

/-- R7, R10, R30, R92, R96, R97, R221, R368, R439, R441, R442, R444, R448, R465, R470, R471: what reset leaves, read as software reads it: the values that
the register tables give; no context holds a thread; and the clusters' maps are the identity. That device time is 0 and no line is poisoned then
is the model's choice (log entry 2). -/
def Obligations.ResetLeavesTheTablesValues : Prop :=
  let s := State.reset
  let y := fun (x n : Nat) => (yRead x n true s).1
  Memory.wf s.mem = true ∧ s.poison = [] ∧ s.pkg.time = 0 ∧
    (∀ x, (s.ctx x).run = .free ∧ (∀ n ∈ [2, 5, 8, 9, 11, 12, 13, 14, 15, 16, 17, 18, 19, 20, 22], y x n = 0) ∧ y x 4 = 0x800 ∧
      (∀ n ∈ [32, 33, 34, 35, 36, 37, 38, 39, 41, 49, 64, 72, 86, 98], y x n = 0) ∧ y x 97 = 0x800) ∧
    (∀ x, y x 80 = 0 ∧ y x 82 = 0 ∧ y x 83 = 6 ∧ y x 84 = 0 ∧ y x 48 = 0 ∧ y x 96 = 0x11010 ∧ y x 99 = 0x400001 ∧ y x 102 = 0) ∧
    (∀ d, d < 2 → (s.die d).run = .reset ∧ (s.die d).bslot = 16 ∧ (∀ n, n < 96 → (cmapOf s d n).phy = n ∧ (cmapOf s d n).new = n) ∧
      (∀ b, b < 16 → ∀ i, i < 8 → dcsRead s d (0x1000 + 64 * b + 8 * i) = some 0)) ∧
    s.pkg.qtab = 0 ∧ (∀ n, (queueOf s n).wrix = 0) ∧ s.pkg.lctlWord = 0 ∧ s.pkg.dctlBsy = false ∧ s.pkg.dctlErr = false ∧ ∃ t, step s = .next t

/-- No instruction, in any state and with any operands, ends the machine: every one answers a next state; for a step of the machine whose condition is
not met that is the state as it was, which is the model's own (log entry 3). Every word has its effect only in a context that is Ready or in the middle
of it (R20): elsewhere it does nothing. In a Ready context it is counted and passed even where its guard fails (R38), and a word that only context 7 may
execute traps 0x03 in another (R51). -/
def Obligations.EveryInstructionAnswersANextState : Prop :=
  ∀ (i : Instr) (s : State), (∃ t, exec i s = .next t) ∧
    (isWord i = true → (me s).run = .free ∨ (me s).run = .stopped ∨ (me s).run = .migrating ∨ (∃ d, (me s).run = .parked d none) → exec i s = .next s) ∧
    (isWord i = true → i.opcode ≠ some 0x00 → i.opcode ≠ some 0x02 → (Claims.reserved i = true → ctxNo s.cur = 7) → (me s).run = .ready →
      guardPasses i.hdr (me s) = false → Ends i s fun t => Advances i.hdr (me s) (t.ctx s.cur) ∧ t.mem = s.mem) ∧
    (Claims.reserved i = true → UserReady s → Ends i s fun t => (t.ctx s.cur).run = .stopped ∧ (t.ctx s.cur).cause = 0x03 ∧
      (t.ctx s.cur).epc = (me s).pc)

/-! ### An invariant -/

/-- The model's own: device memory as a list of cells keeps its one canonical form, addresses rising and no cell listed that reads as an unlisted
one does (log entry 6), whatever a step does. So equal memories are equal data. -/
def Obligations.EveryStepKeepsMemoryCanonical : Prop :=
  ∀ s t : State, Memory.wf s.mem = true → step s = .next t → Memory.wf t.mem = true
end

