-- ==== Sys2Proof/Laws/Trap.lean ====
section
/-! SUPPORT. What the operations shared by traps and replies can do: the supervisor's queue, vectors, error records, replies, the kill of a
core, taking a trap and returning from one. -/

namespace Sys2Proof.Machine

/-! ### Folds -/

/-- What every step of a fold keeps, the fold keeps. -/
theorem foldl_keeps {α β : Type} (p : State → β) (g : State → α → State) (h : ∀ s a, p (g s a) = p s) (l : List α) (s : State) :
    p (l.foldl g s) = p s := by
  induction l generalizing s with
  | nil => rfl
  | cons a l ih => rw [List.foldl_cons, ih, h]

/-- A property that every step of a fold preserves holds after it. -/
theorem foldl_inv {α : Type} (P : State → Prop) (g : State → α → State) (h : ∀ s a, P s → P (g s a)) (l : List α) (s : State) (hs : P s) :
    P (l.foldl g s) := by
  induction l generalizing s with
  | nil => exact hs
  | cons a l ih => exact ih _ (h s a hs)

/-! ### The supervisor's queue (R215) -/

/-- Queueing an item changes one core's queue, wakes its context 7, and changes nothing else. -/
theorem supPush_spec (k typ data : Nat) (s : State) :
    supPush k typ data s = { s with cores := (supPush k typ data s).cores } ∧ (∀ j, j ≠ k → (supPush k typ data s).core j = s.core j) ∧
      ((supPush k typ data s).core k).asleep = false := by
  refine ⟨rfl, fun j hj => State.modCore_core_ne _ _ _ _ hj, ?_⟩
  simp only [supPush, State.modCore_core, if_true]
  split <;> rfl

@[simp] theorem supPush_ctxs (k typ data : Nat) (s : State) : (supPush k typ data s).ctxs = s.ctxs := rfl
@[simp] theorem supPush_mem (k typ data : Nat) (s : State) : (supPush k typ data s).mem = s.mem := rfl
@[simp] theorem supPush_ctx (k typ data : Nat) (s : State) (x : Nat) : (supPush k typ data s).ctx x = s.ctx x := rfl

/-! ### Vectors and error records (R358 to R362, R464) -/

@[simp] theorem sendVector_mem (v : Nat) (s : State) : (sendVector v s).mem = s.mem := rfl
@[simp] theorem sendVector_ctx (v : Nat) (s : State) (x : Nat) : (sendVector v s).ctx x = s.ctx x := rfl

@[simp] theorem machineCheck_mem (d b : Nat) (e : ErrRec) (s : State) : (machineCheck d b e s).mem = s.mem := by
  unfold machineCheck; split <;> rfl
@[simp] theorem machineCheck_ctxs (d b : Nat) (e : ErrRec) (s : State) : (machineCheck d b e s).ctxs = s.ctxs := by
  unfold machineCheck; split <;> rfl

@[simp] theorem postError_mem (d b : Nat) (e : ErrRec) (s : State) : (postError d b e s).mem = s.mem := machineCheck_mem d b e _
@[simp] theorem postError_ctxs (d b : Nat) (e : ErrRec) (s : State) : (postError d b e s).ctxs = s.ctxs := machineCheck_ctxs d b e _

@[simp] theorem postErrorOpen_mem (d b : Nat) (e : ErrRec) (s : State) : (postErrorOpen d b e s).mem = s.mem := by
  simp only [postErrorOpen, postError_mem]; rfl
@[simp] theorem postErrorOpen_ctxs (d b : Nat) (e : ErrRec) (s : State) : (postErrorOpen d b e s).ctxs = s.ctxs := by
  simp only [postErrorOpen, postError_ctxs]; rfl

/-! ### Replies (R24, R35) -/

@[simp] theorem fillLong_mem (x id : Nat) (v : LongVal) (s : State) : (fillLong x id v s).mem = s.mem := by
  unfold fillLong; apply foldl_keeps (fun t => t.mem); intro _ _; rfl
@[simp] theorem fillLong_cores (x id : Nat) (v : LongVal) (s : State) : (fillLong x id v s).cores = s.cores := by
  unfold fillLong; apply foldl_keeps (fun t => t.cores); intro _ _; rfl
@[simp] theorem postTrap_mem (x : Nat) (t : TrapInfo) (s : State) : (postTrap x t s).mem = s.mem := by
  unfold postTrap; apply foldl_keeps (fun t => t.mem); intro _ _; rfl
@[simp] theorem postTrap_cores (x : Nat) (t : TrapInfo) (s : State) : (postTrap x t s).cores = s.cores := by
  unfold postTrap; apply foldl_keeps (fun t => t.cores); intro _ _; rfl

/-- A response-class cause changes contexts alone. -/
theorem postTrap_frame (x : Nat) (p : TrapInfo) (s : State) : postTrap x p s = { s with ctxs := (postTrap x p s).ctxs } := by
  unfold postTrap
  generalize replyTo x s = l
  induction l generalizing s with
  | nil => rfl
  | cons y l ih => simp only [List.foldl_cons]; rw [ih]; rfl

/-- The settling of a VST changes contexts alone. -/
theorem vstSettle_frame (x g : Nat) (s : State) : vstSettle x g s = { s with ctxs := (vstSettle x g s).ctxs } := by
  unfold vstSettle
  split
  · rfl
  · split
    · rw [postTrap_frame]; rfl
    · rfl

/-- An answer to a request changes contexts alone. -/
theorem replyReq_frame (r : Req) (v : LongVal) (s : State) : replyReq r v s = { s with ctxs := (replyReq r v s).ctxs } := by
  have h1 : ∀ (l : List Nat) (g : Nat → Ctx → Ctx) (s : State),
      l.foldl (fun t y => t.modCtx y (g y)) s = { s with ctxs := (l.foldl (fun t y => t.modCtx y (g y)) s).ctxs } := by
    intro l g
    induction l with
    | nil => intro s; rfl
    | cons y l ih => intro s; simp only [List.foldl_cons]; rw [ih]; rfl
  unfold replyReq
  split
  · exact h1 _ (fun _ c => match c.run with
      | .waiting w => { c with run := .waiting { w with reply := some v } }
      | _ => c) _
  · split
    · exact h1 _ (fun _ c => { c with outstanding := c.outstanding.map fun q => if q.id = _ then { q with val := some v } else q }) _
    · split
      · exact h1 _ (fun _ c => { c with pend := c.pend ++ [_] }) _
      · rfl
      · rw [vstSettle_frame]; rfl
      · rw [vstSettle_frame]

@[simp] theorem replyReq_mem (r : Req) (v : LongVal) (s : State) : (replyReq r v s).mem = s.mem := by
  rw [replyReq_frame]
@[simp] theorem replyReq_pkg (r : Req) (v : LongVal) (s : State) : (replyReq r v s).pkg = s.pkg := by
  rw [replyReq_frame]

/-! ### The kill of a core (R229) -/

@[simp] theorem markHandled_mem (k : Nat) (e : Ev) (s : State) : (markHandled k e s).mem = s.mem := by
  unfold markHandled; split <;> rfl
@[simp] theorem failLinkReads_mem (k : Nat) (s : State) : (failLinkReads k s).mem = s.mem := by
  unfold failLinkReads; apply foldl_keeps (fun t => t.mem); intro _ _; rfl

/-! ### Taking a trap and returning from one (R33, R82, R214) -/

/-- In a user context, a cause that carries no poison stops the context, writes the trap registers and queues the item. -/
theorem takeTrap_user (x : Nat) (p : TrapInfo) (s : State) (hx : ctxNo x ≠ 7)
    (hp : ¬(p.cause = 0x0C ∧ fld p.finfo 0 8 = 4 ∧ bitAt p.finfo 63 = false)) :
    takeTrap x p s = supPush (coreOf x) 0 (ctxNo x) (s.modCtx x fun c =>
      { c with
        run := .stopped
        cause := BitVec.ofNat 64 p.cause
        epc := p.epc.getD c.pc
        fpc := p.fpc
        faddr := p.faddr.getD c.faddr
        finfo := p.finfo }) := by
  rw [takeTrap, if_neg hx, if_neg hp]

/-- A trap of context 7 kills its core. -/
theorem takeTrap_supervisor (x : Nat) (p : TrapInfo) (s : State) (hx : ctxNo x = 7) : takeTrap x p s = coreKill (coreOf x) 0x0E s := by
  rw [takeTrap, if_pos hx]

/-- Nor does it touch device memory then. -/
theorem takeTrap_mem (x : Nat) (p : TrapInfo) (s : State) (hx : ctxNo x ≠ 7)
    (hp : ¬(p.cause = 0x0C ∧ fld p.finfo 0 8 = 4 ∧ bitAt p.finfo 63 = false)) : (takeTrap x p s).mem = s.mem := by
  rw [takeTrap_user x p s hx hp]; rfl

/-- The return from a trap changes the run state, the PC and the arming of deferred faults of its context alone. -/
theorem returnFromTrap_spec (x : Nat) (s : State) :
    (returnFromTrap x s).ctx x =
        { s.ctx x with
          run := if (s.ctx x).outstanding.isEmpty then .ready else .parked false none
          deferArmed := (s.ctx x).deferArmed || (s.ctx x).deferred.any fun d => !d.taken
          pc := (s.ctx x).epc } ∧
      (∀ y, y ≠ x → (returnFromTrap x s).ctx y = s.ctx y) ∧ returnFromTrap x s = { s with ctxs := (returnFromTrap x s).ctxs } :=
  ⟨State.modCtx_ctx_same _ _ _, fun _ hy => State.modCtx_ctx_ne _ _ _ _ hy, rfl⟩

@[simp] theorem returnFromTrap_mem (x : Nat) (s : State) : (returnFromTrap x s).mem = s.mem := rfl

end Sys2Proof.Machine
end

