-- ==== Sys2Proof/Laws/Form.lean ====
section
/-! SUPPORT. Every shared operation over device memory and the caches keeps the canonical form of memory. -/

namespace Sys2Proof.Machine

/-- The memory of a state is in its canonical form. -/
def State.memOk (s : State) : Prop := Memory.wf s.mem = true

/-- A fold whose steps keep the form keeps it. -/
theorem foldl_memOk {α : Type} (g : State → α → State) (h : ∀ s a, s.memOk → (g s a).memOk) (l : List α) (s : State) (hs : s.memOk) :
    (l.foldl g s).memOk := foldl_inv State.memOk g h l s hs

/-- An operation that leaves memory as it is keeps the form. -/
theorem memOk_of_mem {s t : State} (h : t.mem = s.mem) (hs : s.memOk) : t.memOk := by unfold State.memOk; rw [h]; exact hs

/-! ### At the home slice -/

@[simp] theorem markHeld_mem (hit : Home → Bool) (s : State) : (markHeld hit s).mem = s.mem := rfl

@[simp] theorem serveAt_mem (e : Option Nat) (pa n : Nat) (s : State) : (serveAt e pa n s).mem = s.mem := by
  unfold serveAt
  simp only [markHeld_mem]
  split
  · rfl
  · rw [foldl_keeps (fun t => t.mem) _ (by intro s a; simp)]
    rfl

@[simp] theorem serveDev_mem (pa n : Nat) (s : State) : (serveDev pa n s).mem = s.mem := serveAt_mem none pa n s

@[simp] theorem serveMask_mem (e : Option Nat) (ln : Nat) (mask : BitVec 128) (s : State) : (serveMask e ln mask s).mem = s.mem := by
  unfold serveMask
  apply foldl_keeps (fun t => t.mem)
  intro t i
  split
  · rfl
  · exact serveAt_mem _ _ _ _

theorem homeWrite_mem (s : State) (pa n v : Nat) : (homeWrite s pa n v).mem = memWrite s.mem pa v n := by
  unfold homeWrite; simp

theorem homeWrite_wf (s : State) (pa n v : Nat) (h : s.memOk) : (homeWrite s pa n v).memOk := by
  unfold State.memOk; rw [homeWrite_mem]; exact Memory.wf_memWrite _ _ _ h

@[simp] theorem poisonLine_mem (s : State) (pa : Nat) : (poisonLine s pa).mem = s.mem := rfl

theorem Memory.wf_writeMasked {m : List Host.Cell} (base : Nat) (bits : LineBits) (mask : BitVec 128) (n : Nat) (h : Memory.wf m = true) :
    Memory.wf (writeMasked m base bits mask n) = true := by
  induction n generalizing m with
  | zero => exact h
  | succ n ih =>
    unfold writeMasked
    apply ih
    split
    · exact Memory.wf_memPut _ _ h
    · exact h

theorem homeMerge_mem (s : State) (ln : Nat) (bits : LineBits) (mask : BitVec 128) :
    (homeMerge s ln bits mask).mem = writeMasked s.mem (128 * ln) bits mask 128 := by
  unfold homeMerge; simp

theorem homeMerge_wf (s : State) (ln : Nat) (bits : LineBits) (mask : BitVec 128) (h : s.memOk) : (homeMerge s ln bits mask).memOk := by
  unfold State.memOk; rw [homeMerge_mem]; exact Memory.wf_writeMasked _ _ _ _ h

/-! ### At a die's LLC -/

theorem llcDrop_wf (s : State) (d ln : Nat) (h : s.memOk) : (llcDrop s d ln).memOk := by
  unfold llcDrop
  split
  · exact h
  · dsimp only
    split
    · exact h
    · split
      · exact memOk_of_mem (poisonLine_mem _ _) (homeMerge_wf _ _ _ _ h)
      · exact homeMerge_wf _ _ _ _ h

theorem llcClean_wf (s : State) (d ln : Nat) (h : s.memOk) : (llcClean s d ln).memOk := by
  unfold llcClean
  split
  · exact h
  · split <;> exact llcDrop_wf s d ln h

theorem llcInstall_wf (s : State) (d ln : Nat) (l : LlcLine) (h : s.memOk) : (llcInstall s d ln l).memOk := by
  unfold llcInstall
  dsimp only
  split
  · split
    · exact llcDrop_wf _ _ _ h
    · exact h
  · exact h

theorem llcFill_wf (s : State) (d ln : Nat) (h : s.memOk) : (llcFill s d ln).2.memOk := by
  unfold llcFill
  split
  · split
    · exact h
    · split
      · split <;> exact h
      · exact h
  · split
    · exact h
    · exact llcInstall_wf _ _ _ _ h

theorem dieRead_wf (s : State) (d pa n : Nat) (h : s.memOk) : (dieRead s d pa n).2.memOk := by
  unfold dieRead
  split
  · exact h
  · have hf := llcFill_wf s d (lineOf pa) h
    split <;> (rename_i he; rw [he] at hf; exact hf)

theorem dieMerge_wf (s : State) (d ln : Nat) (bits : LineBits) (mask : BitVec 128) (h : s.memOk) : (dieMerge s d ln bits mask).2.memOk := by
  unfold dieMerge
  split
  · exact homeMerge_wf _ _ _ _ h
  · have h1 : (if (mask == BitVec.allOnes 128) = true then s else (llcFill s d ln).2).memOk := by
      split
      · exact h
      · exact llcFill_wf _ _ _ h
    dsimp only
    split
    · exact memOk_of_mem (by simp) h1
    · split
      · exact h
      · exact memOk_of_mem (serveMask_mem _ _ _ _) (llcInstall_wf _ _ _ _ h1)

theorem dieWrite_wf (s : State) (d pa n v : Nat) (h : s.memOk) : (dieWrite s d pa n v).2.memOk := by
  unfold dieWrite
  split
  · exact homeWrite_wf _ _ _ _ h
  · exact dieMerge_wf _ _ _ _ _ h

theorem streamRead_wf (s : State) (d pa : Nat) (p : Bool) (n : Nat) (h : s.memOk) : (streamRead s d pa p n).2.memOk := by
  unfold streamRead
  split
  · exact dieRead_wf _ _ _ _ h
  · exact llcDrop_wf _ _ _ h

theorem streamWrite_wf (s : State) (d pa : Nat) (p : Bool) (n v : Nat) (h : s.memOk) : (streamWrite s d pa p n v).2.memOk := by
  unfold streamWrite
  split
  · exact dieWrite_wf _ _ _ _ _ h
  · split
    · exact h
    · exact homeWrite_wf _ _ _ _ (llcDrop_wf _ _ _ h)

/-! ### Translation -/

theorem walkRead_wf (s : State) (d pa : Nat) (h : s.memOk) : (walkRead s d pa).2.memOk := by
  unfold walkRead
  split
  · exact h
  · have hf := streamRead_wf s d pa false 8 h
    split <;> (rename_i he; rw [he] at hf; exact hf)

theorem walkWords_wf (s : State) (d pa n : Nat) (h : s.memOk) : (walkWords s d pa n).2.memOk := by
  induction n generalizing s pa with
  | zero => exact h
  | succ n ih =>
    unfold walkWords
    have hf := walkRead_wf s d pa h
    split
    · rename_i he; rw [he] at hf; exact hf
    · rename_i v s1 he
      rw [he] at hf
      have hw := ih s1 (pa + 8) hf
      split <;> (rename_i hg; rw [hg] at hw; exact hw)

theorem walkFrom_wf (s : State) (d va level table : Nat) (h : s.memOk) : (walkFrom s d va level table).2.memOk := by
  induction level generalizing s table with
  | zero =>
    unfold walkFrom
    have hf := walkRead_wf s d (entryAddr table 0 va) h
    split
    · rename_i he; rw [he] at hf; exact hf
    · rename_i he; rw [he] at hf
      split <;> exact hf
  | succ n ih =>
    unfold walkFrom
    have hf := walkRead_wf s d (entryAddr table (n + 1) va) h
    split
    · rename_i he; rw [he] at hf; exact hf
    · rename_i he; rw [he] at hf
      split
      · exact hf
      · exact ih _ _ hf
      · exact hf

theorem readDesc_wf (s : State) (d pid : Nat) (h : s.memOk) : (readDesc s d pid).2.memOk := by
  unfold readDesc
  have hf := walkWords_wf s d (descAddr s d pid) 8 h
  split
  · rename_i he; rw [he] at hf
    split <;> exact hf
  · rename_i he; rw [he] at hf; exact hf

theorem walk_wf (s : State) (d pid va : Nat) (h : s.memOk) : (walk s d pid va).2.memOk := by
  unfold walk
  have hf := readDesc_wf s d pid h
  split
  · rename_i he; rw [he] at hf; exact hf
  · rename_i he; rw [he] at hf; exact walkFrom_wf _ _ _ _ _ hf

theorem translate_wf (s : State) (d pid va : Nat) (acc : Acc) (h : s.memOk) : (translate s d pid va acc).2.memOk := by
  unfold translate
  split
  · exact h
  · have hf := walk_wf s d pid va h
    split
    · rename_i he; rw [he] at hf; exact hf
    · rename_i he; rw [he] at hf
      split
      · exact hf
      · dsimp only; split <;> exact hf

/-! ### The L1 -/

theorem postErrorOpen_wf (d b : Nat) (e : ErrRec) (s : State) (h : s.memOk) : (postErrorOpen d b e s).memOk :=
  memOk_of_mem (postErrorOpen_mem _ _ _ _) h

theorem l1Poisoned_wf (s : State) (m : Nat) (l : L1Line) (pa : Nat) (h : s.memOk) : (l1Poisoned s m l pa).memOk := by
  have h2 : Memory.wf (writeMasked (llcDrop s (coreDie m) (lineOf pa)).mem (128 * lineOf pa) l.bits l.dirty 128) = true :=
    Memory.wf_writeMasked _ _ _ _ (llcDrop_wf _ _ _ h)
  unfold l1Poisoned State.memOk
  dsimp only
  split <;> simp only [supPush_mem, postErrorOpen_mem, poisonLine_mem] <;> exact h2

theorem l1WriteBack_wf (s : State) (m : Nat) (l : L1Line) (h : s.memOk) : (l1WriteBack s m l).memOk := by
  unfold l1WriteBack
  have ht := translate_wf s (coreDie m) l.pid (128 * l.vln) .read h
  split
  · exact h
  · split
    · rename_i he; rw [he] at ht
      exact postErrorOpen_wf _ _ _ _ ht
    · rename_i he; rw [he] at ht
      split
      · exact l1Poisoned_wf _ _ _ _ ht
      · exact dieMerge_wf _ _ _ _ _ ht

@[simp] theorem l1Remove_mem (s : State) (m pid vln : Nat) : (l1Remove s m pid vln).mem = s.mem := rfl
@[simp] theorem l1Put_mem (s : State) (m : Nat) (l : L1Line) : (l1Put s m l).mem = s.mem := rfl

theorem l1Flush_wf (s : State) (m pid vln : Nat) (h : s.memOk) : (l1Flush s m pid vln).memOk := by
  unfold l1Flush
  split
  · exact h
  · exact l1WriteBack_wf _ _ _ h

theorem l1Clean_wf (s : State) (m pid vln : Nat) (h : s.memOk) : (l1Clean s m pid vln).memOk := by
  unfold l1Clean
  split
  · exact h
  · split <;> exact l1WriteBack_wf _ _ _ h

theorem l1Install_wf (s : State) (m : Nat) (l : L1Line) (h : s.memOk) : (l1Install s m l).memOk := by
  unfold l1Install
  split
  · split
    · exact l1Flush_wf _ _ _ _ h
    · exact h
  · exact h

theorem l1Fill_wf (s : State) (m pid vln : Nat) (acc : Acc) (h : s.memOk) : (l1Fill s m pid vln acc).2.memOk := by
  have hw := translate_wf s (coreDie m) pid (128 * vln) .write h
  have ha := translate_wf s (coreDie m) pid (128 * vln) acc h
  have hd : ∀ p s1, translate s (coreDie m) pid (128 * vln) acc = (.ok p, s1) → (dieRead s1 (coreDie m) p.pa 128).2.memOk := by
    intro p s1 he
    rw [he] at ha
    exact dieRead_wf _ _ _ _ ha
  unfold l1Fill
  dsimp only
  split
  · split
    · split <;> (rename_i he; rw [he] at hw; exact hw)
    · split
      · split
        · rename_i he; rw [he] at ha; exact ha
        · rename_i he
          have h3 := hd _ _ he
          split <;> (rename_i hg; rw [hg] at h3; exact h3)
      · exact h
  · split
    · rename_i he; rw [he] at ha; exact ha
    · rename_i he
      have h3 := hd _ _ he
      split
      · rename_i hg; rw [hg] at h3; exact h3
      · rename_i hg; rw [hg] at h3
        exact l1Install_wf _ _ _ h3

theorem l1Bypass_wf (s : State) (k pid va : Nat) (h : s.memOk) : (l1Bypass s k pid va).memOk := by
  unfold l1Bypass
  split
  · exact l1Flush_wf _ _ _ _ h
  · exact h

/-! ### Loads and stores of device memory -/

theorem devLoad_wf (s : State) (k pid cp va n : Nat) (h : s.memOk) : (devLoad s k pid cp va n).2.memOk := by
  unfold devLoad
  split
  · rename_i m _
    have hf := l1Fill_wf s m pid (lineOf va) .read h
    split <;> (rename_i he; rw [he] at hf; exact hf)
  · have ht := translate_wf _ (coreDie k) pid va .read (l1Bypass_wf s k pid va h)
    dsimp only
    split
    · rename_i he; rw [he] at ht; exact ht
    · rename_i p s1 he
      rw [he] at ht
      have h2 : (if cp = 2 then streamRead s1 (coreDie k) p.pa p.priv n else dieRead s1 (coreDie k) p.pa n).2.memOk := by
        split
        · exact streamRead_wf _ _ _ _ _ ht
        · exact dieRead_wf _ _ _ _ ht
      split <;> (rename_i hr; rw [hr] at h2; exact h2)

/-- The note of a thread's own store changes contexts alone. -/
theorem noteWrote_wf (x : Option Nat) (ln : Nat) (s : State) (h : s.memOk) : (noteWrote x ln s).memOk := by
  unfold noteWrote
  repeat' split
  all_goals exact h

theorem devStore_wf (s : State) (k : Nat) (x : Option Nat) (pid cp va n v : Nat) (h : s.memOk) : (devStore s k x pid cp va n v).2.memOk := by
  have hb : ∀ s0 : State, s0.memOk →
      (match translate s0 (coreDie k) pid va .write with
        | (.error e, s1) => ((.error (.xlate e), s1) : Except AccErr Unit × State)
        | (.ok p, s1) =>
          match (if cp = 2 then streamWrite s1 (coreDie k) p.pa p.priv n v else dieWrite s1 (coreDie k) p.pa n v) with
          | (.error e, s2) => (.error (.resp e), s2)
          | (.ok _, s2) => (.ok (), noteWrote x (lineOf va) s2)).2.memOk := by
    intro s0 h0
    have ht := translate_wf s0 (coreDie k) pid va .write h0
    split
    · rename_i he; rw [he] at ht; exact ht
    · rename_i p s1 he
      rw [he] at ht
      have h2 : (if cp = 2 then streamWrite s1 (coreDie k) p.pa p.priv n v else dieWrite s1 (coreDie k) p.pa n v).2.memOk := by
        split
        · exact streamWrite_wf _ _ _ _ _ _ ht
        · exact dieWrite_wf _ _ _ _ _ ht
      split
      · rename_i hr; rw [hr] at h2; exact h2
      · rename_i hr; rw [hr] at h2; exact noteWrote_wf _ _ _ h2
  unfold devStore
  dsimp only
  split
  · rename_i m _
    have hf := l1Fill_wf s m pid (lineOf va) .write h
    split
    · rename_i he; rw [he] at hf; exact hb _ hf
    · rename_i he; rw [he] at hf; exact hf
    · rename_i he; rw [he] at hf; exact noteWrote_wf _ _ _ hf
  · exact hb _ (l1Bypass_wf s k pid va h)

/-! ### Releases and acquires -/

theorem overRanges_wf (d pid : Nat) (rs : List (Nat × Nat)) (g : Nat → State → State) (hg : ∀ ln u, u.memOk → (g ln u).memOk) (s : State)
    (h : s.memOk) : (overRanges d pid rs g s).memOk := by
  unfold overRanges
  apply foldl_memOk _ _ _ _ h
  intro t r ht
  split
  · exact ht
  · apply foldl_memOk _ _ _ _ ht
    intro u i hu
    dsimp only
    split
    · exact hu
    · split
      · split
        · exact hu
        · exact hg _ _ hu
      · exact hu

theorem releaseLines_wf (s : State) (k pid sc : Nat) (r : Option (List (Nat × Nat))) (h : s.memOk) : (releaseLines s k pid sc r).memOk := by
  have h1 : ((l1Cores s k).foldl (fun t m =>
      ((t.core m).l1.filter fun l => lineIn r l.vln).foldl (fun u l => l1Clean u m l.pid l.vln) t) s).memOk := by
    apply foldl_memOk _ _ _ _ h
    intro t m ht
    exact foldl_memOk _ (fun u l hu => l1Clean_wf _ _ _ _ hu) _ _ ht
  unfold releaseLines
  dsimp only
  split
  · split
    · cases r with
      | none => exact foldl_memOk _ (fun u l hu => llcClean_wf _ _ _ hu) _ _ h1
      | some rs => exact overRanges_wf _ _ _ _ (fun ln u hu => llcClean_wf _ _ _ hu) _ h1
    · exact h1
  · exact h

theorem llcAcquire_wf (d ln : Nat) (s : State) (h : s.memOk) : (llcAcquire d ln s).memOk := by
  unfold llcAcquire
  split <;> exact h

theorem acquireLines_wf (s : State) (k pid sc : Nat) (r : Option (List (Nat × Nat))) (h : s.memOk) : (acquireLines s k pid sc r).memOk := by
  have h1 : ((l1Cores s k).foldl (fun t m => t.modCore m fun c =>
      { c with l1 := c.l1.filterMap fun l => if lineIn r l.vln then l.acquired else some l }) s).memOk := by
    apply foldl_memOk _ _ _ _ h
    intro t m ht
    exact ht
  unfold acquireLines
  dsimp only
  split
  · split
    · cases r with
      | none => exact foldl_memOk _ (fun u l hu => llcAcquire_wf _ _ _ hu) _ _ h1
      | some rs => exact overRanges_wf _ _ _ _ (fun ln u hu => llcAcquire_wf _ _ _ hu) _ h1
    · exact h1
  · exact h

/-! ### Traps and the kill of a core -/

theorem coreKill_wf (k typ : Nat) (s : State) (h : s.memOk) : (coreKill k typ s).memOk := by
  have h0 : (if (s.cluster (clusterOf k)).fused then sliceDisable k s else s).memOk := by
    split
    · exact foldl_memOk _ (fun u l hu => l1WriteBack_wf _ _ _ hu) _ _ h
    · exact h
  unfold coreKill
  split
  · exact h
  · refine memOk_of_mem ?_ h0
    dsimp only
    simp only [supPush_mem]
    show State.mem (State.free _).2 = _
    simp only [State.free, postErrorOpen_mem]
    rw [foldl_keeps (fun t => t.mem) _ (by intro s a; cases a <;> simp)]
    rw [foldl_keeps (fun t => t.mem) _ (by intro s a; simp)]
    show State.mem (List.foldl _ _ _) = _
    rw [foldl_keeps (fun t => t.mem) _ (by intro s a; simp)]
    rfl

theorem takeTrap_wf (x : Nat) (p : TrapInfo) (s : State) (h : s.memOk) : (takeTrap x p s).memOk := by
  unfold takeTrap
  split
  · exact coreKill_wf _ _ _ h
  · split
    · exact coreKill_wf _ _ _ h
    · exact h

end Sys2Proof.Machine
end

