-- ==== Sys2Proof/Laws/Paths.lean ====
section
/-! SUPPORT. What the operations over the paths to a scratchpad can do (R254, R255): they change what other paths may still read, and nothing
else; a read answers the word as it stands or as a listed earlier write left it. -/

namespace Sys2Proof.Machine

/-- All that is left of an entry has its word, its path and its old value, and no reader of the mask. -/
theorem OldWord.without_some {e e' : OldWord} {m : Nat} (h : e.without m = some e') :
    e' = { e with readers := e.readers ^^^ (e.readers &&& m) } ∧ e'.readers ≠ 0 := by
  unfold OldWord.without at h
  split at h
  · cases h
  · cases h; exact ⟨rfl, ‹_›⟩

/-- Meeting a word changes only what core `k`'s paths may still read. -/
theorem meetWord_frame (m k off : Nat) (s : State) :
    meetWord m k off s = s ∨ ∃ o, meetWord m k off s = s.modCore k fun c => { c with older := o } := by
  unfold meetWord
  split
  · exact .inl rfl
  · exact .inr ⟨_, rfl⟩

/-- Each core after meeting a word is the core before but for what its paths may still read. -/
theorem meetWord_core (m k off j : Nat) (s : State) : ∃ o, (meetWord m k off s).core j = { s.core j with older := o } := by
  obtain h | ⟨o, h⟩ := meetWord_frame m k off s
  · exact ⟨(s.core j).older, by rw [h]⟩
  · rw [h, State.modCore_core]
    by_cases hj : j = k
    · subst hj; exact ⟨o, by simp⟩
    · exact ⟨(s.core j).older, by simp [hj]⟩

/-- The contexts, the memory and the requests stay as they are while a word is met. -/
@[simp] theorem meetWord_mem (m k off : Nat) (s : State) : (meetWord m k off s).mem = s.mem := by
  obtain h | ⟨o, h⟩ := meetWord_frame m k off s <;> simp [h]

@[simp] theorem meetWord_ctxs (m k off : Nat) (s : State) : (meetWord m k off s).ctxs = s.ctxs := by
  obtain h | ⟨o, h⟩ := meetWord_frame m k off s <;> simp [h]

@[simp] theorem meetWord_reqs (m k off : Nat) (s : State) : (meetWord m k off s).reqs = s.reqs := by
  obtain h | ⟨o, h⟩ := meetWord_frame m k off s <;> simp [h]

/-- Leaving a word to the other paths changes no core but in what its paths may still read. -/
theorem leaveWord_core (p k off j : Nat) (s : State) : ∃ o, (leaveWord p k off s).core j = { s.core j with older := o } := by
  unfold leaveWord
  split
  · exact meetWord_core 255 k off j s
  · obtain ⟨o, h⟩ := meetWord_core (2 ^ p) k off j s
    dsimp only
    rw [State.modCore_core]
    by_cases hj : j = k
    · subst hj; rw [if_pos rfl, h]; exact ⟨_, rfl⟩
    · rw [if_neg hj, h]; exact ⟨o, rfl⟩

@[simp] theorem leaveWord_mem (p k off : Nat) (s : State) : (leaveWord p k off s).mem = s.mem := by
  unfold leaveWord; split <;> simp

@[simp] theorem leaveWord_ctxs (p k off : Nat) (s : State) : (leaveWord p k off s).ctxs = s.ctxs := by
  unfold leaveWord; split <;> simp

/-- A read by a path answers the word as it stands, or as it stood before a write that the path need not see yet. -/
theorem pathGet_value (s : State) (p k off n : Nat) :
    (pathGet s p k off n).1 = spadGet s k off n ∨
    ∃ e ∈ (s.core k).older, e.word = off / 8 % 32768 ∧ e.readers.testBit p = true ∧
      (pathGet s p k off n).1 = natBits e.old.toNat (8 * (off % 8)) (8 * n) := by
  unfold pathGet
  split
  · exact .inl rfl
  · rename_i e he
    split
    · have hs := List.find?_some he
      simp only [OldWord.serves, Bool.and_eq_true, beq_iff_eq] at hs
      exact .inr ⟨e, List.mem_of_find?_eq_some he, hs.1, hs.2, rfl⟩
    · exact .inl rfl

/-- A path to which nothing older is left reads the word as it stands, and changes nothing. -/
theorem pathGet_none (s : State) (p k off n : Nat) (h : ∀ e ∈ (s.core k).older, e.serves p off = false) :
    pathGet s p k off n = (spadGet s k off n, s) := by
  have : (s.core k).older.find? (·.serves p off) = none := List.find?_eq_none.mpr fun e he => by simp [h e he]
  simp [pathGet, this]

/-- What a read by a path leaves of each core: all but what its paths may still read. -/
theorem pathGet_core (s : State) (p k off n j : Nat) : ∃ o, (pathGet s p k off n).2.core j = { s.core j with older := o } := by
  unfold pathGet
  split
  · exact ⟨(s.core j).older, rfl⟩
  · split
    · exact ⟨(s.core j).older, by simp⟩
    · simpa using meetWord_core (2 ^ p) k off j s.free.2

@[simp] theorem pathGet_mem (s : State) (p k off n : Nat) : (pathGet s p k off n).2.mem = s.mem := by
  unfold pathGet
  split
  · rfl
  · split <;> simp

end Sys2Proof.Machine
end

