-- ==== Sys2Proof/Laws/PerInstr.lean ====
section
/-! SUPPORT. Said of every instruction, one lemma per constructor: the word of a word instruction carries its major opcode in bits
[95:88] (R37, R52), and a step of the machine has no word. -/

namespace Sys2Proof.Laws.Opcode

/-- The word's top byte is the major opcode, or there is no word. -/
def Statement (i : Instr) : Prop :=
  match i.opcode with
  | some o => ∃ w, encodeWord i = some w ∧ (wordBits w 88 8).toNat = o
  | none => encodeWord i = none

/-- The top byte of a word put together from its fields. -/
theorem topByte (o : Nat) (a : BitVec 8) (b c d e : BitVec 10) (x : BitVec 40) (h : o < 256) :
    (wordBits (BitVec.ofNat 8 o ++ a ++ b ++ c ++ d ++ e ++ x) 88 8).toNat = o := by
  have hx : wordBits (BitVec.ofNat 8 o ++ a ++ b ++ c ++ d ++ e ++ x) 88 8 = BitVec.ofNat 8 o := by
    ext j hj
    simp only [wordBits, BitVec.getElem_extractLsb']
    simp only [BitVec.getLsbD_append]
    rw [if_neg (by omega), if_neg (by omega), if_neg (by omega), if_neg (by omega), if_neg (by omega), if_neg (by omega)]
    rw [show 88 + j - 40 - 10 - 10 - 10 - 10 - 8 = j by omega, BitVec.getLsbD_eq_getElem hj]
  rw [hx, BitVec.toNat_ofNat]
  omega

/-- ILL has the top byte zero. -/
theorem topZero (raw : BitVec 88) : (wordBits ((0 : BitVec 8) ++ raw) 88 8).toNat = 0 := by
  have hx : wordBits ((0 : BitVec 8) ++ raw) 88 8 = 0 := by
    ext j hj
    simp only [wordBits, BitVec.getElem_extractLsb']
    simp only [BitVec.getLsbD_append]
    rw [if_neg (by omega)]
    simp
  rw [hx]; rfl

theorem ill (raw : BitVec 88) : Statement (.ill raw) := ⟨_, rfl, topZero raw⟩
theorem nop (h : Hdr) (f : Fields) : Statement (.nop h f) := ⟨_, rfl, topByte _ _ _ _ _ _ _ (by decide)⟩
theorem brk (h : Hdr) (f : Fields) : Statement (.brk h f) := ⟨_, rfl, topByte _ _ _ _ _ _ _ (by decide)⟩
theorem trap (h : Hdr) (f : Fields) : Statement (.trap h f) := ⟨_, rfl, topByte _ _ _ _ _ _ _ (by decide)⟩
theorem rte (h : Hdr) (f : Fields) : Statement (.rte h f) := ⟨_, rfl, topByte _ _ _ _ _ _ _ (by decide)⟩
theorem rteEnd (h : Hdr) (f : Fields) : Statement (.rteEnd h f) := ⟨_, rfl, topByte _ _ _ _ _ _ _ (by decide)⟩
theorem rteDrop (h : Hdr) (f : Fields) : Statement (.rteDrop h f) := ⟨_, rfl, topByte _ _ _ _ _ _ _ (by decide)⟩
theorem mfsr (h : Hdr) (f : Fields) : Statement (.mfsr h f) := ⟨_, rfl, topByte _ _ _ _ _ _ _ (by decide)⟩
theorem mtsr (h : Hdr) (f : Fields) : Statement (.mtsr h f) := ⟨_, rfl, topByte _ _ _ _ _ _ _ (by decide)⟩
theorem spawn (h : Hdr) (f : Fields) : Statement (.spawn h f) := ⟨_, rfl, topByte _ _ _ _ _ _ _ (by decide)⟩
theorem fork (h : Hdr) (f : Fields) : Statement (.fork h f) := ⟨_, rfl, topByte _ _ _ _ _ _ _ (by decide)⟩
theorem join (h : Hdr) (f : Fields) : Statement (.join h f) := ⟨_, rfl, topByte _ _ _ _ _ _ _ (by decide)⟩
theorem migr (h : Hdr) (f : Fields) : Statement (.migr h f) := ⟨_, rfl, topByte _ _ _ _ _ _ _ (by decide)⟩
theorem exit (h : Hdr) (f : Fields) : Statement (.exit h f) := ⟨_, rfl, topByte _ _ _ _ _ _ _ (by decide)⟩
theorem yield (h : Hdr) (f : Fields) : Statement (.yield h f) := ⟨_, rfl, topByte _ _ _ _ _ _ _ (by decide)⟩
theorem iflush (h : Hdr) (f : Fields) : Statement (.iflush h f) := ⟨_, rfl, topByte _ _ _ _ _ _ _ (by decide)⟩
theorem add (h : Hdr) (f : Fields) : Statement (.add h f) := ⟨_, rfl, topByte _ _ _ _ _ _ _ (by decide)⟩
theorem sub (h : Hdr) (f : Fields) : Statement (.sub h f) := ⟨_, rfl, topByte _ _ _ _ _ _ _ (by decide)⟩
theorem mul (h : Hdr) (f : Fields) : Statement (.mul h f) := ⟨_, rfl, topByte _ _ _ _ _ _ _ (by decide)⟩
theorem mulh (h : Hdr) (f : Fields) : Statement (.mulh h f) := ⟨_, rfl, topByte _ _ _ _ _ _ _ (by decide)⟩
theorem mulhn (h : Hdr) (f : Fields) : Statement (.mulhn h f) := ⟨_, rfl, topByte _ _ _ _ _ _ _ (by decide)⟩
theorem div (h : Hdr) (f : Fields) : Statement (.div h f) := ⟨_, rfl, topByte _ _ _ _ _ _ _ (by decide)⟩
theorem divn (h : Hdr) (f : Fields) : Statement (.divn h f) := ⟨_, rfl, topByte _ _ _ _ _ _ _ (by decide)⟩
theorem rem (h : Hdr) (f : Fields) : Statement (.rem h f) := ⟨_, rfl, topByte _ _ _ _ _ _ _ (by decide)⟩
theorem remn (h : Hdr) (f : Fields) : Statement (.remn h f) := ⟨_, rfl, topByte _ _ _ _ _ _ _ (by decide)⟩
theorem and (h : Hdr) (f : Fields) : Statement (.and h f) := ⟨_, rfl, topByte _ _ _ _ _ _ _ (by decide)⟩
theorem or (h : Hdr) (f : Fields) : Statement (.or h f) := ⟨_, rfl, topByte _ _ _ _ _ _ _ (by decide)⟩
theorem xor (h : Hdr) (f : Fields) : Statement (.xor h f) := ⟨_, rfl, topByte _ _ _ _ _ _ _ (by decide)⟩
theorem andn (h : Hdr) (f : Fields) : Statement (.andn h f) := ⟨_, rfl, topByte _ _ _ _ _ _ _ (by decide)⟩
theorem shl (h : Hdr) (f : Fields) : Statement (.shl h f) := ⟨_, rfl, topByte _ _ _ _ _ _ _ (by decide)⟩
theorem shr (h : Hdr) (f : Fields) : Statement (.shr h f) := ⟨_, rfl, topByte _ _ _ _ _ _ _ (by decide)⟩
theorem sra (h : Hdr) (f : Fields) : Statement (.sra h f) := ⟨_, rfl, topByte _ _ _ _ _ _ _ (by decide)⟩
theorem rol (h : Hdr) (f : Fields) : Statement (.rol h f) := ⟨_, rfl, topByte _ _ _ _ _ _ _ (by decide)⟩
theorem clz (h : Hdr) (f : Fields) : Statement (.clz h f) := ⟨_, rfl, topByte _ _ _ _ _ _ _ (by decide)⟩
theorem ctz (h : Hdr) (f : Fields) : Statement (.ctz h f) := ⟨_, rfl, topByte _ _ _ _ _ _ _ (by decide)⟩
theorem popc (h : Hdr) (f : Fields) : Statement (.popc h f) := ⟨_, rfl, topByte _ _ _ _ _ _ _ (by decide)⟩
theorem min (h : Hdr) (f : Fields) : Statement (.min h f) := ⟨_, rfl, topByte _ _ _ _ _ _ _ (by decide)⟩
theorem max (h : Hdr) (f : Fields) : Statement (.max h f) := ⟨_, rfl, topByte _ _ _ _ _ _ _ (by decide)⟩
theorem minn (h : Hdr) (f : Fields) : Statement (.minn h f) := ⟨_, rfl, topByte _ _ _ _ _ _ _ (by decide)⟩
theorem maxn (h : Hdr) (f : Fields) : Statement (.maxn h f) := ⟨_, rfl, topByte _ _ _ _ _ _ _ (by decide)⟩
theorem sext (h : Hdr) (f : Fields) : Statement (.sext h f) := ⟨_, rfl, topByte _ _ _ _ _ _ _ (by decide)⟩
theorem zext (h : Hdr) (f : Fields) : Statement (.zext h f) := ⟨_, rfl, topByte _ _ _ _ _ _ _ (by decide)⟩
theorem bfx (h : Hdr) (f : Fields) : Statement (.bfx h f) := ⟨_, rfl, topByte _ _ _ _ _ _ _ (by decide)⟩
theorem bfi (h : Hdr) (f : Fields) : Statement (.bfi h f) := ⟨_, rfl, topByte _ _ _ _ _ _ _ (by decide)⟩
theorem movi (h : Hdr) (f : Fields) : Statement (.movi h f) := ⟨_, rfl, topByte _ _ _ _ _ _ _ (by decide)⟩
theorem moviHi (h : Hdr) (f : Fields) : Statement (.moviHi h f) := ⟨_, rfl, topByte _ _ _ _ _ _ _ (by decide)⟩
theorem lea (h : Hdr) (f : Fields) : Statement (.lea h f) := ⟨_, rfl, topByte _ _ _ _ _ _ _ (by decide)⟩
theorem sel (h : Hdr) (f : Fields) : Statement (.sel h f) := ⟨_, rfl, topByte _ _ _ _ _ _ _ (by decide)⟩
theorem cmp (h : Hdr) (f : Fields) : Statement (.cmp h f) := ⟨_, rfl, topByte _ _ _ _ _ _ _ (by decide)⟩
theorem pand (h : Hdr) (f : Fields) : Statement (.pand h f) := ⟨_, rfl, topByte _ _ _ _ _ _ _ (by decide)⟩
theorem por (h : Hdr) (f : Fields) : Statement (.por h f) := ⟨_, rfl, topByte _ _ _ _ _ _ _ (by decide)⟩
theorem pxor (h : Hdr) (f : Fields) : Statement (.pxor h f) := ⟨_, rfl, topByte _ _ _ _ _ _ _ (by decide)⟩
theorem pnot (h : Hdr) (f : Fields) : Statement (.pnot h f) := ⟨_, rfl, topByte _ _ _ _ _ _ _ (by decide)⟩
theorem pmov (h : Hdr) (f : Fields) : Statement (.pmov h f) := ⟨_, rfl, topByte _ _ _ _ _ _ _ (by decide)⟩
theorem br (h : Hdr) (f : Fields) : Statement (.br h f) := ⟨_, rfl, topByte _ _ _ _ _ _ _ (by decide)⟩
theorem brx (h : Hdr) (f : Fields) : Statement (.brx h f) := ⟨_, rfl, topByte _ _ _ _ _ _ _ (by decide)⟩
theorem call (h : Hdr) (f : Fields) : Statement (.call h f) := ⟨_, rfl, topByte _ _ _ _ _ _ _ (by decide)⟩
theorem callx (h : Hdr) (f : Fields) : Statement (.callx h f) := ⟨_, rfl, topByte _ _ _ _ _ _ _ (by decide)⟩
theorem ret (h : Hdr) (f : Fields) : Statement (.ret h f) := ⟨_, rfl, topByte _ _ _ _ _ _ _ (by decide)⟩
theorem loop (h : Hdr) (f : Fields) : Statement (.loop h f) := ⟨_, rfl, topByte _ _ _ _ _ _ _ (by decide)⟩
theorem ldl (h : Hdr) (f : Fields) : Statement (.ldl h f) := ⟨_, rfl, topByte _ _ _ _ _ _ _ (by decide)⟩
theorem ld (h : Hdr) (f : Fields) : Statement (.ld h f) := ⟨_, rfl, topByte _ _ _ _ _ _ _ (by decide)⟩
theorem st (h : Hdr) (f : Fields) : Statement (.st h f) := ⟨_, rfl, topByte _ _ _ _ _ _ _ (by decide)⟩
theorem ldf (h : Hdr) (f : Fields) : Statement (.ldf h f) := ⟨_, rfl, topByte _ _ _ _ _ _ _ (by decide)⟩
theorem ldff (h : Hdr) (f : Fields) : Statement (.ldff h f) := ⟨_, rfl, topByte _ _ _ _ _ _ _ (by decide)⟩
theorem ste (h : Hdr) (f : Fields) : Statement (.ste h f) := ⟨_, rfl, topByte _ _ _ _ _ _ _ (by decide)⟩
theorem stf (h : Hdr) (f : Fields) : Statement (.stf h f) := ⟨_, rfl, topByte _ _ _ _ _ _ _ (by decide)⟩
theorem tagr (h : Hdr) (f : Fields) : Statement (.tagr h f) := ⟨_, rfl, topByte _ _ _ _ _ _ _ (by decide)⟩
theorem tagw (h : Hdr) (f : Fields) : Statement (.tagw h f) := ⟨_, rfl, topByte _ _ _ _ _ _ _ (by decide)⟩
theorem waita (h : Hdr) (f : Fields) : Statement (.waita h f) := ⟨_, rfl, topByte _ _ _ _ _ _ _ (by decide)⟩
theorem acq (h : Hdr) (f : Fields) : Statement (.acq h f) := ⟨_, rfl, topByte _ _ _ _ _ _ _ (by decide)⟩
theorem rel (h : Hdr) (f : Fields) : Statement (.rel h f) := ⟨_, rfl, topByte _ _ _ _ _ _ _ (by decide)⟩
theorem bind (h : Hdr) (f : Fields) : Statement (.bind h f) := ⟨_, rfl, topByte _ _ _ _ _ _ _ (by decide)⟩
theorem unbind (h : Hdr) (f : Fields) : Statement (.unbind h f) := ⟨_, rfl, topByte _ _ _ _ _ _ _ (by decide)⟩
theorem fence (h : Hdr) (f : Fields) : Statement (.fence h f) := ⟨_, rfl, topByte _ _ _ _ _ _ _ (by decide)⟩
theorem aadd (h : Hdr) (f : Fields) : Statement (.aadd h f) := ⟨_, rfl, topByte _ _ _ _ _ _ _ (by decide)⟩
theorem afadd (h : Hdr) (f : Fields) : Statement (.afadd h f) := ⟨_, rfl, topByte _ _ _ _ _ _ _ (by decide)⟩
theorem amin (h : Hdr) (f : Fields) : Statement (.amin h f) := ⟨_, rfl, topByte _ _ _ _ _ _ _ (by decide)⟩
theorem amax (h : Hdr) (f : Fields) : Statement (.amax h f) := ⟨_, rfl, topByte _ _ _ _ _ _ _ (by decide)⟩
theorem aand (h : Hdr) (f : Fields) : Statement (.aand h f) := ⟨_, rfl, topByte _ _ _ _ _ _ _ (by decide)⟩
theorem aor (h : Hdr) (f : Fields) : Statement (.aor h f) := ⟨_, rfl, topByte _ _ _ _ _ _ _ (by decide)⟩
theorem axor (h : Hdr) (f : Fields) : Statement (.axor h f) := ⟨_, rfl, topByte _ _ _ _ _ _ _ (by decide)⟩
theorem aswp (h : Hdr) (f : Fields) : Statement (.aswp h f) := ⟨_, rfl, topByte _ _ _ _ _ _ _ (by decide)⟩
theorem acas (h : Hdr) (f : Fields) : Statement (.acas h f) := ⟨_, rfl, topByte _ _ _ _ _ _ _ (by decide)⟩
theorem pref (h : Hdr) (f : Fields) : Statement (.pref h f) := ⟨_, rfl, topByte _ _ _ _ _ _ _ (by decide)⟩
theorem cflush (h : Hdr) (f : Fields) : Statement (.cflush h f) := ⟨_, rfl, topByte _ _ _ _ _ _ _ (by decide)⟩
theorem cinv (h : Hdr) (f : Fields) : Statement (.cinv h f) := ⟨_, rfl, topByte _ _ _ _ _ _ _ (by decide)⟩
theorem nsend (h : Hdr) (f : Fields) : Statement (.nsend h f) := ⟨_, rfl, topByte _ _ _ _ _ _ _ (by decide)⟩
theorem vadd (h : Hdr) (f : Fields) : Statement (.vadd h f) := ⟨_, rfl, topByte _ _ _ _ _ _ _ (by decide)⟩
theorem vsub (h : Hdr) (f : Fields) : Statement (.vsub h f) := ⟨_, rfl, topByte _ _ _ _ _ _ _ (by decide)⟩
theorem vmul (h : Hdr) (f : Fields) : Statement (.vmul h f) := ⟨_, rfl, topByte _ _ _ _ _ _ _ (by decide)⟩
theorem vfma (h : Hdr) (f : Fields) : Statement (.vfma h f) := ⟨_, rfl, topByte _ _ _ _ _ _ _ (by decide)⟩
theorem vfms (h : Hdr) (f : Fields) : Statement (.vfms h f) := ⟨_, rfl, topByte _ _ _ _ _ _ _ (by decide)⟩
theorem vfnma (h : Hdr) (f : Fields) : Statement (.vfnma h f) := ⟨_, rfl, topByte _ _ _ _ _ _ _ (by decide)⟩
theorem vmin (h : Hdr) (f : Fields) : Statement (.vmin h f) := ⟨_, rfl, topByte _ _ _ _ _ _ _ (by decide)⟩
theorem vmax (h : Hdr) (f : Fields) : Statement (.vmax h f) := ⟨_, rfl, topByte _ _ _ _ _ _ _ (by decide)⟩
theorem vabs (h : Hdr) (f : Fields) : Statement (.vabs h f) := ⟨_, rfl, topByte _ _ _ _ _ _ _ (by decide)⟩
theorem vneg (h : Hdr) (f : Fields) : Statement (.vneg h f) := ⟨_, rfl, topByte _ _ _ _ _ _ _ (by decide)⟩
theorem vdiv (h : Hdr) (f : Fields) : Statement (.vdiv h f) := ⟨_, rfl, topByte _ _ _ _ _ _ _ (by decide)⟩
theorem vsqrt (h : Hdr) (f : Fields) : Statement (.vsqrt h f) := ⟨_, rfl, topByte _ _ _ _ _ _ _ (by decide)⟩
theorem vrcp (h : Hdr) (f : Fields) : Statement (.vrcp h f) := ⟨_, rfl, topByte _ _ _ _ _ _ _ (by decide)⟩
theorem vrsq (h : Hdr) (f : Fields) : Statement (.vrsq h f) := ⟨_, rfl, topByte _ _ _ _ _ _ _ (by decide)⟩
theorem vexp2 (h : Hdr) (f : Fields) : Statement (.vexp2 h f) := ⟨_, rfl, topByte _ _ _ _ _ _ _ (by decide)⟩
theorem vlog2 (h : Hdr) (f : Fields) : Statement (.vlog2 h f) := ⟨_, rfl, topByte _ _ _ _ _ _ _ (by decide)⟩
theorem viadd (h : Hdr) (f : Fields) : Statement (.viadd h f) := ⟨_, rfl, topByte _ _ _ _ _ _ _ (by decide)⟩
theorem visub (h : Hdr) (f : Fields) : Statement (.visub h f) := ⟨_, rfl, topByte _ _ _ _ _ _ _ (by decide)⟩
theorem vimul (h : Hdr) (f : Fields) : Statement (.vimul h f) := ⟨_, rfl, topByte _ _ _ _ _ _ _ (by decide)⟩
theorem vimulh (h : Hdr) (f : Fields) : Statement (.vimulh h f) := ⟨_, rfl, topByte _ _ _ _ _ _ _ (by decide)⟩
theorem vimad (h : Hdr) (f : Fields) : Statement (.vimad h f) := ⟨_, rfl, topByte _ _ _ _ _ _ _ (by decide)⟩
theorem vshl (h : Hdr) (f : Fields) : Statement (.vshl h f) := ⟨_, rfl, topByte _ _ _ _ _ _ _ (by decide)⟩
theorem vshr (h : Hdr) (f : Fields) : Statement (.vshr h f) := ⟨_, rfl, topByte _ _ _ _ _ _ _ (by decide)⟩
theorem vsra (h : Hdr) (f : Fields) : Statement (.vsra h f) := ⟨_, rfl, topByte _ _ _ _ _ _ _ (by decide)⟩
theorem vand (h : Hdr) (f : Fields) : Statement (.vand h f) := ⟨_, rfl, topByte _ _ _ _ _ _ _ (by decide)⟩
theorem vor (h : Hdr) (f : Fields) : Statement (.vor h f) := ⟨_, rfl, topByte _ _ _ _ _ _ _ (by decide)⟩
theorem vxor (h : Hdr) (f : Fields) : Statement (.vxor h f) := ⟨_, rfl, topByte _ _ _ _ _ _ _ (by decide)⟩
theorem vandn (h : Hdr) (f : Fields) : Statement (.vandn h f) := ⟨_, rfl, topByte _ _ _ _ _ _ _ (by decide)⟩
theorem vpopc (h : Hdr) (f : Fields) : Statement (.vpopc h f) := ⟨_, rfl, topByte _ _ _ _ _ _ _ (by decide)⟩
theorem vclz (h : Hdr) (f : Fields) : Statement (.vclz h f) := ⟨_, rfl, topByte _ _ _ _ _ _ _ (by decide)⟩
theorem vfcmp (h : Hdr) (f : Fields) : Statement (.vfcmp h f) := ⟨_, rfl, topByte _ _ _ _ _ _ _ (by decide)⟩
theorem vicmp (h : Hdr) (f : Fields) : Statement (.vicmp h f) := ⟨_, rfl, topByte _ _ _ _ _ _ _ (by decide)⟩
theorem vmov (h : Hdr) (f : Fields) : Statement (.vmov h f) := ⟨_, rfl, topByte _ _ _ _ _ _ _ (by decide)⟩
theorem vmovClr (h : Hdr) (f : Fields) : Statement (.vmovClr h f) := ⟨_, rfl, topByte _ _ _ _ _ _ _ (by decide)⟩
theorem vbcst (h : Hdr) (f : Fields) : Statement (.vbcst h f) := ⟨_, rfl, topByte _ _ _ _ _ _ _ (by decide)⟩
theorem vins (h : Hdr) (f : Fields) : Statement (.vins h f) := ⟨_, rfl, topByte _ _ _ _ _ _ _ (by decide)⟩
theorem vext (h : Hdr) (f : Fields) : Statement (.vext h f) := ⟨_, rfl, topByte _ _ _ _ _ _ _ (by decide)⟩
theorem vperm (h : Hdr) (f : Fields) : Statement (.vperm h f) := ⟨_, rfl, topByte _ _ _ _ _ _ _ (by decide)⟩
theorem vshuf (h : Hdr) (f : Fields) : Statement (.vshuf h f) := ⟨_, rfl, topByte _ _ _ _ _ _ _ (by decide)⟩
theorem vcomp (h : Hdr) (f : Fields) : Statement (.vcomp h f) := ⟨_, rfl, topByte _ _ _ _ _ _ _ (by decide)⟩
theorem vexpd (h : Hdr) (f : Fields) : Statement (.vexpd h f) := ⟨_, rfl, topByte _ _ _ _ _ _ _ (by decide)⟩
theorem vsel (h : Hdr) (f : Fields) : Statement (.vsel h f) := ⟨_, rfl, topByte _ _ _ _ _ _ _ (by decide)⟩
theorem viota (h : Hdr) (f : Fields) : Statement (.viota h f) := ⟨_, rfl, topByte _ _ _ _ _ _ _ (by decide)⟩
theorem vred (h : Hdr) (f : Fields) : Statement (.vred h f) := ⟨_, rfl, topByte _ _ _ _ _ _ _ (by decide)⟩
theorem vcvt (h : Hdr) (f : Fields) : Statement (.vcvt h f) := ⟨_, rfl, topByte _ _ _ _ _ _ _ (by decide)⟩
theorem vdot (h : Hdr) (f : Fields) : Statement (.vdot h f) := ⟨_, rfl, topByte _ _ _ _ _ _ _ (by decide)⟩
theorem vsca (h : Hdr) (f : Fields) : Statement (.vsca h f) := ⟨_, rfl, topByte _ _ _ _ _ _ _ (by decide)⟩
theorem vld (h : Hdr) (f : Fields) : Statement (.vld h f) := ⟨_, rfl, topByte _ _ _ _ _ _ _ (by decide)⟩
theorem vst (h : Hdr) (f : Fields) : Statement (.vst h f) := ⟨_, rfl, topByte _ _ _ _ _ _ _ (by decide)⟩
theorem xfence (h : Hdr) (f : Fields) : Statement (.xfence h f) := ⟨_, rfl, topByte _ _ _ _ _ _ _ (by decide)⟩
theorem xseal (h : Hdr) (f : Fields) : Statement (.xseal h f) := ⟨_, rfl, topByte _ _ _ _ _ _ _ (by decide)⟩
theorem xwait (h : Hdr) (f : Fields) : Statement (.xwait h f) := ⟨_, rfl, topByte _ _ _ _ _ _ _ (by decide)⟩
theorem bari (h : Hdr) (f : Fields) : Statement (.bari h f) := ⟨_, rfl, topByte _ _ _ _ _ _ _ (by decide)⟩
theorem bara (h : Hdr) (f : Fields) : Statement (.bara h f) := ⟨_, rfl, topByte _ _ _ _ _ _ _ (by decide)⟩
theorem bard (h : Hdr) (f : Fields) : Statement (.bard h f) := ⟨_, rfl, topByte _ _ _ _ _ _ _ (by decide)⟩
theorem barw (h : Hdr) (f : Fields) : Statement (.barw h f) := ⟨_, rfl, topByte _ _ _ _ _ _ _ (by decide)⟩
theorem tcfg (h : Hdr) (f : Fields) : Statement (.tcfg h f) := ⟨_, rfl, topByte _ _ _ _ _ _ _ (by decide)⟩
theorem kclm (h : Hdr) (f : Fields) : Statement (.kclm h f) := ⟨_, rfl, topByte _ _ _ _ _ _ _ (by decide)⟩
theorem krel (h : Hdr) (f : Fields) : Statement (.krel h f) := ⟨_, rfl, topByte _ _ _ _ _ _ _ (by decide)⟩
theorem kld (h : Hdr) (f : Fields) : Statement (.kld h f) := ⟨_, rfl, topByte _ _ _ _ _ _ _ (by decide)⟩
theorem ald (h : Hdr) (f : Fields) : Statement (.ald h f) := ⟨_, rfl, topByte _ _ _ _ _ _ _ (by decide)⟩
theorem ast (h : Hdr) (f : Fields) : Statement (.ast h f) := ⟨_, rfl, topByte _ _ _ _ _ _ _ (by decide)⟩
theorem azero (h : Hdr) (f : Fields) : Statement (.azero h f) := ⟨_, rfl, topByte _ _ _ _ _ _ _ (by decide)⟩
theorem mma (h : Hdr) (f : Fields) : Statement (.mma h f) := ⟨_, rfl, topByte _ _ _ _ _ _ _ (by decide)⟩
theorem mmas (h : Hdr) (f : Fields) : Statement (.mmas h f) := ⟨_, rfl, topByte _ _ _ _ _ _ _ (by decide)⟩
theorem asca (h : Hdr) (f : Fields) : Statement (.asca h f) := ⟨_, rfl, topByte _ _ _ _ _ _ _ (by decide)⟩
theorem acvt (h : Hdr) (f : Fields) : Statement (.acvt h f) := ⟨_, rfl, topByte _ _ _ _ _ _ _ (by decide)⟩
theorem mwait (h : Hdr) (f : Fields) : Statement (.mwait h f) := ⟨_, rfl, topByte _ _ _ _ _ _ _ (by decide)⟩
theorem spld (h : Hdr) (f : Fields) : Statement (.spld h f) := ⟨_, rfl, topByte _ _ _ _ _ _ _ (by decide)⟩
theorem spst (h : Hdr) (f : Fields) : Statement (.spst h f) := ⟨_, rfl, topByte _ _ _ _ _ _ _ (by decide)⟩
theorem spshp (h : Hdr) (f : Fields) : Statement (.spshp h f) := ⟨_, rfl, topByte _ _ _ _ _ _ _ (by decide)⟩
theorem spup (h : Hdr) (f : Fields) : Statement (.spup h f) := ⟨_, rfl, topByte _ _ _ _ _ _ _ (by decide)⟩
theorem spdn (h : Hdr) (f : Fields) : Statement (.spdn h f) := ⟨_, rfl, topByte _ _ _ _ _ _ _ (by decide)⟩
theorem spmode (h : Hdr) (f : Fields) : Statement (.spmode h f) := ⟨_, rfl, topByte _ _ _ _ _ _ _ (by decide)⟩
theorem spnorm (h : Hdr) (f : Fields) : Statement (.spnorm h f) := ⟨_, rfl, topByte _ _ _ _ _ _ _ (by decide)⟩
theorem spwait (h : Hdr) (f : Fields) : Statement (.spwait h f) := ⟨_, rfl, topByte _ _ _ _ _ _ _ (by decide)⟩
theorem wvcfg (h : Hdr) (f : Fields) : Statement (.wvcfg h f) := ⟨_, rfl, topByte _ _ _ _ _ _ _ (by decide)⟩
theorem wvarm (h : Hdr) (f : Fields) : Statement (.wvarm h f) := ⟨_, rfl, topByte _ _ _ _ _ _ _ (by decide)⟩
theorem wvflsh (h : Hdr) (f : Fields) : Statement (.wvflsh h f) := ⟨_, rfl, topByte _ _ _ _ _ _ _ (by decide)⟩
theorem wvstat (h : Hdr) (f : Fields) : Statement (.wvstat h f) := ⟨_, rfl, topByte _ _ _ _ _ _ _ (by decide)⟩
theorem rqset (h : Hdr) (f : Fields) : Statement (.rqset h f) := ⟨_, rfl, topByte _ _ _ _ _ _ _ (by decide)⟩
theorem rqray (h : Hdr) (f : Fields) : Statement (.rqray h f) := ⟨_, rfl, topByte _ _ _ _ _ _ _ (by decide)⟩
theorem rqnear (h : Hdr) (f : Fields) : Statement (.rqnear h f) := ⟨_, rfl, topByte _ _ _ _ _ _ _ (by decide)⟩
theorem rqwait (h : Hdr) (f : Fields) : Statement (.rqwait h f) := ⟨_, rfl, topByte _ _ _ _ _ _ _ (by decide)⟩
theorem evnext (h : Hdr) (f : Fields) : Statement (.evnext h f) := ⟨_, rfl, topByte _ _ _ _ _ _ _ (by decide)⟩
theorem sleep (h : Hdr) (f : Fields) : Statement (.sleep h f) := ⟨_, rfl, topByte _ _ _ _ _ _ _ (by decide)⟩
theorem popr (h : Hdr) (f : Fields) : Statement (.popr h f) := ⟨_, rfl, topByte _ _ _ _ _ _ _ (by decide)⟩
theorem gnode (h : Hdr) (f : Fields) : Statement (.gnode h f) := ⟨_, rfl, topByte _ _ _ _ _ _ _ (by decide)⟩
theorem gdone (h : Hdr) (f : Fields) : Statement (.gdone h f) := ⟨_, rfl, topByte _ _ _ _ _ _ _ (by decide)⟩
theorem gwait (h : Hdr) (f : Fields) : Statement (.gwait h f) := ⟨_, rfl, topByte _ _ _ _ _ _ _ (by decide)⟩
theorem grange (h : Hdr) (f : Fields) : Statement (.grange h f) := ⟨_, rfl, topByte _ _ _ _ _ _ _ (by decide)⟩
theorem sqtab (h : Hdr) (f : Fields) : Statement (.sqtab h f) := ⟨_, rfl, topByte _ _ _ _ _ _ _ (by decide)⟩
theorem sqgo (h : Hdr) (f : Fields) : Statement (.sqgo h f) := ⟨_, rfl, topByte _ _ _ _ _ _ _ (by decide)⟩
theorem sqstat (h : Hdr) (f : Fields) : Statement (.sqstat h f) := ⟨_, rfl, topByte _ _ _ _ _ _ _ (by decide)⟩
theorem sqstop (h : Hdr) (f : Fields) : Statement (.sqstop h f) := ⟨_, rfl, topByte _ _ _ _ _ _ _ (by decide)⟩
theorem blease (h : Hdr) (f : Fields) : Statement (.blease h f) := ⟨_, rfl, topByte _ _ _ _ _ _ _ (by decide)⟩
theorem brel (h : Hdr) (f : Fields) : Statement (.brel h f) := ⟨_, rfl, topByte _ _ _ _ _ _ _ (by decide)⟩
theorem longResultArrival (x : Nat) (i : Nat) : Statement (.longResultArrival x i) := rfl
theorem trapTaken (x : Nat) : Statement (.trapTaken x) := rfl
theorem linkValueArrival (i : Nat) : Statement (.linkValueArrival i) := rfl
theorem migrationArrival (x : Nat) (c : Nat) : Statement (.migrationArrival x c) := rfl
theorem migrationAcknowledge (x : Nat) : Statement (.migrationAcknowledge x) := rfl
theorem migrationRefused (x : Nat) : Statement (.migrationRefused x) := rfl
theorem eventArrival (i : Nat) : Statement (.eventArrival i) := rfl
theorem recordArrival (i : Nat) : Statement (.recordArrival i) := rfl
theorem wakeBinding (k : Nat) (c : Nat) : Statement (.wakeBinding k c) := rfl
theorem recordRaise (k : Nat) (lvl : Nat) : Statement (.recordRaise k lvl) := rfl
theorem loadLevelling (k : Nat) : Statement (.loadLevelling k) := rfl
theorem sleepTimerExpiry (k : Nat) : Statement (.sleepTimerExpiry k) := rfl
theorem supqRead (k : Nat) (n : BitVec 4) : Statement (.supqRead k n) := rfl
theorem hbaseWrite (k : Nat) (v : BitVec 64) : Statement (.hbaseWrite k v) := rfl
theorem pairsWrite (k : Nat) (v : BitVec 64) : Statement (.pairsWrite k v) := rfl
theorem ctxopSave (k : Nat) : Statement (.ctxopSave k) := rfl
theorem ctxopRestore (k : Nat) : Statement (.ctxopRestore k) := rfl
theorem preEmptionRequest (k : Nat) (lid : Nat) : Statement (.preEmptionRequest k lid) := rfl
theorem softDroop (k : Nat) : Statement (.softDroop k) := rfl
theorem hardDroop (kind : Nat) (n : Nat) : Statement (.hardDroop kind n) := rfl
theorem droopRecovery (k : Nat) : Statement (.droopRecovery k) := rfl
theorem hardDroopLimit (k : Nat) : Statement (.hardDroopLimit k) := rfl
theorem brownout (d : Nat) : Statement (.brownout d) := rfl
theorem coreKill (k : Nat) : Statement (.coreKill k) := rfl
theorem postmasterRestart (k : Nat) : Statement (.postmasterRestart k) := rfl
theorem remoteScratchpadAccess (i : Nat) : Statement (.remoteScratchpadAccess i) := rfl
theorem waiterRetry (i : Nat) : Statement (.waiterRetry i) := rfl
theorem waitaTimeout (x : Nat) : Statement (.waitaTimeout x) := rfl
theorem forwardProgressHold (k : Nat) : Statement (.forwardProgressHold k) := rfl
theorem heldThreadWake (k : Nat) (i : Nat) : Statement (.heldThreadWake k i) := rfl
theorem atomicAtHome (i : Nat) : Statement (.atomicAtHome i) := rfl
theorem l1Replacement (k : Nat) (pid : Nat) (vln : Nat) (bad : Bool) : Statement (.l1Replacement k pid vln bad) := rfl
theorem pceReadEntry (q : Nat) : Statement (.pceReadEntry q) := rfl
theorem pceWriteEntry (q : Nat) : Statement (.pceWriteEntry q) := rfl
theorem pceFill (q : Nat) : Statement (.pceFill q) := rfl
theorem pceEvict (q : Nat) : Statement (.pceEvict q) := rfl
theorem bteStart (x : Nat) (n : BitVec 4) : Statement (.bteStart x n) := rfl
theorem bteTransferComplete (q : Nat) (i : Nat) : Statement (.bteTransferComplete q i) := rfl
theorem barrierUpdate (q : Nat) (b : Nat) (n : Nat) : Statement (.barrierUpdate q b n) := rfl
theorem barwTimeout (x : Nat) : Statement (.barwTimeout x) := rfl
theorem mxeCommandArrival (i : Nat) : Statement (.mxeCommandArrival i) := rfl
theorem mxeStep (q : Nat) : Statement (.mxeStep q) := rfl
theorem mxeCompletionReply (i : Nat) : Statement (.mxeCompletionReply i) := rfl
theorem msaveSave (q : Nat) : Statement (.msaveSave q) := rfl
theorem msaveRestore (q : Nat) : Statement (.msaveRestore q) := rfl
theorem speCommandExecute (q : Nat) : Statement (.speCommandExecute q) := rfl
theorem speCompletionReply (i : Nat) : Statement (.speCompletionReply i) := rfl
theorem spsaveSave (q : Nat) : Statement (.spsaveSave q) := rfl
theorem spsaveRestore (q : Nat) : Statement (.spsaveRestore q) := rfl
theorem weaverEvent (i : Nat) : Statement (.weaverEvent i) := rfl
theorem bufferTimeout (q : Nat) (ch : Nat) : Statement (.bufferTimeout q ch) := rfl
theorem writeOut (q : Nat) (ch : Nat) : Statement (.writeOut q ch) := rfl
theorem bufferFree (q : Nat) (ch : Nat) (b : Nat) : Statement (.bufferFree q ch b) := rfl
theorem noticeRetry (i : Nat) : Statement (.noticeRetry i) := rfl
theorem rquCommandExecute (q : Nat) : Statement (.rquCommandExecute q) := rfl
theorem rquCompletionReply (i : Nat) : Statement (.rquCompletionReply i) := rfl
theorem meshRetry (i : Nat) : Statement (.meshRetry i) := rfl
theorem flitReplay (d : Nat) (link : Nat) (ok : Bool) : Statement (.flitReplay d link ok) := rfl
theorem translationWalk (d : Nat) (pid : Nat) (va : Nat) (acc : Nat) : Statement (.translationWalk d pid va acc) := rfl
theorem tinvWrite (d : Nat) (v : BitVec 64) : Statement (.tinvWrite d v) := rfl
theorem errorRecordApply (d : Nat) (b : Nat) (w0 : BitVec 64) (w1 : BitVec 64) (w2 : BitVec 64) (w3 : BitVec 64) (w5 : BitVec 64) : Statement (.errorRecordApply d b w0 w1 w2 w3 w5) := rfl
theorem errorPost (k : Nat) (v : BitVec 64) : Statement (.errorPost k v) := rfl
theorem secondaryChoice (k : Nat) (i : Nat) : Statement (.secondaryChoice k i) := rfl
theorem pairingCompare (d : Nat) (id : Nat) : Statement (.pairingCompare d id) := rfl
theorem dualMismatch (d : Nat) (id : Nat) : Statement (.dualMismatch d id) := rfl
theorem cmapWrite (d : Nat) (n : Nat) (v : BitVec 64) : Statement (.cmapWrite d n v) := rfl
theorem mapApply (d : Nat) : Statement (.mapApply d) := rfl
theorem placementReoffer (i : Nat) : Statement (.placementReoffer i) := rfl
theorem tguDispatch (d : Nat) : Statement (.tguDispatch d) := rfl
theorem rangeChunkDispatch (d : Nat) (slot : Nat) : Statement (.rangeChunkDispatch d slot) := rfl
theorem rangeSteal (d : Nat) (slot : Nat) : Statement (.rangeSteal d slot) := rfl
theorem wirePacketReceive (p : Nat) (chan : Nat) (good : Bool) (bytes : List (BitVec 8)) : Statement (.wirePacketReceive p chan good bytes) := rfl
theorem dropMarker (d : Nat) (src : Nat) : Statement (.dropMarker d src) := rfl
theorem eventSend (d : Nat) (src : Nat) : Statement (.eventSend d src) := rfl
theorem heartbeat (d : Nat) (g : Nat) (e : Nat) (src : Nat) : Statement (.heartbeat d g e src) := rfl
theorem destinationReceive (i : Nat) : Statement (.destinationReceive i) := rfl
theorem forcedClose (d : Nat) (g : Nat) (e : Nat) : Statement (.forcedClose d g e) := rfl
theorem windowBarrier (d : Nat) (g : Nat) (e : Nat) : Statement (.windowBarrier d g e) := rfl
theorem isqRound (d : Nat) (n : Nat) : Statement (.isqRound d n) := rfl
theorem stageSubmitRetry (d : Nat) (n : Nat) : Statement (.stageSubmitRetry d n) := rfl
theorem stageComplete (d : Nat) (n : Nat) : Statement (.stageComplete d n) := rfl
theorem stageTimeout (d : Nat) (n : Nat) : Statement (.stageTimeout d n) := rfl
theorem isqPreemptStop (d : Nat) (n : Nat) : Statement (.isqPreemptStop d n) := rfl
theorem ucieReplay (d : Nat) (m : Nat) (res : Nat) : Statement (.ucieReplay d m res) := rfl
theorem pageMigration (d : Nat) (v : BitVec 64) : Statement (.pageMigration d v) := rfl
theorem staleRequestRefusal (i : Nat) : Statement (.staleRequestRefusal i) := rfl
theorem dieReset : Statement .dieReset := rfl
theorem patrolScrub (ln : Nat) (found : Nat) : Statement (.patrolScrub ln found) := rfl
theorem budgetInterval (demand : List (Nat × Nat)) (allowance : Nat) (charges : List (Nat × Nat)) (mw : List (Nat × Nat)) (slack : Option Int) : Statement (.budgetInterval demand allowance charges mw slack) := rfl
theorem leaseExpiry (x : Nat) : Statement (.leaseExpiry x) := rfl
theorem leaseRevocation (x : Nat) : Statement (.leaseRevocation x) := rfl
theorem revokedLeaseEnd (x : Nat) : Statement (.revokedLeaseEnd x) := rfl
theorem lenderRecall (d : Nat) (n : Nat) : Statement (.lenderRecall d n) := rfl
theorem dumpWrite : Statement .dumpWrite := rfl
theorem boot (d : Nat) (host : List (List (BitVec 8))) : Statement (.boot d host) := rfl
theorem bar2Write (pa : Nat) (bytes : List (BitVec 8)) : Statement (.bar2Write pa bytes) := rfl
theorem bar2Read (pa : Nat) (n : Nat) : Statement (.bar2Read pa n) := rfl
theorem unsupportedRequest (bar : Nat) (off : Nat) : Statement (.unsupportedRequest bar off) := rfl
theorem notifyWrite (n : Nat) (v : BitVec 64) : Statement (.notifyWrite n v) := rfl
theorem queueService (n : Nat) : Statement (.queueService n) := rfl
theorem packetValidPoll (n : Nat) : Statement (.packetValidPoll n) := rfl
theorem nopPacket (n : Nat) : Statement (.nopPacket n) := rfl
theorem launchPacket (n : Nat) (regions : List (Nat × Nat × Nat × Bool)) : Statement (.launchPacket n regions) := rfl
theorem nodePacket (n : Nat) : Statement (.nodePacket n) := rfl
theorem copyPacket (n : Nat) : Statement (.copyPacket n) := rfl
theorem collectivePacket (n : Nat) : Statement (.collectivePacket n) := rfl
theorem signalPacket (n : Nat) : Statement (.signalPacket n) := rfl
theorem waitPacket (n : Nat) : Statement (.waitPacket n) := rfl
theorem leasePacket (n : Nat) : Statement (.leasePacket n) := rfl
theorem packetCompletion (n : Nat) (idx : Nat) : Statement (.packetCompletion n idx) := rfl
theorem collectiveComplete (i : Nat) (hdrs : List (Nat × BitVec 64 × BitVec 64)) (data : List (Nat × List Nat)) (down : Bool) (written : List Nat) : Statement (.collectiveComplete i hdrs data down written) := rfl
theorem collectiveTimeout (i : Nat) (hdrs : List (Nat × BitVec 64 × BitVec 64)) (data : List (Nat × List Nat)) (written : List Nat) : Statement (.collectiveTimeout i hdrs data written) := rfl
theorem msixPendingSend (v : Nat) : Statement (.msixPendingSend v) := rfl
theorem lctlPreempt (lid : Nat) : Statement (.lctlPreempt lid) := rfl
theorem lctlResume (lid : Nat) : Statement (.lctlResume lid) := rfl
theorem lctlEnd (lid : Nat) : Statement (.lctlEnd lid) := rfl
theorem dctlDump (mask : Nat) : Statement (.dctlDump mask) := rfl
theorem dctlReset (mask : Nat) : Statement (.dctlReset mask) := rfl
theorem peerFrameReplay (port : Nat) (ok : Bool) : Statement (.peerFrameReplay port ok) := rfl
theorem ident (tag : Nat) (good : Bool) : Statement (.ident tag good) := rfl
theorem rdreg (tag : Nat) (die : Nat) (off : Nat) (n : Nat) (good : Bool) : Statement (.rdreg tag die off n good) := rfl
theorem wrreg (tag : Nat) (die : Nat) (off : Nat) (v : BitVec 64) (good : Bool) : Statement (.wrreg tag die off v good) := rfl
theorem rdmem (tag : Nat) (pa : Nat) (len : Nat) (good : Bool) : Statement (.rdmem tag pa len good) := rfl
theorem dump (tag : Nat) (mask : Nat) (good : Bool) : Statement (.dump tag mask good) := rfl
theorem reset (tag : Nat) (mask : Nat) (good : Bool) : Statement (.reset tag mask good) := rfl
theorem fwload (tag : Nat) (off : Nat) (bytes : List (BitVec 8)) (good : Bool) : Statement (.fwload tag off bytes good) := rfl
theorem fwinst (tag : Nat) (kind : Nat) (good : Bool) : Statement (.fwinst tag kind good) := rfl
theorem attest (tag : Nat) (nonce : List (BitVec 8)) : Statement (.attest tag nonce) := rfl
theorem energy (tag : Nat) (die : Nat) (ctx : Nat) (clear : Bool) (good : Bool) : Statement (.energy tag die ctx clear good) := rfl
theorem power (tag : Nat) (w : Nat) (good : Bool) : Statement (.power tag w good) := rfl
theorem registerWrite (space : Nat) (off : Nat) (v : BitVec 64) : Statement (.registerWrite space off v) := rfl
theorem gwaitTimeout (x : Nat) : Statement (.gwaitTimeout x) := rfl
theorem sqstatWaitTimeout (x : Nat) : Statement (.sqstatWaitTimeout x) := rfl
theorem waitPacketTimeout (n : Nat) : Statement (.waitPacketTimeout n) := rfl
theorem engineSupplyRecovery (kind : Nat) (n : Nat) : Statement (.engineSupplyRecovery kind n) := rfl
theorem uncorrectableUnitStateError (kind : Nat) (n : Nat) (a : Nat) : Statement (.uncorrectableUnitStateError kind n a) := rfl
theorem llcReplacement (d : Nat) (ln : Nat) (bad : Bool) : Statement (.llcReplacement d ln bad) := rfl
theorem peerPortLinkUp (port : Nat) : Statement (.peerPortLinkUp port) := rfl
theorem unknownCommand (cmd : Nat) (tag : Nat) : Statement (.unknownCommand cmd tag) := rfl

end Sys2Proof.Laws.Opcode
end

