-- ==== Sys2Proof/Tests/Slice0.lean ====
section
/-! SUPPORT. Small tests: the checks of well-formedness, the words of every opcode, single steps, and for every statement a state and operands that
meet its hypotheses. -/

namespace Sys2Proof.Tests

open Sys2Proof Sys2Proof.Machine Sys2Proof.Claims

set_option Elab.async false

/-- No guard, no marker, no hints. -/
def plain : Hdr := ⟨false, 0, false, false, false, false⟩

/-! ### Words written out from the encoding tables (R37 to R53, and the table of each family) -/

theorem test_decode_system_0 :
    decodeWord 0x010000000000000000000000 = .ok (.nop plain ⟨.none, .none, .none, 0x0, .none⟩) ∧
    decodeWord 0x02B000000000000000000005 = .ok (.brk ⟨true, 3, false, false, false, false⟩ ⟨.none, .none, .none, 0x0, .i 0x5⟩) ∧
    decodeWord 0x03780000000000FFFFFFFFFF = .ok (.trap ⟨false, 7, true, false, false, false⟩ ⟨.none, .none, .none, 0x0, .i 0xffffffffff⟩) ∧
    decodeWord 0x040560482000000000000000 = .ok (.rte ⟨false, 0, false, true, false, true⟩ ⟨.p 1, .w 2, .none, 0x0, .none⟩) ∧
    decodeWord 0x048A00383000010000000000 = .ok (.rteEnd ⟨true, 0, true, false, true, false⟩ ⟨.none, .imm 3, .none, 0x1, .none⟩) ∧
    decodeWord 0x040000084000020000000000 = .ok (.rteDrop plain ⟨.none, .w 4, .none, 0x2, .none⟩) ∧
    decodeWord 0x05B020E84000000000000000 = .ok (.mfsr ⟨true, 3, false, false, false, false⟩ ⟨.w 3, .y 4, .none, 0x0, .none⟩) ∧
    decodeWord 0x0678A53FF000000000000000 = .ok (.mtsr ⟨false, 7, true, false, false, false⟩ ⟨.y 20, .imm 127, .none, 0x0, .none⟩) ∧
    decodeWord 0x0705604822300D0000000010 = .ok (.spawn ⟨false, 0, false, true, false, true⟩ ⟨.p 1, .w 2, .w 12, 0xd, .b 0x10⟩) ∧
    decodeWord 0x088A6080020C02FFFFFFFFFD = .ok (.fork ⟨true, 0, true, false, true, false⟩ ⟨.p 2, .none, .w 3, 0x2, .b 0xfffffffffd⟩) ∧
    decodeWord 0x090000081208036400000008 = .ok (.join plain ⟨.none, .w 1, .w 2, 0x3, .m 6 2 0 false 0x8⟩) ∧
    decodeWord 0x0AB000089000000000000000 = .ok (.migr ⟨true, 3, false, false, false, false⟩ ⟨.none, .w 9, .none, 0x0, .none⟩) := by decide

theorem test_decode_system_1 :
    decodeWord 0x0B7800000000000000000000 = .ok (.exit ⟨false, 7, true, false, false, false⟩ ⟨.none, .none, .none, 0x0, .none⟩) ∧
    decodeWord 0x0C0500000000000000000000 = .ok (.yield ⟨false, 0, false, true, false, true⟩ ⟨.none, .none, .none, 0x0, .none⟩) ∧
    decodeWord 0x0D8A00000000080000000000 = .ok (.iflush ⟨true, 0, true, false, true, false⟩ ⟨.none, .none, .none, 0x8, .m 0 0 0 false 0x0⟩) := by decide

theorem test_decode_scalar_0 :
    decodeWord 0x10002008323C000000000000 = .ok (.add plain ⟨.w 0, .w 3, .w 15, 0x0, .r 0 0 false 0⟩) ∧
    decodeWord 0x11B02060281C001000000000 = .ok (.sub ⟨true, 3, false, false, false, false⟩ ⟨.w 1, .l 2, .l 7, 0x0, .r 1 0 false 0⟩) ∧
    decodeWord 0x127820883F00002000000000 = .ok (.mul ⟨false, 7, true, false, false, false⟩ ⟨.w 2, .w 3, .imm 64, 0x0, .r 2 0 false 0⟩) ∧
    decodeWord 0x130520E0223C003000000000 = .ok (.mulh ⟨false, 0, false, true, false, true⟩ ⟨.w 3, .l 2, .w 15, 0x0, .r 3 0 false 0⟩) ∧
    decodeWord 0x148A2108381C004000000000 = .ok (.mulhn ⟨true, 0, true, false, true, false⟩ ⟨.w 4, .w 3, .l 7, 0x0, .r 4 0 false 0⟩) ∧
    decodeWord 0x150021602F00005000000000 = .ok (.div plain ⟨.w 5, .l 2, .imm 64, 0x0, .r 5 0 false 0⟩) ∧
    decodeWord 0x16B02188323C006000000000 = .ok (.divn ⟨true, 3, false, false, false, false⟩ ⟨.w 6, .w 3, .w 15, 0x0, .r 6 0 false 0⟩) ∧
    decodeWord 0x177821E0281C007000000000 = .ok (.rem ⟨false, 7, true, false, false, false⟩ ⟨.w 7, .l 2, .l 7, 0x0, .r 7 0 false 0⟩) ∧
    decodeWord 0x180522083F00000000000000 = .ok (.remn ⟨false, 0, false, true, false, true⟩ ⟨.w 8, .w 3, .imm 64, 0x0, .r 0 0 false 0⟩) ∧
    decodeWord 0x198A2260223C001000000000 = .ok (.and ⟨true, 0, true, false, true, false⟩ ⟨.w 9, .l 2, .w 15, 0x0, .r 1 0 false 0⟩) ∧
    decodeWord 0x1A002288381C002000000000 = .ok (.or plain ⟨.w 10, .w 3, .l 7, 0x0, .r 2 0 false 0⟩) ∧
    decodeWord 0x1BB022E02F00003000000000 = .ok (.xor ⟨true, 3, false, false, false, false⟩ ⟨.w 11, .l 2, .imm 64, 0x0, .r 3 0 false 0⟩) := by decide

theorem test_decode_scalar_1 :
    decodeWord 0x1C782308323C004000000000 = .ok (.andn ⟨false, 7, true, false, false, false⟩ ⟨.w 12, .w 3, .w 15, 0x0, .r 4 0 false 0⟩) ∧
    decodeWord 0x1D052360281C005000000000 = .ok (.shl ⟨false, 0, false, true, false, true⟩ ⟨.w 13, .l 2, .l 7, 0x0, .r 5 0 false 0⟩) ∧
    decodeWord 0x1E8A23883F00006000000000 = .ok (.shr ⟨true, 0, true, false, true, false⟩ ⟨.w 14, .w 3, .imm 64, 0x0, .r 6 0 false 0⟩) ∧
    decodeWord 0x1F0023E0223C007000000000 = .ok (.sra plain ⟨.w 15, .l 2, .w 15, 0x0, .r 7 0 false 0⟩) ∧
    decodeWord 0x20B02008381C000000000000 = .ok (.rol ⟨true, 3, false, false, false, false⟩ ⟨.w 0, .w 3, .l 7, 0x0, .r 0 0 false 0⟩) ∧
    decodeWord 0x217821888000001000000000 = .ok (.clz ⟨false, 7, true, false, false, false⟩ ⟨.w 6, .w 8, .none, 0x0, .r 1 0 false 0⟩) ∧
    decodeWord 0x220521888000003000000000 = .ok (.ctz ⟨false, 0, false, true, false, true⟩ ⟨.w 6, .w 8, .none, 0x0, .r 3 0 false 0⟩) ∧
    decodeWord 0x238A21888000005000000000 = .ok (.popc ⟨true, 0, true, false, true, false⟩ ⟨.w 6, .w 8, .none, 0x0, .r 5 0 false 0⟩) ∧
    decodeWord 0x280021888000000000000000 = .ok (.sext plain ⟨.w 6, .w 8, .none, 0x0, .r 0 0 false 0⟩) ∧
    decodeWord 0x29B021888000002000000000 = .ok (.zext ⟨true, 3, false, false, false, false⟩ ⟨.w 6, .w 8, .none, 0x0, .r 2 0 false 0⟩) ∧
    decodeWord 0x247820600FFC000000000000 = .ok (.min ⟨false, 7, true, false, false, false⟩ ⟨.w 1, .l 0, .imm 127, 0x0, .r 0 0 false 0⟩) ∧
    decodeWord 0x250520600FFC007000000000 = .ok (.max ⟨false, 0, false, true, false, true⟩ ⟨.w 1, .l 0, .imm 127, 0x0, .r 7 0 false 0⟩) := by decide

theorem test_decode_scalar_2 :
    decodeWord 0x268A20600FFC004000000000 = .ok (.minn ⟨true, 0, true, false, true, false⟩ ⟨.w 1, .l 0, .imm 127, 0x0, .r 4 0 false 0⟩) ∧
    decodeWord 0x270020600FFC006000000000 = .ok (.maxn plain ⟨.w 1, .l 0, .imm 127, 0x0, .r 6 0 false 0⟩) ∧
    decodeWord 0x2AB020883EFC3F6000000000 = .ok (.bfx ⟨true, 3, false, false, false, false⟩ ⟨.w 2, .w 3, .imm 63, 0x3f, .r 6 0 false 0⟩) ∧
    decodeWord 0x2B7820883210007000000000 = .ok (.bfi ⟨false, 7, true, false, false, false⟩ ⟨.w 2, .w 3, .w 4, 0x0, .r 7 0 false 0⟩) ∧
    decodeWord 0x2C052240000000FFFFFFFFFE = .ok (.movi ⟨false, 0, false, true, false, true⟩ ⟨.w 9, .none, .none, 0x0, .i 0xfffffffffe⟩) ∧
    decodeWord 0x2C8A22400000010000FFFFFF = .ok (.moviHi ⟨true, 0, true, false, true, false⟩ ⟨.w 9, .none, .none, 0x1, .i 0xffffff⟩) ∧
    decodeWord 0x2D002108521803003FFFFFF8 = .ok (.lea plain ⟨.w 4, .w 5, .w 6, 0x3, .m 0 0 0 false 0x3ffffff8⟩) ∧
    decodeWord 0x2EB021381FFC057000000000 = .ok (.sel ⟨true, 3, false, false, false, false⟩ ⟨.w 4, .imm 1, .imm 127, 0x5, .r 7 0 false 0⟩) ∧
    decodeWord 0x2F7861C84E00076000000000 = .ok (.cmp ⟨false, 7, true, false, false, false⟩ ⟨.p 7, .w 4, .imm 0, 0x7, .r 6 0 false 0⟩) := by decide

theorem test_decode_control_0 :
    decodeWord 0x30056058260C010000000000 = .ok (.pand ⟨false, 0, false, true, false, true⟩ ⟨.p 1, .p 2, .p 3, 0x1, .none⟩) ∧
    decodeWord 0x318A6058260C000000000000 = .ok (.por ⟨true, 0, true, false, true, false⟩ ⟨.p 1, .p 2, .p 3, 0x0, .none⟩) ∧
    decodeWord 0x320061D8060C010000000000 = .ok (.pxor plain ⟨.p 7, .p 0, .p 3, 0x1, .none⟩) ∧
    decodeWord 0x33B060582000000000000000 = .ok (.pnot ⟨true, 3, false, false, false, false⟩ ⟨.p 1, .p 2, .none, 0x0, .none⟩) ∧
    decodeWord 0x347820D82000020000000000 = .ok (.pmov ⟨false, 7, true, false, false, false⟩ ⟨.w 3, .p 2, .none, 0x2, .none⟩) ∧
    decodeWord 0x35050000000000FFFFFFFFFD = .ok (.br ⟨false, 0, false, true, false, true⟩ ⟨.none, .none, .none, 0x0, .b 0xfffffffffd⟩) ∧
    decodeWord 0x368A00087000000000000000 = .ok (.brx ⟨true, 0, true, false, true, false⟩ ⟨.none, .w 7, .none, 0x0, .none⟩) ∧
    decodeWord 0x370000000000007FFFFFFFFF = .ok (.call plain ⟨.none, .none, .none, 0x0, .b 0x7fffffffff⟩) ∧
    decodeWord 0x38B00008F000000000000000 = .ok (.callx ⟨true, 3, false, false, false, false⟩ ⟨.none, .w 15, .none, 0x0, .none⟩) ∧
    decodeWord 0x397800000000000000000000 = .ok (.ret ⟨false, 7, true, false, false, false⟩ ⟨.none, .none, .none, 0x0, .none⟩) ∧
    decodeWord 0x3A05003FF000000000000030 = .ok (.loop ⟨false, 0, false, true, false, true⟩ ⟨.none, .imm 127, .none, 0x0, .b 0x30⟩) ∧
    decodeWord 0x3B8A20800000000000000006 = .ok (.ldl ⟨true, 0, true, false, true, false⟩ ⟨.w 2, .none, .none, 0x0, .b 0x6⟩) := by decide

theorem test_decode_memory_0 :
    decodeWord 0x400021082000006000000000 = .ok (.ld plain ⟨.w 4, .w 2, .none, 0x0, .m 6 0 0 false 0x0⟩) ∧
    decodeWord 0x41B0E140020C07F13FFFFFFF = .ok (.st ⟨true, 3, false, false, false, false⟩ ⟨.imm 5, .none, .w 3, 0x7, .m 15 0 2 false 0x3fffffff⟩) ∧
    decodeWord 0x427821082000007800000000 = .ok (.ldf ⟨false, 7, true, false, false, false⟩ ⟨.w 4, .w 2, .none, 0x0, .m 7 4 0 false 0x0⟩) ∧
    decodeWord 0x430521082000006A00000000 = .ok (.ldff ⟨false, 0, false, true, false, true⟩ ⟨.w 4, .w 2, .none, 0x0, .m 6 5 0 false 0x0⟩) ∧
    decodeWord 0x448A21082000006200000000 = .ok (.ste ⟨true, 0, true, false, true, false⟩ ⟨.w 4, .w 2, .none, 0x0, .m 6 1 0 false 0x0⟩) ∧
    decodeWord 0x4500E0482000006400000000 = .ok (.stf plain ⟨.imm 1, .w 2, .none, 0x0, .m 6 2 0 false 0x0⟩) ∧
    decodeWord 0x46B021082000006000000000 = .ok (.tagr ⟨true, 3, false, false, false, false⟩ ⟨.w 4, .w 2, .none, 0x0, .m 6 0 0 false 0x0⟩) ∧
    decodeWord 0x4778E0482000006000000000 = .ok (.tagw ⟨false, 7, true, false, false, false⟩ ⟨.imm 1, .w 2, .none, 0x0, .m 6 0 0 false 0x0⟩) ∧
    decodeWord 0x480523882002D04000000000 = .ok (.waita ⟨false, 0, false, true, false, true⟩ ⟨.w 14, .w 2, .none, 0x2d0, .m 4 0 0 false 0x0⟩) ∧
    decodeWord 0x498A00082000006600000000 = .ok (.acq ⟨true, 0, true, false, true, false⟩ ⟨.none, .w 2, .none, 0x0, .m 6 3 0 false 0x0⟩) ∧
    decodeWord 0x4A0020482000007800000000 = .ok (.rel plain ⟨.w 1, .w 2, .none, 0x0, .m 7 4 0 false 0x0⟩) ∧
    decodeWord 0x4BB023882000006000000000 = .ok (.bind ⟨true, 3, false, false, false, false⟩ ⟨.w 14, .w 2, .none, 0x0, .m 6 0 0 false 0x0⟩) := by decide

theorem test_decode_memory_1 :
    decodeWord 0x4C7823C82000086000000000 = .ok (.unbind ⟨false, 7, true, false, false, false⟩ ⟨.w 15, .w 2, .none, 0x8, .m 6 0 0 false 0x0⟩) ∧
    decodeWord 0x4D0500000000180A00000000 = .ok (.fence ⟨false, 0, false, true, false, true⟩ ⟨.none, .none, .none, 0x18, .m 0 5 0 false 0x0⟩) ∧
    decodeWord 0x4E8AE0482000206040000000 = .ok (.aadd ⟨true, 0, true, false, true, false⟩ ⟨.imm 1, .w 2, .none, 0x20, .m 6 0 0 true 0x0⟩) ∧
    decodeWord 0x4F0020482000008000000000 = .ok (.afadd plain ⟨.w 1, .w 2, .none, 0x0, .m 8 0 0 false 0x0⟩) ∧
    decodeWord 0x50B020482000184800000000 = .ok (.amin ⟨true, 3, false, false, false, false⟩ ⟨.w 1, .w 2, .none, 0x18, .m 4 4 0 false 0x0⟩) ∧
    decodeWord 0x51782048220C005000000000 = .ok (.amax ⟨false, 7, true, false, false, false⟩ ⟨.w 1, .w 2, .w 3, 0x0, .m 5 0 0 false 0x0⟩) ∧
    decodeWord 0x520520482000006000000000 = .ok (.aand ⟨false, 0, false, true, false, true⟩ ⟨.w 1, .w 2, .none, 0x0, .m 6 0 0 false 0x0⟩) ∧
    decodeWord 0x538A20482000087600000000 = .ok (.aor ⟨true, 0, true, false, true, false⟩ ⟨.w 1, .w 2, .none, 0x8, .m 7 3 0 false 0x0⟩) ∧
    decodeWord 0x540020482000106200000000 = .ok (.axor plain ⟨.w 1, .w 2, .none, 0x10, .m 6 1 0 false 0x0⟩) ∧
    decodeWord 0x55B020482000006000000010 = .ok (.aswp ⟨true, 3, false, false, false, false⟩ ⟨.w 1, .w 2, .none, 0x0, .m 6 0 0 false 0x10⟩) ∧
    decodeWord 0x567823882000006000000000 = .ok (.acas ⟨false, 7, true, false, false, false⟩ ⟨.w 14, .w 2, .none, 0x0, .m 6 0 0 false 0x0⟩) ∧
    decodeWord 0x570500082000080080000000 = .ok (.pref ⟨false, 0, false, true, false, true⟩ ⟨.none, .w 2, .none, 0x8, .m 0 0 1 false 0x0⟩) := by decide

theorem test_decode_memory_2 :
    decodeWord 0x588A00000000080800000000 = .ok (.cflush ⟨true, 0, true, false, true, false⟩ ⟨.none, .none, .none, 0x8, .m 0 4 0 false 0x0⟩) ∧
    decodeWord 0x590000082000000400000000 = .ok (.cinv plain ⟨.none, .w 2, .none, 0x0, .m 0 2 0 false 0x0⟩) ∧
    decodeWord 0x5AB080C82000070000000000 = .ok (.nsend ⟨true, 3, false, false, false, false⟩ ⟨.l 3, .w 2, .none, 0x7, .none⟩) := by decide

theorem test_decode_vector_0 :
    decodeWord 0x60784050240C008340000000 = .ok (.vadd ⟨false, 7, true, false, false, false⟩ ⟨.v 1, .v 2, .v 3, 0x0, .r 8 1 true 2⟩) ∧
    decodeWord 0x61054050220C009000000000 = .ok (.vsub ⟨false, 0, false, true, false, true⟩ ⟨.v 1, .v 2, .w 3, 0x0, .r 9 0 false 0⟩) ∧
    decodeWord 0x628A4051F40000BA00000000 = .ok (.vmul ⟨true, 0, true, false, true, false⟩ ⟨.v 1, .v 31, .v 0, 0x0, .r 11 5 false 0⟩) ∧
    decodeWord 0x63004050240C008000000000 = .ok (.vfma plain ⟨.v 1, .v 2, .v 3, 0x0, .r 8 0 false 0⟩) ∧
    decodeWord 0x64B04050240C00A000000000 = .ok (.vfms ⟨true, 3, false, false, false, false⟩ ⟨.v 1, .v 2, .v 3, 0x0, .r 10 0 false 0⟩) ∧
    decodeWord 0x65784050240C0081E0000000 = .ok (.vfnma ⟨false, 7, true, false, false, false⟩ ⟨.v 1, .v 2, .v 3, 0x0, .r 8 0 true 7⟩) ∧
    decodeWord 0x660540502FFC007000000000 = .ok (.vmin ⟨false, 0, false, true, false, true⟩ ⟨.v 1, .v 2, .imm 127, 0x0, .r 7 0 false 0⟩) ∧
    decodeWord 0x678A4050240C00B000000000 = .ok (.vmax ⟨true, 0, true, false, true, false⟩ ⟨.v 1, .v 2, .v 3, 0x0, .r 11 0 false 0⟩) ∧
    decodeWord 0x680040502000000000000000 = .ok (.vabs plain ⟨.v 1, .v 2, .none, 0x0, .r 0 0 false 0⟩) ∧
    decodeWord 0x69B040502000008000000000 = .ok (.vneg ⟨true, 3, false, false, false, false⟩ ⟨.v 1, .v 2, .none, 0x0, .r 8 0 false 0⟩) ∧
    decodeWord 0x6A784050240C008400000000 = .ok (.vdiv ⟨false, 7, true, false, false, false⟩ ⟨.v 1, .v 2, .v 3, 0x0, .r 8 2 false 0⟩) ∧
    decodeWord 0x6B0540502000009800000000 = .ok (.vsqrt ⟨false, 0, false, true, false, true⟩ ⟨.v 1, .v 2, .none, 0x0, .r 9 4 false 0⟩) := by decide

theorem test_decode_vector_1 :
    decodeWord 0x6C8A40502000008000000000 = .ok (.vrcp ⟨true, 0, true, false, true, false⟩ ⟨.v 1, .v 2, .none, 0x0, .r 8 0 false 0⟩) ∧
    decodeWord 0x6D0040502000008000000000 = .ok (.vrsq plain ⟨.v 1, .v 2, .none, 0x0, .r 8 0 false 0⟩) ∧
    decodeWord 0x6EB040502000008000000000 = .ok (.vexp2 ⟨true, 3, false, false, false, false⟩ ⟨.v 1, .v 2, .none, 0x0, .r 8 0 false 0⟩) ∧
    decodeWord 0x6F7840502000008000000000 = .ok (.vlog2 ⟨false, 7, true, false, false, false⟩ ⟨.v 1, .v 2, .none, 0x0, .r 8 0 false 0⟩) ∧
    decodeWord 0x700540502E04010000000000 = .ok (.viadd ⟨false, 0, false, true, false, true⟩ ⟨.v 1, .v 2, .imm 1, 0x1, .r 0 0 false 0⟩) ∧
    decodeWord 0x718A40502204007000000000 = .ok (.visub ⟨true, 0, true, false, true, false⟩ ⟨.v 1, .v 2, .w 1, 0x0, .r 7 0 false 0⟩) ∧
    decodeWord 0x72004050240C004000000000 = .ok (.vimul plain ⟨.v 1, .v 2, .v 3, 0x0, .r 4 0 false 0⟩) ∧
    decodeWord 0x73B04050240C005000000000 = .ok (.vimulh ⟨true, 3, false, false, false, false⟩ ⟨.v 1, .v 2, .v 3, 0x0, .r 5 0 false 0⟩) ∧
    decodeWord 0x74784050240C002000000000 = .ok (.vimad ⟨false, 7, true, false, false, false⟩ ⟨.v 1, .v 2, .v 3, 0x0, .r 2 0 false 0⟩) ∧
    decodeWord 0x750540502F00001000000000 = .ok (.vshl ⟨false, 0, false, true, false, true⟩ ⟨.v 1, .v 2, .imm 64, 0x0, .r 1 0 false 0⟩) ∧
    decodeWord 0x768A4050240C003000000000 = .ok (.vshr ⟨true, 0, true, false, true, false⟩ ⟨.v 1, .v 2, .v 3, 0x0, .r 3 0 false 0⟩) ∧
    decodeWord 0x77004050240C006000000000 = .ok (.vsra plain ⟨.v 1, .v 2, .v 3, 0x0, .r 6 0 false 0⟩) := by decide

theorem test_decode_vector_2 :
    decodeWord 0x78B04050240C006000000000 = .ok (.vand ⟨true, 3, false, false, false, false⟩ ⟨.v 1, .v 2, .v 3, 0x0, .r 6 0 false 0⟩) ∧
    decodeWord 0x79784050240C006000000000 = .ok (.vor ⟨false, 7, true, false, false, false⟩ ⟨.v 1, .v 2, .v 3, 0x0, .r 6 0 false 0⟩) ∧
    decodeWord 0x7A054050240C006000000000 = .ok (.vxor ⟨false, 0, false, true, false, true⟩ ⟨.v 1, .v 2, .v 3, 0x0, .r 6 0 false 0⟩) ∧
    decodeWord 0x7B8A4050240C006000000000 = .ok (.vandn ⟨true, 0, true, false, true, false⟩ ⟨.v 1, .v 2, .v 3, 0x0, .r 6 0 false 0⟩) ∧
    decodeWord 0x7C0040502000000000000000 = .ok (.vpopc plain ⟨.v 1, .v 2, .none, 0x0, .r 0 0 false 0⟩) ∧
    decodeWord 0x7DB040502000007120000000 = .ok (.vclz ⟨true, 3, false, false, false, false⟩ ⟨.v 1, .v 2, .none, 0x0, .r 7 0 true 1⟩) ∧
    decodeWord 0x7E7860D0240C078000000000 = .ok (.vfcmp ⟨false, 7, true, false, false, false⟩ ⟨.p 3, .v 2, .v 3, 0x7, .r 8 0 false 0⟩) ∧
    decodeWord 0x7F0560D02E14037000000000 = .ok (.vicmp ⟨false, 0, false, true, false, true⟩ ⟨.p 3, .v 2, .imm 5, 0x3, .r 7 0 false 0⟩) := by decide

theorem test_decode_lanes_0 :
    decodeWord 0x808A4050200000E100000000 = .ok (.vmov ⟨true, 0, true, false, true, false⟩ ⟨.v 1, .v 2, .none, 0x0, .r 14 0 true 0⟩) ∧
    decodeWord 0x800000000000010000000000 = .ok (.vmovClr plain ⟨.none, .none, .none, 0x1, .r 0 0 false 0⟩) ∧
    decodeWord 0x81B04078200000E000000000 = .ok (.vbcst ⟨true, 3, false, false, false, false⟩ ⟨.v 1, .imm 2, .none, 0x0, .r 14 0 false 0⟩) ∧
    decodeWord 0x827840482E3C00F000000000 = .ok (.vins ⟨false, 7, true, false, false, false⟩ ⟨.v 1, .w 2, .imm 15, 0x0, .r 15 0 false 0⟩) ∧
    decodeWord 0x83052050220C00C000000000 = .ok (.vext ⟨false, 0, false, true, false, true⟩ ⟨.w 1, .v 2, .w 3, 0x0, .r 12 0 false 0⟩) ∧
    decodeWord 0x848A4050240C006000000000 = .ok (.vperm ⟨true, 0, true, false, true, false⟩ ⟨.v 1, .v 2, .v 3, 0x0, .r 6 0 false 0⟩) ∧
    decodeWord 0x85004050240C436000000000 = .ok (.vshuf plain ⟨.v 1, .v 2, .v 3, 0x43, .r 6 0 false 0⟩) ∧
    decodeWord 0x86B04050260C006000000000 = .ok (.vcomp ⟨true, 3, false, false, false, false⟩ ⟨.v 1, .v 2, .p 3, 0x0, .r 6 0 false 0⟩) ∧
    decodeWord 0x87784050260C006000000000 = .ok (.vexpd ⟨false, 7, true, false, false, false⟩ ⟨.v 1, .v 2, .p 3, 0x0, .r 6 0 false 0⟩) ∧
    decodeWord 0x88054078140C076000000000 = .ok (.vsel ⟨false, 0, false, true, false, true⟩ ⟨.v 1, .imm 1, .v 3, 0x7, .r 6 0 false 0⟩) ∧
    decodeWord 0x898A40582000017000000000 = .ok (.viota ⟨true, 0, true, false, true, false⟩ ⟨.v 1, .p 2, .none, 0x1, .r 7 0 false 0⟩) ∧
    decodeWord 0x8A0020502000088600000000 = .ok (.vred plain ⟨.w 1, .v 2, .none, 0x8, .r 8 3 false 0⟩) := by decide

theorem test_decode_lanes_1 :
    decodeWord 0x8BB042508E09880000000000 = .ok (.vcvt ⟨true, 3, false, false, false, false⟩ ⟨.v 9, .v 8, .imm 2, 0x188, .r 0 0 false 0⟩) ∧
    decodeWord 0x8C784050240C00D200000000 = .ok (.vdot ⟨false, 7, true, false, false, false⟩ ⟨.v 1, .v 2, .v 3, 0x0, .r 13 1 false 0⟩) ∧
    decodeWord 0x8D054050220C078000000000 = .ok (.vsca ⟨false, 0, false, true, false, true⟩ ⟨.v 1, .v 2, .w 3, 0x7, .r 8 0 false 0⟩) ∧
    decodeWord 0x8E8A4048240E538000000000 = .ok (.vld ⟨true, 0, true, false, true, false⟩ ⟨.v 1, .w 2, .v 3, 0x253, .m 8 0 0 false 0x0⟩) ∧
    decodeWord 0x8F004048220C067000000000 = .ok (.vst plain ⟨.v 1, .w 2, .w 3, 0x6, .m 7 0 0 false 0x0⟩) := by decide

theorem test_decode_paths_0 :
    decodeWord 0x900000000000000800000201 = .ok (.xfence plain ⟨.none, .none, .none, 0x0, .e 0 0x800000201⟩) ∧
    decodeWord 0x910020400000000000000000 = .ok (.xseal plain ⟨.w 1, .none, .none, 0x0, .e 0 0x0⟩) ∧
    decodeWord 0x9200607FF000000000000000 = .ok (.xwait plain ⟨.p 1, .imm 127, .none, 0x0, .e 0 0x0⟩) ∧
    decodeWord 0x93000030F20C000600000000 = .ok (.bari plain ⟨.none, .e 15, .w 3, 0x0, .e 0 0x600000000⟩) ∧
    decodeWord 0x940021703000000400000000 = .ok (.bara plain ⟨.w 5, .e 3, .none, 0x0, .e 0 0x400000000⟩) ∧
    decodeWord 0x950000300204010000000000 = .ok (.bard plain ⟨.none, .e 0, .w 1, 0x1, .e 0 0x0⟩) ∧
    decodeWord 0x960060703238000000000000 = .ok (.barw plain ⟨.p 1, .e 3, .w 14, 0x0, .e 0 0x0⟩) := by decide

theorem test_decode_engines_0 :
    decodeWord 0xA00000081000000F80000000 = .ok (.tcfg plain ⟨.none, .w 1, .none, 0x0, .e 0 0xf80000000⟩) ∧
    decodeWord 0xA1002073FE20000000000000 = .ok (.kclm plain ⟨.w 1, .e 63, .imm 8, 0x0, .e 0 0x0⟩) ∧
    decodeWord 0xA20000300220000000000000 = .ok (.krel plain ⟨.none, .e 0, .w 8, 0x0, .e 0 0x0⟩) ∧
    decodeWord 0xA300C148220C000B003F1F00 = .ok (.kld plain ⟨.e 5, .w 2, .w 3, 0x0, .e 0 0xb003f1f00⟩) ∧
    decodeWord 0xA400C1C82000000000000000 = .ok (.ald plain ⟨.e 7, .w 2, .none, 0x0, .e 0 0x0⟩) ∧
    decodeWord 0xA500C1C82204000000000000 = .ok (.ast plain ⟨.e 7, .w 2, .w 1, 0x0, .e 0 0x0⟩) ∧
    decodeWord 0xA600C0400000000000000000 = .ok (.azero plain ⟨.e 1, .none, .none, 0x0, .e 0 0x0⟩) ∧
    decodeWord 0xA700C0B04C24002010000000 = .ok (.mma plain ⟨.e 2, .e 4, .e 9, 0x0, .e 2 0x10000000⟩) ∧
    decodeWord 0xA800C0B04C2400A06FF00000 = .ok (.mmas plain ⟨.e 2, .e 4, .e 9, 0x0, .e 10 0x6ff00000⟩) ∧
    decodeWord 0xA900C070200003003FFF0000 = .ok (.asca plain ⟨.e 1, .e 2, .none, 0x3, .e 0 0x3fff0000⟩) ∧
    decodeWord 0xAA00C070200001D058000000 = .ok (.acvt plain ⟨.e 1, .e 2, .none, 0x1, .e 13 0x58000000⟩) ∧
    decodeWord 0xAB0060780000000040000000 = .ok (.mwait plain ⟨.p 1, .imm 0, .none, 0x0, .e 0 0x40000000⟩) := by decide

theorem test_decode_engines_1 :
    decodeWord 0xB00000082E4000F400000000 = .ok (.spld plain ⟨.none, .w 2, .imm 16, 0x0, .e 15 0x400000000⟩) ∧
    decodeWord 0xB1000008220C008FFC000000 = .ok (.spst plain ⟨.none, .w 2, .w 3, 0x0, .e 8 0xffc000000⟩) ∧
    decodeWord 0xB20000082E1C000000000000 = .ok (.spshp plain ⟨.none, .w 2, .imm 7, 0x0, .e 0 0x0⟩) ∧
    decodeWord 0xB300000842181F0000000000 = .ok (.spup plain ⟨.none, .w 4, .w 6, 0x1f, .e 0 0x0⟩) ∧
    decodeWord 0xB4002048E238280000000000 = .ok (.spdn plain ⟨.w 1, .w 14, .w 14, 0x28, .e 0 0x0⟩) ∧
    decodeWord 0xB50020781000010000000000 = .ok (.spmode plain ⟨.w 1, .imm 1, .none, 0x1, .e 0 0x0⟩) ∧
    decodeWord 0xB60000081000010010000000 = .ok (.spnorm plain ⟨.none, .w 1, .none, 0x1, .e 0 0x10000000⟩) ∧
    decodeWord 0xB70060780000000000000000 = .ok (.spwait plain ⟨.p 1, .imm 0, .none, 0x0, .e 0 0x0⟩) ∧
    decodeWord 0xB80021482000000100000000 = .ok (.wvcfg plain ⟨.w 5, .w 2, .none, 0x0, .e 0 0x100000000⟩) ∧
    decodeWord 0xB90000000000000300000000 = .ok (.wvarm plain ⟨.none, .none, .none, 0x0, .e 0 0x300000000⟩) ∧
    decodeWord 0xBA0000000000000200000000 = .ok (.wvflsh plain ⟨.none, .none, .none, 0x0, .e 0 0x200000000⟩) ∧
    decodeWord 0xBB0020400000010000000000 = .ok (.wvstat plain ⟨.w 1, .none, .none, 0x1, .e 0 0x0⟩) := by decide

theorem test_decode_engines_2 :
    decodeWord 0xBC0000081000000700000000 = .ok (.rqset plain ⟨.none, .w 1, .none, 0x0, .e 0 0x700000000⟩) ∧
    decodeWord 0xBD0021108608000100000000 = .ok (.rqray plain ⟨.w 4, .v 8, .p 2, 0x0, .e 0 0x100000000⟩) ∧
    decodeWord 0xBE002110900021000000000F = .ok (.rqnear plain ⟨.w 4, .v 9, .none, 0x21, .e 0 0xf⟩) ∧
    decodeWord 0xBF0000081000000040000000 = .ok (.rqwait plain ⟨.none, .w 1, .none, 0x0, .e 0 0x40000000⟩) := by decide

theorem test_decode_work_0 :
    decodeWord 0xC00000000000000000000000 = .ok (.evnext plain ⟨.none, .none, .none, 0x0, .none⟩) ∧
    decodeWord 0xC10000000000000000000FA0 = .ok (.sleep plain ⟨.none, .none, .none, 0x0, .i 0xfa0⟩) ∧
    decodeWord 0xC20060484000000000000000 = .ok (.popr plain ⟨.p 1, .w 4, .none, 0x0, .none⟩) ∧
    decodeWord 0xC40060484000000000000000 = .ok (.gnode plain ⟨.p 1, .w 4, .none, 0x0, .e 0 0x0⟩) ∧
    decodeWord 0xC50060483000000800000000 = .ok (.gdone plain ⟨.p 1, .w 3, .none, 0x0, .e 0 0x800000000⟩) ∧
    decodeWord 0xC60060486E00000600000000 = .ok (.gwait plain ⟨.p 1, .w 6, .imm 0, 0x0, .e 0 0x600000000⟩) ∧
    decodeWord 0xC70060884214000000000040 = .ok (.grange plain ⟨.p 2, .w 4, .w 5, 0x0, .e 0 0x40⟩) ∧
    decodeWord 0xC80020484000000000000031 = .ok (.sqtab plain ⟨.w 1, .w 4, .none, 0x0, .e 0 0x31⟩) ∧
    decodeWord 0xC90021484000000000000001 = .ok (.sqgo plain ⟨.w 5, .w 4, .none, 0x0, .e 0 0x1⟩) ∧
    decodeWord 0xCA0021800608010800000001 = .ok (.sqstat plain ⟨.w 6, .none, .p 2, 0x1, .e 0 0x800000001⟩) ∧
    decodeWord 0xCB0000000000000000000002 = .ok (.sqstop plain ⟨.none, .none, .none, 0x0, .e 0 0x2⟩) ∧
    decodeWord 0xCC00217B2000000300000000 = .ok (.blease plain ⟨.w 5, .imm 50, .none, 0x0, .e 0 0x300000000⟩) := by decide

theorem test_decode_work_1 :
    decodeWord 0xCD0000000000000000000000 = .ok (.brel plain ⟨.none, .none, .none, 0x0, .e 0 0x0⟩) := by decide


theorem test_ill_formed_0 :
    (.add plain ⟨.p 1, .w 2, .w 3, 0x0, .r 6 0 false 0⟩ : Instr).check = some .operand ∧ decodeWord 0x10006048220C006000000000 = .error .operand ∧
    (.popr plain ⟨.p 1, .w 9, .none, 0x0, .none⟩ : Instr).check = some .operand ∧ decodeWord 0xC20060489000000000000000 = .error .operand ∧
    (.mfsr plain ⟨.w 3, .y 24, .none, 0x0, .none⟩ : Instr).check = some .operand ∧ decodeWord 0x050020E98000000000000000 = .error .operand ∧
    (.spawn plain ⟨.p 1, .w 2, .w 13, 0x0, .b 0x10⟩ : Instr).check = some .operand ∧ decodeWord 0x070060482234000000000010 = .error .operand ∧
    (.waita plain ⟨.w 15, .w 2, .none, 0x0, .m 6 0 0 false 0x0⟩ : Instr).check = some .operand ∧ decodeWord 0x480023C82000006000000000 = .error .operand ∧
    (.rqray plain ⟨.w 4, .v 9, .none, 0x0, .e 0 0x0⟩ : Instr).check = some .operand ∧ decodeWord 0xBD0021109000000000000000 = .error .operand ∧
    (.ald plain ⟨.e 8, .w 2, .none, 0x0, .e 0 0x0⟩ : Instr).check = some .operand ∧ decodeWord 0xA400C2082000000000000000 = .error .operand ∧
    (.aadd plain ⟨.imm 1, .w 2, .none, 0x0, .m 6 0 0 false 0x0⟩ : Instr).check = some .operand ∧ decodeWord 0x4E00E0482000006000000000 = .error .operand ∧
    (.pmov plain ⟨.w 3, .p 2, .none, 0x0, .none⟩ : Instr).check = some .operand ∧ decodeWord 0x340020D82000000000000000 = .error .operand := by decide

theorem test_ill_formed_1 :
    (.mfsr plain ⟨.w 3, .none, .imm 8, 0x3, .none⟩ : Instr).check = some .operand ∧ decodeWord 0x050020C00E20030000000000 = .error .operand ∧
    (.vadd plain ⟨.v 1, .v 2, .v 4, 0x0, .r 8 0 false 0⟩ : Instr).check = some .bank ∧ decodeWord 0x600040502410008000000000 = .error .bank ∧
    (.nop plain ⟨.none, .none, .none, 0x1, .none⟩ : Instr).check = some .sub ∧ decodeWord 0x010000000000010000000000 = .error .sub ∧
    (.waita plain ⟨.w 1, .w 2, .none, 0x60, .m 6 0 0 false 0x0⟩ : Instr).check = some .sub ∧ decodeWord 0x480020482000606000000000 = .error .sub ∧
    (.acas plain ⟨.w 1, .w 2, .none, 0x20, .m 6 0 0 false 0x0⟩ : Instr).check = some .sub ∧ decodeWord 0x560020482000206000000000 = .error .sub ∧
    (.lea plain ⟨.w 4, .w 5, .none, 0x3, .m 0 0 0 false 0x0⟩ : Instr).check = some .sub ∧ decodeWord 0x2D0021085000030000000000 = .error .sub ∧
    (.spup plain ⟨.none, .w 4, .w 6, 0x10, .e 0 0x0⟩ : Instr).check = some .sub ∧ decodeWord 0xB30000084218100000000000 = .error .sub ∧
    (.vld plain ⟨.v 1, .w 2, .v 3, 0x18, .m 8 0 0 false 0x0⟩ : Instr).check = some .sub ∧ decodeWord 0x8E004048240C188000000000 = .error .sub ∧
    (.fence plain ⟨.none, .none, .none, 0x0, .m 0 5 0 false 0x0⟩ : Instr).check = some .sub ∧ decodeWord 0x4D0000000000000A00000000 = .error .sub := by decide

theorem test_ill_formed_2 :
    (.add plain ⟨.w 1, .w 2, .w 3, 0x0, .r 8 0 false 0⟩ : Instr).check = some .field ∧ decodeWord 0x10002048220C008000000000 = .error .field ∧
    (.add plain ⟨.w 1, .w 2, .w 3, 0x0, .r 6 1 false 0⟩ : Instr).check = some .field ∧ decodeWord 0x10002048220C006200000000 = .error .field ∧
    (.vadd plain ⟨.v 1, .v 2, .v 3, 0x0, .r 8 6 false 0⟩ : Instr).check = some .field ∧ decodeWord 0x60004050240C008C00000000 = .error .field ∧
    (.ld plain ⟨.w 1, .w 2, .none, 0x0, .m 6 1 0 false 0x0⟩ : Instr).check = some .field ∧ decodeWord 0x400020482000006200000000 = .error .field ∧
    (.ld plain ⟨.w 1, .w 2, .none, 0x0, .m 6 0 3 false 0x0⟩ : Instr).check = some .field ∧ decodeWord 0x400020482000006180000000 = .error .field ∧
    (.ld plain ⟨.w 1, .w 2, .none, 0x0, .m 6 0 0 true 0x0⟩ : Instr).check = some .field ∧ decodeWord 0x400020482000006040000000 = .error .field ∧
    (.ldf plain ⟨.w 1, .w 2, .none, 0x0, .m 6 0 0 false 0x0⟩ : Instr).check = some .field ∧ decodeWord 0x420020482000006000000000 = .error .field ∧
    (.loop plain ⟨.none, .w 1, .none, 0x0, .b 0x33⟩ : Instr).check = some .field ∧ decodeWord 0x3A0000081000000000000033 = .error .field ∧
    (.moviHi plain ⟨.w 1, .none, .none, 0x1, .i 0x1000000⟩ : Instr).check = some .field ∧ decodeWord 0x2C0020400000010001000000 = .error .field := by decide

theorem test_ill_formed_3 :
    (.sleep plain ⟨.none, .none, .none, 0x0, .i 0x8000000000⟩ : Instr).check = some .field ∧ decodeWord 0xC10000000000008000000000 = .error .field ∧
    (.mma plain ⟨.e 2, .e 4, .e 9, 0x0, .e 14 0x0⟩ : Instr).check = some .field ∧ decodeWord 0xA700C0B04C2400E000000000 = .error .field ∧
    (.acvt plain ⟨.e 2, .e 4, .none, 0x0, .e 0 0x60000000⟩ : Instr).check = some .field ∧ decodeWord 0xAA00C0B04000000060000000 = .error .field ∧
    (.rqnear plain ⟨.w 4, .v 9, .none, 0x1, .e 0 0x10⟩ : Instr).check = some .field ∧ decodeWord 0xBE0021109000010000000010 = .error .field ∧
    (.xfence plain ⟨.none, .none, .none, 0x0, .e 0 0x800000001⟩ : Instr).check = some .field ∧ decodeWord 0x900000000000000800000001 = .error .field ∧
    (.blease plain ⟨.none, .w 1, .none, 0x0, .e 0 0x100000000⟩ : Instr).check = some .field ∧ decodeWord 0xCC0000081000000100000000 = .error .field ∧
    (.grange plain ⟨.none, .w 4, .w 5, 0x0, .e 0 0x0⟩ : Instr).check = some .field ∧ decodeWord 0xC70000084214000000000000 = .error .field ∧
    (.tcfg plain ⟨.none, .w 1, .none, 0x0, .e 0 0x80000000⟩ : Instr).check = some .field ∧ decodeWord 0xA00000081000000080000000 = .error .field := by decide

/-! ### States -/

/-- A Ready context at an address, of PID 1. -/
def rdy : Ctx := { Ctx.reset with run := .ready, pc := 0x1000, pid := 1 }

/-- Context 0 of core 0 executes and holds `c`; die 0 runs. -/
def st (c : Ctx) : State := { State.reset with ctxs := [(0, c)], dies := [(0, { Die.reset with run := .running })] }

/-- Context 7 of core 0 executes and holds `c`, context 0 holds `d`. -/
def st7 (c d : Ctx) : State := { State.reset with ctxs := [(0, d), (7, c)], dies := [(0, { Die.reset with run := .running })], cur := 7 }

/-- The same with core 0 as given. -/
def stC (c : Ctx) (k : Core) : State := { st c with cores := [(0, k)] }

/-- The state a word leaves. -/
def after (o : Out) : State :=
  match o with
  | .next t => t
  | _ => State.reset

/-- Does the machine go on. -/
def goes (o : Out) : Bool :=
  match o with
  | .next _ => true
  | _ => false

/-- Registers from `w0` on. -/
def regs (ws : List Word) : Ctx := { rdy with stack := (List.range ws.length).map fun i => (i, ws.getD i 0) }

/-- A word of format R. -/
def fR (d a b : Opnd) (ty : BitVec 4) : Fields := ⟨d, a, b, 0, .r ty 0 false 0⟩

/-- A word of format M. -/
def fM (d a b : Opnd) (sub : BitVec 10) (ty : BitVec 4) (sc : BitVec 3) : Fields := ⟨d, a, b, sub, .m ty sc 0 false 0⟩

/-- W[1] after a word that ran in context 0. -/
def w1 (o : Out) : Word := ((after o).ctx 0).w 1

/-! ### Scalar words -/

-- R63: i8 200 + 100 = 300, that is 44; 127 + 1 wraps to -128.
theorem test_add : w1 (exec (.add plain (fR (.w 1) (.w 2) (.w 3) 0)) (st (regs [0, 0, 200, 100]))) = 44 ∧
    w1 (exec (.add plain (fR (.w 1) (.w 2) (.imm 1) 0)) (st (regs [0, 0, 127]))) = 0xFFFFFFFFFFFFFF80 := by decide

-- R63: n16 0 - 1 is 65,535.
theorem test_sub : w1 (exec (.sub plain (fR (.w 1) (.w 1) (.imm 1) 3)) (st (regs []))) = 65535 := by decide

-- R63: i32 65,536 * 65,536 is 0 modulo 2^32, and its upper half 1; the unsigned half of (2^64 - 1) squared is 2^64 - 2.
theorem test_mul : w1 (exec (.mul plain (fR (.w 1) (.w 2) (.w 2) 4)) (st (regs [0, 0, 65536]))) = 0 ∧
    w1 (exec (.mulh plain (fR (.w 1) (.w 2) (.w 2) 4)) (st (regs [0, 0, 65536]))) = 1 ∧
    w1 (exec (.mulhn plain (fR (.w 1) (.imm 127) (.imm 127) 7)) (st (regs []))) = 0xFFFFFFFFFFFFFFFE := by decide

-- R63: -7 / 2 is -3 with remainder -1; a division by zero gives all ones and the dividend; the least i8 by -1 is itself.
theorem test_div : w1 (exec (.div plain (fR (.w 1) (.w 2) (.imm 2) 6)) (st (regs [0, 0, -7]))) = -3 ∧
    w1 (exec (.rem plain (fR (.w 1) (.w 2) (.imm 2) 6)) (st (regs [0, 0, -7]))) = -1 ∧
    w1 (exec (.divn plain (fR (.w 1) (.w 2) (.imm 0) 1)) (st (regs [0, 0, 7]))) = 255 ∧
    w1 (exec (.remn plain (fR (.w 1) (.w 2) (.imm 0) 1)) (st (regs [0, 0, 7]))) = 7 ∧
    w1 (exec (.div plain (fR (.w 1) (.w 2) (.imm 127) 0)) (st (regs [0, 0, 0x80]))) = 0xFFFFFFFFFFFFFF80 := by decide

-- R63: the logical words.
theorem test_logic : w1 (exec (.and plain (fR (.w 1) (.w 2) (.w 3) 7)) (st (regs [0, 0, 0xC, 0xA]))) = 8 ∧
    w1 (exec (.or plain (fR (.w 1) (.w 2) (.w 3) 7)) (st (regs [0, 0, 0xC, 0xA]))) = 14 ∧
    w1 (exec (.xor plain (fR (.w 1) (.w 2) (.w 3) 7)) (st (regs [0, 0, 0xC, 0xA]))) = 6 ∧
    w1 (exec (.andn plain (fR (.w 1) (.w 2) (.w 3) 7)) (st (regs [0, 0, 0xC, 0xA]))) = 4 := by decide

-- R64: a shift by the width or more gives 0, and SRA the sign; ROL takes its count modulo the width.
theorem test_shift : w1 (exec (.shl plain (fR (.w 1) (.w 2) (.imm 64) 7)) (st (regs [0, 0, 1]))) = 0 ∧
    w1 (exec (.shr plain (fR (.w 1) (.w 2) (.imm 4) 1)) (st (regs [0, 0, 0x1F0]))) = 15 ∧
    w1 (exec (.sra plain (fR (.w 1) (.w 2) (.imm 127) 0)) (st (regs [0, 0, 0x80]))) = -1 ∧
    w1 (exec (.rol plain (fR (.w 1) (.w 2) (.imm 9) 1)) (st (regs [0, 0, 0x81]))) = 3 := by decide

-- R63: counts of n8 0x10, and of zero.
theorem test_counts : w1 (exec (.clz plain (fR (.w 1) (.w 2) .none 1)) (st (regs [0, 0, 0x10]))) = 3 ∧
    w1 (exec (.ctz plain (fR (.w 1) (.w 2) .none 1)) (st (regs [0, 0, 0x10]))) = 4 ∧
    w1 (exec (.popc plain (fR (.w 1) (.w 2) .none 1)) (st (regs [0, 0, 0xF10]))) = 1 ∧
    w1 (exec (.clz plain (fR (.w 1) (.w 2) .none 7)) (st (regs [0, 0, 0]))) = 64 := by decide

-- R63: -1 and 1 as signed and as unsigned numbers; extensions.
theorem test_minmax : w1 (exec (.min plain (fR (.w 1) (.w 2) (.imm 1) 6)) (st (regs [0, 0, -1]))) = -1 ∧
    w1 (exec (.max plain (fR (.w 1) (.w 2) (.imm 1) 6)) (st (regs [0, 0, -1]))) = 1 ∧
    w1 (exec (.minn plain (fR (.w 1) (.w 2) (.imm 1) 7)) (st (regs [0, 0, -1]))) = 1 ∧
    w1 (exec (.maxn plain (fR (.w 1) (.w 2) (.imm 1) 7)) (st (regs [0, 0, -1]))) = -1 ∧
    w1 (exec (.sext plain (fR (.w 1) (.w 2) .none 1)) (st (regs [0, 0, 0x180]))) = 0xFFFFFFFFFFFFFF80 ∧
    w1 (exec (.zext plain (fR (.w 1) (.w 2) .none 0)) (st (regs [0, 0, 0x180]))) = 0x80 := by decide

-- R65: the four bits at 4 of 0xABCD, as signed and unsigned, and the same four replaced.
theorem test_fields : w1 (exec (.bfx plain ⟨.w 1, .w 2, .imm 4, 3, .r 6 0 false 0⟩) (st (regs [0, 0, 0xABCD]))) = 0xFFFFFFFFFFFFFFFC ∧
    w1 (exec (.bfx plain ⟨.w 1, .w 2, .imm 4, 3, .r 7 0 false 0⟩) (st (regs [0, 0, 0xABCD]))) = 0xC ∧
    w1 (exec (.bfi plain ⟨.w 1, .w 2, .imm 4, 3, .r 7 0 false 0⟩) (st (regs [0, 0xABCD, 0x35]))) = 0xAB5D := by decide

-- R66 to R68.
theorem test_moves : w1 (exec (.movi plain ⟨.w 1, .none, .none, 0, .i 0xFFFFFFFFFE⟩) (st (regs []))) = -2 ∧
    w1 (exec (.moviHi plain ⟨.w 1, .none, .none, 1, .i 0xABCDEF⟩) (st (regs [0, 5]))) = 0xABCDEF0000000005 ∧
    w1 (exec (.lea plain ⟨.w 1, .w 2, .w 3, 3, .m 0 0 0 false 0x3FFFFFF8⟩) (st (regs [0, 0, 0x100, 2]))) = 0x108 ∧
    w1 (exec (.sel plain ⟨.w 1, .imm 5, .imm 6, 1, .r 6 0 false 0⟩) (st (regs []))) = 6 := by decide

-- R69, R70: i8 0x80 is less than 1, n8 0x80 is not; the outcome is 64 copies.
theorem test_compare : ((after (exec (.cmp plain ⟨.p 1, .w 2, .imm 1, 2, .r 0 0 false 0⟩) (st (regs [0, 0, 0x80])))).ctx 0).pred 1 = -1 ∧
    ((after (exec (.cmp plain ⟨.p 1, .w 2, .imm 1, 2, .r 1 0 false 0⟩) (st (regs [0, 0, 0x80])))).ctx 0).pred 1 = 0 ∧
    ((after (exec (.pand plain ⟨.p 1, .p 0, .p 2, 1, .none⟩) (st rdy))).ctx 0).pred 1 = -1 ∧
    ((after (exec (.por plain ⟨.p 1, .p 2, .p 3, 1, .none⟩) (st rdy))).ctx 0).pred 1 = -1 ∧
    ((after (exec (.pxor plain ⟨.p 1, .p 0, .p 2, 0, .none⟩) (st rdy))).ctx 0).pred 1 = -1 ∧
    ((after (exec (.pnot plain ⟨.p 0, .p 2, .none, 0, .none⟩) (st rdy))).ctx 0).pred 0 = -1 ∧
    ((after (exec (.pmov plain ⟨.p 1, .imm 127, .none, 3, .none⟩) (st rdy))).ctx 0).pred 1 = -1 := by decide

/-! ### States and operands that meet the hypotheses of each statement, clause by clause

Each theorem is named after the claim whose hypotheses it meets. -/

/-- Core 0 with a value in every link that the words below name. -/
def linked : Core := { Core.reset with links := [(2, 5), (7, 9)] }

theorem meets_ScalarArithmeticResults : Runs plain (st rdy) ∧ LinksHere (fR (.w 1) (.w 2) (.w 15) 0) (st rdy) ∧ (fR (.w 1) (.w 2) (.w 15) 0).ty < 8 ∧
    LinksHere (fR (.w 1) (.l 2) (.l 7) 7) (stC rdy linked) ∧ (fR (.w 1) (.l 2) (.l 7) 7).ty < 8 := by decide

theorem meets_ShiftCountAndFieldResults : Runs plain (st rdy) ∧ LinksHere ⟨.w 15, .w 2, .imm 127, 63, .r 7 0 false 0⟩ (st rdy) ∧
    (⟨.w 15, .w 2, .imm 127, 63, .r 7 0 false 0⟩ : Fields).ty < 8 ∧ 6 ≤ (⟨.w 15, .w 2, .imm 127, 63, .r 7 0 false 0⟩ : Fields).ty ∧
    (⟨.w 15, .w 2, .imm 127, 63, .r 7 0 false 0⟩ : Fields).sub.toNat + 1 ≤ 64 := by decide

theorem meets_MoveAndAddressResults : Runs plain (st rdy) ∧ LinksHere ⟨.w 15, .none, .none, 1, .i 0xFFFFFF⟩ (st rdy) ∧
    (0xFFFFFF : BitVec 40).toNat < 2 ^ 24 ∧ LinksHere (fM (.w 1) (.w 2) (.w 3) 7 0 0) (st rdy) ∧ (Opnd.w 2).link? = none ∧
    LinksHere ⟨.w 1, .l 7, .imm 64, 7, .r 6 0 false 0⟩ (stC rdy linked) := by decide

theorem meets_ScalarComparisonsAndPredicates : Runs plain (st rdy) ∧ LinksHere ⟨.p 7, .w 2, .l 7, 7, .r 7 0 false 0⟩ (stC rdy linked) ∧
    (⟨.p 7, .w 2, .l 7, 7, .r 7 0 false 0⟩ : Fields).ty < 8 ∧ (7 : BitVec 10).toNat < 8 ∧
    LinksHere ⟨.p 1, .p 2, .p 3, 0, .none⟩ (st rdy) ∧ LinksHere ⟨.p 1, .p 2, .p 3, 1, .none⟩ (st rdy) ∧
    (si 0 0x80 < si 0 1 ∧ ¬ un 1 0x80 < un 1 1) := by decide

theorem meets_ScalarWordsChangeNothingElse : Claims.scalarWord (.add plain (fR (.w 1) (.l 2) (.imm 1) 6)) = some (plain, fR (.w 1) (.l 2) (.imm 1) 6) ∧
    Runs plain (stC rdy linked) ∧ LinksHere (fR (.w 1) (.l 2) (.imm 1) 6) (stC rdy linked) ∧
    goes (exec (.add plain (fR (.w 1) (.l 2) (.imm 1) 6)) (stC rdy linked)) = true ∧ (fR (.w 1) (.w 2) (.imm 1) 6).links = [] ∧
    goes (exec (.cmp plain (fR (.p 1) (.w 2) (.imm 1) 6)) (st rdy)) = true := by decide

/-! ### Control and traps -/

-- R71, R72, R73: a branch back by three words; a call saves the next PC in w7 of the new frame; a return goes back.
theorem test_control : ((after (exec (.br plain ⟨.none, .none, .none, 0, .b 0xFFFFFFFFFD⟩) (st rdy))).ctx 0).pc = 0xFF4 ∧
    ((after (exec (.call plain ⟨.none, .none, .none, 0, .b 16⟩) (st rdy))).ctx 0).w 7 = 0x100C ∧
    ((after (exec (.brx plain ⟨.none, .w 1, .none, 0, .none⟩) (st (regs [0, 0x2000])))).ctx 0).pc = 0x2000 ∧
    ((after (exec (.ret plain ⟨.none, .none, .none, 0, .none⟩) (st { regs [0, 0, 0, 0, 0, 0, 0, 0x3001] with res := 1 }))).ctx 0).pc = 0x3000 := by
  decide

-- R75: a loop of one word with count 2.
theorem test_loop : ((after (exec (.loop plain ⟨.none, .imm 2, .none, 0, .b 3⟩) (st rdy))).ctx 0).lbody = 0x100D ∧
    ((after (exec (.loop plain ⟨.none, .imm 0, .none, 0, .b 3⟩) (st rdy))).ctx 0).pc = 0x1018 := by decide

-- R34, R78, R79: TRAP resumes after itself, ILL and BRK at themselves.
theorem test_traps : ((after (exec (.trap plain ⟨.none, .none, .none, 0, .i 9⟩) (st rdy))).ctx 0).epc = 0x100C ∧
    ((after (exec (.trap plain ⟨.none, .none, .none, 0, .i 9⟩) (st rdy))).ctx 0).finfo = 9 ∧
    ((after (exec (.ill 0) (st rdy))).ctx 0).cause = 1 ∧
    ((after (exec (.brk plain ⟨.none, .none, .none, 0, .i 5⟩) (st rdy))).ctx 0).finfo = 0x8000000000000005 := by decide

/-- A guard on `p1`, which reads as 0. -/
def guarded : Hdr := ⟨false, 1, false, false, false, false⟩

theorem meets_FailedGuardDoesNothing : isWord (.add guarded (fR (.w 1) (.w 2) (.w 3) 0)) = true ∧
    Instr.opcode (.add guarded (fR (.w 1) (.w 2) (.w 3) 0)) ≠ some 0 ∧ Instr.opcode (.add guarded (fR (.w 1) (.w 2) (.w 3) 0)) ≠ some 2 ∧
    Claims.reserved (.add guarded (fR (.w 1) (.w 2) (.w 3) 0)) = false ∧ (me (st rdy)).run = .ready ∧
    guardPasses (Instr.hdr (.add guarded (fR (.w 1) (.w 2) (.w 3) 0))) (me (st rdy)) = false ∧
    Claims.reserved (.rte guarded ⟨.none, .imm 6, .none, 0, .none⟩) = true ∧ ctxNo (st7 rdy rdy).cur = 7 ∧
    guardPasses guarded (me (st7 rdy rdy)) = false := by decide

theorem meets_SupervisorWordsTrapInUserContexts : Claims.reserved (.sleep plain ⟨.none, .none, .none, 0, .i 1⟩) = true ∧
    Claims.reserved (.mfsr plain ⟨.w 1, .y 4, .none, 1, .none⟩) = true ∧ Claims.reserved (.mfsr plain ⟨.w 1, .y 20, .none, 0, .none⟩) = true ∧
    UserReady (st rdy) := by decide

theorem meets_TrapWordsTakeTheirTraps : UserReady (st rdy) ∧ guardPasses plain (me (st rdy)) = true := by decide

theorem meets_TakingATrapSavesAndWakes : ctxNo 6 ≠ 7 ∧
    ¬((⟨5, none, 0x1000, some 8, 0xF03⟩ : TrapInfo).cause = 0x0C ∧ (⟨5, none, 0x1000, some 8, 0xF03⟩ : TrapInfo).finfo.toNat % 256 = 4 ∧
      (⟨5, none, 0x1000, some 8, 0xF03⟩ : TrapInfo).finfo.getLsbD 63 = false) ∧ ((st rdy).core 0).supq.length < 64 := by decide

theorem meets_SupervisorFaultKillsTheCore : ctxNo 7 = 7 ∧ ((st rdy).core 0).killed = false := by decide

/-- A context in which every cause is pending. -/
def pending : Ctx :=
  { rdy with pendDroop := some 1, pendPreempt := true, pend := [⟨5, none, 0x1000, some 8, 0⟩], pendStep := some 0x1000 }

/-- The wait of an MWAIT 0, and a context in it with a command unfinished and a pre-emption pending. -/
def waiting : Wait := ⟨.mwait plain ⟨.none, .imm 0, .none, 0, .e 0 0⟩, .mwait, 0, 0, none, none, false, [], 0⟩
def preempted : Ctx := { rdy with run := .waiting waiting, pendPreempt := true, mstat := { EngStat.reset with unf := 1 } }

theorem meets_PendingTrapsAreTakenInOrder : ctxNo 0 ≠ 7 ∧ ((st pending).ctx 0).run = .ready ∧
    waitEnds (st preempted) 0 waiting = false ∧
    clockRuns (st preempted) 0 = true ∧ preempted.pendPreempt = true ∧ preempted.pendDroop = none ∧
    clockRuns (st pending) (coreOf 0) = true ∧ pending.pendDroop = some 1 ∧
    clockRuns (st { pending with pendDroop := none }) (coreOf 0) = true ∧ ({ pending with pendDroop := none } : Ctx).pendPreempt = true ∧
    ({ pending with pendDroop := none, pendPreempt := false } : Ctx).pend ≠ [] ∧
    ({ pending with pendDroop := none, pendPreempt := false, pend := [] } : Ctx).pendStep = some 0x1000 ∧
    ({ pending with pendDroop := none, pendPreempt := false, pend := [] } : Ctx).deferArmed = false ∧
    clockRuns (st { rdy with deferArmed := true, deferred := [⟨0x1000, 0x4000, 2, 8, 5, 0, none, false, 0, 0⟩] }) 0 = true := by decide

/-- A branch by a count of four-byte units. -/
def fB (a : Opnd) (v : BitVec 40) : Fields := ⟨.none, a, .none, 0, .b v⟩

theorem meets_BranchesCallsAndReturns : Runs plain (st rdy) ∧ (branchTarget (st rdy) (fB .none 16)).toNat < 2 ^ 54 ∧
    ((me (st (regs [0, 0x3FFFFFFFFFFFFC]))).w 1).toNat % 4 = 0 ∧ Runs plain (st (regs [0, 1])) ∧ ctxNo (st rdy).cur ≠ 7 ∧
    ((me (st (regs [0, 1]))).w 1).toNat % 4 ≠ 0 ∧ 2 ^ 54 ≤ (branchTarget (st rdy) (fB .none 0xFFFFFFFBFF)).toNat ∧
    (me (st { rdy with res := 5 })).res < 6 ∧ (me (st { rdy with res := 6, wsp := 63 })).wsp.toNat < (0 : Word).toNat + 64 ∧
    (me (st { rdy with res := 1 })).res ≠ 0 ∧ (me (st rdy)).res = 0 ∧ (me (st rdy)).spl = 0 := by decide

/-- A thread whose window stack lies at the bottom of its own scratchpad. -/
def windowed : Ctx := { rdy with res := 6, wsp := (1 : Word) <<< 53 ||| 0x40, wlim := (1 : Word) <<< 53 }

theorem meets_WindowSpillsAndFills : Runs plain (st windowed) ∧ windowed.res = 6 ∧ windowed.wlim.toNat + 64 ≤ windowed.wsp.toNat ∧
    (branchTarget (st windowed) (fB .none 16)).toNat < 2 ^ 54 ∧
    (wordsStore (issued 0 plain (st windowed)) 0 (some 0) 1 0 (windowed.wsp - 64) (windowed.frame (windowed.wf + 2))).1 = .ok () ∧
    Runs plain (st { windowed with res := 0, spl := 1, wsp := (1 : Word) <<< 53 }) ∧
    (∃ ws, (wordsLoad (issued 0 plain (st { windowed with res := 0, spl := 1, wsp := (1 : Word) <<< 53 })) 0 1 0 ((1 : Word) <<< 53) 8).1 = .ok ws) :=
  ⟨by decide, by decide, by decide, by decide, by decide, by decide, ⟨List.replicate 8 0, by decide⟩⟩

/-- The last word of a loop's body of one word, at 0x1000, with iterations left. -/
def looping (n : Word) : Ctx := { rdy with loopcnt := n, lbody := 0x1001 }

theorem meets_LoopsCountDown : Runs plain (st rdy) ∧ (fB (.imm 0) 48).a.link? = none ∧ count (st rdy) (fB (.imm 0) 48).a = 0 ∧
    count (st rdy) (fB (.imm 127) 48).a ≠ 0 ∧ rdy.pc.toNat < 2 ^ 53 ∧ rdy.pc.toNat % 4 = 0 ∧
    (3 : BitVec 40).toNat % 3 = 0 ∧ 3 ≤ (3 : BitVec 40).toNat ∧ (48 : BitVec 40).toNat % 3 = 0 ∧ (48 : BitVec 40).toNat ≤ 48 ∧
    Runs plain (st (looping 2)) ∧ (looping 2).lbody.getLsbD 0 = true ∧
    (looping 2).pc = ((looping 2).lbody &&& 0x3FFFFFFFFFFFFC) + 12 * ((looping 2).lbody >>> 60) ∧ 1 < (looping 2).loopcnt.toNat ∧
    (looping 1).loopcnt.toNat ≤ 1 ∧ rdy.lbody.getLsbD 0 = false := by decide

/-- A long result that has not come back. -/
def owed : Ctx := { rdy with outstanding := [⟨0, .w 3, none, 0⟩] }

theorem meets_MarkersYieldAndFlush : Runs ⟨false, 0, true, false, false, false⟩ (st owed) ∧ owed.outstanding ≠ [] ∧ ctxNo (st owed).cur ≠ 7 ∧
    ({ owed with dbgctl := 1 } : Ctx).dbgctl.getLsbD 0 = true ∧ (fM .none .none .none 8 0 0).sub = 8 ∧ (fM .none (.w 1) .none 0 0 0).sub ≠ 8 ∧
    Runs plain (st { rdy with pid := 0 }) ∧ (addr (st { rdy with pid := 0 }) (fM .none (.w 1) .none 0 0 0)).toNat < 2 ^ 53 := by decide

/-- Core 0 with the line at 0x1000 of PID 1 in its instruction cache. -/
def cached : Core := { Core.reset with icache := [⟨1, 0x20, 0x1122334455667788, false⟩] }

theorem meets_LiteralLoads : Runs plain (stC rdy cached) ∧ (branchTarget (stC rdy cached) (fB .none 2)).toNat < 2 ^ 53 ∧
    (branchTarget (stC rdy cached) (fB .none 2)).toNat % 8 = 0 ∧
    iFind (stC rdy cached) 0 1 ((branchTarget (stC rdy cached) (fB .none 2)).toNat / 128) = some ⟨1, 0x20, 0x1122334455667788, false⟩ ∧
    (branchTarget (stC rdy cached) (fB .none 1)).toNat % 8 ≠ 0 ∧ (branchTarget (stC rdy cached) (fB .none 1)).toNat < 2 ^ 54 ∧
    ctxNo (stC rdy cached).cur ≠ 7 := by decide +kernel

/-! ### Memory -/

/-- A device in which PID 1 has the page of virtual address 0x4000 at physical 0x8000, and a process descriptor with its region table at
0x20000. -/
def dev (c : Ctx) : State :=
  { st c with
    mem := [(71, 0x80), (74, 2)]
    dies := [(0, { Die.reset with run := .running, tlb := [tlbEntry 1 0x4000 0x8005 0] })] }

/-- An address of the core's own scratchpad. -/
def own (off : Nat) : Word := BitVec.ofNat 64 (3 * 2 ^ 52 + off)

/-- Core 0 with 0xF0 in its first scratchpad word, whose tag is full. -/
def full : Core := { Core.reset with spad := [(0, 0xF0)], tags := [(0, true)] }

-- R170, R171, R174: LD.i8 extends, LDF empties the tag, STE fills an empty word, TAGW writes the tag.
theorem test_scratchpad :
    ((after (exec (.ld plain (fM (.w 1) (.w 2) .none 0 0 0)) (stC (regs [0, 0, own 0]) full))).ctx 0).outstanding =
      [⟨0, .w 1, some (.ok 0xFFFFFFFFFFFFFFF0), 0⟩] ∧
    ((after (exec (.ldf plain (fM (.w 1) (.w 2) .none 0 6 1)) (stC (regs [0, 0, own 0]) full))).core 0).tags.getD 0 false = false ∧
    ((after (exec (.ste plain (fM (.w 1) (.w 2) .none 0 6 1)) (stC (regs [0, 7, own 8]) full))).core 0).tags.getD 1 false = true ∧
    ((after (exec (.st plain (fM (.w 1) (.w 2) .none 0 0 0)) (stC (regs [0, 7, own 1]) full))).core 0).spad.getD 0 0 = 0x7F0 ∧
    ((after (exec (.tagw plain (fM (.imm 0) (.w 2) .none 0 6 0)) (stC (regs [0, 7, own 0]) full))).core 0).tags.getD 0 false = false := by
  decide +kernel

-- R184, R185: an i32 add that wraps in the low half alone; a compare and swap that matches.
theorem test_atomics :
    ((after (exec (.aadd plain (fM (.w 1) (.w 2) .none 0x20 4 0)) (stC (regs [0, 0xFFFFFF10, own 0]) full))).core 0).spad.getD 0 0 = 0 ∧
    ((after (exec (.acas plain (fM (.w 4) (.w 2) .none 0 6 0)) (stC (regs [0, 0, own 0, 0, 0xF0, 9]) full))).core 0).spad.getD 0 0 = 9 ∧
    ((after (exec (.amin plain (fM (.w 1) (.w 2) .none 0x20 6 0)) (stC (regs [0, -1, own 0]) full))).core 0).spad.getD 0 0 = -1 := by
  decide +kernel

-- R157, R158, R162: malformed and misaligned addresses.
theorem test_access_checks :
    ((after (exec (.ld plain (fM (.w 1) (.w 2) .none 0 6 0)) (st (regs [0, 0, own 1])))).ctx 0).cause = 4 ∧
    ((after (exec (.ld plain (fM (.w 1) (.w 2) .none 0 6 0)) (st (regs [0, 0, 0x40000000000000])))).ctx 0).cause = 5 ∧
    ((after (exec (.ldf plain (fM (.w 1) (.w 2) .none 0 6 1)) (dev (regs [0, 0, 0x4000])))).ctx 0).finfo = 2 := by decide +kernel

-- R165: a bypassing store of two bytes to device memory goes to the die's copy or the home slice, little-endian (R4).
theorem test_device_store : (after (exec (.st plain ⟨.w 1, .w 2, .none, 0, .m 2 0 1 false 0⟩) (dev (regs [0, 0x1234, 0x4010])))).mem =
    [(71, 0x80), (74, 2), (0x8010, 0x34), (0x8011, 0x12)] := by decide +kernel

-- R190: the north neighbour of core (0, 0, 0) does not exist.
theorem test_nsend : (((after (exec (.nsend plain ⟨.l 3, .imm 5, .none, 0, .none⟩) (st rdy))).ctx 0).pend.map fun p => (p.cause, p.finfo)) =
    [(0x0C, 1)] := by decide

/-- The word at an own scratchpad address. -/
def fOwn (d : Opnd) (ty : BitVec 4) : Fields := fM d (.w 2) .none 0 ty 1

/-- A context whose `w2` holds the address of the last own scratchpad word, and the first. -/
def atEnd : Ctx := regs [0, 0, own 0x3FFF8]
def atStart : Ctx := regs [0, 0, own 0]

theorem meets_OwnScratchpadLoads : RunsAlone plain (stC atStart full) ∧ OwnWord (stC atStart full) (addr (stC atStart full) (fOwn (.w 1) 6)) 8 0 ∧
    OwnWord (stC (regs [0, 0, own 0x3FFFF]) full) (addr (stC (regs [0, 0, own 0x3FFFF]) full) (fOwn (.w 1) 0)) 1 0x3FFFF ∧
    (fOwn (.w 1) 15).x.ty < 16 ∧ ownTag (stC atStart full) 0 = true ∧ (Claims.core (stC atStart full)).waiters = [] ∧
    4 ≤ (fOwn (.w 1) 7).x.ty ∧ (fOwn (.w 1) 7).x.ty < 8 ∧
    (Claims.ownBytes (stC atStart full) 0 8 ≠ ((me (stC atStart full)).w 1).toNat) ∧
    OwnWord (stC (regs [0, 0xF0, own 0]) full) (addr (stC (regs [0, 0xF0, own 0]) full) (fOwn (.w 1) 7)) 8 0 ∧
    Claims.ownBytes (stC (regs [0, 0xF0, own 0]) full) 0 8 = ((me (stC (regs [0, 0xF0, own 0]) full)).w 1).toNat := by decide +kernel

theorem meets_OwnScratchpadStores : RunsAlone plain (stC atEnd full) ∧ (fOwn (.imm 1) 6).d.link? = none ∧ (Claims.core (stC atEnd full)).waiters = [] ∧
    OwnWord (stC atEnd full) (addr (stC atEnd full) (fOwn (.imm 1) 6)) 8 0x3FFF8 ∧ ownTag (stC atEnd full) 0x3FFF8 = false ∧
    (me (stC atEnd full)).outstanding = [] ∧ (me (stC atEnd full)).pend = [] ∧ (me (stC atEnd full)).deferred = [] := by decide +kernel

theorem meets_OwnScratchpadAtomics : RunsAlone plain (stC atStart full) ∧
    OwnWord (stC atStart full) (addr (stC atStart full) (fM (.w 1) (.w 2) .none 0 8 0)) 4 0 ∧
    Claims.newWord (.afadd plain (fM (.w 1) (.w 2) .none 0 8 0)) 4 0 0 0 false = some 0 ∧
    Claims.newWord (.acas plain (fM (.w 1) (.w 2) .none 0 7 0)) 8 1 1 2 false = some 2 ∧
    (fM (.imm 127) (.w 2) .none 0x20 4 0).sub.getLsbD 5 = true ∧
    Instr.aadd plain (fM (.imm 127) (.w 2) .none 0x20 4 0) ≠ .acas plain (fM (.imm 127) (.w 2) .none 0x20 4 0) ∧
    Claims.newWord (.aadd plain (fM (.imm 127) (.w 2) .none 0x20 4 0)) 4 1 (2 ^ 32 - 1) 0 true = some 0 := by decide +kernel

/-- Core 0 whose last scratchpad slot is not resident. -/
def absent : Core := { Core.reset with resid := [(31, { Resid.reset with v := false })] }

theorem meets_DataAccessChecks : Claims.accessSize (.ldf plain (fOwn (.w 1) 6)) = some (plain, fOwn (.w 1) 6, 8) ∧ ctxNo (st rdy).cur ≠ 7 ∧
    RunsAlone plain (st (regs [0, 0, 0x40000000000000])) ∧ resolve 0 0x40000000000000 = .bad ∧
    (resolve 0 (own 0x3FFFF) ≠ .bad ∧ (own 0x3FFFF).toNat % 8 ≠ 0) ∧
    (resolve 0 (own 0x3FFF8) = .spad 0 0x3FFF8 ∧ (own 0x3FFF8).toNat % 8 = 0 ∧ resident (stC atEnd absent) 0 0x3FFF8 = false) ∧
    ((0x1FFFFFFFFFFFF8 : Word).toNat < 2 ^ 53 ∧ (0x1FFFFFFFFFFFF8 : Word).toNat % 8 = 0 ∧ (dev rdy).reqs = []) := by decide +kernel

theorem meets_DataAddressSpaces : 2 ^ 54 ≤ (0x40000000000000 : Word).toNat ∧ (0x1FFFFFFFFFFFFF : Word).toNat < 2 ^ 53 ∧
    (own 0x3FFFF).toNat / 2 ^ 52 = 3 ∧ (0x20000000000000 : Word).toNat / 2 ^ 52 = 2 := by decide

theorem meets_DeviceMemoryAccesses : RunsAlone plain (dev (regs [0, 0, 0x4010])) ∧
    (addr (dev (regs [0, 0, 0x4010])) (fM (.w 1) (.w 2) .none 0 6 0)).toNat < 2 ^ 53 ∧
    (addr (dev (regs [0, 0, 0x4010])) (fM (.w 1) (.w 2) .none 0 6 0)).toNat % 8 = 0 ∧
    (devLoad (issued 0 plain (dev rdy)) 0 1 1 0x4010 8).1 = .ok 0 ∧
    (devLoad (issued 0 plain (dev rdy)) 0 1 1 0x10000 8).1 = .error (.xlate 0x301) ∧
    (devStore (issued 0 plain (dev rdy)).fresh.2 0 (some 0) 1 1 0x4010 8 5).1 = .ok () ∧
    (devStore (issued 0 plain (dev rdy)).fresh.2 0 (some 0) 1 1 0x10000 8 5).1 = .error (.xlate 0x301) ∧
    (devHome (issued 0 plain (dev rdy)) 0 1 0x4010 .write).1 = .ok (.dev 0x8010) := by decide +kernel

theorem meets_OrderingWordsComplete : RunsAlone plain (st rdy) ∧ (st rdy).reqs = [] ∧
    resolve 0 (addr (stC atEnd full) (fM .none (.w 2) .none 7 0 1)) = .spad 0 0x3FFF8 ∧
    (me (st rdy)).outstanding = [] ∧ (me (st rdy)).pend = [] ∧ (me (st rdy)).deferred = [] ∧
    (fM .none .none .none 0x10 0 3).sub.getLsbD 4 = true ∧ (fM .none .none .none 0x10 0 3).x.sc = 3 ∧ ((st rdy).cluster (clusterOf 0)).fused = false ∧
    (fM .none .none .none 0x18 0 1).x.sc ≤ 1 ∧ (Opnd.imm 127).link? = none ∧ (neighbours 0).getD 1 none = some 1 ∧
    ((st rdy).core 1).offline = false ∧ ((st rdy).core 1).killed = false ∧ (neighbours 0).getD 0 none = none := by decide

/-- What a call answers without an error. -/
def fine {ε α : Type} (e : Except ε α) : Bool :=
  match e with
  | .ok _ => true
  | .error _ => false

theorem meets_CacheLineWords : RunsAlone plain (dev (regs [0, 0, 0x4010])) ∧ (fM .none (.w 2) .none 7 0 4).sub.toNat < 8 ∧
    (addr (dev (regs [0, 0, 0x4010])) (fM .none (.w 2) .none 0 0 4)).toNat < 2 ^ 53 ∧
    fine (flushLine 0 1 (0x4010 / 128) 4 false (issued 0 plain (dev (regs [0, 0, 0x4010])))) = true ∧
    fine (flushLine 0 1 (0x4010 / 128) 5 true (issued 0 plain (dev (regs [0, 0, 0x4010])))) = true ∧
    2 ≤ (fM .none (.w 2) .none 0 0 2).x.sc ∧ ((dev rdy).cluster (clusterOf 0)).fused = false := by decide +kernel

/-- The same device with `n` ranges bound to the object at 0x4000. -/
def bound (n : Nat) (c : Ctx) : State :=
  { dev c with mem := [(71, 0x80), (74, 2)] ++ (List.range n).flatMap fun j =>
      [(0x20001 + 32 * j, 0x40), (0x20007 + 32 * j, 0x80), (0x20008 + 32 * j, BitVec.ofNat 8 (8 * j + 8)), (0x20010 + 32 * j, 8)] }

theorem meets_BindingsAddAndRemoveEntries : RunsAlone plain (dev rdy) ∧ (14 : BitVec 4).toNat ≤ 14 ∧ resolve 0 0x4000 ≠ .bad ∧
    (0x4000 : Word).toNat % 8 = 0 ∧ (readDesc (issued 0 plain (dev rdy)) 0 1).1 = .ok (0, 0x20000) ∧ rangeBad 0 0 = true ∧
    rangeBad 0x1FFFFFFFFFFFFF 1 = false ∧ rangeBad 0x1FFFFFFFFFFFFF 2 = true ∧
    regionEntries (bound 2 rdy) 0x20000 = [(0, 0x4000, 8, 8), (1, 0x4000, 16, 8)] ∧
    ((regionEntries (bound 15 rdy) 0x20000).filter fun e => e.2.1 == 0x4000).length = 15 ∧
    (∀ e ∈ regionEntries (bound 2 rdy) 0x20000, e.1 ≠ 2) ∧ (∀ i, i < 2 → ∃ e ∈ regionEntries (bound 2 rdy) 0x20000, e.1 = i) ∧
    (∀ e ∈ regionEntries (bound 2 rdy) 0x20000, ¬(e.2.1 = 0x4000 ∧ e.2.2.1 = 24)) ∧
    ((regionEntries (bound 2 rdy) 0x20000).filter fun e => e.2.1 == 0x4000 && e.2.2.1 == 16) = [(1, 0x4000, 16, 8)] := by
  decide +kernel

/-- A region table whose first `n` entries are valid. -/
def crowded (n : Nat) : State := { dev rdy with mem := (List.range n).map fun j => (0x20007 + 32 * j, 0x80) }

theorem crowded_entries (n j : Nat) (hj : j < n) (hn : j < 4096) : ∃ e ∈ regionEntries (crowded n) 0x20000, e.1 = j := by
  refine ⟨_, List.mem_map.2 ⟨(0x20007 + 32 * j, 0x80), List.mem_filter.2 ⟨List.mem_map.2 ⟨j, List.mem_range.2 hj, rfl⟩, ?_⟩, rfl⟩, ?_⟩
  · simp; omega
  · show (0x20007 + 32 * j - 7 - 0x20000) / 32 = j
    omega

theorem meets_BindingsAddAndRemoveEntries_full : ∀ j, j < 4096 → ∃ e ∈ regionEntries (crowded 4096) 0x20000, e.1 = j :=
  fun j hj => crowded_entries 4096 j hj hj

theorem meets_LoadAfterStoreOfDeviceMemory : (8 : Nat) ∈ ([1, 2, 4, 8] : List Nat) ∧ 0x4078 % 8 = 0 ∧ (2 : Nat) ≤ 2 ∧
    (devStore (dev rdy) 0 (some 0) 1 2 0x4078 8 5).1 = .ok () ∧ (devStore (dev rdy) 0 (some 0) 1 0 0x4078 8 5).1 = .ok () ∧
    l1Home (dev rdy) 0 (0x4078 / 128) = some 0 ∧
    ((l1Find (devStore (dev rdy) 0 (some 0) 1 0 0x4078 8 5).2 0 1 (0x4078 / 128)).map fun l => l.poison) = some false := by decide +kernel

theorem meets_HomeSliceReadAfterWrite : 0x8078 % 128 + 8 ≤ 128 ∧ 0x8000 % 128 + 128 ≤ 128 ∧ 0x8000 % 128 = 0 ∧
    fencedFrom (dev rdy) 0 (homeDie 0x8078) = false ∧ ({ dev rdy with poison := [0x100] } : State).poison.contains (0x8078 / 128) = true ∧
    (dev rdy).poison.contains (0x8078 / 128) = false := by decide +kernel


/-! ### System registers, returns and threads -/

/-- Context 7 of core 0 executes while context 0 is Stopped. -/
def served (d : Ctx) : State := st7 { rdy with pc := 0x2000 } { d with run := .stopped, epc := 0x1234 }

-- R82: RTE resumes at `y.epc`; RTE.DROP frees the context; a target that is not Stopped is left alone.
theorem test_rte : ((after (exec (.rte plain ⟨.p 1, .imm 0, .none, 0, .none⟩) (served rdy))).ctx 0).pc = 0x1234 ∧
    ((after (exec (.rte plain ⟨.p 1, .imm 0, .none, 0, .none⟩) (served rdy))).ctx 7).pred 1 = -1 ∧
    ((after (exec (.rteDrop plain ⟨.p 1, .imm 0, .none, 2, .none⟩) (served rdy))).ctx 0).run = .free ∧
    ((after (exec (.rteEnd plain ⟨.p 1, .imm 0, .none, 1, .none⟩) (served rdy))).ctx 0).run = .free ∧
    ((after (exec (.rte plain ⟨.p 1, .imm 1, .none, 0, .none⟩) (served rdy))).ctx 7).pred 1 = 0 := by decide +kernel

theorem meets_SystemRegisterReads : Runs plain (st rdy) ∧ Claims.plainRegister rdy 39 = some 0 ∧ rdy.spl < 2 ^ 16 ∧ rdy.res < 8 ∧ rdy.wf < 8 ∧
    rdy.pid < 2 ^ 12 ∧ rdy.ectx < 2 ^ 8 ∧ rdy.pri < 4 := by decide

theorem meets_SystemRegisterWrites : Runs plain (st (regs [0, 6])) ∧ (Opnd.w 1).link? = none ∧ 6 ≤ (source (st (regs [0, 6])) (.w 1)).toNat % 8 ∧
    (source (st (regs [0, 5])) (.w 1)).toNat % 8 < 6 ∧ ctxNo (st (regs [0, 6])).cur ≠ 7 ∧ (6 : Word).getLsbD 13 = false := by decide

theorem meets_OtherContextsThroughMfsrAndMtsr : Runs plain (served rdy) ∧ ctxNo (served rdy).cur = 7 ∧ (Claims.core (served rdy)).tctx < 7 ∧
    Claims.plainRegister ((served rdy).ctx 0) 12 = some 0x1234 ∧ (Opnd.imm 63).link? = none ∧ (7 : BitVec 7).toNat < 8 := by decide +kernel

theorem meets_ReturnsFromATrap : Runs plain (served rdy) ∧ ctxNo (served rdy).cur = 7 ∧ (6 : BitVec 7).toNat ≤ 6 ∧
    ((served rdy).ctx 0).run = .stopped ∧ ((served rdy).ctx 0).deferred = [] ∧ drainOver (served rdy) 0 = true ∧
    ((served rdy).ctx 0).tcomp.toNat / 8 % 2 ^ 51 = 0 ∧ 6 < (7 : BitVec 7).toNat ∧ ((served rdy).ctx 1).run ≠ .stopped ∧
    fine (completionRelease 0 0x1234 (issued 7 plain (served rdy))) = true ∧
    fine (completionRelease 0 0x1234 (issued 7 plain (served { rdy with tcomp := 0x4001 }))) = false := by decide +kernel

/-- The target of a SPAWN or FORK: eight words on, and a placement word that names core 0. -/
def fSp (a : Opnd) : Fields := ⟨.p 1, a, .w 4, 0, .b 24⟩

/-- Core 0 in launch 5. -/
def mine : Core := { Core.reset with lid := some 5 }

theorem meets_ChildrenAreQueuedOrRunInline : RunsAlone plain (stC rdy mine) ∧ (branchTarget (stC rdy mine) (fSp (.w 1))).toNat < 2 ^ 54 ∧
    (branchTarget (stC rdy mine) (fSp (.w 1))).toNat % 4 = 0 ∧ (me (stC rdy mine)).jctr = 0 ∧ ((stC rdy mine).core 0).deque.length < 32 ∧
    (me (stC rdy mine)).res < 6 ∧ badHint ((me (stC rdy mine)).w 1) = false ∧ ctxNo (stC rdy mine).cur ≠ 7 ∧
    badHint ((me (stC (regs [0, 0x2000000000]) mine)).w 1) = false ∧ badHint ((me (stC (regs [0, 0x6000000000]) mine)).w 1) = true := by decide +kernel

theorem meets_ThreadsEnd : RunsAlone plain (st rdy) ∧ rdy.outstanding = [] ∧ rdy.pend = [] ∧ rdy.deferred = [] ∧ drainOver (st rdy) 0 = true ∧
    rdy.tcomp.toNat / 8 % 2 ^ 51 = 0 ∧ rdy.res + rdy.spl = 0 ∧
    (({ regs [0, 0, 0, 0, 0, 0, 0, 1] with res := 1 } : Ctx).w 7).getLsbD 0 = true ∧
    resolve 0 (wordAddr (own 9)) = .spad 0 8 ∧ (own 9).toNat % 8 = 1 ∧ (own 9).toNat / 8 % 2 ^ 51 ≠ 0 ∧
    ((st rdy).core 0).waiters = [] ∧ resident (st rdy) 0 8 = true ∧ spadBad (st rdy) 0 8 = false := by decide +kernel

theorem meets_ThreadWordsComplete : RunsAlone plain (st (regs [0, coreAddr 0])) ∧ resolve 0 ((me (st (regs [0, coreAddr 0]))).w 1) = .spad 0 0 ∧
    (coreAddr 1).getLsbD 53 = true ∧ (coreAddr 1).getLsbD 52 = false ∧ coreNamed (coreAddr 1) = some 1 ∧
    (0 : Word).toNat + 64 * 0 + 128 ≤ (0x4100 : Word).toNat ∧ drainOver (st rdy) 0 = true ∧
    fine (depart 0 1 false ((issued 0 plain (dev { rdy with wsp := 0x4100 })).modCtx 0 Ctx.seal)) = true ∧
    OwnWord (stC (regs [0, 0, own 8]) full) (addr (stC (regs [0, 0, own 8]) full) (fOwn .none 6)) 8 8 ∧
    ((stC (regs [0, 0, own 8]) full).core 0).spad.getD 1 0 = 0 ∧ ctxNo (served rdy).cur = 7 ∧ (Claims.core (served rdy)).supq = [] ∧
    RunsAlone plain (served rdy) ∧ (8 : BitVec 4).toNat ≤ 8 ∧ (Claims.core (served rdy)).deque = [] := by decide +kernel

/-! ### Vector words -/

/-- A context with two vector registers. -/
def vecs (a b : VReg) : Ctx := { rdy with v := [(2, a), (3, b)] }

/-- A word over `v1`, `v2` and `v3`. -/
def fV (ty : BitVec 4) : Fields := fR (.v 1) (.v 2) (.v 3) ty

/-- Lane 0 of `v1` after a word, in 32 bits. -/
def lane0 (o : Out) : Nat := (((after o).ctx 0).vec 1).toNat % 2 ^ 32

-- R134, R135, R138: 1 + 2 = 3 in FP32; the first of equal operands; an i8 sum wraps, and clamps where it saturates.
theorem test_vector_sums : lane0 (exec (.vadd plain (fV 8)) (st (vecs 0x3F800000 0x40000000))) = 0x40400000 ∧
    lane0 (exec (.vmax plain (fV 8)) (st (vecs 0x3F800000 0x40000000))) = 0x40000000 ∧
    lane0 (exec (.viadd plain (fV 0)) (st (vecs 0x7F 1))) = 0x80 ∧
    lane0 (exec (.viadd plain { fV 0 with sub := 1 }) (st (vecs 0x7F 1))) = 0x7F ∧
    lane0 (exec (.vmul plain (fV 8)) (st (vecs 0x7F000000 0x7F000000))) = 0x7F800000 := by decide +kernel

-- R143, R145, R147: a broadcast of the low bits, a shuffle's interleave, and a permutation by indices modulo the lanes.
theorem test_vector_moves : lane0 (exec (.vbcst plain (fR (.v 1) (.imm 5) .none 1)) (st rdy)) = 0x05050505 ∧
    lane0 (exec (.vshuf plain (fV 1)) (st (vecs 0x0201 0x0403))) = 0x04020301 ∧
    lane0 (exec (.vperm plain (fV 1)) (st (vecs 0x0201 0x4101))) = 0x01010202 := by decide +kernel

theorem meets_VectorIntegerLanes : Runs plain (st rdy) ∧ (fV 7).x.ty < 8 ∧ (fV 7).a.link? = none ∧ (fR (.v 31) (.v 2) (.imm 127) 0).b.link? = none ∧
    (fV 7).sub.getLsbD 0 = false ∧ ({ fV 7 with sub := 1 } : Fields).sub.getLsbD 0 = true := by decide

theorem meets_VectorFloatLanes : Runs plain (st rdy) ∧ 8 ≤ (fV 8).x.ty ∧ (fV 11).x.ty ≤ 11 ∧ (fV 8).a.link? = none := by decide

theorem meets_FloatSumsAndProductsRoundToNearest :
    Claims.rational (fFP32.read 0x3F800000) = some (1 * (8388608 : ℚ) * 2 ^ (-23 : ℤ)) ∧ 0x3F800000 < 2 ^ 32 ∧
    Claims.rational (fFP32.read (fAdd fFP32 0 0x3F800000 0x3F800000)) = some (1 * (8388608 : ℚ) * 2 ^ (-22 : ℤ)) ∧
    Claims.rational (fFP32.read (fMul fFP32 0 0x3F800000 0x3F800000)) = some (1 * (8388608 : ℚ) * 2 ^ (-23 : ℤ)) := by
  have h1 : fFP32.read 0x3F800000 = .fin false 8388608 (-23) := by decide +kernel
  have h2 : fFP32.read (fAdd fFP32 0 0x3F800000 0x3F800000) = .fin false 8388608 (-22) := by decide +kernel
  have h3 : fFP32.read (fMul fFP32 0 0x3F800000 0x3F800000) = .fin false 8388608 (-23) := by decide +kernel
  rw [h1, h2, h3]
  exact ⟨rfl, by decide, rfl, rfl⟩

theorem meets_FloatNanOperandsPropagate : (0x7FFFFFFF / 2 ^ 23 % 256 = 255 ∧ 0x7FFFFFFF % 2 ^ 23 ≠ 0) ∧ 0x7FFFFFFF < 2 ^ 32 ∧
    (0x7F800001 / 2 ^ 23 % 256 = 255 ∧ 0x7F800001 % 2 ^ 23 ≠ 0) ∧ ¬(0x7F800000 / 2 ^ 23 % 256 = 255 ∧ 0x7F800000 % 2 ^ 23 ≠ 0) := by decide

theorem meets_VectorLongFloatLanes : Runs plain (st rdy) ∧ 8 ≤ (fV 11).x.ty ∧ (fV 11).x.ty ≤ 11 ∧ (fV 11).b.link? = none := by decide

theorem meets_VectorComparisons : Runs plain (st rdy) ∧ (fR (.p 7) (.v 2) (.v 3) 7).x.ty < 8 ∧ 8 ≤ (fR (.p 0) (.v 2) (.imm 1) 8).x.ty ∧
    (fR (.p 0) (.v 2) (.imm 1) 11).x.ty ≤ 11 ∧ (fR (.p 0) (.v 2) (.imm 1) 8).b.link? = none := by decide

theorem meets_VectorMovesAndPermutations : Runs plain (st rdy) ∧ (fV 7).x.ty < 8 ∧ ({ fV 7 with sub := 7 } : Fields).sub.toNat % 8 = (7 : BitVec 3).toNat ∧
    64 ≤ (71 : BitVec 10).toNat ∧ (71 : BitVec 10).toNat % 64 < 8 ∧ (fV 7).x.mkEn = false ∧ rdy.outstanding = [] ∧ rdy.pend = [] ∧
    rdy.deferred = [] := by decide

/-- VCVT from FP32 to BF16. -/
def fCvt : Fields := ⟨.v 1, .v 2, .imm 1, 0x128, .r 0 0 false 0⟩

theorem meets_VectorReductionsConversionsAndDotProducts : Runs plain (st rdy) ∧ (fR (.w 1) (.v 2) .none 7).x.ty < 8 ∧
    (fR (.w 1) (.v 2) .none 7).sub.toNat % 16 = 0 ∧ (fV 3).x.ty < 4 ∧ (fV 3).b.link? = none ∧
    Instr.check (.vcvt plain fCvt) = none ∧ 1 * min (cvtLanes 8) (cvtLanes 9) + min (cvtLanes 8) (cvtLanes 9) ≤ max (cvtLanes 8) (cvtLanes 9) ∧
    (convert 8 9 0 0x3F800000).isSome = true := by decide +kernel

/-- Elements of 8 bytes of the own scratchpad, one after another. -/
def fVm (ty : BitVec 4) : Fields := fM (.v 1) (.w 2) .none 0 ty 0

theorem meets_VectorElementAddresses : (fVm 7).a = .w 2 ∧ (fVm 7).x = .m 7 0 0 false 0 ∧ (fVm 7).sub.toNat / 8 % 8 = 0 ∧
    ({ fVm 7 with sub := 8 } : Fields).sub.toNat / 8 % 8 = 1 ∧ ({ fVm 7 with sub := 16 } : Fields).sub.toNat / 8 % 8 = 2 := by decide

/-- Context 0 with the address of its own scratchpad in `w2`, without waiters there. -/
def ownVec : State := stC (regs [0, 0, own 0]) full

theorem meets_VectorLoadsAndStores : RunsAlone plain ownVec ∧ (∀ r ∈ ownVec.reqs, r.x ≠ ownVec.cur) ∧
    (vecAddrs (me ownVec) (fVm 7)).length = 8 ∧ (∀ e ∈ vecAddrs (me ownVec) (fVm 7), OwnWord ownVec e.2 8 (8 * e.1)) ∧
    (Claims.core ownVec).waiters = [] ∧ (vecAddrs (me ownVec) (fVm 14)).length = 48 ∧
    (∀ e ∈ vecAddrs (me ownVec) (fVm 14), OwnWord ownVec e.2 1 e.1) := by decide +kernel

theorem meets_VectorAccessesToDeviceMemory : RunsAlone plain (dev (regs [0, 0, 0x4000])) ∧ (∀ r ∈ (dev (regs [0, 0, 0x4000])).reqs, r.x ≠ 0) ∧
    vecAddrs (me (dev (regs [0, 0, 0x4000]))) (fVm 7) ≠ [] ∧
    (∀ e ∈ vecAddrs (me (dev (regs [0, 0, 0x4000]))) (fVm 7), e.2.toNat < 2 ^ 53 ∧ e.2.toNat % 8 = 0) := by decide +kernel

/-! ### Words of the units -/

/-- A word of format X with its 36 bits. -/
def fX (d a b : Opnd) (x : BitVec 36) : Fields := ⟨d, a, b, 0, .e 0 x⟩

-- R257, R412: BARA sends one arrival to the cluster's unit; SQTAB of a sequencer that is not granted tells 1.
theorem test_units : ((after (exec (.bara plain ⟨.none, .e 2, .none, 1, .e 0 0⟩) (st rdy))).cluster 0).barMsgs.length = 1 ∧
    w1 (exec (.sqtab plain (fX (.w 1) (.w 2) .none 0)) (st rdy)) = 1 := by decide +kernel

/-- A context with `n` sealed batches that are not finished. -/
def sealed (n : Nat) : Ctx := { rdy with xbatches := (List.range n).map fun i => ⟨i, 1⟩, xnext := n }

theorem meets_FencesBetweenPathsAndBatches : RunsAlone plain (st rdy) ∧ (st rdy).reqs = [] ∧ (fX .none .none .none 0x600000606).xBits 8 1 = 0 ∧
    (fX .none .none .none 0x600000606).xBits 0 1 = 0 ∧ (fX .none .none .none 0x600000601).xBits 0 1 = 1 ∧
    (fX .none .none .none 0x600000601).xBits 33 3 = 3 ∧ ((st rdy).cluster 0).fused = false ∧
    ({ sealed 15 with xopen := 1 } : Ctx).xbatches.length < 16 ∧ (∀ b ∈ (sealed 15).xbatches, b.left ≠ 0) ∧
    (sealed 0).xbatches = [] ∧ (sealed 0).xopen = 0 ∧ 16 ≤ (sealed 16).xbatches.length ∧ (Opnd.imm 127).link? = none ∧
    ((me (st (sealed 15))).xnext + 65536 - (count (st (sealed 15)) (.imm 15)).toNat % 65536) % 65536 = 0 ∧
    ((me (st (sealed 15))).xnext + 65536 - (count (st (sealed 15)) (.imm 0)).toNat % 65536) % 65536 = 15 ∧
    (me (st (sealed 15))).xbatches.length = 15 ∧ (sealed 0).xbatches.length < (1 + 65536 - 0) % 65536 := by decide +kernel

/-- Barrier 2 of cluster 0 with `n` participants still to arrive, and its phase. -/
def barred (n ph : Nat) (c : Ctx) : State := { st c with clusters := [(0, { Cluster.reset with bars := [(2, ⟨n, 0, 0, ph, 3⟩)] })] }

theorem meets_BarrierWords : RunsAlone plain (st (regs [0, 0x1000])) ∧ (count (st (regs [0, 4095])) (.w 1)).toNat ≤ 4095 ∧
    4095 < (count (st (regs [0, 4096])) (.w 1)).toNat ∧ (⟨.w 1, .e 2, .none, 1, .e 0 0⟩ : Fields).sub ≠ 0 ∧
    (⟨.w 1, .e 2, .none, 0, .e 0 0x600000000⟩ : Fields).sub = 0 ∧ clusterNamed (coreAddr 0) = some 0 ∧ clusterNamed (coreAddr 4) = some 1 ∧
    clusterServes (st rdy) 0 1 = true ∧ clusterServes (stC { rdy with lid := some 5 } mine) 0 1 = false ∧ (0x1000 : Word).getLsbD 53 = false ∧
    (me (st rdy)).outstanding = [] ∧ ((barred 4 5 rdy).cluster 0).bars.getD 2 Barrier.reset = ⟨4, 0, 0, 5, 3⟩ ∧
    (1 ≤ (5 + 65536 - (4 : Word).toNat % 65536) % 65536 ∧ (5 + 65536 - (4 : Word).toNat % 65536) % 65536 < 32768) ∧
    ¬(1 ≤ (5 + 65536 - (5 : Word).toNat % 65536) % 65536) ∧ (((barred 0 5 rdy).cluster 0).bars.getD 2 Barrier.reset).cnt = 0 := by
  decide +kernel

/-- A context with `n` unfinished commands of each engine. -/
def commanding (n : Nat) : Ctx :=
  { rdy with mstat := { EngStat.reset with unf := n }, spstat := { EngStat.reset with unf := n }, rqstat := { EngStat.reset with unf := n } }

/-- Cluster 0 whose sum-product engine and ray unit hold `n` commands. -/
def queued (n : Nat) : State :=
  let m : EngCmd := ⟨0xB5, 8, 1, 0, fX .none .none .none 0, 0, 0, 0, 0, 0, [], 0, none, 0, 0, 0, 0⟩
  { st rdy with clusters := [(0, { Cluster.reset with spe := { Spe.reset with queue := List.replicate n m }
                                                      rqu := { Rqu.reset with queue := List.replicate n m } })] }

theorem meets_EngineCommandsAreQueued : RunsAlone plain (st (commanding 31)) ∧ (∀ m ∈ (st rdy).cmds, ¬(m.cmd.x = (st rdy).cur)) ∧
    Claims.mxeWord (.mma plain (fX .none .none .none 0)) = some (plain, fX .none .none .none 0) ∧
    (commanding 31).mstat.unf < 32 ∧ 32 ≤ (commanding 32).mstat.unf ∧ (fX .none .none .none 0x800000000).xBits 35 1 = 1 ∧
    Claims.speWord (.spup plain (fX .none .none .none 0)) = some (plain, fX .none .none .none 0) ∧ (commanding 15).spstat.unf < 16 ∧
    16 ≤ (commanding 16).rqstat.unf ∧ ((queued 15).cluster 0).spe.queue.length < 16 ∧ 16 ≤ ((queued 16).cluster 0).rqu.queue.length ∧
    (Claims.rquWord (st rdy) (.rqnear plain (fX .none (.v 2) .none 0))).isSome = true := by decide +kernel

/-- A context of which a command has failed and `n` are unfinished. -/
def failed (n : Nat) : Ctx :=
  let e : EngStat := ⟨true, 255, 255, 0, 0, n⟩
  { rdy with mstat := e, spstat := e, rqstat := e }

theorem meets_EngineWaits : RunsAlone plain (st (failed 5)) ∧ (Opnd.imm 5).link? = none ∧ (failed 5).mstat.unf ≤ (count (st (failed 5)) (.imm 5)).toNat ∧
    (count (st (failed 5)) (.imm 4)).toNat < (failed 5).mstat.unf ∧ (fX (.p 1) (.imm 5) .none 0).xBits 30 1 = 0 ∧
    (fX (.p 1) (.imm 5) .none 0x40000000).xBits 30 1 = 1 ∧ (failed 5).rqstat.err = true ∧ (failed 5).spstat.stat < 256 ∧
    ctxNo (st (failed 5)).cur ≠ 7 := by decide

/-- Core 0 with words from offset 0x100 of its scratchpad on. -/
def holds (ws : List Word) : Core := { mine with spad := (List.range ws.length).map fun i => (32 + i, ws.getD i 0) }

/-- A weaver descriptor for matrix slot 63, to core 0. -/
def wvGood : List Word := [0x48, 63, 0, 0, (1 : Word) <<< 53, 0, 0, 0]

/-- Channel 1 of cluster 0 with its first buffer open. -/
def woven : State :=
  { st rdy with clusters := [(0, { Cluster.reset with wv := [(1, { WvChan.reset with en := true, arm := true, b0 := { WvBuf.reset with st := .opened } })] })] }

theorem meets_WeaverWords : RunsAlone plain (st (regs [0, 4])) ∧ (source (st (regs [0, 4])) (.w 1)).toNat % 8 ≠ 0 ∧ (own 0x100).toNat % 8 = 0 ∧
    fine (pathWords (issued 0 plain (stC (regs [0, own 0x100]) (holds wvGood))) 3 0 0 1 (own 0x100) 8).1 = true ∧ wvValid wvGood = true ∧
    wvValid [0x48, 64, 0, 0, (1 : Word) <<< 53, 0, 0, 0] = false ∧ (wvChan woven 0 1).openBuf = some 0 ∧
    ((wvChan woven 0 1).buf 0).dueAt = none ∧ (wvChan (st rdy) 0 1).openBuf = none := by decide +kernel

/-- A descriptor that writes the 64 bytes at its scratchpad's start, and the same with a bit of a reserved word. -/
def nodeGood : List Word := [3, 0x1000, 0, 0, 0, 0, 0, 0, (1 : Word) <<< 63 ||| own 0, 64]
def nodeBad : List Word := [3, 0x1000, 0, 0, 0, 1]

/-- A node of stream 3 that writes the same bytes and is followed by `n` others. -/
def earlier (n : Nat) : Node := { descNode 0 0 (some 5) 1 0 (nodeGood ++ List.replicate 6 0) with succs := List.replicate n 9 }

/-- Die 0 with that node in slot 0. -/
def pooled (n : Nat) : State :=
  { stC (regs [0, own 0x100]) (holds nodeGood) with dies := [(0, { Die.reset with run := .running, pool := [(0, earlier n)] })] }

/-- The words that GNODE reads at 0x100 of the own scratchpad, and what the pool answers. -/
def readNode (s : State) : Bool × Except Nat Nat :=
  match wordsLoad (issued 0 plain s) 0 1 0 (own 0x100) 16 with
  | (.ok ws, u) => (descOk 0 ws, (submitNode 0 (descNode 0 0 (some 5) 1 0 ws) u).1)
  | (.error _, _) => (false, .error 0)

/-- The number that an answer of the pool comes to: 100 and the slot, or the reason. -/
def told : Except Nat Nat → Nat
  | .ok slot => 100 + slot
  | .error e => e

theorem meets_TaskGraphWords : RunsAlone plain (pooled 31) ∧ (pooled 31).reqs = [] ∧
    firstBad (issued 0 plain (pooled 31)) 0 0x1000 (own 0x100) 16 = none ∧ (readNode (pooled 31)).1 = true ∧ told (readNode (pooled 31)).2 = 101 ∧
    told (readNode (pooled 32)).2 = 3 ∧ (readNode (stC (regs [0, own 0x100]) (holds nodeBad))).1 = false ∧
    fine (submitRange 0 (earlier 0) 5 1 (stC rdy (holds nodeGood))).1 = true ∧
    (applyDone 0 1 (pooled 0)).isSome = true ∧ ((pooled 0).die 0).pool.get? 1 = none ∧ (earlier 0).gen = (0 : Word).toNat / 2 ^ 48 ∧
    (earlier 0).shadowOf = none ∧ (earlier 0).range = false ∧ (earlier 0).isq = none ∧
    undoneNodes (pooled 0) (some 5) 0 3 = 1 ∧ (Opnd.imm 1).link? = none := by decide +kernel

/-- Sequencer 0 of die 0 in a state, granted to launch 5, with a table in slot 1. -/
def seqd (q : Isq) (ws : List Word) : State :=
  { stC { regs [0, own 0x100] with lid := some 5 } (holds ws) with
    dies := [(0, { Die.reset with run := .running, isqs := [(0, { q with granted := some 5, tabs := [(1, [])] })] })] }

/-- A table of one stage of order 1, as 46 words, and one of METH = 11. -/
def tabGood : List Word := [0x100]
def tabBad : List Word := [3]

/-- The header of a set of one sample of one dimension with the table in slot 1, in 64-byte-aligned scratchpad words. -/
def setGood : List Word :=
  [(1 : Word) <<< 34, 0x2000, 0, 0, own 0x1000, own 0x2000, 0x3F8000003F666666, 0x000000003E4CCCCD]

/-- Does SQGO or SQTAB accept what it reads. -/
def readTab (s : State) : Bool :=
  match (pathWords (issued 0 plain s) 6 0 0 1 (own 0x100) 46).1 with
  | .ok ws => tabOk (tableHalves ws)
  | .error _ => false
def readSet (s : State) : Bool :=
  match (pathWords (issued 0 plain s) 6 0 0 1 (own 0x100) 16).1 with
  | .ok ws => hdrOk s (isqOf s 0 0) ws
  | .error _ => false

/-- The set of that header, bound to its table. -/
def setBound : Isq := { Isq.reset with granted := some 5, hdrAddr := own 0x100, hdr := setGood ++ List.replicate 8 0, pid := 1 }

theorem meets_SequencerWords : fine (startSet 0 0 setBound false (seqd Isq.reset setGood)).1 = true ∧ RunsAlone plain (seqd Isq.reset tabGood) ∧ ¬((isqOf (st rdy) 0 0).granted ≠ none) ∧
    ((isqOf (seqd Isq.reset tabGood) 0 0).granted ≠ none ∧ (isqOf (seqd Isq.reset tabGood) 0 0).granted = threadLaunch (seqd Isq.reset tabGood) 0) ∧
    (1 ≤ ({ Isq.reset with state := 4 } : Isq).state ∧ ({ Isq.reset with state := 4 } : Isq).state ≤ 4) ∧ fld (Isq.reset.word 0) 34 2 = 0 ∧
    4 < Isq.reset.state ∧ (own 0x104).toNat % 8 ≠ 0 ∧ resolve 0 (own 0x100) ≠ .bad ∧ readTab (seqd Isq.reset tabGood) = true ∧
    readTab (seqd Isq.reset tabBad) = false ∧ (own 0x100).toNat % 64 = 0 ∧ Isq.reset.progDue = false ∧ readSet (seqd Isq.reset setGood) = true ∧
    readSet (seqd Isq.reset tabBad) = false ∧ ({ Isq.reset with state := 1 } : Isq).state = 1 ∧ Isq.reset.state ≠ 1 ∧ Isq.reset.state < 8 := by
  decide +kernel

/-! ### What moves without an instruction -/

/-- A request of context 0 of core 1 for a word, with value 5. -/
def asks (op : ReqOp) (home : Home) : Req :=
  { id := 0, x := 8, src := 1, pid := 1, op := op, home := home, size := 8, ty := 7, val := 5, cmp := 0, lr := none, waits := false, acq := 0
    ord := false, pc := 0x1000, va := 0x4000, vst := none, heldAt := false, refused := false, stale := false, delay := 0 }

/-- The same device as `dev` with one request in flight, whose sender holds `c`. -/
def sent (r : Req) (c : Ctx) : State := { dev rdy with reqs := [r], ctxs := [(0, rdy), (8, c)] }

/-- The wait of an instruction that waits for a reply of a kind, its place among the waits, and until when. -/
def waits (kind : WaitKind) (order : Nat) (due : Option Nat) : Wait := ⟨.exit plain ⟨.none, .none, .none, 0, .none⟩, kind, 0, order, due, none, false, [], 0⟩

-- R184, R190: the fetch and add at the home; the store at another core's scratchpad.
theorem test_homes : memRead (after (exec (.atomicAtHome 0) (sent { asks (.atom .add) (.dev 0x8000) with lr := some 0 } rdy))).mem 0x8000 8 = 5 ∧
    spadGet (after (exec (.remoteScratchpadAccess 0) (sent (asks .store (.spad 0 8)) rdy))) 0 8 8 = 5 := by decide +kernel

theorem meets_RequestsArePerformedAtTheirHomes : (⟨0, .w 3, some (.ok 7), 0⟩ : LongRes).group = 0 ∧ ((st rdy).core 0).droopAt = none ∧
    reqFirst (sent (asks (.link 2 true) (.spad 0 0)) rdy) 0 = true ∧ fencedFrom (st rdy) 0 0 = false ∧ ((st rdy).core 0).links.get? 2 = none ∧
    (linked.links.get? 2 = some 5 ∧ linked.linkHold.get? 2 = none) ∧ resident (st rdy) 0 8 = true ∧ spadBad (st rdy) 0 8 = false ∧
    resident (stC rdy absent) 0 0x3FFF8 = false ∧ heldAtPort (st rdy) 0 < 64 ∧
    (match homeRead (ownCopies (asks (.atom .add) (.dev 0x8000)) (dev rdy)) 0 0x8000 8 with | .ok v => v == 0 | .error _ => false) = true ∧
    ((dev rdy).die (homeDie 0x8000)).waiters = [] ∧
    (let q := { asks (.waita 0) (.dev 0x8000) with waits := true }
     let s := sent q { rdy with run := .waiting (waits .waita 0 (some 0)) }
     (0 : Nat) ≤ s.pkg.time ∧ waitingReq s 8 = some q ∧ wordNow q s = (some (.ok 0), s)) ∧
    fine (devHome (sent { asks .load (.dev 0x8000) with stale := true } rdy) 1 1 0x4000 .read).1 = true := by decide +kernel

/-- Every context of core 0 waits for its word of the scratchpad, the lowest since first; one record is queued, and one area pair is spare. -/
def crowd : State :=
  { st rdy with
    ctxs := (List.range 7).map fun i => (i, { rdy with run := .waiting (waits .tagged i none), wsp := own (0x1000 + 0x1000 * i) })
    reqs := (List.range 7).map fun i => { asks .ldf (.spad 0 (8 * i)) with x := i, src := 0, waits := true, id := i }
    cores := [(0, { Core.reset with spare := [own 0x20000]
                                    deque := [⟨⟨0, 0, 0, 0, 0, 0, 0, 0⟩, 0, false, 0, none, false, none, none, none⟩] })] }

/-- A thread held in memory whose word has changed. -/
def slept : HeldThread := { ({ rdy with wsp := own 0x1000 } : Ctx).heldAs (.spad 0 8) with changed := true }

theorem meets_ThreadsAreHeldAndImaged : (∀ z ∈ userCtxs 0, holdable crowd z = true) ∧ (crowd.core 0).deque ≠ [] ∧
    (crowd.core 0).heldList.length < 8 ∧ longestWait crowd 0 = some 0 ∧ (crowd.ctx 0).pendDroop = none ∧ (crowd.ctx 0).pendPreempt = false ∧
    quiet (settleThread 0 crowd) 0 = true ∧ holdable (settleThread 0 crowd) 0 = true ∧ (waitingReq (settleThread 0 crowd) 0).isSome = true ∧
    fine (writeImage 0 1 0x1000 (cancelBoth 0 (settleThread 0 crowd))).1 = true ∧ slept.changed = true ∧ slept.woken = false ∧
    resultsIn (st { rdy with run := .stopped, wsp := own 0x1000 }) 0 = true ∧
    fine (saveContext 0 0x1000 (st { rdy with run := .stopped, wsp := own 0x1000 })) = true ∧
    fine (readImage Ctx.reset 0 (imagePid (st { Ctx.reset with wsp := own 0x1000 }) 0 0) (own 0x1000) (st { Ctx.reset with wsp := own 0x1000 })).1 = true := by
  decide +kernel

/-- An event of kind 2 and source 3 that counts in no window. -/
def ev : Ev := ⟨0x32, 0, false, false, 0, none, 0, 0⟩

/-- The message that brings it to core 0, or to a weaver there. -/
def evMsg (w : Option Nat) (g : Option Nat) : EvMsg := ⟨ev, 0, 3, 0, false, 0, w, g, true⟩

/-- A record of kind 0 that starts at 0x2000. -/
def work : Rec := ⟨0, 0x2000, 1, 2, 3, 4, 0, 0⟩

/-- The same queued. -/
def queuedWork (n : Nat) : List Queued := (List.range n).map fun i => ⟨work, i, false, 0, none, false, none, none, none⟩

/-- Core 0 with a handler for kind 2 at 0x3000, in a free context, with two records more than core 1. -/
def served0 : State :=
  { stC Ctx.reset { Core.reset with inbox := [ev], hbase := own 0x100, spad := [(34, 0x3000)], deque := queuedWork 3, levelEn := true } with
    pkg := { Package.reset with time := 4000 } }

theorem meets_RecordsAndEventsAreQueuedAndBound : evFirst { st rdy with evs := [evMsg none none] } 0 (evMsg none none) = true ∧
    coreOnline (st rdy) 0 = true ∧ ((st rdy).core 0).inbox.length < 64 ∧
    64 ≤ ((stC rdy { Core.reset with inbox := List.replicate 64 ev }).core 0).inbox.length ∧
    coreOnline (stC rdy { Core.reset with offline := true }) 0 = false ∧ (placementWalk (st rdy) none (0, false) 0).isSome = true ∧
    recordBad work = false ∧ kindNotice work.kind = false ∧ placementWalk { st rdy with cores := [] } (some 9) (0, false) 0 = none ∧
    (deliverNotice 0 work (st rdy)).isSome = true ∧ 8 ≤ ((stC rdy { Core.reset with notices := queuedWork 8 }).core 0).notices.length ∧
    (served0.ctx 0).run = .free ∧ (served0.ctx 0).closing = false ∧ (served0.core 0).inbox = [ev] ∧
    (handlerOf served0 0 2 3).1 = some (0x3000, false) ∧ firstHeld (stC rdy Core.reset |>.core 0) = none ∧ (queuedWork 1).length = 1 ∧
    (∀ q ∈ queuedWork 1, q.level = 0 ∧ q.needsPair = false ∧ q.acq = 0 ∧ q.dual = none) ∧
    (served0.core 0).levelAt + 1000 * ((served0.core 0).levelInt + 1) ≤ served0.pkg.time ∧
    levelNeighbours (stC rdy { Core.reset with lid := some 3 }) 0 = [] ∧ dequeDepth served0 1 + 3 = 3 ∧ dequeDepth served0 0 = 3 := by
  decide +kernel

/-- A thread packet from context 0 of core 0 to core 1. -/
def packet (auto : Bool) (ack : Option Word) : MigMsg :=
  ⟨0, 1, { rdy with run := .migrating, spl := 1 }, own 0x100, [0x80], ack, auto, false, 0x1000⟩

/-- That packet in flight, with core 1 as given. -/
def migrating (m : MigMsg) (k : Core) : State := { st { rdy with run := .migrating } with migs := [m], cores := [(1, k)] }

theorem meets_MigrationsArriveOrAreRefused : migOf (migrating (packet false none) Core.reset) 0 = some (packet false none) ∧
    refusal (migrating (packet false none) Core.reset) (packet false none) = none ∧ ((migrating (packet false none) Core.reset).core 1).droopAt = none ∧
    ctxKey 1 6 ∈ freeCtxs (migrating (packet false none) Core.reset) 1 ∧
    fine (wordsLoad (invalidateLines 1 1 [0x80] (migrating (packet false none) Core.reset)) 1 1 0 (own 0x100) 16).1 = true ∧
    migOf (migrating (packet false (some 5)) Core.reset) 0 = some (packet false (some 5)) ∧
    refusal (migrating (packet true none) { Core.reset with offline := true }) (packet true none) = some 2 ∧
    refusal (migrating (packet false none) mine) (packet false none) = some 3 ∧ ctxNo 0 ≠ 7 := by decide +kernel

/-! ### The supervisor's queue, kills, power -/

/-- A core whose supervisor queue is full, and one whose queue keeps one item more. -/
def busySup : Core := { Core.reset with supq := List.replicate 64 ⟨255, 65535⟩, supqKept := [⟨4, 0⟩] }

theorem meets_SupervisorServices : Core.reset.supq = [] ∧ Core.reset.faultWait = [] ∧ busySup.supq ≠ [] ∧ busySup.supqKept ≠ [] ∧
    (∀ it ∈ busySup.supq, it.typ < 2 ^ 8 ∧ it.data < 2 ^ 16) ∧ (∀ x ∈ userCtxs 0, (State.reset.ctx x).run = .free) ∧
    (0 ∈ userCtxs 0 ∧ ((st rdy).ctx 0).run ≠ .free) ∧ (0x00FF000000000000 : Word).toNat / 2 ^ 62 = 0 ∧
    0x13 ≤ (0x4013000000000000 : Word).toNat / 2 ^ 48 % 256 ∧
    ((0x4012000000000000 : Word).toNat / 2 ^ 62 ≠ 0 ∧ (0x4012000000000000 : Word).toNat / 2 ^ 48 % 256 < 0x13) ∧
    (((st rdy).die 0).banks.getD (coreBank (st rdy) 0) Bank.reset).w0.getLsbD 63 = false := by decide +kernel

/-- A killed core 0 of launch 5 with one record, and what its kill found unreadable. -/
def dead (r : Rec) (bad : List Nat) : State :=
  { stC rdy { Core.reset with killed := true, offline := true, badRecs := bad
                              deque := [⟨r, 0, false, 0, none, false, some 5, none, none⟩] } with ctxs := [] }

/-- A restartable record that has been restarted `n` times. -/
def again (n : Nat) : Rec := { work with w0 := BitVec.ofNat 64 (2 ^ 6 + 2 ^ 32 * n) }

theorem meets_PreemptionsAndKills : (0 : Nat) ∈ [0, 1] ∧ ((st rdy).core 0).killed = false ∧ pairsAt (st { rdy with lid := some 65535 }) 0 65535 = [] ∧
    lidCtxs (st { rdy with lid := some 65535 }) 0 65535 = [0] ∧ ((dead work []).core 0).killed = true ∧
    clockRuns (dead work []) (postmaster (dead work []) (clusterOf 0)) = true ∧
    ((lostWork (dead work [0]) 0).map (·.1) = [0] ∧ 0 ∈ ((dead work [0]).core 0).badRecs) ∧
    ((lostWork (dead (again 2) []) 0).map (·.1) = [0] ∧ 0 ∉ ((dead (again 2) []).core 0).badRecs ∧ (again 2).restart = true ∧
      (again 2).w0.toNat / 2 ^ 32 % 16 < 3) ∧
    lostWork { dead work [] with cores := [(0, { Core.reset with killed := true, offline := true })] } 0 = [] := by decide +kernel

/-- Core 0 stopped by a droop at 5 ns, at a device time. -/
def drooped (now : Nat) : State :=
  { stC rdy { Core.reset with droopAt := some 5 } with pkg := { Package.reset with time := now, pausedAt := [(8 * 191 + 1, 5)] } }

theorem meets_DroopsStopCoresAndEngines : ((drooped 1000005).core 0).droopAt = some 5 ∧ 5 + 1000000 ≤ (drooped 1000005).pkg.time ∧
    (drooped 1000004).pkg.time < 5 + 1000000 ∧ (∀ x ∈ coreCtxs 0, ((drooped 6).ctx x).canLand = none) ∧
    (∀ x ∈ userCtxs 0, (State.reset.ctx x).run = .free ∨ (State.reset.ctx x).run = .stopped) ∧
    (0 ∈ userCtxs 0 ∧ ((drooped 6).ctx 0).run ≠ .free ∧ ((drooped 6).ctx 0).run ≠ .stopped) ∧
    (drooped 6).pkg.pausedAt.get? (8 * 191 + 1) = some 5 ∧ ((st rdy).die 0).run ≠ .reset := by decide +kernel

/-- A lease that ends at 20,000 ns, and a lender whose borrower is cluster 95. -/
def leased (rvk : Bool) : Ctx := { rdy with lease := ⟨true, rvk, 3, 20000⟩ }
def lender (rcl : Bool) : Word := (1 : Word) <<< 54 ||| (95 : Word) <<< 55 ||| (if rcl then (1 : Word) <<< 62 else 0)

theorem meets_BudgetsAndLeases : (10001 : Nat) % 10000 ≠ 0 ∧ (st rdy).pkg.time % 10000 = 0 ∧ (st rdy).pkg.sync = [] ∧ (255 : Nat) < 256 ∧
    Runs plain (st rdy) ∧ (Opnd.w 1).link? = none ∧ ctxNo (st7 rdy rdy).cur = 7 ∧ (count (st (regs [0, 1000])) (.w 1)).toNat ≤ 1000 ∧
    1000 < (count (st (regs [0, 1001])) (.w 1)).toNat ∧ (count (st (regs [0, 0])) (.w 1)).toNat = 0 ∧
    ((st rdy).cluster 0).perm ≠ 0 ∧ ((st rdy).die 0).slotsFree ≠ 0 ∧ (fX (.w 1) (.w 1) .none 0x300000000).xBits 32 2 = 3 ∧
    3 ≤ ((st rdy).cluster 0).perm ∧ (leased false).lease.act = true ∧ (leased false).lease.rvk = false ∧ (leased true).lease.rvk = true ∧
    (leased false).lease.ends ≤ 20000 ∧ 19999 < (leased false).lease.ends ∧ (lender false).getLsbD 54 = true ∧ (lender false).getLsbD 62 = false ∧
    (lender true).getLsbD 62 = true ∧ (lender true).toNat / 2 ^ 55 % 128 = 95 ∧ (0 : Word).getLsbD 54 = false := by decide +kernel

/-! ### Upkeep -/

/-- Die 0 and link 3 with `n` failed replays, and the same of module 2 of that die and of peer port 1; the modules `off` are disabled. -/
def failing (n : Nat) (off : List Nat) : State :=
  { st rdy with dies := [(0, { Die.reset with run := .running, flitFails := [(3, n)] })]
                pkg := { Package.reset with replayFails := [(2, n)], peerFails := [(1, n)], modulesOff := off } }

theorem meets_LinkReplays : Claims.BankFree (failing 0 []) 0 15 ∧ ((failing 14 []).die 0).flitFails.getD 3 0 < 15 ∧
    ((failing 15 []).die 0).flitFails.getD 3 0 = 15 ∧ (failing 15 []).pkg.replayFails.getD (4 * 0 + 2) 0 = 15 ∧
    (3 < 4 ∧ 3 ≠ 2 ∧ 3 ∉ (failing 15 []).pkg.modulesOff) ∧ 2 ∉ (failing 15 [0]).pkg.modulesOff ∧
    (∀ j, j < 4 → j ≠ 2 → j ∈ (failing 15 [0, 1, 3]).pkg.modulesOff) ∧ (failing 14 []).pkg.peerFails.getD 1 0 < 15 ∧
    (failing 15 []).pkg.peerFails.getD 1 0 = 15 := by
  unfold Claims.BankFree
  decide +kernel

/-- A device in which PID 1 has a page of 2 MiB at virtual address 0, physical 0x200000, written in its tables, and another leaf at 0x60000. -/
def tabled : State :=
  { st rdy with
    mem := [(66, 4), (71, 0x80), (74, 2), (0x40000, 3), (0x40001, 0x40), (0x40002, 4), (0x44000, 3), (0x44001, 0x80), (0x44002, 4),
            (0x48000, 5), (0x48002, 0x20), (0x60000, 5), (0x60002, 0x40)]
    dies := [(0, { Die.reset with run := .running, pmigSlot := 0x60000, pmigDst := 0x400000 })] }

/-- PMIG of the 2 MiB page at virtual address 0 of PID 1. -/
def pmigWord : Word := (1 : Word) <<< 60 ||| (1 : Word) <<< 48

/-- What a walk of the tabled device finds: the leaf, its level and where its entry stands. -/
def leafOf (va : Nat) : Nat × Nat × Nat :=
  match (walk tabled 0 1 va).1 with
  | .ok l => l
  | .error e => (0, 99, e)

/-- A line of a cache with its first byte dirty. -/
def dirtyLine : L1Line := ⟨1, 0x80, 0, 1, true, false, some 0, [0], false⟩

/-- A device with such a line in the caches of core 0, one in the copies of die 0 of a line of die 1, and every map entry as given. -/
def dirtied (m : SMap CmapEntry) : State :=
  { dev rdy with cores := [(0, { Core.reset with l1 := [dirtyLine] })]
                 dies := [(0, { Die.reset with run := .running, tlb := [tlbEntry 1 0x4000 0x8005 0], llc := [(2, ⟨0, 1, false, false⟩)], cmap := m })] }

/-- Clusters 0 and 1 change places; both take the place of cluster 1. -/
def swap : SMap CmapEntry := [(0, ⟨false, true, 1, 0⟩), (1, ⟨false, true, 0, 1⟩)]
def clash : SMap CmapEntry := [(0, ⟨false, true, 1, 0⟩)]

theorem meets_MemoryAndTranslationUpkeep : l1Find (st rdy) 0 1 0x80 = none ∧ l1Find (dirtied []) 0 1 0x80 = some dirtyLine ∧ dirtyLine.dirty ≠ 0 ∧
    fine (translate (dirtied []) (coreDie 0) 1 (128 * 0x80) .read).1 = true ∧ (llcCopy (dirtied []) 0 2).isSome = true ∧
    fencedFrom (dirtied []) 0 (homeDie (128 * 2)) = false ∧ llcCopy (st rdy) 0 2 = none ∧
    (∀ e ∈ (tabled.die 0).tlb, e.covers 1 0 = false) ∧ leafOf 0 = (0x200005, 1, 0x48000) ∧
    fine (leafAccess tabled.usable 0x200005 1 0 .read) = true ∧ fine (walk tabled 0 1 0x200000).1 = false ∧
    (tabled.die 0).tinvBsy = false ∧ (tabled.die 0).pmigBsy = false ∧ (tabled.die 0).pmig = none ∧
    ((0x3000000000000000 : Word).toNat / 2 ^ 60 % 4 = 3 ∧ pmigWord.toNat / 2 ^ 60 % 4 = 1 ∧ pmigWord.toNat / 2 ^ 48 % 4096 = 1) ∧
    fine (walk (startPmig 0 pmigWord tabled) 0 1 0).1 = true ∧ fine (walkRead tabled 0 0x60000).1 = true ∧
    (0x400000 / 2 ^ 21 * 2 ^ 21 + 2 ^ 21 ≤ tabled.usable ∧ 0x200005 / 2 ^ 11 % 2 ^ 27 * 2048 + 2 ^ 21 ≤ tabled.usable) ∧
    (∀ m, m < 96 → (cmapOf (dirtied []) 0 m).pnd = false) ∧ (cmapOf (dirtied clash) 0 0).pnd = true ∧ (dirtied clash).pkg.launches = [] ∧
    (∀ m, m < 96 → (if (cmapOf (dirtied clash) 0 m).pnd then (cmapOf (dirtied clash) 0 m).new else (cmapOf (dirtied clash) 0 m).phy) ≠ 0) ∧
    (∀ p, p < 96 → ∃ m, m < 96 ∧
      (if (cmapOf (dirtied swap) 0 m).pnd then (cmapOf (dirtied swap) 0 m).new else (cmapOf (dirtied swap) 0 m).phy) = p) ∧
    0x10 ∉ (st rdy).poison ∧ 128 * 0x10 < (st rdy).usable ∧ 0x10 ∈ ({ st rdy with poison := [0x10] } : State).poison ∧
    ((0x1012000000000000 : Word).toNat / 2 ^ 60 % 4 ≠ 0 ∧ (0x1012000000000000 : Word).toNat / 2 ^ 48 % 256 < 0x13) ∧
    Claims.BankFree (st rdy) 1 15 := by
  unfold Claims.BankFree
  decide +kernel

/-! ### The parcel engine, transfers, barriers, weaver, window groups -/

/-- The last core of cluster 0. -/
abbrev last7 : Nat := clusterCore 0 7

/-- Cluster 0 with one parcel command of core 0 for slot 31 of its last core, whose entry is as given. -/
def parcel (op core : Nat) (r : Resid) : State :=
  { dev rdy with cores := [(last7, { Core.reset with resid := [(31, r)] })], clusters := [(0, { Cluster.reset with pce := [⟨core, op, 7, 31⟩] })] }

/-- An entry that is not resident, with its words and tags in the own scratchpad of core 0. -/
def away : Resid := ⟨false, false, false, false, own 0, own 0x10000⟩

theorem meets_ParcelCommands : ((st rdy).cluster 0).pce = [] ∧ ((parcel 1 0 away).cluster 0).pce = [⟨0, 1, 7, 31⟩] ∧
    pcePermitted (parcel 1 0 away) 0 ⟨0, 1, 7, 31⟩ = true ∧ pcePermitted (parcel 1 3 away) 0 ⟨3, 1, 7, 31⟩ = false ∧
    (residOf (parcel 3 0 Resid.reset) last7 31).v = true ∧ (residOf (parcel 3 0 away) last7 31).v = false ∧ (residOf (parcel 3 0 away) last7 31).bsy = false ∧
    fine (unitWords (parcel 3 0 away) 0 last7 (corePid (parcel 3 0 away) last7) (own 0x10000) 16).1 = true ∧ (parcel 3 0 away).reqs = [] ∧
    slotWaited (parcel 4 0 Resid.reset) last7 31 = false ∧ Resid.reset.pn = false ∧ Resid.reset.dt = false ∧
    fine (unitPutWords (parcel 4 0 Resid.reset) 0 last7 (corePid (parcel 3 0 away) last7) (own 0x10000) (List.replicate 16 0)).1 = true := by decide +kernel

/-- A transfer of context 0 in cluster 0. -/
def xfer (moved : Bool) (opt ext cw : Word) : Xfer := ⟨3, 0, 0, 1, 0, 0, 0, 0, 0, ext, opt, cw, 9, 0, none, moved, 0, none⟩

/-- Cluster 0 with it in flight, and with one message at barrier 2, which misses `n` arrivals. -/
def moving (e : Xfer) (m : BarMsg) (n : Nat) : State :=
  { barred n 65535 rdy with clusters := [(0, { Cluster.reset with xfers := [e], barMsgs := [m], bars := [(2, ⟨n, 0, 0, 65535, 3⟩)] })] }

/-- An arrival of context 0, or a BARI. -/
def arrival (drop : Bool) (init : Option (Nat × Nat)) : BarMsg := ⟨2, 0, 0, false, drop, init, none, 0x1000⟩

theorem meets_TransfersBarriersAndTimeouts : ((st rdy).cluster 0).xfers.length < 64 ∧ rdy.xnext < 2 ^ 16 ∧
    64 ≤ ({ Cluster.reset with xfers := List.replicate 64 (xfer false 0 0 0) } : Cluster).xfers.length ∧
    ((moving (xfer true 0 0 0) (arrival false none) 1).cluster 0).xfers[0]? = some (xfer true 0 0 0) ∧ (xfer true 0 0 0).x ≠ nobody ∧
    ((st rdy).ctx 0).dual = none ∧ ((xfer true 0x20 0 (own 8)).opt.getLsbD 5 = true ∧ (xfer true 0x20 0 (own 8)).opt.getLsbD 6 = false) ∧
    resolve 0 (own 8) = .spad 0 8 ∧ resident (st rdy) 0 8 = true ∧ ((st rdy).core 0).waiters = [] ∧ fencedFrom (st rdy) 0 0 = false ∧
    ((xfer false 0 0 0).opt.toNat % 4 = 0 ∧ (xfer false 0 0 0).ext.toNat % 2 ^ 32 = 0 ∧ ((st rdy).ctx 0).xerr = false) ∧
    ((moving (xfer true 0 0 0) (arrival false (some (4095, 4))) 0).cluster 0).barMsgs = [arrival false (some (4095, 4))] ∧
    (arrival true none).remote = false ∧ (((moving (xfer true 0 0 0) (arrival true none) 1).cluster 0).bars.getD 2 Barrier.reset).cnt ≠ 0 ∧
    (((moving (xfer true 0 0 0) (arrival true none) 0).cluster 0).bars.getD 2 Barrier.reset).cnt = 0 ∧
    ((st { rdy with run := .waiting (waits .gwait 0 (some 0)) }).ctx 0).run = .waiting (waits .gwait 0 (some 0)) ∧
    (waits .gwait 0 (some 0)).deadline = some 0 ∧ (0 : Nat) ≤ (st rdy).pkg.time ∧ (st rdy).pkg.time < 1 := by decide +kernel

/-- A channel that takes events of every kind and maps by position to 1 by 1 cells, with a timeout of `tmo` µs and its first buffer as given. -/
def channel (b : BufState) (tmo : Nat) (tgt : Word) (w0 : Word) : WvChan :=
  { WvChan.reset with en := true, arm := true, w0 := w0 ||| 0xFF000040, target := tgt, w3 := BitVec.ofNat 64 (2 ^ 16 * tmo)
                      w4 := (3 : Word) <<< 52, b0 := { WvBuf.reset with st := b, stat := 0, count := 1 } }

/-- Cluster 0 with it as channel 1, and an event on its way there. -/
def weaving (c : WvChan) : State :=
  { st rdy with clusters := [(0, { Cluster.reset with wv := [(1, c)] })], evs := [evMsg (some 1) none], pkg := { Package.reset with time := 1000 } }

/-- Die 0 with port 3 and its sources from 4,095 on enabled for DVS packets, the last of them with `n` items waiting. -/
def sensed (n : Nat) : State :=
  let o : FifoItem := ⟨ev, 0, 3, none⟩
  { st rdy with dies := [(0, { Die.reset with run := .running, portCfg := [(3, (1 : Word) <<< 63 ||| 0xFFF)], srcTab := [(4095, (1 : Word) <<< 63)]
                                              fifos := [(4095, List.replicate n o)] })] }

theorem meets_SensorsAndWeaver : evFirst (weaving (channel .opened 0 0 0)) 0 (evMsg (some 1) none) = true ∧
    clusterDark (st rdy) 0 = false ∧ clusterDark { st rdy with cores := (List.range 8).map fun i => (clusterCore 0 i, { Core.reset with offline := true }) } 0 = true ∧
    (wvChan (st rdy) 0 1).en = false ∧ (channel .opened 0 0 0).en = true ∧ (channel .opened 0 0 0).w0.toNat / 2 ^ 24 % 256 = 255 ∧
    (channel .opened 0 0 0).place ev = some 0 ∧ ({ channel .opened 0 0 0 with w2 := 1 } : WvChan).place ev = none ∧
    (channel .opened 0 0 0).openBuf = some 0 ∧ (channel .opened 0 0 0).w3.toNat % 65536 = 0 ∧
    ((channel .opened 1 0 0).w3.toNat / 2 ^ 16 % 65536 = 1 ∧ ((channel .opened 1 0 0).buf 0).openedAt + 1000 * 1 ≤ (weaving (channel .opened 1 0 0)).pkg.time) ∧
    (channel .free 0 0 0).openBuf = none ∧ ((channel .pending 0 63 0).settle 1000 false).oldest = some 0 ∧ (channel .pending 0 63 0).target.toNat < 64 ∧
    (channel .pending 0 (coreAddr 0) 4).w0.getLsbD 2 = true ∧ ((channel .pending 0 (coreAddr 0) 4).settle 1000 false).targetOk = true ∧
    fine (pathPutWords (weaving (channel .pending 0 (coreAddr 0) 4)) 3 0 0 0 (coreAddr 0) ((channel .pending 0 (coreAddr 0) 4).tileWords WvBuf.reset)).1 = true ∧
    ((channel .written 0 0 0).buf 0).st = .written ∧ coreOnline (weaving (channel .written 0 0 0)) (hintCore (channel .written 0 0 0).w4) = true ∧
    packetSource (((sensed 255).die 0).portCfg.getD 3 0) 0x30 = some 4095 ∧ (((sensed 255).die 0).srcTab.getD 4095 0).getLsbD 63 = true ∧
    ((sensed 255).die 0).drops.get? 4095 = none ∧ fifoCount (((sensed 255).die 0).fifos.getD 4095 []) < 256 ∧
    routeStalled (sensed 1) 0 4095 = false ∧
    routeStalled { sensed 1 with evs := [{ evMsg none none with src := 4095 }], cores := [(0, { Core.reset with inbox := List.replicate 64 ev })] } 0 4095 = true := by
  decide +kernel

/-- Die 0 with group 5 enabled, of windows of 64 ns from time 0 with GRACE, its destination 0 core 1 and its source 7; EN and the bits of word 0 as
given. -/
def grouped (bits : Word) (grace now : Nat) : State :=
  { st rdy with
    dies := [(0, { Die.reset with run := .running, groups := [(40, bits), (41, 64), (42, BitVec.ofNat 64 (grace + 100 * 2 ^ 32)), (44, 0x8001)]
                                  srcTab := [(7, (1 : Word) <<< 63 ||| (1 : Word) <<< 59 ||| (5 : Word) <<< 53)]
                                  stops := [(stopKey 0 5 0, { StopState.reset with kOpen := 1 })] })]
    pkg := { Package.reset with time := now } }

/-- An event with a postmark, counted at that destination, before its stop. -/
def counted (pmk : Nat) (hb : Bool) : EvMsg :=
  ⟨{ ev with w0 := BitVec.ofNat 64 (pmk * 2 ^ 16 + 0x72) }, 0, 7, 0, hb, 1, none, some (stopKey 0 5 0), false⟩

/-- EN with LDROP and REP, and the group not enabled. -/
def enabled : Word := (7 : Word) <<< 61

theorem meets_WindowGroups : grpEnabled (grouped enabled 10 200) 0 5 = true ∧ 7 ∈ grpSources (grouped enabled 10 200) 0 5 ∧
    0 ∈ grpDests (grouped enabled 10 200) 0 5 ∧ (grpWord (grouped enabled 10 200) 0 5 2).toNat / 2 ^ 32 = 100 ∧
    grpEnabled (grouped 0 10 200) 0 5 = false ∧ (counted 0 false).group = some (stopKey 0 5 0) ∧
    evServed (grouped 0 10 200) (counted 64 false) = true ∧
    evServed { grouped 0 10 200 with cores := [(1, { Core.reset with offline := true })] } (counted 64 false) = false ∧
    precedes 63 (windowStart (grouped enabled 10 200) 0 5 1) = true ∧ precedes 64 (windowStart (grouped enabled 10 200) 0 5 1) = false ∧
    inboxTaken (grouped 0 10 200) 1 < 64 ∧ (grpWord (grouped enabled 10 200) 0 5 0).getLsbD 62 = true ∧ (grpWord (grouped 0 10 200) 0 5 0).getLsbD 62 = false ∧
    dstValid (grpDst (grouped enabled 10 200) 0 5 0) = true ∧ coreOnline (grouped enabled 10 200) 1 = true ∧
    dstWeaver (grpDst (grouped enabled 10 200) 0 5 0) = none ∧
    (200 % 2 ^ 48 + 2 ^ 49 - windowStart (grouped enabled 10 200) 0 5 2 - 10) % 2 ^ 48 < 2 ^ 47 ∧
    2 ^ 47 ≤ (100 % 2 ^ 48 + 2 ^ 49 - windowStart (grouped enabled 10 100) 0 5 2 - 10) % 2 ^ 48 ∧
    (stopOf (grouped enabled 10 200) 0 (stopKey 0 5 0)).k0 < (stopOf (grouped enabled 10 200) 0 (stopKey 0 5 0)).kOpen ∧
    (stopOf (grouped enabled 10 200) 0 (stopKey 0 5 0)).got = [] ∧ (grpWord (grouped enabled 10 200) 0 5 0).getLsbD 61 = true ∧
    StopState.reset.kOpen ≤ StopState.reset.k0 := by decide +kernel

/-! ### The engines at work -/

/-- A command of context 0 of core 1, with the capability of launch 5. -/
def cmd (opc : Nat) (f : Fields) (wa wb : Word) : EngCmd :=
  ⟨opc, 8, 1, 0x1000, f, 0, wa, 0, wb, 0, [], 0, none, (1 : Word) <<< 63 ||| (5 : Word) <<< 32, 0, 0, 1⟩

/-- A matrix engine of launch 5 with a command queue and a command in progress. -/
def mxe (queue : List EngCmd) (cur : Option EngCmd) : Mxe := { Mxe.reset with occV := true, occLid := 5, queue := queue, cur := cur, tot := 1 }

/-- Cluster 0 with it and the other engines' queues, and the message in flight. -/
def engaged (m : Mxe) (sp rq : List EngCmd) (msgs : List CmdMsg) : State :=
  { st rdy with ctxs := [(8, { rdy with mstat := { EngStat.reset with unf := 1 } })], cmds := msgs
                clusters := [(0, { Cluster.reset with mxe := m, spe := { Spe.reset with queue := sp }, rqu := { Rqu.reset with queue := rq } })] }

/-- A command without operands. -/
def bare : Fields := fX .none .none .none 0

/-- A message to cluster 0. -/
def msg (u : UnitKind) (target : Option Nat) (refused : Bool) : CmdMsg := ⟨u, target, cmd 0xA6 bare 0 0, refused⟩

/-- The reply to context 0 of core 1. -/
def reply (u : UnitKind) (stat : Nat) (lr lval : Option Nat) : EngReply := ⟨u, 8, 1, 0, 0xA6, stat, lr, lval, none⟩

theorem meets_CommandsArriveAndAreAnswered : (engaged (mxe [] none) [] [] [msg .mxe none false]).cmds[0]? = some (msg .mxe none false) ∧
    ((engaged (mxe [] none) [] [] []).ctx 8).occupied = true ∧ ((engaged (mxe [] none) [] [] []).ctx 8).dual = none ∧
    fencedFrom (engaged (mxe [] none) [] [] []) (coreDie 1) (191 / 96) = false ∧ clusterDark (engaged (mxe [] none) [] [] []) 0 = false ∧
    clusterDark { st rdy with cores := (List.range 8).map fun i => (clusterCore 0 i, { Core.reset with offline := true }) } 0 = true ∧
    32 ≤ (mxe (List.replicate 32 (cmd 0xA6 bare 0 0)) none).queue.length ∧ (mxe (List.replicate 31 (cmd 0xA6 bare 0 0)) none).queue.length < 32 ∧
    ((cmd 0xA6 bare 0 0).cap.getLsbD 63 = true ∧ (cmd 0xA6 bare 0 0).cap.toNat / 2 ^ 32 % 65536 = 5 ∧ (cmd 0xA6 bare 0 0).cap.toNat % 2 ^ 32 = 0) ∧
    ¬(Mxe.reset.occV = true) ∧ (msg .spe (some 0) true).refused = true ∧
    ((engaged (mxe [] none) (List.replicate 15 (cmd 0xB5 bare 0 0)) [] []).cluster 0).spe.queue.length < 16 ∧
    16 ≤ ((engaged (mxe [] none) (List.replicate 16 (cmd 0xB5 bare 0 0)) [] []).cluster 0).spe.queue.length ∧
    ({ engaged (mxe [] none) [] [] [] with replies := [reply .mxe 9 (some 3) (some 7)] } : State).replies[0]? = some (reply .mxe 9 (some 3) (some 7)) ∧
    ((st rdy).core 1).droopAt = none ∧ ((drooped 6).core 0).droopAt ≠ none ∧ ((st rdy).core 1).killed = false ∧
    (reply .mxe 9 none none).stat ≠ 0 ∧ (((engaged (mxe [] none) [] [] []).ctx 8).eng .mxe).err = false := by decide +kernel

/-- A claim of slots 62 and 63. -/
def claims (n : Word) : EngCmd := cmd 0xA1 (fX (.w 1) (.e 62) (.imm 2) 0) 0 n

-- R273: KCLM of the last two slots.
theorem test_engine : ((after (exec (.mxeStep 0) (engaged (mxe [claims 2] none) [] [] []))).cluster 0).mxe.claim = 0xC000000000000000 := by
  decide +kernel

theorem meets_MatrixEngineSteps : (mxe [] none).stopped = false ∧ (mxe [] none).paused = false ∧
    clusterDark (engaged (mxe [] none) [] [] []) 0 = false ∧ (({ claims 3 with opc := 0xA2 } : EngCmd).check true (mxe [] none)).1 ≠ 0 ∧
    (let s := engaged (mxe [] (some (cmd 0xA6 bare 0 0))) [] [] []
     (mxeStepOf 0 (cmd 0xA6 bare 0 0) 0 (chargeStep (0 / 96) 0 s)).1 = some 0 ∧
       ((mxeStepOf 0 (cmd 0xA6 bare 0 0) 0 (chargeStep (0 / 96) 0 s)).2.cluster 0).mxe.stopReq = false) ∧
    ((mxe [] none).done + 1 = (mxe [] none).tot ∧ ({ mxe [] none with tot := 2 } : Mxe).done + 1 ≠ 2) ∧ (mxe [] none).stopReq = false ∧
    ((0x1FFFFFFFF &&& ~~~(0xFE00C0C0 : Word)).toNat / 2 ^ 33 = 0 ∧ (0x1FFFFFFFF &&& ~~~(0xFE00C0C0 : Word)).toNat / 2 ^ 25 % 128 = 0) ∧
    ((claims 2).f.a.num + (claims 2).wb.toNat ≤ 64 ∧ 0 < (claims 2).wb.toNat) ∧ ¬(∃ n, n < 64 ∧ (mxe [] none).claim.getLsbD n = true) ∧
    (62 ≤ 63 ∧ 63 < 62 + 2 ∧ ({ mxe [] none with claim := (1 : Word) <<< 63 } : Mxe).claim.getLsbD 63 = true) := by decide +kernel

/-- SPMODE of a mode, and RQNEAR of root entry 0. -/
def spmode (m : Word) : EngCmd := cmd 0xB5 bare m 0
def rqnear : EngCmd := cmd 0xBE bare 0 0

theorem meets_QueuedEnginesExecute : ((engaged (mxe [] none) [] [] []).cluster 0).spe.queue = [] ∧
    ((engaged (mxe [] none) [spmode 2] [rqnear] []).cluster 0).spe.queue = [spmode 2] ∧
    (speRun 0 (spmode 2) (engaged (mxe [] none) [spmode 2] [rqnear] [])).1 = some 0 ∧ (spmode 2).ntf = false ∧ (spmode 2).wa.toNat % 4 ≠ 3 ∧
    (spmode 3).wa.toNat % 4 = 3 ∧ Spe.reset.badQ = [] ∧ (rquRun 0 rqnear (engaged (mxe [] none) [] [rqnear] [])).1 = some 1 ∧
    rqnear.f.sub.getLsbD 5 = false ∧ ((engaged (mxe [] none) [] [rqnear] []).cluster 0).rqu.bvh.getD (rqnear.f.xBits 32 3) 0 = 0 ∧
    Spe.reset.stopped = false ∧ Rqu.reset.paused = false := by decide +kernel

/-- Cluster 0 whose engines are asked for operation `op` at an address, stopped or at work. -/
def imaged (op : Nat) (a : Word) (queue : List EngCmd) : State :=
  { st rdy with clusters := [(0, { Cluster.reset with
      mxe := { Mxe.reset with saveBsy := true, saveOp := op, saveAddr := a, savePid := 1, queue := queue }
      spe := { Spe.reset with saveBsy := true, saveOp := op, saveAddr := a, savePid := 1, queue := queue } })] }

theorem meets_EngineImages : ((imaged 1 (own 0) []).cluster 0).mxe.saving 2 = false ∧ ((imaged 1 (own 0) []).cluster 0).mxe.saving 1 = true ∧
    ((imaged 2 (own 0) []).cluster 0).spe.saving 2 = true ∧ ((imaged 1 (own 0) []).cluster 0).mxe.still = true ∧
    ((imaged 1 (own 0) [spmode 0]).cluster 0).spe.still = false ∧
    fine (putParts (mxeImage 0 (imaged 1 0x4000 [])).2 2 0 0 1 0x4000 (mxeImage 0 (imaged 1 0x4000 [])).1).1 = false ∧
    fine (getParts (imaged 2 0x4000 []) 2 0 0 1 0x4000 mxeParts).1 = false ∧
    fine (putParts (speImage 0 (imaged 1 0x4000 [])).2 4 0 0 1 0x4000 (speImage 0 (imaged 1 0x4000 [])).1).1 = false ∧
    fine (getParts (imaged 2 0x4000 []) 4 0 0 1 0x4000 speParts).1 = false := by decide +kernel

theorem meets_EngineImages_read : fine (getParts (imaged 2 (own 0) []) 4 0 0 1 (own 0) speParts).1 = true := by decide +kernel

/-! ### The task graph unit and the sequencers at work, dual dispatch, the step -/

/-- A ready plain node of launch 5, and a share of a range of its own with the indices from `lo` to `hi` in chunks of 2. -/
def ready0 : Node := { descNode 0 0 (some 5) 1 0 [0, 0x2000] with readyAt := some 0 }
def share (lo hi : Nat) (of : Option Nat) : Node := { ready0 with range := true, ch := 2, lo := lo, hi := hi, undone := hi, shadowOf := of }

/-- Both dies with a pool, core 0 in launch 5. -/
def pools (a b : SMap Node) : State :=
  { stC rdy mine with dies := [(0, { Die.reset with run := .running, pool := a }), (1, { Die.reset with run := .running, pool := b })] }

/-- Core 0 with a full deque, and alone in its launch. -/
def stuffed : State := { pools [(3, ready0)] [] with cores := [(0, { mine with deque := queuedWork 32 })], ctxs := (List.range 7).map fun i => (i, rdy) }

theorem meets_NodesAndChunksAreDispatched : nextNode (pools [] []) 0 = none ∧ nextNode (pools [(3, share 0 5 none)] []) 0 = some (3, share 0 5 none) ∧
    nextNode (pools [(3, ready0)] []) 0 = some (3, ready0) ∧ ready0.range = false ∧ ((pools [(3, ready0)] []).die 0).pool.get? 3 = some ready0 ∧
    placementWalk (pools [(3, ready0)] []) ready0.lid (tguEntry 0, true) ready0.hint = some 0 ∧
    placementWalk stuffed ready0.lid (tguEntry 0, true) ready0.hint = none ∧
    recordBad (nodeRecord ready0 ready0.hint (handleOf 0 3 0 0) 0 0 0 0) = false ∧
    chunkCores (pools [(3, share 0 5 none)] []) 0 (share 0 5 none) (handleOf 0 3 0 2) = [0] ∧ (share 5 5 none).hi ≤ (share 5 5 none).lo ∧
    stealFrom (pools [(3, share 5 5 none)] [(4, share 5 9 (some 3))]) 0 (share 5 5 none) = some (4, share 5 9 (some 3)) ∧
    (share 5 9 (some 3)).shadowOf.getD (4096 * 1 + 4) = (share 5 5 none).shadowOf.getD (4096 * 0 + 3) ∧
    (share 5 9 none).shadowOf.getD (4096 * 1 + 4) ≠ (share 5 5 none).shadowOf.getD (4096 * 0 + 3) ∧
    freeSlot (pools [(3, share 5 5 none)] [(4, share 5 9 none)]) 0 = some 0 ∧ stealFrom (pools [] [(4, share 5 8 none)]) 0 (share 5 5 none) = none := by
  decide +kernel

/-- The set of one sample and one dimension, in a state; its sample's record is zero but for its state's address. -/
def setIn (state : Nat) : Isq := { setBound with state := state }

/-- Sequencer 0 with it, and core 0 with the sample's record. -/
def running (q : Isq) : State :=
  { st rdy with cores := [(0, { mine with spad := [(0x200, own 0x8000)] })]
                dies := [(0, { Die.reset with run := .running, isqs := [(0, q)] })], pkg := { Package.reset with time := 1000 } }

/-- The same with sample records in memory that no table maps, at core 1, and in a slot that is not resident. -/
def unmapped : Isq := { setIn 1 with hdr := [0, 0, 0, 0, 0x4000] }
def distant : Isq := { setIn 1 with hdr := [0, 0, 0, 0, coreAddr 1] }
def heldSet : State := { running { setIn 1 with hdr := [0, 0, 0, 0, own 0x3E000] } with cores := [(0, absent)] }

/-- The samples that a set reads, and how many of them make its batch. -/
def live (q : Isq) : Nat :=
  match (readSamples (q.acc? 0) q [0] (running q)).1 with
  | .ok rs => (rs.filter fun e => inBatch q e.2).length
  | .error _ => 0

/-- Which error a call answers. -/
def failsBy {α : Type} (e : Except AccErr α) : Nat :=
  match e with
  | .ok _ => 0
  | .error (.xlate _) => 1
  | .error (.resp _) => 2
  | .error .held => 3

theorem meets_SequencersRunTheirSets : (setIn 4).goes = false ∧ (setIn 1).goes = true ∧ (setIn 1).progDue = false ∧ (setIn 1).handle = none ∧
    (setIn 1).toSubmit = false ∧ ({ setIn 1 with toSubmit := true } : Isq).toSubmit = true ∧
    fine (writeProg ((setIn 1).acc? 0) { setIn 1 with state := 3 } (running (setIn 1))).1 = true ∧ (setIn 1).stopReq = false ∧
    failsBy (readSamples (unmapped.acc? 0) unmapped [0] (running unmapped)).1 = 1 ∧
    failsBy (readSamples (distant.acc? 0) distant [0] { running distant with cores := [(1, { Core.reset with killed := true, offline := true })] }).1 = 2 ∧
    failsBy (readSamples ((isqOf heldSet 0 0).acc? 0) (isqOf heldSet 0 0) [0] heldSet).1 = 3 ∧ live (setIn 1) = 1 ∧ 0 < tabStages (setIn 1).tab := by decide +kernel

theorem meets_SequencersRunTheirSets_steps : fine (writeBatch ((setIn 1).acc? 0) (setIn 1) 0 [(0, [own 0x8000])] 0 (running (setIn 1))).1 = true ∧
    (running (setIn 1)).pkg.time < 1 + 1000 ∧ 0 + 1000 ≤ (running (setIn 1)).pkg.time ∧ ((running (setIn 1)).die 0).pool = [] ∧
    fine (copyRows ((setIn 1).acc? 0) (setIn 1) [0] 0 (running (setIn 1))).1 = true ∧ tabStages (setIn 1).tab ≤ (setIn 1).stg + 1 ∧
    failsBy (copyRows (unmapped.acc? 0) { unmapped with hdr := [0, 0, 0, 0, 0, 0x4000] } [0] 0 (running unmapped)).1 = 1 ∧
    fine (decideAll ((setIn 1).acc? 0) (setIn 1) [(0, [own 0x8000])] (running (setIn 1))).1 = true ∧
    ({ setIn 1 with hdr := List.replicate 9 0 ++ [1] } : Isq).word 9 = 1 ∧ ({ setIn 1 with preReq := true } : Isq).preReq = true := by decide +kernel

/-- The pair 7 of die 0, whose copies run in context 0 of cores 0 and 2, with what has reached the stop. -/
def pair (pk0 pk1 : Option (List Word)) (retries : Nat) : DualPair := ⟨7, work, none, some 0, some 16, retries, 0, 0, pk0, pk1, 0, 0⟩

/-- A load from the core's own scratchpad that waits at the pairing stop. -/
def stopped : Ctx := { regs [0, 0, own 0] with run := .waiting { waits .pairing 0 none with instr := .ld plain (fM (.w 1) (.w 2) .none 0 6 0) } }

/-- Both copies, and die 0 with the pair, at a device time. -/
def twins (p : DualPair) (c : Ctx) (now : Nat) : State :=
  { st rdy with ctxs := [(0, { c with dual := some ⟨7, true⟩ }), (16, { c with dual := some ⟨7, false⟩ })]
                dies := [(0, { Die.reset with run := .running, pairs := [p] })], pkg := { Package.reset with time := now } }

/-- A primary copy's record at core 0 that has no secondary yet. -/
def choosing : State := { st rdy with cores := [(0, { Core.reset with deque := [⟨work, 0, false, 0, none, true, none, none, none⟩] })] }

/-- The state in which the primary's packet goes out. -/
def released : Out :=
  let s := twins (pair (some []) (some []) 0) stopped 0
  runPacket (.ld plain (fM (.w 1) (.w 2) .none 0 6 0))
    { s.setCtx 0 { s.ctx 0 with run := .parked false (some (.ld plain (fM (.w 1) (.w 2) .none 0 6 0))) } with cur := 0 }

theorem meets_DualDispatch : ((st rdy).core 0).deque[0]? = none ∧ (choosing.core 0).deque.length = 1 ∧ secondaryCore choosing 0 ≠ some 0 ∧
    (secondaryCore choosing 0).isSome = true ∧
    secondaryCore { choosing with dies := [] } 0 = none ∧
    Runs plain (twins (pair none none 0) (regs [0, 0, own 0]) 0) ∧ (me (twins (pair none none 0) (regs [0, 0, own 0]) 0)).dual = some ⟨7, true⟩ ∧
    Claims.pairAt (twins (pair none none 0) rdy 0) 0 7 = some (pair none none 0) ∧ Claims.pairAt (twins (pair none none 0) rdy 0) 0 8 = none ∧
    (pair none (some []) 0).pk0 = none ∧ (pair (some []) (some []) 0).pk1 = some [] ∧ pairInstr (twins (pair (some []) (some []) 0) stopped 0) 0 ≠ none ∧
    stopped.deferred = [] ∧ goes released = true ∧ ((after released).ctx 0).run = .ready ∧ ((after released).ctx 0).wf = stopped.wf ∧
    mismatched (twins (pair (some []) none 1) stopped 100000) (pair (some []) none 1) = true ∧
    mismatched (twins (pair (some []) none 1) stopped 99999) (pair (some []) none 1) = false ∧ (pair (some []) none 1).retries < 2 ∧
    2 ≤ (pair (some []) none 2).retries := by unfold Claims.pairAt; decide +kernel

theorem meets_DualDispatch_hashes (a : List Word) : Config.pairHash (pair (some a) (some a) 0).h0 a = Config.pairHash (pair (some a) (some a) 0).h1 a := rfl

/-- Die 0 runs; context 0 of core 0 is Ready at 0x1000, where its instruction cache holds the word. -/
def fetching (w : BitVec 96) : State :=
  { st { rdy with pc := 0x1000 } with cores := [(0, { Core.reset with icache := [⟨1, 0x20, w.setWidth _, false⟩] })], agenda := [.slot 0] }

theorem meets_AStepRunsTheDecodedInstruction :
    Claims.Chosen { fetching 0 with agenda := [] } 0 0 (passSlot { fetching 0 with agenda := [] } 0 true) ∧
    (let p := passSlot { fetching 0xC00000000000000000000000 with agenda := [] } 0 true
     (p.ctx 0).run = .ready ∧ boundaryTrap 0 p = none ∧ (p.ctx 0).pendThrottle = none ∧ breakpointAt (p.ctx 0) (p.ctx 0).pc = none ∧
       (match (fetchFor p 0).1 with | .ok w => w == 0xC00000000000000000000000 | .error _ => false) = true ∧ withyBytes p 0 (p.ctx 0).pc 12 = none) ∧
    (match decodeWord 0xC00000000000000000000000 with | .ok i => i == .evnext plain ⟨.none, .none, .none, 0, .none⟩ | .error _ => false) = true ∧
    (match decodeWord 0xFF0000000000000000000000 with | .ok _ => false | .error e => e == .unassigned) = true ∧
    (match decodeWord 0xC00000000000000000000001 with | .ok _ => false | .error e => e == .field) = true ∧
    (Instr.mxeStep 0).opcode = none := by
  refine ⟨⟨by decide, by decide +kernel, by decide +kernel, .inr ⟨by decide +kernel, by decide +kernel, by decide +kernel, rfl⟩⟩, ?_⟩
  decide +kernel

theorem meets_EncodingsAreUnique : Instr.WellFormed (.evnext plain ⟨.none, .none, .none, 0, .none⟩) ∧
    (match decodeWord 0xC20060484000000000000000 with | .ok i => i == .popr plain ⟨.p 1, .w 4, .none, 0, .none⟩ | .error _ => false) = true := by
  refine ⟨by decide, by decide⟩

theorem meets_EveryStepKeepsMemoryCanonical : Memory.wf (dev rdy).mem = true ∧ goes (step (dev rdy)) = true := by decide +kernel

/-! ### Queues, the host, reset and the courier port -/

/-- The device with queue 0 enabled under PID 1, its descriptor at 0x100000 and its ring of 16 entries at virtual 0x4000; the cells are those of the
packet at RDIX 0 and of the rest of memory below the descriptor. -/
def queues (cells : List Host.Cell) (q : Queue) (now : Nat) : State :=
  { dev rdy with
    mem := [(71, 0x80), (74, 2)] ++ cells ++ [(0x100002, 1), (0x100007, 0x80), (0x100009, 0x40)]
    pkg := { Package.reset with qtab := 0x100000, queues := [(0, q)], time := now } }

/-- A notified queue with WRIX 1, and what its service has read. -/
def notified (cur : Option (List Word)) : Queue := { Queue.reset with wrix := 1, notified := true, cur := cur }

/-- A NOP packet with V and RSC 4 in memory, the same of another type, and with a reserved bit. -/
def nopCells : List Host.Cell := [(0x8007, 0x82)]
def badCells : List Host.Cell := [(0x8001, 1), (0x8007, 0x82)]

/-- What the service reads of the packet at RDIX: its first word, and whether the packet is well-formed. -/
def readPacket (s : State) : Nat × Bool :=
  match (unitLoad s 0 0 1 0x4000 8).1, (unitWords s 0 0 1 0x4000 8).1 with
  | .ok h, .ok ws => (h, packetOk ws)
  | _, _ => (0, false)

theorem meets_QueuesAreServed : (0 : Nat) < 256 ∧ (queueOf (queues nopCells (notified none) 0) 0).notified = true ∧
    serviceRuns (queues nopCells (notified none) 0) (queueDie (queues nopCells (notified none) 0) 0) = true ∧
    queueReadable (queues nopCells (notified none) 0) 0 = true ∧ queueReadable { queues nopCells (notified none) 0 with poison := [0x2000] } 0 = false ∧
    queueEn (queues nopCells (notified none) 0) 0 = true ∧ queueLsz (queues nopCells (notified none) 0) 0 ≤ 12 ∧
    queueRdix (queues nopCells (notified none) 0) 0 = 0 ∧ queueEntry (queues nopCells (notified none) 0) 0 0 = 0x4000 ∧
    ((16 : Word) - 0).toNat ≤ 2 ^ (0 + 4) ∧ 2 ^ (0 + 4) < ((17 : Word) - 0).toNat ∧
    (readPacket (queues nopCells (notified none) 0)).1.testBit 63 = true ∧ (readPacket (queues nopCells (notified none) 0)).2 = true ∧
    ((readPacket (queues badCells (notified none) 0)).1.testBit 63 = true ∧ (readPacket (queues badCells (notified none) 0)).2 = false) ∧
    fine (unitLoad (queues [] (notified none) 0) 0 0 1 0x4000 8).1 = true ∧ (readPacket (queues [] (notified none) 0)).1.testBit 63 = false ∧
    failsBy (unitLoad { queues nopCells (notified none) 0 with poison := [0x100] } 0 0 1 0x4000 8).1 = 2 ∧
    ({ notified none with vSince := some 0 } : Queue).vSince = some 0 ∧ (queues [] (notified none) 100000).pkg.time < 0 + 100000 + 1 ∧
    0 + 100000 ≤ (queues [] (notified none) 100000).pkg.time ∧ (notified none).vLast + 1000 ≤ (queues [] (notified none) 1000).pkg.time := by
  decide +kernel

/-- The words of a packet of a type, with V and RSC 4, whose word 1 is `a`. -/
def pkt (typ a : Word) : List Word := [typ ||| (0x82 : Word) <<< 56, a, 0, 0, 0, 0, 0, 0]

/-- The device that has read it. -/
def offered (typ a : Word) : State := queues nopCells (notified (some (pkt typ a))) 0

/-- A launch on cluster 0 of die 0 of 1 thread, with a spill area of 2,752 bytes. -/
def launch (run : LaunchRun) : Launch :=
  ⟨5, [0x2000, (1 : Word) <<< 24 ||| (1 : Word) <<< 8, 0, 0, 0, 0, 0, 0, 0, 0, 0, 0, 0, 0, 0, 0], run, 0, none, 0⟩

/-- The collective of a barrier of the members in a mask, as 8 words. -/
def collWords (mask : Word) : List Word := [0x85 ||| mask <<< 8, 0, 0, 0, 100, 0, 0, 0]

theorem meets_PacketsAreDispatched_offer : ∀ n, n < 8 → Claims.Offered (offered (BitVec.ofNat 64 n) 0x4100) 0 n (pkt (BitVec.ofNat 64 n) 0x4100) := by
  unfold Claims.Offered
  decide +kernel

theorem meets_PacketsAreDispatched : fine (unitStore (offered 0 0) 0 0 1 0x4000 8 0).1 = true ∧
    fine (unitWords (offered 1 0x4100) 0 0 1 0x4100 16).1 = true ∧
    failsBy (unitWords (offered 1 0x6000) 0 0 1 0x6000 16).1 = 1 ∧ launchOk (offered 1 0x4100) ⟨0, [], .running, 0, some 0, 0⟩ = false ∧
    fine (unitLoad (offered 1 0x4100) 0 0 1 0x4300 8).1 = true ∧ descOk 0 (List.replicate 16 0) = true ∧ descOk 0 nodeBad = false ∧ ((offered 2 0x4100).die 0).pool = [] ∧
    fine (dmaCopy false false 1 0x4100 0x4180 2 (offered 3 0x4100)).1 = true ∧
    failsBy (dmaCopy false false 1 0x6000 0x4180 2 (offered 3 0x4100)).1 = 1 ∧ collOk (collWords 1) = true ∧ collOk [0] = false ∧ (offered 4 0x4100).pkg.colls.length < 16 ∧ fine (atomicAt (offered 5 0x4100) 0 1 0x4100 .swp 6 8 7).1 = true ∧ failsBy (atomicAt (offered 5 0x6000) 0 1 0x6000 .swp 6 8 7).1 = 1 ∧
    coreNamed (coreAddr 1) = some 1 ∧ ((offered 7 0).ctx (ctxKey 1 0)).occupied = false := by
  decide +kernel

/-- A packet of queue 0 in flight at index 0, with its signal. -/
def flying (own done : Bool) (left : Nat) (sig : Word) : State :=
  queues nopCells { notified none with inflight := [⟨0, [0, 0, 0, 0, 0, 0, sig, 0], left, own, done⟩] } 0

/-- Queue 0 held by a wait packet for the word at 0x4100 to be `v` until a time. -/
def holding (v : Word) (due : Option Nat) (now : Nat) : State :=
  queues nopCells { notified none with hold := some ⟨0, [6, 0x4100, v, 0, 0, 0, 0, 0], due⟩ } now

/-- A barrier of this member, position 0 of the ring, and of a mask of others, in flight. -/
def collective (mask : Word) (lnk : Bool) (now : Nat) : State :=
  { queues nopCells (notified none) now with
    pkg := { (queues nopCells (notified none) now).pkg with colls := [⟨0, 0, 1, collWords mask, 0⟩] }
    dies := (queues nopCells (notified none) now).dies ++ [(1, { Die.reset with run := .running, ringEn := true, ringSzm1 := 7, lnk0 := lnk, lnk1 := lnk })] }

theorem meets_PacketsComplete : (queueOf (queues [] (notified none) 0) 0).hold = none ∧ (queueOf (holding 0 (some 5) 5) 0).hold.isSome = true ∧
    (5 : Nat) ≤ (holding 0 (some 5) 5).pkg.time ∧ (holding 0 (some 5) 4).pkg.time < 5 ∧ serviceRuns (holding 0 none 0) 0 = true ∧
    (match (unitLoad (holding 0 none 0) 0 0 1 0x4100 8).1 with | .ok x => x == 0 | .error _ => false) = true ∧
    ((flying true true 0 0).pkg.queues.getD 0 Queue.reset).inflight.length = 1 ∧
    fine (atomicAt (releaseLines (flying true true 0 0x4100) 0 1 0 none) 0 1 0x4100 .add 6 8 (2 ^ 64 - 1)).1 = true ∧
    (collective 1 true 0).pkg.colls[0]? = some ⟨0, 0, 1, collWords 1, 0⟩ ∧ collFits (collWords 1) (ringPosition (collective 1 true 0)) = true ∧
    collFits (collWords 2) 0 = false ∧ collAgrees ⟨0, 0, 1, collWords 3, 0⟩ 0 [(1, 0x0104, 0)] = false ∧ collAgrees ⟨0, 0, 1, collWords 3, 0⟩ 0 [] = true ∧
    portsDown (collective 3 false 0) ⟨0, 0, 1, collWords 3, 0⟩ = true ∧ portsDown (collective 3 true 0) ⟨0, 0, 1, collWords 3, 0⟩ = false ∧
    collThere ⟨0, 0, 1, collWords 3, 0⟩ 0 [] [] = false ∧ collThere ⟨0, 0, 1, collWords 1, 0⟩ 0 [] [] = true ∧
    ((collective 1 true 0).die 1).ringEn = true ∧ fine (collStore ⟨0, 0, 1, collWords 1, 0⟩ 0 [] none (collective 1 true 0)).1 = true ∧
    (collective 3 true 100000).pkg.time = 0 + 1000 * 100 ∧
    (let p : Package := { Package.reset with msixEn := true, msixTab := [(3, 0)], msixPend := [1] }
     1 ∈ p.msixPend ∧ p.msixEn = true ∧ p.msixFMask = false ∧ p.vectorMasked 1 = false ∧ p.vectorMasked 0 = true) := by decide +kernel

/-- Launch 5 in a state, alone on the device, with a thread or without; what LCTL is doing. -/
def controlled (run : LaunchRun) (c : Ctx) (bsy : Bool) (op : Nat) (sent : Bool) : State :=
  { stC c mine with pkg := { Package.reset with launches := [launch run], lctlBsy := bsy, lctlOp := op, lctlLid := 5, lctlSent := sent } }

/-- The thread of launch 5, Stopped by its pre-emption. -/
def halted : Ctx := { rdy with lid := some 5, run := .stopped }

/-- A launch that holds no core. -/
def coreless : Launch := { launch .preempted with words := [] }

theorem meets_LaunchesAreControlled : (5 : Nat) < 65536 ∧ lctlServed (controlled .running rdy false 0 false) = true ∧
    lctlServed { controlled .running rdy false 0 false with dies := [] } = false ∧ launchOf (controlled .running rdy false 0 false) 6 = none ∧
    lctlLaunch (controlled .running rdy true 1 false) = some (launch .running) ∧
    launchLive (controlled .running { rdy with lid := some 5 } false 0 false) (launch .running) = true ∧
    launchLive (controlled .running rdy false 0 false) (launch .running) = false ∧
    lctlLaunch (controlled .preempted rdy true 2 false) = some (launch .preempted) ∧ fine (resumeCores coreless [] (st rdy)) = true ∧
    lctlLaunch (controlled .ended rdy true 3 false) = some (launch .ended) ∧ lctlLaunch (controlled .preempted rdy true 3 false) = some (launch .preempted) ∧
    lctlLaunch (controlled .preempting rdy true 1 true) = some (launch .preempting) ∧ fine (saveCores coreless [] (st rdy)) = true := by decide +kernel

theorem meets_LaunchesAreControlled_saveable : launchSaveable (controlled .preempting { rdy with lid := some 5 } true 1 true) (launch .preempting) = false ∧
    launchSaveable { controlled .preempting halted true 1 true with
      cores := [(0, { mine with halted := true })]
      clusters := [(0, { Cluster.reset with mxe := { Mxe.reset with stopped := true }, spe := { Spe.reset with stopped := true }
                                            rqu := { Rqu.reset with stopped := true } })] } coreless = true := by decide +kernel

theorem meets_HostAccesses : (4 : Nat) % 8 ≠ 0 ∧ (0x100000 : Nat) < 0x200000 ∧ (State.reset.die (0x100000 / 0x100000)).run ≠ .running ∧
    (0x200000 ≤ 0x2FF000 ∧ 0x2FF000 < 0x300000 ∧ 0x2FF000 % 4096 = 0) ∧ ((st rdy).die 0).run = .running ∧
    ({ st rdy with dies := [(1, { Die.reset with run := .running })] } : State).die 1 ≠ Die.reset ∧ dcsRead (st rdy) 0 0x28 = some 16 ∧
    bar0Assigned (st rdy) 0x300018 = false ∧ (0x4000000000000000 : Word).getLsbD 62 = true ∧ (st rdy).usable = 240 * 2 ^ 30 ∧
    (st rdy).usable < 240 * 2 ^ 30 - 1 + [(1 : BitVec 8), 2].length ∧ 240 * 2 ^ 30 - 2 + [(1 : BitVec 8), 2].length ≤ (st rdy).usable ∧
    ((st rdy).die 0).llc = [] ∧ ((st rdy).die 0).fenced = false ∧ (st rdy).poison = [] ∧
    0x100 ∈ ({ st rdy with poison := [0x100] } : State).poison ∧ (0 : Nat) < 3 ∧ (3 : Nat) < 4 ∧
    courierOn { st rdy with pkg := { Package.reset with dumps := [⟨2, 3, 0, 0, 0, false, some 9⟩] } } 3 = true ∧ courierOn (st rdy) 3 = false ∧
    (st rdy).pkg.dctlBsy = false := by decide +kernel

/-- A dump and a reset that are due for die 1. -/
def dying : State :=
  { st rdy with pkg := { Package.reset with dumps := [⟨2, 4, 7, 0, 0x100000, true, none⟩], resets := [⟨2, false, true, none⟩] } }

/-- The images of the claim verify with keys and a hash that have no value in the model: only their absence can be shown on a state. -/
theorem meets_DumpsResetsAndBoots : (1 : Nat) < 2 ∧ (st rdy).pkg.dumps = [] ∧ dying.pkg.dumps ≠ [] ∧ 2 = 2 ^ 1 ∧ dumpDue dying 2 = true ∧
    dumpDue { dying with pkg := { dying.pkg with dumps := [] } } 2 = false ∧ dying.pkg.colls = [] ∧ (State.reset.die 1).run = .reset ∧
    ((st rdy).die 0).run ≠ .reset ∧ bootImage State.reset [] 1 = none := by decide +kernel

theorem meets_CourierCommands : (st rdy).pkg.courierBusy = false ∧ (0 : Nat) < 512 + 1 ∧ ((st rdy).die 0).run = .running ∧
    (State.reset.die 0).run ≠ .running ∧ dcsRead (st rdy) 0 0x28 = some 16 ∧ (dcsWrite 0 0x28 96 (st rdy)).isSome = true ∧
    (0x13B8 : Nat) < 0x13C0 ∧ (st rdy).pkg.courierAddr = none ∧
    (240 * 2 ^ 30 - 8 + 8 ≤ (st rdy).usable ∧ (st rdy).usable < 240 * 2 ^ 30 - 7 + 8) ∧ (st rdy).poison = [] ∧ ((st rdy).die 0).fenced = false ∧
    (1 ≤ 3 ∧ 3 ≤ 3) ∧ (2 ^ 21 - 1 + [(1 : BitVec 8)].length ≤ 2 ^ 21 ∧ 2 ^ 21 < 2 ^ 21 + [(1 : BitVec 8)].length) ∧ stagedImage (st rdy) = none ∧
    (List.replicate 32 (0 : BitVec 8)).length = 32 ∧ (st rdy).pkg.attestPos = 0 ∧ (st rdy).pkg.attestBlock < 4096 ∧
    ({ Package.reset with attestBlock := 4096 } : Package).attestBlock = 4096 ∧ (1 < 2 ∧ 255 < 256) ∧ (120 ≤ 300 ∧ 300 < 301) := by decide +kernel

/-! ### More states that meet hypotheses, at the ends of their ranges -/

theorem meets_EveryInstructionAnswersANextState : isWord (.nop plain ⟨.none, .none, .none, 0, .none⟩) = true ∧
    (Instr.nop plain ⟨.none, .none, .none, 0, .none⟩).opcode ≠ some 0x00 ∧
    ((me (st Ctx.reset)).run = .free ∧ (me (st { rdy with run := .migrating })).run = .migrating ∧
      (me (st { rdy with run := .stopped })).run = .stopped ∧ (me (st { rdy with run := .parked true none })).run = .parked true none) ∧
    guardPasses ⟨false, 1, false, false, false, false⟩ (me (st rdy)) = false ∧ Claims.reserved (.rte plain ⟨.p 1, .imm 0, .none, 0, .none⟩) = true ∧
    UserReady (st rdy) ∧ Claims.reserved (.nop plain ⟨.none, .none, .none, 0, .none⟩) = false := by decide +kernel

/-- Core 0 whose first word path T may still read as 5, and whose second as 7 for path B alone. -/
def stale : Core := { full with older := [⟨0, 1, 1, 5⟩, ⟨1, 0, 2, 7⟩] }

theorem meets_OwnScratchpadLoads_older : OwnWord (stC atStart stale) (addr (stC atStart stale) (fOwn (.w 1) 6)) 8 0 ∧
    Seen (stC atStart stale) 0 0xF0 ∧ Seen (stC atStart stale) 0 5 ∧ ¬Seen (stC atStart stale) 8 7 := by
  unfold Seen
  decide +kernel

theorem meets_ChildrenAreQueuedOrRunInline_reserved : dequeDepth (stC rdy { mine with deque := queuedWork 31 }) 0 = 31 ∧
    dequeDepth { stC rdy { mine with deque := queuedWork 31 } with
      recs := [⟨work, some 0, none, none, (1, false), 0, 0, false, none, true, false, none⟩] } 0 = 32 := by decide +kernel

theorem meets_ThreadsEnd_launch : rdy.lid = none ∧ (stC { rdy with lid := some 5 } mine).reqs = [] := by decide

theorem meets_OwnScratchpadAtomics_ordered : (fM (.w 1) (.w 2) .none 8 6 3).sub.getLsbD 3 = true ∧ (fM (.w 1) (.w 2) .none 0 6 3).sub.getLsbD 3 = false ∧
    (∀ r ∈ (sent (asks .store (.dev 0x8000)) rdy).reqs, r.src ≠ coreOf 0) := by decide +kernel

theorem meets_DeviceMemoryAccesses_ordered :
    (devLoad (inOrder 0 1 1 0x4010 .read (issued 0 plain (dev rdy))) 0 1 1 0x4010 8).1 = .ok 0 ∧
    (devStore (inOrder 0 1 1 0x4010 .write (issued 0 plain (dev rdy)).fresh.2) 0 (some 0) 1 1 0x4010 8 5).1 = .ok () ∧
    (devLoad (inOrder 0 1 1 0x10000 .read (issued 0 plain (dev rdy))) 0 1 1 0x10000 8).1 = .error (.xlate 0x301) ∧
    (devStore (inOrder 0 1 1 0x10000 .write (issued 0 plain (dev rdy)).fresh.2) 0 (some 0) 1 1 0x10000 8 5).1 = .error (.xlate 0x301) := by
  decide +kernel

/-- What a translation finds. -/
def paOf (e : Except Nat Page) : Nat :=
  match e with
  | .ok p => p.pa
  | .error _ => 0

theorem meets_ReleasesAndAcquires : (1 ≤ 1 ∨ 1 = 2 ∧ ((st rdy).cluster (clusterOf 0)).fused = true) ∧
    (let s := { st rdy with clusters := [(0, { Cluster.reset with fused := true })] }
     2 = 2 ∧ (s.cluster (clusterOf 0)).fused = true) ∧
    ¬((2 : Nat) ≤ 1 ∨ 2 = 2 ∧ ((st rdy).cluster (clusterOf 0)).fused = true) ∧ 0 ∈ l1Cores (dirtied []) 0 ∧ ((dirtied []).core 0).l1 = [dirtyLine] ∧
    ((dirtied []).die 0).llc.length = 1 ∧ dirtyLine.dirty ≠ 0 ∧ dirtyLine.poison = false ∧
    paOf (translate (dirtied []) 0 1 (128 * 0x80) .read).1 = 0x8000 ∧ homeDie (128 * (0x8000 / 128)) = 0 ∧
    (((dirtied []).die 0).llc.get? 2).isSome = true ∧ fencedFrom (dirtied []) 0 (homeDie (128 * 2)) = false := by decide +kernel

theorem meets_LoadAfterStoreOfDeviceMemory_past : (1 : Nat) ≠ 0 ∧ (2 : Nat) ≠ 0 ∧
    paOf (translate (l1Bypass (dev rdy) 0 1 0x4078) (coreDie 0) 1 0x4078 .write).1 = 0x8078 ∧ homeDie 0x8078 = coreDie 0 ∧ 0x8078 % 128 + 8 ≤ 128 ∧
    (let s1 := (devStore (dev rdy) 0 (some 0) 1 1 0x4078 8 5).2
     paOf (translate s1 (coreDie 0) 1 0x4078 .read).1 = 0x8078 ∧ s1.poison.contains (0x8078 / 128) = false ∧ (s1.die (coreDie 0)).llc.get? (0x8078 / 128) = none ∧
       (devLoad s1 0 1 1 0x4078 8).1 = .ok 5) ∧
    ((dev rdy).cluster (clusterOf 0)).fused = false := by decide +kernel

-- R106, R107: 1 + 2^-24 lies halfway and rounds to the even 1, its double to the next; the largest finite value twice is infinite, with its sign.
theorem test_float_rounding : fAdd fFP32 0 0x3F800000 0x33800000 = 0x3F800000 ∧ fAdd fFP32 0 0x3F800001 0x33800000 = 0x3F800002 ∧
    fAdd fFP32 0 0x7F7FFFFF 0x7F7FFFFF = 0x7F800000 ∧ fAdd fFP32 0 0xFF7FFFFF 0xFF7FFFFF = 0xFF800000 ∧
    fAdd fFP32 0 0x7F7FFFFF 0x72FFFFFF = 0x7F7FFFFF ∧ fAdd fFP32 0 0x7F7FFFFF 0x73000000 = 0x7F800000 := by decide +kernel

theorem meets_FloatSumsAndProductsRoundToNearest_bounds : |((2 ^ 128 - 2 ^ 104 : ℚ))| < 2 ^ 128 - 2 ^ 103 ∧
    (2 ^ 128 - 2 ^ 103 : ℚ) ≤ |((2 ^ 128 - 2 ^ 103 : ℚ))| ∧ (2 ^ 128 - 2 ^ 103 : ℚ) ≤ |(-(2 ^ 129 - 2 ^ 105) : ℚ)| := by
  refine ⟨?_, ?_, ?_⟩ <;> norm_num [abs_of_pos, abs_of_neg]

-- R254, R255: an XFENCE of cluster scope from B to T leaves path T no older word of a write of B; at core scope it orders nothing.
theorem test_xfence : (((after (exec (.xfence plain (fX .none .none .none 0x400000201)) (stC rdy stale))).core 0).older.map fun o => (o.word, o.readers)) =
      [(1, 2)] ∧
    ((after (exec (.xfence plain (fX .none .none .none 0x200000201)) (stC rdy stale))).core 0).older = stale.older := by decide +kernel

theorem meets_FencesBetweenPathsAndBatches_scope : (fX .none .none .none 0x600000601).xBits 33 3 = 3 ∧ scopeHasCore 2 0 (clusterCore 0 7) = true ∧ scopeHasCore 2 0 (clusterCore 1 0) = false ∧
    scopeHasCore 3 0 767 = true ∧ scopeHasCore 3 0 768 = false ∧ scopeHasCore 4 0 768 = true ∧ scopeHasCore 1 0 0 = false := by decide

/-- Die 1 has been fenced off by die 0. -/
def fenced (c : Ctx) : State := { st c with dies := [(0, { Die.reset with run := .running, fenced := true })] }

theorem meets_BarrierWords_fenced : fencedFrom (fenced rdy) 0 (coreDie 1535) = true ∧ clusterNamed (coreAddr 1535) = some 191 ∧
    fencedFrom (fenced rdy) 0 (191 / 96) = true ∧ fencedFrom (st rdy) 0 (0 / 96) = false := by decide +kernel

/-- Channel 1 of cluster 0 with its first buffer open since 0 and a TMO of 1 µs, at a device time. -/
def late (now : Nat) : State :=
  { weaving (channel .opened 1 0 0) with pkg := { Package.reset with time := now } }

theorem meets_WeaverWords_timeout : fld (wvChan (late 1000) 0 1).w3 16 16 = 1 ∧ (wvChan (late 999) 0 1).openBuf = some 0 ∧
    ((wvChan (late 999) 0 1).buf 0).dueAt = none ∧ (late 999).pkg.time < 0 + 1000 * 1 ∧ 0 + 1000 * 1 < (late 1001).pkg.time := by decide +kernel

theorem meets_SensorsAndWeaver_timeout : (wvChan (late 999) 0 1).w3.toNat / 2 ^ 16 % 65536 = 1 ∧ (late 999).pkg.time < 0 + 1000 * 1 ∧
    0 + 1000 * 1 < (late 1001).pkg.time ∧ (wvChan (late 1001) 0 1).en = true ∧ ((wvChan (late 1001) 0 1).buf 0).grp = none := by decide +kernel

theorem meets_ThreadsAreHeldAndImaged_owed : (let s := { crowd with ctxs := (0, { crowd.ctx 0 with xopen := 1 }) :: crowd.ctxs }
    quiet s 0 = false ∧ (s.ctx 0).dual = none ∧ holdable s 0 = true) := by decide +kernel

/-- Core 1 of the deque given, and a levelled record on its way there. -/
def shipped (n : Nat) (off : Bool) : State :=
  { st rdy with cores := [(1, { Core.reset with deque := queuedWork n, offline := off })]
                recs := [⟨work, some 1, none, none, (0, false), 0, 0, false, none, true, false, none⟩] }

theorem meets_RecordsAndEventsAreQueuedAndBound_levelled : coreOnline (shipped 31 false) 1 = true ∧ ((shipped 31 false).core 1).deque.length < 32 ∧
    32 ≤ ((shipped 32 false).core 1).deque.length ∧ recordBad work = false ∧ kindNotice work.kind = false := by decide +kernel

theorem meets_RecordsAndEventsAreQueuedAndBound_later : liveHandler (st { rdy with made := .event { ev with ord := 7 } }) 0 3 7 = false := by
  decide +kernel

theorem meets_PreemptionsAndKills_stopped : lidCtxs (st { rdy with lid := some 5, run := .stopped }) 0 5 = [0] := by decide +kernel

theorem meets_DroopsStopCoresAndEngines_item : ((drooped 6).core 0).droopItem = false ∧ (0 ∈ userCtxs 0 ∧ ((drooped 6).ctx 0).run = .ready) := by
  decide +kernel

theorem meets_BudgetsAndLeases_paid : coreCharges (stC rdy { Core.reset with charges := [(255, 9)] }) 0 = [(255, 9)] ∧
    coreCharges (stC rdy { Core.reset with charges := [(255, 9)] }) 1 = [] := by decide +kernel

theorem meets_MemoryAndTranslationUpkeep_sets : (isqOf (st rdy) 0 0).state = 0 ∨ 4 < (isqOf (st rdy) 0 0).state := by decide +kernel

/-- A slot of that core that is changed, with an uncorrectable word, whose words belong at 0x4000, which its units find at 0x8000. -/
def changed : State :=
  { parcel 4 0 ⟨true, true, false, false, 0x4000, own 0x10000⟩ with
    dies := [(0, { Die.reset with run := .running, tlb := [tlbEntry 0 0x4000 0x8005 0] })]
    cores := [(last7, { Core.reset with resid := [(31, ⟨true, true, false, false, 0x4000, own 0x10000⟩)], badSpad := [1024 * 31] })] }

theorem meets_ParcelCommands_changed : (residOf changed last7 31).v = true ∧ (residOf changed last7 31).dt = true ∧ (residOf changed last7 31).pn = false ∧
    slotWaited changed last7 31 = false ∧
    fine (unitPutWords (changed.modCore last7 fun c => { c with resid := c.resid.put 31 { residOf changed last7 31 with v := false } }) 0 last7 (corePid changed last7) 0x4000
      (List.replicate 16 0)).1 = true ∧ (1024 * 31 + 0) ∈ (changed.core last7).badSpad := by decide +kernel

-- R163: an evicted slot has V clear, and its uncorrectable word marks its line of BACK (log entry 74).
theorem test_evict : (residOf (after (exec (.pceEvict 0) changed)) last7 31).v = false ∧ (after (exec (.pceEvict 0) changed)).poison = [0x100] := by
  decide +kernel

/-- The enabled group with another source, 8, that has sent nothing. -/
def lagging : State :=
  { grouped enabled 0 200 with dies := [(0, { (grouped enabled 0 200).die 0 with srcTab := [(7, (1 : Word) <<< 63 ||| (1 : Word) <<< 59 ||| (5 : Word) <<< 53),
      (8, (1 : Word) <<< 63 ||| (1 : Word) <<< 59 ||| (5 : Word) <<< 53)] })] }

theorem meets_WindowGroups_enabled : grpEnabled (grouped enabled 0 200) 0 5 = true ∧ evServed (grouped enabled 0 200) (counted 128 false) = true ∧
    Claims.NoForce (grouped enabled 0 200) 0 5 0 ∧ Claims.NoForce (grouped enabled 10 100) 0 5 0 ∧ ¬Claims.NoForce (grouped enabled 10 200) 0 5 0 ∧
    windowStart (grouped enabled 0 200) 0 5 1 = 64 ∧
    precedes 64 (windowStart (grouped enabled 0 200) 0 5 (stopOf (grouped enabled 0 200) 0 (stopKey 0 5 0)).kOpen) = false ∧
    precedes 63 (windowStart (grouped enabled 0 200) 0 5 (stopOf (grouped enabled 0 200) 0 (stopKey 0 5 0)).kOpen) = true ∧
    windowsPassed (grouped enabled 0 200) 0 5 { stopOf (grouped enabled 0 200) 0 (stopKey 0 5 0) with lp := [(7, 128)] } = 1 ∧
    windowsPassed (grouped enabled 0 200) 0 5 { stopOf (grouped enabled 0 200) 0 (stopKey 0 5 0) with lp := [(7, 127)] } = 0 ∧
    8 ∈ grpSources lagging 0 5 ∧ SMap.get? [(7, 128)] 8 = none := by
  unfold Claims.NoForce
  decide +kernel

/-- That destination with windows 0 to 2 closed, an event of window 0 handled, and one of window 1 that is or is not. -/
def reported (h : Nat) : State :=
  { grouped enabled 0 200 with dies := [(0, { (grouped enabled 0 200).die 0 with
      stops := [(stopKey 0 5 0, { StopState.reset with kOpen := 3, got := [(0, 1), (1, 1)], handled := [(0, 1), (1, h)] })] })] }

theorem meets_WindowGroups_barrier : (let u := stopOf (reported 0) 0 (stopKey 0 5 0)
    u.k0 < 1 ∧ 1 ≤ u.kOpen ∧ (∀ w ∈ u.got, u.k0 ≤ w.1 → w.1 < 1 → u.handled.getD w.1 0 = w.2) ∧ (∃ w ∈ u.got, w.1 = 1 ∧ u.handled.getD 1 0 ≠ w.2) ∧
      ((u.got.filter fun w => u.k0 ≤ w.1 && w.1 < 1).map (·.2)).sum = 1) ∧
    (let u := stopOf (reported 1) 0 (stopKey 0 5 0)
     u.k0 < 3 ∧ (∀ w ∈ u.got, u.k0 ≤ w.1 → w.1 < 3 → u.handled.getD w.1 0 = w.2) ∧ 3 = u.kOpen) ∧
    ((reported 1).core 1).droopAt = none ∧ ((reported 1).core 1).faultWait = [] ∧ ((reported 1).core 1).notices.length < 8 := by decide +kernel

-- R391, R393: the stop of an enabled group counts an event in window 2 and closes window 1, and the barrier reports what is handled.
theorem test_windows :
    (stopOf (after (exec (.destinationReceive 0) { grouped enabled 0 200 with evs := [counted 128 false] })) 0 (stopKey 0 5 0)).kOpen = 2 ∧
    (stopOf (after (exec (.destinationReceive 0) { grouped enabled 0 200 with evs := [counted 128 false] })) 0 (stopKey 0 5 0)).got = [(2, 1)] ∧
    (stopOf (after (exec (.windowBarrier 0 5 0) (reported 0))) 0 (stopKey 0 5 0)).k0 = 1 ∧
    (stopOf (after (exec (.windowBarrier 0 5 0) (reported 1))) 0 (stopKey 0 5 0)).k0 = 3 := by decide +kernel

theorem meets_CommandsArriveAndAreAnswered_fenced : fencedFrom (fenced rdy) (coreDie (cmd 0xA6 bare 0 0).core) (191 / 96) = true ∧
    (msg .mxe (some 191) false).target = some 191 := by decide +kernel

/-- Cluster 0 without a core that is online, its matrix engine with one command. -/
def darkened : State :=
  { engaged (mxe [cmd 0xA6 bare 0 0] none) [] [] [] with cores := (List.range 8).map fun i => (clusterCore 0 i, { Core.reset with offline := true }) }

theorem meets_MatrixEngineSteps_dark : clusterDark darkened 0 = true ∧
    ((darkened.cluster 0).mxe.cur.toList ++ (darkened.cluster 0).mxe.queue) = [cmd 0xA6 bare 0 0] ∧ (darkened.ctx 8).occupied = true ∧
    (darkened.ctx 8).dual = none ∧ ((after (exec (.mxeStep 0) darkened)).ctx 8).mstat.unf = 0 := by decide +kernel

theorem meets_EngineImages_held : (let s := { imaged 2 (own 0x3E000) [] with cores := [(0, absent)] }
    failsBy (getParts s 2 0 0 1 (own 0x3E000) mxeParts).1 = 3 ∧ failsBy (getParts s 4 0 0 1 (own 0x3E000) speParts).1 = 3) ∧
    (let s := { imaged 1 (own 0x3E000) [] with cores := [(0, absent)] }
     failsBy (putParts (speImage 0 s).2 4 0 0 1 (own 0x3E000) (speImage 0 s).1).1 = 3) := by decide +kernel

/-- Queue 0 whose launch packet's threads have been offered, with its ring at an address. -/
def consumed (va : Word) : State :=
  queues nopCells { notified (some (pkt 1 va)) with offered := true } 0

theorem meets_PacketsAreDispatched_consumes : (queueOf (consumed 0x4100) 0).offered = true ∧ serviceRuns (consumed 0x4100) (queueDie (consumed 0x4100) 0) = true ∧
    (queueOf (consumed 0x4100) 0).cur = some (pkt 1 0x4100) ∧ ((pkt 1 0x4100).getD 0 0).toNat % 16 = 1 ∧
    fine (unitStore (consumed 0x4100) 0 0 1 0x4000 8 0).1 = true ∧
    failsBy (unitStore { consumed 0x4100 with dies := [(0, { Die.reset with run := .running })] } 0 0 1 0x4000 8 0).1 = 1 := by decide +kernel

theorem meets_PacketsAreDispatched_sync : (((0x80085 : Word) ||| (1 : Word) <<< 8)).getLsbD 19 = true ∧ (st rdy).pkg.sync = [] := by decide +kernel

theorem meets_LaunchesAreControlled_clusters : (launch .preempted).clusters = [0] ∧
    (match resumeCores coreless [] ((launch .preempted).clusters.foldl (fun t q => reoccupy coreless q t) (st rdy)) with
     | .ok _ => true | .error _ => false) = true := by decide +kernel

end Sys2Proof.Tests
end

section
/-! PROOFS. What reset leaves (O58). -/

namespace Sys2Proof.Proofs

open Sys2Proof Sys2Proof.Machine Sys2Proof.Claims

/-! ### System registers at reset (R7, R92, R96, R97) -/

/-- The registers whose reset values the tables give and that do not hold the place of their core. -/
def resetRegisters : List Nat :=
  [2, 4, 5, 8, 9, 11, 12, 13, 14, 15, 16, 17, 18, 19, 20, 22, 32, 33, 34, 35, 36, 37, 38, 39, 41, 48, 49, 64, 72, 80, 82, 83, 84, 86, 96,
    97, 98, 99, 102]

/-- The value that the tables give: `y.migmode`, `y.level`, `y.duty`, `y.tnotice` and `y.bstat` are the ones that are not 0. -/
def resetValue (n : Nat) : Word :=
  match n with
  | 4 | 97 => 0x800
  | 83 => 6
  | 96 => 0x11010
  | 99 => 0x400001
  | _ => 0

/-- At reset no unit is listed, so a register reads the same in every context. -/
theorem yRead_reset_anywhere (x n : Nat) (hn : n ∈ resetRegisters) : (yRead x n true State.reset).1 = (yRead 0 n true State.reset).1 := by
  fin_cases hn <;> rfl

theorem yRead_reset (x n : Nat) (hn : n ∈ resetRegisters) : (yRead x n true State.reset).1 = resetValue n := by
  have hzero : ∀ m ∈ resetRegisters, (yRead 0 m true State.reset).1 = resetValue m := by decide
  exact (yRead_reset_anywhere x n hn).trans (hzero n hn)

theorem yRead_reset_zero (x : Nat) (l : List Nat) (hl : ∀ n ∈ l, n ∈ resetRegisters ∧ resetValue n = 0) :
    ∀ n ∈ l, (yRead x n true State.reset).1 = 0 := by
  intro n hn
  obtain ⟨hin, hval⟩ := hl n hn
  rw [yRead_reset x n hin, hval]

/-! ### Error banks at reset (R359) -/

/-- Word `i` of error bank `b` lies at 0x1000 + 64b + 8i of die control space (R359, R461). -/
theorem dcsRead_bank (s : State) (d b i : Nat) (hb : b < 16) (hi : i < 8) :
    dcsRead s d (0x1000 + 64 * b + 8 * i) = some (((s.die d).banks.getD b Bank.reset).word i) := by
  have hbank : (0x1000 + 64 * b + 8 * i - 0x1000) / 64 = b := by omega
  have hword : (0x1000 + 64 * b + 8 * i) % 64 / 8 = i := by omega
  have hrange : 0x1000 ≤ 0x1000 + 64 * b + 8 * i ∧ 0x1000 + 64 * b + 8 * i < 0x1400 := by omega
  have haligned : ¬ (0x1000 + 64 * b + 8 * i) % 8 ≠ 0 := by omega
  unfold dcsRead
  dsimp only
  rw [if_neg haligned]
  split
  iterate 9 omega
  rw [if_pos hrange, hbank, hword]

theorem bank_reset_word (i : Nat) : Bank.reset.word i = 0 := by
  unfold Bank.word
  split <;> rfl

theorem dcsRead_bank_reset (d b i : Nat) (hb : b < 16) (hi : i < 8) : dcsRead State.reset d (0x1000 + 64 * b + 8 * i) = some 0 := by
  rw [dcsRead_bank _ _ _ _ hb hi]
  exact congrArg some (bank_reset_word i)

/-- Settles O58: the state at reset lists no unit, so every unit reads as its reset value. -/
theorem resetLeavesTheTablesValues : Obligations.ResetLeavesTheTablesValues := by
  unfold Obligations.ResetLeavesTheTablesValues
  intro s y
  have hctx : ∀ x, (s.ctx x).run = .free ∧ (∀ n ∈ [2, 5, 8, 9, 11, 12, 13, 14, 15, 16, 17, 18, 19, 20, 22], y x n = 0) ∧ y x 4 = 0x800 ∧
      (∀ n ∈ [32, 33, 34, 35, 36, 37, 38, 39, 41, 49, 64, 72, 86, 98], y x n = 0) ∧ y x 97 = 0x800 := fun x =>
    ⟨rfl, yRead_reset_zero x _ (by decide), yRead_reset x 4 (by decide), yRead_reset_zero x _ (by decide), yRead_reset x 97 (by decide)⟩
  have hcore : ∀ x, y x 80 = 0 ∧ y x 82 = 0 ∧ y x 83 = 6 ∧ y x 84 = 0 ∧ y x 48 = 0 ∧ y x 96 = 0x11010 ∧ y x 99 = 0x400001 ∧
      y x 102 = 0 := by
    intro x
    refine ⟨?_, ?_, ?_, ?_, ?_, ?_, ?_, ?_⟩ <;> exact yRead_reset x _ (by decide)
  have hlctl : Package.reset.lctlWord = 0 := by decide
  exact ⟨rfl, rfl, rfl, hctx, hcore, fun d _ => ⟨rfl, rfl, fun _ _ => ⟨rfl, rfl⟩, fun b hb i hi => dcsRead_bank_reset d b i hb hi⟩,
    rfl, fun _ => rfl, hlctl, rfl, rfl, _, rfl⟩

end Sys2Proof.Proofs
end

section
/-! PROOFS. Fields of a word, composed registers, and what a word leaves that changes its own context alone. -/

namespace Sys2Proof.Proofs

open Sys2Proof Sys2Proof.Machine Sys2Proof.Claims

/-! ### Fields of a word -/

/-- Fields that do not overlap add up. -/
theorem ofNat_or_ofNat {a b : Nat} (k : Nat) (ha : 2 ^ k ∣ a) (hb : b < 2 ^ k) :
    BitVec.ofNat 64 a ||| BitVec.ofNat 64 b = BitVec.ofNat 64 (a + b) := by
  obtain ⟨c, rfl⟩ := ha
  rw [← BitVec.ofNat_or, mul_comm, ← Nat.shiftLeft_eq, Nat.shiftLeft_add_eq_or_of_lt hb]

theorem put_eq_ofNat (n lo len : Nat) : put n lo len = BitVec.ofNat 64 (n % 2 ^ len * 2 ^ lo) := by
  rw [put, Nat.shiftLeft_eq]

theorem flag_eq_ofNat (b : Bool) (lo : Nat) : flag b lo = BitVec.ofNat 64 (if b then 2 ^ lo else 0) := by
  cases b <;> simp [flag, Nat.shiftLeft_eq]

/-- A field put back in its place keeps its own bits of the word. -/
theorem put_fld (v : Word) (lo len : Nat) : put (fld v lo len) lo len = v &&& BitVec.ofNat 64 ((2 ^ len - 1) <<< lo) := by
  apply BitVec.eq_of_getLsbD_eq
  intro i hi
  simp only [put, fld, natBits, Nat.mod_mod, BitVec.getLsbD_and, BitVec.getLsbD_ofNat, hi, decide_true, Bool.true_and, Nat.testBit_shiftLeft,
    Nat.testBit_mod_two_pow, Nat.testBit_two_pow_sub_one, Nat.testBit_shiftRight]
  by_cases h : lo ≤ i
  · rw [Nat.add_sub_cancel' h]
    simp [h, BitVec.getLsbD, Bool.and_comm]
  · simp [h]

theorem lineReg_eq (v : Word) : lineReg v = v &&& ~~~63 := put_fld v 6 58

theorem migmodeReg_eq (v : Word) : put (fld v 8 8) 8 8 ||| put (fld v 0 1) 0 1 = v &&& 0xFF01 := by
  rw [put_fld, put_fld, ← BitVec.and_or_distrib_left]
  rfl

/-- The scope field of a completion or counter word is its low three bits (R92). -/
theorem scopeField_eq (v : Word) : fld (put (fld v 0 54) 0 54) 0 3 = v.toNat % 8 := by
  simp only [put_eq_ofNat, fld, natBits, BitVec.toNat_ofNat]
  omega

theorem scopeReg_of_scope (v : Word) (h : v.toNat % 8 < 6) : scopeReg v = v &&& 0x3F_FFFF_FFFF_FFFF := by
  rw [scopeReg, fixScope, scopeField_eq, if_neg (by omega)]
  exact put_fld v 0 54

theorem scopeReg_of_reserved (v : Word) (h : 6 ≤ v.toNat % 8) : scopeReg v = (v &&& 0x3F_FFFF_FFFF_FFF8) ||| 4 := by
  rw [scopeReg, fixScope, scopeField_eq, if_pos h, put_fld, setFld, BitVec.and_assoc]
  rfl

/-! ### Composed registers (R10, R93, R94) -/

theorem wstate_eq (c : Ctx) (hs : c.spl < 2 ^ 16) (hr : c.res < 8) (hw : c.wf < 8) : c.wstate = BitVec.ofNat 64
    (c.spl * 2 ^ 48 + (if c.vz then 2 ^ 13 else 0) + (if c.vl then 2 ^ 12 else 0) + c.res * 2 ^ 8 + c.wf) := by
  simp only [Ctx.wstate, put_eq_ofNat, flag_eq_ofNat, Nat.mod_eq_of_lt hs, Nat.mod_eq_of_lt (show c.res < 2 ^ 3 from hr),
    Nat.mod_eq_of_lt (show c.wf < 2 ^ 3 from hw), pow_zero, mul_one]
  rw [ofNat_or_ofNat 14, ofNat_or_ofNat 13, ofNat_or_ofNat 11, ofNat_or_ofNat 3]
  all_goals (repeat' split) <;> omega

theorem ident_eq (c : Ctx) (hp : c.pid < 2 ^ 12) (he : c.ectx < 2 ^ 8) (hr : c.pri < 4) :
    c.ident = BitVec.ofNat 64 (c.pid * 2 ^ 16 + c.ectx * 2 ^ 8 + c.pri) := by
  simp only [Ctx.ident, put_eq_ofNat, Nat.mod_eq_of_lt hp, Nat.mod_eq_of_lt he, Nat.mod_eq_of_lt (show c.pri < 2 ^ 2 from hr), pow_zero,
    mul_one]
  rw [ofNat_or_ofNat 16, ofNat_or_ofNat 8]
  all_goals omega

theorem ySelf_eq (x : Nat) : ySelf x = BitVec.ofNat 64
    (2 ^ 53 + (coreOf x / 768 % 2) * 2 ^ 49 + (coreOf x % 768 / 32) * 2 ^ 44 + (coreOf x % 32) * 2 ^ 39 + x % 8) := by
  have hrow : coreOf x % 768 / 32 % 2 ^ 5 = coreOf x % 768 / 32 := Nat.mod_eq_of_lt (by omega)
  simp only [ySelf, coreAddr, coreDie, coreRow, coreCol, ctxNo, put_eq_ofNat, flag_eq_ofNat, if_true, hrow, pow_zero, mul_one, pow_one]
  rw [Nat.mod_eq_of_lt (show coreOf x % 32 < 2 ^ 5 by omega), Nat.mod_eq_of_lt (show x % 8 < 2 ^ 3 by omega)]
  rw [ofNat_or_ofNat 53, ofNat_or_ofNat 49, ofNat_or_ofNat 44, ofNat_or_ofNat 39]
  all_goals omega

/-! ### A word that changes its own context alone -/

/-- Where the flow goes depends on neither the count of instructions nor the hold count. -/
theorem fallThrough_count (c : Ctx) (n : Word) (hold : Nat) (pc : Word) :
    fallThrough { c with icount := n, held := hold } pc = { fallThrough c pc with icount := n, held := hold } := by
  unfold fallThrough
  split <;> (try split) <;> rfl

theorem fallThrough_dbgctl (c : Ctx) (pc : Word) : (fallThrough c pc).dbgctl = c.dbgctl := by rw [fallThrough_eq]

/-- Retiring leaves what `settled` says: the next PC, the marker with the store faults it makes due, and the single step (R23, R35, R80). -/
theorem retire_eq_settled (h : Hdr) (s : State) (c : Ctx) (hold : Nat) :
    Ctx.retire { c with icount := (me s).icount + 1, held := hold } (ctxNo s.cur != 7) (me s).pc h.sw none =
      settled h s (fallThrough c (me s).pc) hold := by
  have hstep : (ctxNo s.cur != 7 && bitAt c.dbgctl 0) = decide (ctxNo s.cur ≠ 7 ∧ (fallThrough c (me s).pc).dbgctl.getLsbD 0 = true) := by
    rw [fallThrough_dbgctl, bitAt]
    cases c.dbgctl.getLsbD 0 <;> simp [bne, beq_eq_decide]
  unfold Ctx.retire settled
  simp only [fallThrough_count, hstep]
  generalize fallThrough c (me s).pc = e
  by_cases hP : ctxNo s.cur ≠ 7 ∧ e.dbgctl.getLsbD 0 = true
  · rw [decide_eq_true hP, if_pos hP]
    cases h.sw <;> cases e.outstanding <;> simp
  · rw [decide_eq_false hP, if_neg hP]
    cases h.sw <;> cases e.outstanding <;> simp

/-- A word whose effect leaves the context `c` and touches no other unit is complete, and besides only the choice of the next context and the
charge of the issue have moved. -/
theorem leaves_of_done {i : Instr} {h : Hdr} {sup : Bool} {eff : Nat → Ctx → State → Eff} {s v : State} {c : Ctx}
    (hexec : exec i s = issue i sup false eff s) (hh : i.hdr = h) (hrun : Runs h s) (hsup : sup = false ∨ ctxNo s.cur = 7)
    (hpacket : Instr.packet i = false) (heff : eff s.cur ((issued s.cur h s).ctx s.cur) (issued s.cur h s) = .done v)
    (hframe : v = { issued s.cur h s with ctxs := v.ctxs }) (hothers : ∀ y, y ≠ s.cur → v.ctx y = (issued s.cur h s).ctx y)
    (hself : v.ctx s.cur = { c with icount := (me s).icount + 1, held := (v.ctx s.cur).held }) :
    Leaves i h s (fallThrough c (me s).pc) := by
  subst hh
  obtain ⟨hready, hguard⟩ := hrun
  have hcores : ∀ k, v.core k = (issued s.cur i.hdr s).core k := fun k => by rw [hframe]; rfl
  refine ⟨retire s.cur (me s).pc i.hdr.sw none v, ?_, ?_, ?_, ?_, ?_⟩
  · rw [hexec, issue_ready i sup false eff s hready hsup (.inr hguard) (.inr hpacket), heff]
    rfl
  · rw [retire_ctx_same, hself, retire_eq_settled]
    rfl
  · intro y hy
    rw [retire_ctx_ne _ _ _ _ _ _ hy, hothers y hy]
    exact issued_ctx_ne _ _ _ _ hy
  · intro k
    rw [retire_frame]
    change v.core k = { s.core k with krun := (v.core k).krun, last := (v.core k).last, issues := (v.core k).issues, charges := (v.core k).charges }
    rw [hcores]
    exact issued_core _ _ _ k
  · rw [retire_frame, hframe, issued_eq]

end Sys2Proof.Proofs
end

section
/-! PROOFS. MFSR and MTSR of the issuing context's own registers (O11). -/

namespace Sys2Proof.Proofs

open Sys2Proof Sys2Proof.Machine Sys2Proof.Claims

/-! ### MFSR (R83, R92 to R94) -/

/-- A register that holds one field of the context is one that every context may read, and no read of `y.xgo`. -/
theorem plainRegister_public {c : Ctx} {n : Nat} {v : Word} (h : Claims.plainRegister c n = some v) : yPrivate n = false ∧ n ≠ 40 := by
  unfold Claims.plainRegister at h
  split at h <;> cases h <;> decide

theorem yRead_plain {x n : Nat} {t : State} {v : Word} (viaT : Bool) (h : Claims.plainRegister (t.ctx x) n = some v) :
    yRead x n viaT t = (v, t) := by
  unfold Claims.plainRegister at h
  split at h <;> cases h <;> rfl

/-- The issue of a word moves no field that a system register holds alone. -/
theorem plainRegister_issued (h : Hdr) (s : State) (n : Nat) :
    Claims.plainRegister ((issued s.cur h s).ctx s.cur) n = Claims.plainRegister (me s) n := by
  rw [issued_ctx_same]
  rfl

theorem exec_mfsr (h : Hdr) (f : Fields) (s : State) : exec (.mfsr h f) s = execMfsr h f s := by
  rfl

/-- MFSR sends a packet of a dual-dispatched copy only where it starts a transfer (R365). -/
theorem packet_mfsr (h : Hdr) (f : Fields) : Instr.packet (.mfsr h f) = (f.sub == 0 && f.a.num == 40) := by
  have hopcode : (Instr.mfsr h f).opcode = some 0x05 := rfl
  have hfields : (Instr.mfsr h f).fields = f := rfl
  rw [Instr.packet, hopcode, hfields]
  simp

/-- MFSR of a register that every context may read, and whose read moves nothing, writes the value into D. -/
theorem mfsr_leaves {h : Hdr} {f : Fields} {n : BitVec 4} {r : BitVec 7} {s : State} {v : Word} (hrun : Runs h s) (hsub : f.sub = 0)
    (hd : f.d = .w n) (ha : f.a = .y r) (hpub : yPrivate r.toNat = false) (hxgo : r.toNat ≠ 40)
    (hread : yRead s.cur r.toNat false (issued s.cur h s) = (v, issued s.cur h s)) :
    Leaves (.mfsr h f) h s (fallThrough ((me s).setW n.toNat v) (me s).pc) := by
  have hexec := exec_mfsr h f s
  rw [execMfsr] at hexec
  refine leaves_of_done (c := (me s).setW n.toNat v) (v := (issued s.cur h s).modCtx s.cur fun d => d.setW n.toNat v) hexec rfl hrun
    (.inl ?_) ?_ ?_ rfl ?_ ?_
  · simp [hsub, ha, Opnd.num, hpub]
  · simp [packet_mfsr, ha, Opnd.num, hxgo]
  · simp [hsub, ha, hd, Opnd.num, hread, Ctx.writeD]
  · exact fun y hy => State.modCtx_ctx_ne _ _ _ _ hy
  · rw [State.modCtx_ctx_same, issued_ctx_same]
    rfl

theorem systemRegisterReads : Claims.SystemRegisterReads := by
  intro h f n r s hrun hsub hd ha c k gives
  have hself := issued_ctx_same s.cur h s
  have hgives : ∀ m v, r.toNat = m → yPrivate m = false → m ≠ 40 →
      yRead s.cur m false (issued s.cur h s) = (v, issued s.cur h s) → gives v := by
    rintro m v rfl hpub hxgo hread
    exact mfsr_leaves hrun hsub hd ha hpub hxgo hread
  refine ⟨?plain, ?wstate, ?self, ?ident, ?time, ?icount, ?hbase⟩
  case plain =>
    intro v hv
    obtain ⟨hpub, hxgo⟩ := plainRegister_public hv
    exact hgives _ v rfl hpub hxgo (yRead_plain false (by rw [plainRegister_issued, hv]))
  case wstate =>
    rintro rfl hs hr hw
    have hword : ((issued s.cur h s).ctx s.cur).wstate = c.wstate := by rw [hself]; rfl
    rw [← wstate_eq c hs hr hw]
    exact hgives 2 _ rfl rfl (by decide) (by rw [yRead, hword])
  case self =>
    rintro rfl
    rw [← ySelf_eq]
    exact hgives 6 _ rfl rfl (by decide) rfl
  case ident =>
    rintro rfl hp he hr
    have hi : ((issued s.cur h s).ctx s.cur).ident = c.ident := by rw [hself]; rfl
    rw [← ident_eq c hp he hr]
    exact hgives 7 _ rfl rfl (by decide) (by rw [yRead, hi])
  case time =>
    rintro rfl
    have ht : (issued s.cur h s).pkg = s.pkg := by rw [issued_eq]
    exact hgives 21 _ rfl rfl (by decide) (by rw [yRead, ht])
  case icount =>
    rintro rfl
    have hi : ((issued s.cur h s).ctx s.cur).icount = c.icount + 1 := by rw [hself]
    exact hgives 22 _ rfl rfl (by decide) (by rw [yRead, hi])
  case hbase =>
    rintro rfl
    have hb : ((issued s.cur h s).core k).hbase = (s.core k).hbase := by rw [issued_core]
    exact hgives 80 _ rfl rfl (by decide) (by rw [yRead, hb])

/-! ### MTSR (R6, R83, R92) -/

theorem exec_mtsr (h : Hdr) (f : Fields) (s : State) : exec (.mtsr h f) s = execMtsr h f s := by
  rfl

theorem packet_mtsr (h : Hdr) (f : Fields) : Instr.packet (.mtsr h f) = false := by
  have hopcode : (Instr.mtsr h f).opcode = some 0x06 := rfl
  rw [Instr.packet, hopcode]
  simp

/-- A source that is no link reads the same once the word has issued. -/
theorem srcS_issued (h : Hdr) (s : State) (o : Opnd) (ho : o.link? = none) : srcS ((issued s.cur h s).ctx s.cur) [] o = source s o := by
  rw [issued_ctx_same]
  cases o with
  | l n => cases ho
  | _ => rfl

/-- The right with which the issuing context writes its own registers (R6). -/
def ownRight (s : State) : YRight := if ctxNo s.cur = 7 then .sup else .user

/-- MTSR of a register that every context may name completes with what `yWrite` leaves of the issuing context, where it touches no other unit. -/
theorem mtsr_leaves {h : Hdr} {f : Fields} {r : BitVec 7} {s : State} {d : Ctx} (hrun : Runs h s) (hsub : f.sub = 0) (hd : f.d = .y r)
    (ha : f.a.link? = none) (hpub : yPrivate r.toNat = false) (htraps : yWriteTraps r.toNat = false) (w : State)
    (hwrite : yWrite s.cur r.toNat (source s f.a) (ownRight s) (issued s.cur h s) = w) (hframe : w = { issued s.cur h s with ctxs := w.ctxs })
    (hothers : ∀ y, y ≠ s.cur → w.ctx y = (issued s.cur h s).ctx y)
    (hself : w.ctx s.cur = { d with icount := (me s).icount + 1, held := (w.ctx s.cur).held }) :
    Leaves (.mtsr h f) h s (fallThrough d (me s).pc) := by
  have hexec := exec_mtsr h f s
  rw [execMtsr] at hexec
  refine leaves_of_done hexec rfl hrun (.inl ?_) (packet_mtsr h f) ?_ hframe hothers hself
  · simp [hsub, hd, Opnd.num, hpub, htraps]
  · rw [← hwrite]
    simp [hsub, hd, Opnd.num, srcS_issued h s f.a ha, ownRight]

/-- A register of the context: the write is `Ctx.yPut`. -/
theorem mtsr_leaves_put {h : Hdr} {f : Fields} {r : BitVec 7} {s : State} {d : Ctx} (hrun : Runs h s) (hsub : f.sub = 0) (hd : f.d = .y r)
    (ha : f.a.link? = none) (hpub : yPrivate r.toNat = false) (htraps : yWriteTraps r.toNat = false) (hown : yShared r.toNat = false)
    (hput : ∀ hold, Ctx.yPut { me s with icount := (me s).icount + 1, held := hold } r.toNat (source s f.a) (ownRight s) =
      { d with icount := (me s).icount + 1, held := hold }) :
    Leaves (.mtsr h f) h s (fallThrough d (me s).pc) := by
  refine mtsr_leaves hrun hsub hd ha hpub htraps ((issued s.cur h s).modCtx s.cur fun c => c.yPut r.toNat (source s f.a) (ownRight s)) ?_ rfl
    (fun y hy => State.modCtx_ctx_ne _ _ _ _ hy) ?_
  · simp [yWrite, hown]
  · rw [State.modCtx_ctx_same, issued_ctx_same, hput]

/-- A user context's write of `y.wstate` clears VZ alone, and only where bit 13 is set (R10). -/
theorem yPut_wstate_user (c : Ctx) (v : Word) (hv : bitAt v 13 = false) : c.yPut 2 v .user = c := by
  rw [Ctx.yPut, if_neg (by decide), hv]
  rfl

theorem systemRegisterWrites : Claims.SystemRegisterWrites := by
  intro h f r s hrun hsub hd ha c v leaves
  have hput : ∀ m d, r.toNat = m → yPrivate m = false → yWriteTraps m = false → yShared m = false →
      (∀ hold, Ctx.yPut { c with icount := c.icount + 1, held := hold } m v (ownRight s) = { d with icount := c.icount + 1, held := hold }) →
      leaves d := by
    rintro m d rfl hpub htraps hown hp
    exact mtsr_leaves_put hrun hsub hd ha hpub htraps hown hp
  refine ⟨?tsp, ?wsp, ?wlim, ?scope, ?reserved, ?migmode, ?loopcnt, ?xsrc, ?xdst, ?xbox, ?xext, ?xcw, ?xcv, ?readOnly⟩
  case tsp => rintro rfl; exact hput 0 _ rfl rfl rfl rfl fun _ => rfl
  case wsp => rintro rfl; exact hput 1 _ rfl rfl rfl rfl fun _ => by rw [← lineReg_eq]; rfl
  case wlim => rintro rfl; exact hput 10 _ rfl rfl rfl rfl fun _ => by rw [← lineReg_eq]; rfl
  case scope => rintro rfl hv; exact hput 3 _ rfl rfl rfl rfl fun _ => by rw [← scopeReg_of_scope v hv]; rfl
  case reserved => rintro rfl hv; exact hput 3 _ rfl rfl rfl rfl fun _ => by rw [← scopeReg_of_reserved v hv]; rfl
  case migmode => rintro rfl; exact hput 4 _ rfl rfl rfl rfl fun _ => by rw [← migmodeReg_eq]; rfl
  case loopcnt => rintro rfl; exact hput 8 _ rfl rfl rfl rfl fun _ => rfl
  case xsrc => rintro rfl; exact hput 32 _ rfl rfl rfl rfl fun _ => rfl
  case xdst => rintro rfl; exact hput 33 _ rfl rfl rfl rfl fun _ => rfl
  case xbox => rintro rfl; exact hput 35 _ rfl rfl rfl rfl fun _ => rfl
  case xext => rintro rfl; exact hput 36 _ rfl rfl rfl rfl fun _ => rfl
  case xcw => rintro rfl; exact hput 38 _ rfl rfl rfl rfl fun _ => rfl
  case xcv => rintro rfl; exact hput 39 _ rfl rfl rfl rfl fun _ => rfl
  case readOnly =>
    intro huser hr
    have hright : ownRight s = .user := if_neg huser
    rw [hright] at hput
    rcases hr with ⟨rfl, hvz⟩ | rfl | rfl | rfl | rfl | rfl | rfl | rfl | rfl | rfl
    · exact hput _ c rfl rfl rfl rfl fun _ => yPut_wstate_user _ v hvz
    iterate 7 · exact hput _ c rfl rfl rfl rfl fun _ => rfl
    · exact mtsr_leaves hrun hsub hd ha rfl rfl (issued s.cur h s) (by rw [hright]; rfl) rfl (fun _ _ => rfl) (issued_ctx_same _ _ _)
    · exact hput _ c rfl rfl rfl rfl fun _ => rfl

/-- Settles O11: the registers of the issuing context are read and written by their maps. -/
theorem systemRegisters : Obligations.SystemRegisters :=
  ⟨systemRegisterReads, systemRegisterWrites⟩

end Sys2Proof.Proofs
end

section
/-! PROOFS. What the operations beyond the L1 caches leave of those caches: their lines, which slices are disabled, and which clusters are fused. -/

namespace Sys2Proof.Proofs

open Sys2Proof Sys2Proof.Machine Sys2Proof.Claims

/-! ### The L1 caches of a state (R164, R237) -/

/-- What an access looks up in the L1 caches: the clusters, each core's lines, and the disabled slices. -/
def l1View (s : State) : SMap Cluster × (Nat → List L1Line) × (Nat → Bool) :=
  (s.clusters, fun k => (s.core k).l1, fun k => (s.core k).sliceOff)

/-- The part of it that says where a line would lie. -/
def sliceView (s : State) : SMap Cluster × (Nat → Bool) := (s.clusters, fun k => (s.core k).sliceOff)

theorem sliceView_of_l1View {s t : State} (h : l1View t = l1View s) : sliceView t = sliceView s :=
  congrArg (fun v => (v.1, v.2.2)) h

/-- A state that differs in neither clusters nor cores has the same caches. -/
theorem l1View_of_units {s t : State} (hq : t.clusters = s.clusters) (hk : t.cores = s.cores) : l1View t = l1View s := by
  simp only [l1View, State.core, hq, hk]

/-- What a change of a core keeps, every core keeps. -/
theorem modCore_keeps {α : Type} (p : Core → α) (s : State) (k : Nat) (g : Core → Core) (hg : ∀ c, p (g c) = p c) (j : Nat) :
    p ((s.modCore k g).core j) = p (s.core j) := by
  rw [State.modCore_core]
  split
  · next h => rw [h, hg]
  · rfl

theorem l1View_modCore (s : State) (k : Nat) (g : Core → Core) (hl : ∀ c, (g c).l1 = c.l1) (ho : ∀ c, (g c).sliceOff = c.sliceOff) :
    l1View (s.modCore k g) = l1View s := by
  simp only [l1View, State.modCore_clusters, modCore_keeps Core.l1 s k g hl, modCore_keeps Core.sliceOff s k g ho]

theorem sliceView_modCore (s : State) (k : Nat) (g : Core → Core) (ho : ∀ c, (g c).sliceOff = c.sliceOff) :
    sliceView (s.modCore k g) = sliceView s := by
  simp only [sliceView, State.modCore_clusters, modCore_keeps Core.sliceOff s k g ho]

theorem l1Find_congr {s t : State} (h : l1View t = l1View s) (m pid vln : Nat) : l1Find t m pid vln = l1Find s m pid vln := by
  have hl : (t.core m).l1 = (s.core m).l1 := congrFun (congrArg (fun v => v.2.1) h) m
  rw [l1Find, hl, l1Find]

theorem cluster_congr {s t : State} (h : sliceView t = sliceView s) (q : Nat) : t.cluster q = s.cluster q := by
  have hq : t.clusters = s.clusters := congrArg Prod.fst h
  rw [State.cluster, hq, State.cluster]

theorem l1Home_congr {s t : State} (h : sliceView t = sliceView s) (k vln : Nat) : l1Home t k vln = l1Home s k vln := by
  have ho : ∀ m, (t.core m).sliceOff = (s.core m).sliceOff := congrFun (congrArg Prod.snd h)
  simp only [l1Home, cluster_congr h, ho]

/-! ### Waiters and held threads (R173, R176) -/

/-- What a rebuild of every listed value keeps, a read keeps. -/
theorem getD_map_keeps {α β : Type} (p : α → β) (g : α → α) (hg : ∀ x, p (g x) = p x) (m : SMap α) (k : Nat) (d : α) :
    p (SMap.getD (m.map fun e => (e.1, g e.2)) k d) = p (SMap.getD m k d) := by
  induction m with
  | nil => rfl
  | cons e m ih =>
    simp only [List.map_cons, SMap.getD]
    split
    · exact hg _
    · exact ih

/-- A core with its held threads marked. -/
def markCore (hit : Home → Bool) (c : Core) : Core :=
  { c with heldList := c.heldList.map fun h => if hit h.home then { h with changed := true } else h }

@[simp] theorem markHeld_l1View (hit : Home → Bool) (s : State) : l1View (markHeld hit s) = l1View s := by
  have hl1 : ∀ k, ((markHeld hit s).core k).l1 = (s.core k).l1 := fun k =>
    getD_map_keeps Core.l1 (markCore hit) (fun _ => rfl) s.cores k Core.reset
  have hoff : ∀ k, ((markHeld hit s).core k).sliceOff = (s.core k).sliceOff := fun k =>
    getD_map_keeps Core.sliceOff (markCore hit) (fun _ => rfl) s.cores k Core.reset
  have hq : (markHeld hit s).clusters = s.clusters := rfl
  simp only [l1View, hl1, hoff, hq]

@[simp] theorem replyReq_l1View (r : Req) (v : LongVal) (s : State) : l1View (replyReq r v s) = l1View s := by
  rw [replyReq_frame]
  exact l1View_of_units rfl rfl

@[simp] theorem serveAt_l1View (e : Option Nat) (pa n : Nat) (s : State) : l1View (serveAt e pa n s) = l1View s := by
  unfold serveAt
  simp only [markHeld_l1View]
  split
  · rfl
  · rw [foldl_keeps l1View _ fun _ _ => replyReq_l1View _ _ _]
    rfl

@[simp] theorem serveMask_l1View (e : Option Nat) (ln : Nat) (mask : BitVec 128) (s : State) : l1View (serveMask e ln mask s) = l1View s := by
  unfold serveMask
  apply foldl_keeps l1View
  intro t i
  split
  · rfl
  · exact serveAt_l1View _ _ _ _

/-! ### The home slices and the LLC (R165, R347, R348) -/

@[simp] theorem homeWrite_l1View (s : State) (pa n v : Nat) : l1View (homeWrite s pa n v) = l1View s := serveAt_l1View _ _ _ _

@[simp] theorem homeMerge_l1View (s : State) (ln : Nat) (bits : LineBits) (mask : BitVec 128) : l1View (homeMerge s ln bits mask) = l1View s :=
  serveMask_l1View _ _ _ _

@[simp] theorem modDie_l1View (s : State) (d : Nat) (g : Die → Die) : l1View (s.modDie d g) = l1View s := rfl
@[simp] theorem poisonLine_l1View (s : State) (pa : Nat) : l1View (poisonLine s pa) = l1View s := rfl

@[simp] theorem llcDrop_l1View (s : State) (d ln : Nat) : l1View (llcDrop s d ln) = l1View s := by
  unfold llcDrop
  split
  · rfl
  · dsimp only
    split
    · rfl
    · split <;> simp

@[simp] theorem llcInstall_l1View (s : State) (d ln : Nat) (l : LlcLine) : l1View (llcInstall s d ln l) = l1View s := by
  unfold llcInstall
  dsimp only
  rw [modDie_l1View]
  split
  · split
    · exact llcDrop_l1View _ _ _
    · rfl
  · rfl

@[simp] theorem llcFill_l1View (s : State) (d ln : Nat) : l1View (llcFill s d ln).2 = l1View s := by
  unfold llcFill
  split
  · split
    · rfl
    · split
      · split <;> rfl
      · rfl
  · split
    · rfl
    · exact llcInstall_l1View _ _ _ _

@[simp] theorem dieRead_l1View (s : State) (d pa n : Nat) : l1View (dieRead s d pa n).2 = l1View s := by
  unfold dieRead
  split
  · rfl
  · have hf := llcFill_l1View s d (lineOf pa)
    split <;> (next he => rw [he] at hf; exact hf)

@[simp] theorem dieMerge_l1View (s : State) (d ln : Nat) (bits : LineBits) (mask : BitVec 128) :
    l1View (dieMerge s d ln bits mask).2 = l1View s := by
  unfold dieMerge
  split
  · exact homeMerge_l1View _ _ _ _
  · have hfill : l1View (if (mask == BitVec.allOnes 128) = true then s else (llcFill s d ln).2) = l1View s := by
      split
      · rfl
      · exact llcFill_l1View _ _ _
    dsimp only
    split
    · exact (serveMask_l1View _ _ _ _).trans hfill
    · split
      · rfl
      · exact ((serveMask_l1View _ _ _ _).trans (llcInstall_l1View _ _ _ _)).trans hfill

@[simp] theorem dieWrite_l1View (s : State) (d pa n v : Nat) : l1View (dieWrite s d pa n v).2 = l1View s := by
  unfold dieWrite
  split
  · exact homeWrite_l1View _ _ _ _
  · exact dieMerge_l1View _ _ _ _ _

@[simp] theorem streamRead_l1View (s : State) (d pa : Nat) (p : Bool) (n : Nat) : l1View (streamRead s d pa p n).2 = l1View s := by
  unfold streamRead
  split
  · exact dieRead_l1View _ _ _ _
  · exact llcDrop_l1View _ _ _

@[simp] theorem streamWrite_l1View (s : State) (d pa : Nat) (p : Bool) (n v : Nat) : l1View (streamWrite s d pa p n v).2 = l1View s := by
  unfold streamWrite
  split
  · exact dieWrite_l1View _ _ _ _ _
  · split
    · rfl
    · simp

/-! ### Translation (R350 to R354) -/

@[simp] theorem walkRead_l1View (s : State) (d pa : Nat) : l1View (walkRead s d pa).2 = l1View s := by
  unfold walkRead
  split
  · rfl
  · have hf := streamRead_l1View s d pa false 8
    split <;> (next he => rw [he] at hf; exact hf)

@[simp] theorem walkWords_l1View (s : State) (d pa n : Nat) : l1View (walkWords s d pa n).2 = l1View s := by
  induction n generalizing s pa with
  | zero => rfl
  | succ n ih =>
    unfold walkWords
    have hf := walkRead_l1View s d pa
    split
    · next he => rw [he] at hf; exact hf
    · next v s1 he =>
      rw [he] at hf
      have hw := (ih s1 (pa + 8)).trans hf
      split <;> (next hg => rw [hg] at hw; exact hw)

@[simp] theorem walkFrom_l1View (s : State) (d va level table : Nat) : l1View (walkFrom s d va level table).2 = l1View s := by
  induction level generalizing s table with
  | zero =>
    unfold walkFrom
    have hf := walkRead_l1View s d (entryAddr table 0 va)
    split
    · next he => rw [he] at hf; exact hf
    · next he =>
      rw [he] at hf
      split <;> exact hf
  | succ n ih =>
    unfold walkFrom
    have hf := walkRead_l1View s d (entryAddr table (n + 1) va)
    split
    · next he => rw [he] at hf; exact hf
    · next he =>
      rw [he] at hf
      split
      · exact hf
      · exact (ih _ _).trans hf
      · exact hf

@[simp] theorem walk_l1View (s : State) (d pid va : Nat) : l1View (walk s d pid va).2 = l1View s := by
  have hdesc : l1View (readDesc s d pid).2 = l1View s := by
    unfold readDesc
    have hf := walkWords_l1View s d (descAddr s d pid) 8
    split
    · next he =>
      rw [he] at hf
      split <;> exact hf
    · next he => rw [he] at hf; exact hf
  unfold walk
  split
  · next he => rw [he] at hdesc; exact hdesc
  · next he => rw [he] at hdesc; exact (walkFrom_l1View _ _ _ _ _).trans hdesc

@[simp] theorem translate_l1View (s : State) (d pid va : Nat) (acc : Acc) : l1View (Machine.translate s d pid va acc).2 = l1View s := by
  unfold Machine.translate
  split
  · rfl
  · have hf := walk_l1View s d pid va
    split
    · next he => rw [he] at hf; exact hf
    · next he =>
      rw [he] at hf
      split
      · exact hf
      · dsimp only
        split <;> exact hf

/-! ### The L1 itself (R164, R355, R363) -/

@[simp] theorem supPush_l1View (k typ data : Nat) (s : State) : l1View (supPush k typ data s) = l1View s :=
  l1View_modCore _ _ _ (fun _ => by dsimp only; split <;> rfl) fun _ => by dsimp only; split <;> rfl

@[simp] theorem machineCheck_l1View (d b : Nat) (e : ErrRec) (s : State) : l1View (machineCheck d b e s) = l1View s := by
  unfold machineCheck
  split
  · exact supPush_l1View _ _ _ (s.modPkg _)
  · rfl

@[simp] theorem postErrorOpen_l1View (d b : Nat) (e : ErrRec) (s : State) : l1View (postErrorOpen d b e s) = l1View s :=
  machineCheck_l1View _ _ _ _

@[simp] theorem l1WriteBack_l1View (s : State) (m : Nat) (l : L1Line) : l1View (l1WriteBack s m l) = l1View s := by
  have hpoisoned : ∀ (t : State) (pa : Nat), l1View (l1Poisoned t m l pa) = l1View t := by
    intro t pa
    have hdrop : l1View (poisonLine { llcDrop t (coreDie m) (lineOf pa) with
        mem := writeMasked (llcDrop t (coreDie m) (lineOf pa)).mem (128 * lineOf pa) l.bits l.dirty 128 } pa) = l1View t :=
      llcDrop_l1View t (coreDie m) (lineOf pa)
    unfold l1Poisoned
    dsimp only
    split
    · rw [supPush_l1View, postErrorOpen_l1View, hdrop]
    · rw [postErrorOpen_l1View, hdrop]
  unfold l1WriteBack
  have ht := translate_l1View s (coreDie m) l.pid (128 * l.vln) .read
  split
  · rfl
  · split
    · next he => rw [he] at ht; rw [postErrorOpen_l1View]; exact ht
    · next he =>
      rw [he] at ht
      split
      · exact (hpoisoned _ _).trans ht
      · exact (dieMerge_l1View _ _ _ _ _).trans ht

@[simp] theorem noteWrote_l1View (x : Option Nat) (ln : Nat) (s : State) : l1View (noteWrote x ln s) = l1View s := by
  unfold noteWrote
  split <;> rfl

theorem l1Remove_sliceView (s : State) (m pid vln : Nat) : sliceView (l1Remove s m pid vln) = sliceView s :=
  sliceView_modCore _ _ _ fun _ => rfl

theorem l1Put_sliceView (s : State) (m : Nat) (l : L1Line) : sliceView (l1Put s m l) = sliceView s :=
  sliceView_modCore _ _ _ fun _ => rfl

theorem l1Flush_sliceView (s : State) (m pid vln : Nat) : sliceView (l1Flush s m pid vln) = sliceView s := by
  unfold l1Flush
  split
  · rfl
  · exact (l1Remove_sliceView _ _ _ _).trans (sliceView_of_l1View (l1WriteBack_l1View _ _ _))

theorem l1Install_sliceView (s : State) (m : Nat) (l : L1Line) : sliceView (l1Install s m l) = sliceView s := by
  unfold l1Install
  split
  · split
    · exact (l1Put_sliceView _ _ _).trans (l1Flush_sliceView _ _ _ _)
    · exact l1Put_sliceView _ _ _
  · exact l1Put_sliceView _ _ _

theorem l1Bypass_sliceView (s : State) (k pid va : Nat) : sliceView (l1Bypass s k pid va) = sliceView s := by
  unfold l1Bypass
  split
  · exact l1Flush_sliceView _ _ _ _
  · rfl

end Sys2Proof.Proofs
end

section
/-! PROOFS. What is written to device memory reads back, at the L1 and at the home slice (O22). -/

namespace Sys2Proof.Proofs

open Sys2Proof Sys2Proof.Machine Sys2Proof.Claims

/-! ### Fields of a line -/

/-- A field just put into a line reads back (R4). -/
theorem lineGet_linePut (bits : LineBits) (off n v : Nat) (h : off + n ≤ 128) : lineGet (linePut bits off n v) off n = v % 2 ^ (8 * n) := by
  apply Nat.eq_of_testBit_eq
  intro j
  simp only [lineGet, linePut, Nat.testBit_mod_two_pow, Nat.testBit_shiftRight, BitVec.testBit_toNat]
  by_cases hj : j < 8 * n
  · have hpos : 8 * off + j < 1024 := by omega
    simp only [BitVec.getLsbD_or, BitVec.getLsbD_and, BitVec.getLsbD_not, BitVec.getLsbD_ofNat, Nat.testBit_shiftLeft,
      Nat.testBit_two_pow_sub_one, Nat.testBit_mod_two_pow, Nat.add_sub_cancel_left, hj, hpos, Nat.le_add_right]
    simp
  · simp [hj]

/-- An aligned access lies in one line (R158). -/
theorem line_of_aligned {va n : Nat} (hn : n ∈ [1, 2, 4, 8]) (ha : va % n = 0) : va % 128 + n ≤ 128 := by
  simp only [List.mem_cons, List.not_mem_nil, or_false] at hn
  rcases hn with rfl | rfl | rfl | rfl <;> omega

/-! ### Lines of an L1 -/

/-- A line is found under its own PID and number. -/
theorem l1Find_name {s : State} {m pid vln : Nat} {l : L1Line} (h : l1Find s m pid vln = some l) : l.pid = pid ∧ l.vln = vln := by
  have hl := List.find?_some h
  simpa using hl

/-- Among the lines of other names there is none of this name. -/
theorem find?_filter_name (ls : List L1Line) (pid vln : Nat) :
    (ls.filter fun l => !(l.pid == pid && l.vln == vln)).find? (fun l => l.pid == pid && l.vln == vln) = none := by
  rw [List.find?_eq_none]
  intro l hl hname
  have hother := (List.mem_filter.mp hl).2
  rw [hname] at hother
  exact absurd hother (by decide)

theorem l1Find_l1Put (s : State) (m : Nat) (l : L1Line) : l1Find (l1Put s m l) m l.pid l.vln = some l := by
  rw [l1Find, l1Put, State.modCore_core_same, List.find?_append, find?_filter_name]
  simp

theorem l1Find_l1Remove (s : State) (m pid vln : Nat) : l1Find (l1Remove s m pid vln) m pid vln = none := by
  rw [l1Find, l1Remove, State.modCore_core_same, find?_filter_name]

theorem l1Find_l1Flush (s : State) (m pid vln : Nat) : l1Find (l1Flush s m pid vln) m pid vln = none := by
  unfold l1Flush
  split
  · assumption
  · exact l1Find_l1Remove _ _ _ _

/-! ### Filling a line -/

/-- A line that is present with its clean bytes serves a read as it stands. -/
theorem l1Fill_present {s : State} {m pid vln : Nat} {l : L1Line} (h : l1Find s m pid vln = some l) (hs : l.stale = false) :
    l1Fill s m pid vln .read = (.ok l, s) := by
  simp [l1Fill, h, hs]

/-- What the filling of a line for a store can answer: the line that is present, a new one, or an error with the caches as they were. -/
theorem l1Fill_write (s : State) (m pid vln : Nat) :
    (∃ l t, l1Fill s m pid vln .write = (.ok l, t) ∧ l.pid = pid ∧ l.vln = vln ∧ sliceView t = sliceView s) ∨
    (∃ i t, l1Fill s m pid vln .write = (.error (.xlate i), t)) ∨
    (∃ e t, l1Fill s m pid vln .write = (.error (.resp e), t) ∧ l1Find s m pid vln = none ∧ l1View t = l1View s) := by
  have ht := translate_l1View s (coreDie m) pid (128 * vln) .write
  cases hfind : l1Find s m pid vln with
  | some l =>
    obtain ⟨hp, hv⟩ := l1Find_name hfind
    by_cases hw : l.wOk = false
    · cases htr : Machine.translate s (coreDie m) pid (128 * vln) .write with
      | mk r t =>
        rw [htr] at ht
        cases r with
        | error i => exact .inr (.inl ⟨i, t, by simp [l1Fill, hfind, hw, htr]⟩)
        | ok p => exact .inl ⟨{ l with wOk := true }, t, by simp [l1Fill, hfind, hw, htr], hp, hv, sliceView_of_l1View ht⟩
    · exact .inl ⟨l, s, by simp [l1Fill, hfind, hw], hp, hv, rfl⟩
  | none =>
    cases htr : Machine.translate s (coreDie m) pid (128 * vln) .write with
    | mk r t =>
      rw [htr] at ht
      cases r with
      | error i => exact .inr (.inl ⟨i, t, by simp [l1Fill, hfind, htr]⟩)
      | ok p =>
        have hr := (dieRead_l1View t (coreDie m) p.pa 128).trans ht
        cases hread : dieRead t (coreDie m) p.pa 128 with
        | mk r u =>
          rw [hread] at hr
          cases r with
          | error e => exact .inr (.inr ⟨e, u, by simp [l1Fill, hfind, htr, hread], rfl, hr⟩)
          | ok v =>
            have hl := l1Install_sliceView u m ⟨pid, vln, BitVec.ofNat 1024 v, 0, p.w, false, none, [], false⟩
            exact .inl ⟨_, _, by simp only [l1Fill, hfind, htr, hread] <;> rfl, rfl, rfl, hl.trans (sliceView_of_l1View hr)⟩

/-! ### Stores (R165, R349) -/

/-- A store that is performed beyond the L1, from the state `s`: at the die's LLC, or with the streaming policy at the home slice. -/
def storeBelow (s : State) (k : Nat) (x : Option Nat) (pid cp va n v : Nat) : Except AccErr Unit × State :=
  match Machine.translate s (coreDie k) pid va .write with
  | (.error e, w) => (.error (.xlate e), w)
  | (.ok p, w) =>
    match (if cp = 2 then streamWrite w (coreDie k) p.pa p.priv n v else dieWrite w (coreDie k) p.pa n v) with
    | (.error e, t) => (.error (.resp e), t)
    | (.ok _, t) => (.ok (), noteWrote x (lineOf va) t)

/-- A bypass or streaming store drops the core's own copy of the line and is performed below. -/
theorem devStore_beyond (s : State) (k : Nat) (x : Option Nat) (pid va n v : Nat) {cp : Nat} (hcp : cp ≠ 0) :
    devStore s k x pid cp va n v = storeBelow (l1Bypass s k pid va) k x pid cp va n v := by
  unfold devStore
  rw [if_neg hcp]
  rfl

/-- A normal store that misses to a poisoned line is performed below. -/
theorem devStore_poisoned {s t : State} {k pid va m : Nat} (x : Option Nat) (n v : Nat) (hm : l1Home s k (lineOf va) = some m)
    (hf : l1Fill s m pid (lineOf va) .write = (.error (.resp 4), t)) :
    devStore s k x pid 0 va n v = storeBelow t k x pid 0 va n v := by
  unfold devStore
  simp only [if_true, hm, hf] <;> rfl

/-- A normal store whose line is there, or could be filled, is held in the line. -/
theorem devStore_filled {s t : State} {k pid va m : Nat} {l : L1Line} (x : Option Nat) (n v : Nat) (hm : l1Home s k (lineOf va) = some m)
    (hf : l1Fill s m pid (lineOf va) .write = (.ok l, t)) :
    devStore s k x pid 0 va n v = (.ok (), noteWrote x (lineOf va) (l1Put t m (l.store x (va % 128) n v))) := by
  unfold devStore
  simp only [if_true, hm, hf]

/-- What has happened where a store below the L1 completes. -/
theorem storeBelow_ok {s s1 : State} {k pid cp va n v : Nat} {x : Option Nat} (h : storeBelow s k x pid cp va n v = (.ok (), s1)) :
    ∃ p w t, Machine.translate s (coreDie k) pid va .write = (.ok p, w) ∧
      (if cp = 2 then streamWrite w (coreDie k) p.pa p.priv n v else dieWrite w (coreDie k) p.pa n v) = (.ok (), t) ∧
      s1 = noteWrote x (lineOf va) t := by
  unfold storeBelow at h
  split at h
  · cases h
  · next p w htr =>
    split at h
    · cases h
    · next t hwr =>
      cases h
      exact ⟨p, w, t, htr, hwr, rfl⟩

theorem storeBelow_l1View {s s1 : State} {k pid cp va n v : Nat} {x : Option Nat} (h : storeBelow s k x pid cp va n v = (.ok (), s1)) :
    l1View s1 = l1View s := by
  obtain ⟨p, w, t, htr, hwr, rfl⟩ := storeBelow_ok h
  have ht := translate_l1View s (coreDie k) pid va .write
  have hw : l1View (if cp = 2 then streamWrite w (coreDie k) p.pa p.priv n v else dieWrite w (coreDie k) p.pa n v).2 = l1View w := by
    split <;> simp
  rw [htr] at ht
  rw [hwr] at hw
  exact (noteWrote_l1View _ _ _).trans (hw.trans ht)

/-- A normal store that has completed is held in a line of its PID and number, or the line could not be filled for its poison and the L1
holds none. -/
theorem devStore_normal {s s1 : State} {k pid va n v m : Nat} {x : Option Nat} (hm : l1Home s k (lineOf va) = some m)
    (h : devStore s k x pid 0 va n v = (.ok (), s1)) :
    (∃ l, l1Find s1 m pid (lineOf va) = some (L1Line.store l x (va % 128) n v) ∧ sliceView s1 = sliceView s) ∨
    ((l1Fill s m pid (lineOf va) .write).1 = .error (.resp 4) ∧ l1Find s1 m pid (lineOf va) = none) := by
  rcases l1Fill_write s m pid (lineOf va) with ⟨l, t, hf, hp, hv, ht⟩ | ⟨i, t, hf⟩ | ⟨e, t, hf, hnone, ht⟩
  · rw [devStore_filled x n v hm hf] at h
    cases h
    have hput := l1Find_l1Put t m (l.store x (va % 128) n v)
    refine .inl ⟨l, ?_, ?_⟩
    · rw [l1Find_congr (noteWrote_l1View _ _ _), ← hput]
      exact congrArg₂ _ hp.symm hv.symm
    · exact (sliceView_of_l1View (noteWrote_l1View _ _ _)).trans ((l1Put_sliceView _ _ _).trans ht)
  · simp [devStore, hm, hf] at h
  · by_cases he : e = 4
    · subst he
      rw [devStore_poisoned x n v hm hf] at h
      exact .inr ⟨by rw [hf], by rw [l1Find_congr ((storeBelow_l1View h).trans ht), hnone]⟩
    · simp [devStore, hm, hf, he] at h

/-! ### Loads -/

/-- A normal load of a line that is present, whole and not poisoned reads the line. -/
theorem devLoad_present {s : State} {k pid va m : Nat} {l : L1Line} (n : Nat) (hm : l1Home s k (lineOf va) = some m)
    (hf : l1Find s m pid (lineOf va) = some l) (hp : l.poison = false) (hs : l.stale = false) :
    devLoad s k pid 0 va n = (.ok (lineGet l.bits (va % 128) n), s) := by
  unfold devLoad
  simp only [if_true, hm, l1Fill_present hf hs, hp] <;> rfl

theorem l1Home_unfused {s : State} {k : Nat} (h : (s.cluster (clusterOf k)).fused = false) (vln : Nat) : l1Home s k vln = some k := by
  rw [l1Home, h]
  rfl

/-- A line that a core's own L1 does not hold needs no bypass. -/
theorem l1Bypass_absent {s : State} {k pid va : Nat} (hm : l1Home s k (lineOf va) = some k) (hf : l1Find s k pid (lineOf va) = none) :
    l1Bypass s k pid va = s := by
  unfold l1Bypass
  rw [hm]
  simp only [l1Flush, hf]

theorem l1Find_l1Bypass {s : State} {k pid va : Nat} (hm : l1Home s k (lineOf va) = some k) :
    l1Find (l1Bypass s k pid va) k pid (lineOf va) = none := by
  unfold l1Bypass
  rw [hm]
  exact l1Find_l1Flush _ _ _ _

/-! ### The home slice (R347, R349) -/

@[simp] theorem fencedFrom_self (s : State) (d : Nat) : fencedFrom s d d = false := by
  simp [fencedFrom]

theorem homeRead_poisoned {s : State} {d pa : Nat} (n : Nat) (hf : fencedFrom s d (homeDie pa) = false)
    (hp : s.poison.contains (lineOf pa) = true) : homeRead s d pa n = .error 4 := by
  rw [homeRead, hf, if_neg (by decide), if_pos hp]

theorem homeRead_sound {s : State} {d pa : Nat} (n : Nat) (hf : fencedFrom s d (homeDie pa) = false)
    (hp : s.poison.contains (lineOf pa) = false) : homeRead s d pa n = .ok (memRead s.mem pa n) := by
  rw [homeRead, hf, hp, if_neg (by decide), if_neg (by decide)]

@[simp] theorem replyReq_poison (r : Req) (v : LongVal) (s : State) : (replyReq r v s).poison = s.poison := by
  rw [replyReq_frame]

@[simp] theorem serveAt_poison (e : Option Nat) (pa n : Nat) (s : State) : (serveAt e pa n s).poison = s.poison := by
  unfold serveAt
  dsimp only [markHeld]
  split
  · rfl
  · rw [foldl_keeps (fun t => t.poison) _ fun _ _ => replyReq_poison _ _ _]
    rfl

/-- A write of a whole line clears its mark, a partial one keeps every mark (R349). -/
theorem homeWrite_poison (s : State) (pa n v : Nat) :
    (homeWrite s pa n v).poison = if pa % 128 = 0 ∧ n = 128 then s.poison.filter (· ≠ lineOf pa) else s.poison :=
  serveAt_poison _ _ _ _

theorem memRead_homeWrite (s : State) (pa n v : Nat) : memRead (homeWrite s pa n v).mem pa n = v % 256 ^ n := by
  rw [homeWrite_mem, memRead_memWrite]

theorem homeSliceReadAfterWrite : Claims.HomeSliceReadAfterWrite := by
  intro s d pa n v _ t
  refine ⟨memRead_homeWrite s pa n v, ?around, ?whole, ?part, fun hf hp => homeRead_poisoned n hf hp, fun hf hp => homeRead_sound n hf hp⟩
  case around =>
    intro a ha
    rw [homeWrite_mem, memByte_memWrite_ne _ _ _ _ _ ha]
  case whole =>
    intro ha hn
    rw [homeWrite_poison, if_pos ⟨ha, hn⟩]
    simp [lineOf]
  case part =>
    intro hn
    rw [homeWrite_poison, if_neg (by omega)]

/-! ### Below the L1, at the core's own die (R165) -/

theorem pow_256_eq (n : Nat) : 256 ^ n = 2 ^ (8 * n) := by
  rw [pow_mul]
  norm_num

/-- A store to a line homed on the die is at the home slice, whatever its policy. -/
theorem write_below_reads_back {w t : State} {d pa n v cp : Nat} {priv : Bool} (hd : homeDie pa = d)
    (h : (if cp = 2 then streamWrite w d pa priv n v else dieWrite w d pa n v) = (.ok (), t)) : memRead t.mem pa n = v % 2 ^ (8 * n) := by
  have hdie : ∀ u, dieWrite w d pa n v = (.ok (), u) → memRead u.mem pa n = v % 2 ^ (8 * n) := by
    intro u hu
    rw [dieWrite, if_pos hd] at hu
    cases hu
    rw [memRead_homeWrite, pow_256_eq]
  split at h
  · cases priv with
    | true => exact hdie t h
    | false =>
      rw [streamWrite, if_neg (by decide), hd, fencedFrom_self, if_neg (by decide)] at h
      cases h
      rw [memRead_homeWrite, pow_256_eq]
  · exact hdie t h

/-- A load of a line homed on the die, neither poisoned nor copied in the LLC, reads the home slice, whatever its policy. -/
theorem read_below {s : State} {d pa n cp : Nat} {priv : Bool} (hd : homeDie pa = d) (hp : s.poison.contains (lineOf pa) = false)
    (hc : llcCopy s d (lineOf pa) = none) :
    (if cp = 2 then streamRead s d pa priv n else dieRead s d pa n) = (.ok (memRead s.mem pa n), s) := by
  have hf : fencedFrom s d (homeDie pa) = false := by rw [hd, fencedFrom_self]
  have hdie : dieRead s d pa n = (.ok (memRead s.mem pa n), s) := by
    rw [dieRead, if_pos hd, homeRead_sound n hf hp]
  have hdrop : llcDrop s d (lineOf pa) = s := by
    unfold llcDrop
    rw [hc]
  split
  · cases priv with
    | true => exact hdie
    | false => rw [streamRead, if_neg (by decide), hdrop, homeRead_sound n hf hp]
  · exact hdie

theorem noteWrote_mem (x : Option Nat) (ln : Nat) (s : State) : (noteWrote x ln s).mem = s.mem := by
  unfold noteWrote
  split <;> rfl

theorem devLoad_beyond {s : State} {k pid va n cp : Nat} {p : Page} (hcp : cp ≠ 0) (hb : l1Bypass s k pid va = s)
    (ht : Machine.translate s (coreDie k) pid va .read = (.ok p, s)) (hd : homeDie p.pa = coreDie k)
    (hp : s.poison.contains (lineOf p.pa) = false) (hc : llcCopy s (coreDie k) (lineOf p.pa) = none) :
    devLoad s k pid cp va n = (.ok (memRead s.mem p.pa n), s) := by
  unfold devLoad
  simp only [if_neg hcp, hb, ht, read_below hd hp hc]

/-! ### A load after a store -/

/-- A bypass or streaming store to a line homed on the die is in memory, and has left the L1 as the bypass did. -/
theorem store_beyond_reads_back {s s1 w : State} {k pid cp va n v : Nat} {x : Option Nat} {p : Page} (hcp : cp ≠ 0)
    (h : devStore s k x pid cp va n v = (.ok (), s1))
    (htr : Machine.translate (l1Bypass s k pid va) (coreDie k) pid va .write = (.ok p, w)) (hd : homeDie p.pa = coreDie k) :
    memRead s1.mem p.pa n = v % 2 ^ (8 * n) ∧ l1View s1 = l1View (l1Bypass s k pid va) := by
  rw [devStore_beyond _ _ _ _ _ _ _ hcp] at h
  refine ⟨?_, storeBelow_l1View h⟩
  obtain ⟨p', w', t, htr', hwr, rfl⟩ := storeBelow_ok h
  cases htr.symm.trans htr'
  rw [noteWrote_mem]
  exact write_below_reads_back hd hwr

theorem loadAfterStoreOfDeviceMemory : Claims.LoadAfterStoreOfDeviceMemory := by
  intro k x pid cp va n v s s1 hn ha _ hst
  have hline := line_of_aligned hn ha
  refine ⟨?normal, ?held, ?written, ?beyond⟩
  case normal =>
    rintro rfl m l hm hl hp hs
    rcases devStore_normal hm hst with ⟨l0, hfind, hsl⟩ | ⟨_, hnone⟩
    · obtain rfl : L1Line.store l0 (some x) (va % 128) n v = l := Option.some.inj (hfind.symm.trans hl)
      rw [devLoad_present n ((l1Home_congr hsl k _).trans hm) hl hp hs]
      exact congrArg Except.ok (lineGet_linePut _ _ _ _ hline)
    · cases hnone.symm.trans hl
  case held =>
    rintro rfl hu hpoison
    rcases devStore_normal (l1Home_unfused hu _) hst with ⟨l0, hfind, _⟩ | ⟨he, _⟩
    · refine ⟨_, hfind, rfl, ?_⟩
      rw [← Nat.shiftRight_eq_div_pow]
      exact lineGet_linePut l0.bits _ _ _ hline
    · exact absurd he hpoison
  case written =>
    intro p w hcp htr hd _
    obtain ⟨hmem, hview⟩ := store_beyond_reads_back hcp hst htr hd
    exact ⟨hmem, fun hu => (l1Find_congr hview _ _ _).trans (l1Find_l1Bypass (l1Home_unfused hu _))⟩
  case beyond =>
    intro p w hcp htr htl hd _ hp hc hu
    obtain ⟨hmem, hview⟩ := store_beyond_reads_back hcp hst htr hd
    have hm := l1Home_unfused hu (lineOf va)
    have hslices := (sliceView_of_l1View hview).trans (l1Bypass_sliceView s k pid va)
    have hnone := (l1Find_congr hview _ _ _).trans (l1Find_l1Bypass hm)
    rw [devLoad_beyond hcp (l1Bypass_absent ((l1Home_congr hslices k _).trans hm) hnone) htl hd hp hc, hmem]

/-- Settles O22: a store is held in a line of the L1 or at the home slice, and the load finds it there. -/
theorem deviceMemoryReadsBack : Obligations.DeviceMemoryReadsBack :=
  ⟨loadAfterStoreOfDeviceMemory, homeSliceReadAfterWrite⟩

end Sys2Proof.Proofs
end

section
/-! PROOFS. How every word of the instruction stream is issued, and what a trap of the word itself leaves (O5, O6). -/

namespace Sys2Proof.Proofs

open Sys2Proof Sys2Proof.Machine Sys2Proof.Claims

/-! ### The issue of a word (R20, R38, R51) -/

/-- Every word but ILL is issued: reserved to context 7 where the statements say so, and looking at its guard but for BRK (R51, R78, R79). -/
theorem exec_issues (i : Instr) (hword : isWord i = true) (hill : i.opcode ≠ some 0x00) :
    ∃ eff, ∀ s, exec i s = issue i (Claims.reserved i) (i.opcode == some 0x02) eff s := by
  cases i
  any_goals (cases hword; done)
  case ill => exact absurd rfl hill
  all_goals
    constructor
    intro s
    delta exec
    dsimp only
  case mtsr.h => exact congrArg (fun b => issue _ b false _ s) (Bool.or_assoc _ _ _)
  any_goals
    simp only [execAdd, execSub, execMul, execMulh, execMulhn, execDiv, execDivn, execRem, execRemn, execAnd, execOr, execXor, execAndn,
      execShl, execShr, execSra, execRol, execClz, execCtz, execPopc, execMin, execMax, execMinn, execMaxn, execSext, execZext, execBfx,
      execBfi, execMovi, execMoviHi, execLea, execSel, execCmp, execPand, execPor, execPxor, execPnot, execPmov, scalarOp,
      execVadd, execVsub, execVmul, execVfma, execVfms, execVfnma, execVmin, execVmax, execVabs, execVneg, execViadd, execVisub,
      execVimul, execVimulh, execVimad, execVshl, execVshr, execVsra, execVand, execVor, execVxor, execVandn, execVpopc, execVclz,
      execVmov, execVperm, execVshuf, execVsel, execViota, execVsca, vecOp, execVdiv, execVsqrt, execVrcp, execVrsq, execVexp2,
      execVlog2, longVecOp, execVfcmp, execVicmp, predOp]
  all_goals rfl

/-! ### What an issue keeps (R20, R21, R449) -/

@[simp] theorem issued_mem (x : Nat) (h : Hdr) (s : State) : (issued x h s).mem = s.mem := by rw [issued_eq]
@[simp] theorem issued_reqs (x : Nat) (h : Hdr) (s : State) : (issued x h s).reqs = s.reqs := by rw [issued_eq]
@[simp] theorem issued_pkg (x : Nat) (h : Hdr) (s : State) : (issued x h s).pkg = s.pkg := by rw [issued_eq]
@[simp] theorem issued_clusters (x : Nat) (h : Hdr) (s : State) : (issued x h s).clusters = s.clusters := by rw [issued_eq]
@[simp] theorem issued_dies (x : Nat) (h : Hdr) (s : State) : (issued x h s).dies = s.dies := by rw [issued_eq]
@[simp] theorem issued_cur (x : Nat) (h : Hdr) (s : State) : (issued x h s).cur = s.cur := by rw [issued_eq]
@[simp] theorem issued_nextId (x : Nat) (h : Hdr) (s : State) : (issued x h s).nextId = s.nextId := by rw [issued_eq]
@[simp] theorem issued_migs (x : Nat) (h : Hdr) (s : State) : (issued x h s).migs = s.migs := by rw [issued_eq]
@[simp] theorem issued_poison (x : Nat) (h : Hdr) (s : State) : (issued x h s).poison = s.poison := by rw [issued_eq]
@[simp] theorem issued_freeCtr (x : Nat) (h : Hdr) (s : State) : (issued x h s).freeCtr = s.freeCtr := by rw [issued_eq]
@[simp] theorem issued_cmds (x : Nat) (h : Hdr) (s : State) : (issued x h s).cmds = s.cmds := by rw [issued_eq]
@[simp] theorem issued_recs (x : Nat) (h : Hdr) (s : State) : (issued x h s).recs = s.recs := by rw [issued_eq]
@[simp] theorem issued_evs (x : Nat) (h : Hdr) (s : State) : (issued x h s).evs = s.evs := by rw [issued_eq]

@[simp] theorem issued_core_supq (x : Nat) (h : Hdr) (s : State) (k : Nat) : ((issued x h s).core k).supq = (s.core k).supq := by
  rw [issued_core]
@[simp] theorem issued_core_supqKept (x : Nat) (h : Hdr) (s : State) (k : Nat) : ((issued x h s).core k).supqKept = (s.core k).supqKept := by
  rw [issued_core]
@[simp] theorem issued_core_spad (x : Nat) (h : Hdr) (s : State) (k : Nat) : ((issued x h s).core k).spad = (s.core k).spad := by
  rw [issued_core]
@[simp] theorem issued_core_icache (x : Nat) (h : Hdr) (s : State) (k : Nat) : ((issued x h s).core k).icache = (s.core k).icache := by
  rw [issued_core]

@[simp] theorem retire_core (x : Nat) (pc : Word) (sw : Bool) (tgt : Option Word) (s : State) (k : Nat) :
    (retire x pc sw tgt s).core k = s.core k := rfl
@[simp] theorem retire_mem (x : Nat) (pc : Word) (sw : Bool) (tgt : Option Word) (s : State) : (retire x pc sw tgt s).mem = s.mem := rfl

/-! ### What an issue leaves -/

/-- A state that differs from the one after the issue in the executing context alone keeps the others. -/
theorem othersKept_of_frame {h : Hdr} {s t : State} (hframe : t = { issued s.cur h s with ctxs := t.ctxs })
    (hothers : ∀ y, y ≠ s.cur → t.ctx y = (issued s.cur h s).ctx y) : OthersKept s t := by
  have hcores : t.cores = (issued s.cur h s).cores := by rw [hframe]
  refine ⟨fun y hy => ?_, fun k => ?_, ?_⟩
  · rw [hothers y hy]
    exact issued_ctx_ne _ _ _ _ hy
  · simp only [State.core, hcores]
    exact issued_core _ _ _ k
  · rw [hframe, issued_eq]

theorem othersKept_retire {h : Hdr} {s v : State} (pc : Word) (sw : Bool) (tgt : Option Word)
    (hframe : v = { issued s.cur h s with ctxs := v.ctxs }) (hothers : ∀ y, y ≠ s.cur → v.ctx y = (issued s.cur h s).ctx y) :
    OthersKept s (retire s.cur pc sw tgt v) := by
  refine othersKept_of_frame (h := h) ?_ fun y hy => ?_
  · rw [retire_frame, hframe]
  · rw [retire_ctx_ne _ _ _ _ _ _ hy, hothers y hy]

/-- A guard that does not pass leaves the context as the issue did, with the next PC and the marker (R38). -/
theorem leaves_of_guarded {i : Instr} {s : State} {sup : Bool} {eff : Nat → Ctx → State → Eff} (hexec : exec i s = issue i sup false eff s)
    (hready : (me s).run = .ready) (hsup : sup = false ∨ ctxNo s.cur = 7) (hguard : guardPasses i.hdr (me s) = false) :
    Leaves i i.hdr s (fallThrough (me s) (me s).pc) := by
  refine ⟨_, hexec.trans (issue_guarded i sup eff s hready hsup hguard), ?_, othersKept_retire _ _ _ rfl fun _ _ => rfl⟩
  have hself := issued_ctx_same s.cur i.hdr s
  rw [retire_ctx_same, hself, retire_eq_settled]
  rfl

/-! ### Traps of the word itself (R33, R34) -/

/-- An item that fits 16 bits is queued as it is, and wakes context 7 (R215). -/
theorem wakes_supPush {s u : State} {k typ data : Nat} (hdata : data < 65536) (hq : (u.core k).supq = (s.core k).supq)
    (hkept : (u.core k).supqKept = (s.core k).supqKept) : Wakes s (supPush k typ data u) k typ data := by
  refine ⟨(supPush_spec _ _ _ _).2.2, ?_⟩
  simp only [supPush, State.modCore_core_same, hq, Nat.mod_eq_of_lt hdata]
  split <;> simp [hkept]

theorem ctxNo_lt (x : Nat) : ctxNo x < 65536 := by
  have : ctxNo x = x % 8 := rfl
  omega

/-- The context in which a trap has been taken (R33). -/
def trappedCtx (p : TrapInfo) (c : Ctx) : Ctx :=
  { c with
    run := .stopped
    cause := BitVec.ofNat 64 p.cause
    epc := p.epc.getD c.pc
    fpc := p.fpc
    faddr := p.faddr.getD c.faddr
    finfo := p.finfo }

/-- Is a trap an error response that carries poison (R228). -/
abbrev poisonTrap (p : TrapInfo) : Prop := p.cause = 0x0C ∧ fld p.finfo 0 8 = 4 ∧ bitAt p.finfo 63 = false

theorem takeTrap_eq {x : Nat} {p : TrapInfo} (s : State) (hx : ctxNo x ≠ 7) (hp : ¬ poisonTrap p) :
    takeTrap x p s = supPush (coreOf x) 0 (ctxNo x) (s.modCtx x (trappedCtx p)) := takeTrap_user x p s hx hp

theorem takeTrap_ctx_same {x : Nat} {p : TrapInfo} (s : State) (hx : ctxNo x ≠ 7) (hp : ¬ poisonTrap p) :
    (takeTrap x p s).ctx x = trappedCtx p (s.ctx x) := by
  rw [takeTrap_eq s hx hp, supPush_ctx, State.modCtx_ctx_same]

/-- Taking a trap queues the item of its context (R33, R215). -/
theorem wakes_takeTrap {x : Nat} {p : TrapInfo} {s u : State} (hx : ctxNo x ≠ 7) (hp : ¬ poisonTrap p)
    (hq : (u.core (coreOf x)).supq = (s.core (coreOf x)).supq) (hkept : (u.core (coreOf x)).supqKept = (s.core (coreOf x)).supqKept) :
    Wakes s (takeTrap x p u) (coreOf x) 0 (ctxNo x) := by
  rw [takeTrap_eq u hx hp]
  exact wakes_supPush (ctxNo_lt _) hq hkept

/-- A synchronous trap of a user context, taken in a state that has moved the counts of the context alone, leaves what R33 says. -/
theorem trapped_takeTrap {s u : State} {cause : Nat} (faddr : Option Word) (finfo : Word) (huser : ctxNo s.cur ≠ 7) (hcause : cause ≠ 0x0C)
    (hself : u.ctx s.cur = { me s with icount := (u.ctx s.cur).icount, held := (u.ctx s.cur).held })
    (hq : (u.core (coreOf s.cur)).supq = (s.core (coreOf s.cur)).supq) (hkept : (u.core (coreOf s.cur)).supqKept = (s.core (coreOf s.cur)).supqKept)
    (hmem : u.mem = s.mem) :
    Trapped s (takeTrap s.cur (syncTrap cause (me s).pc faddr finfo) u) cause (me s).pc (me s).pc faddr finfo := by
  have hp : ¬ poisonTrap (syncTrap cause (me s).pc faddr finfo) := fun hpoison => hcause hpoison.1
  refine ⟨?_, wakes_takeTrap huser hp hq hkept, (takeTrap_mem _ _ _ huser hp).trans hmem⟩
  rw [takeTrap_ctx_same _ huser hp, hself]
  rfl

/-- A word that runs settles what its effect answers in the state after its issue. -/
theorem exec_ready {i : Instr} {h : Hdr} {sup always : Bool} {eff : Nat → Ctx → State → Eff} {s : State}
    (hexec : exec i s = issue i sup always eff s) (hh : i.hdr = h) (hready : (me s).run = .ready)
    (hguard : always = true ∨ guardPasses h (me s) = true) (hsup : sup = false ∨ ctxNo s.cur = 7)
    (hpacket : (me s).dual = none ∨ Instr.packet i = false) :
    exec i s = .next (settle s.cur (me s).pc h (eff s.cur ((issued s.cur h s).ctx s.cur) (issued s.cur h s))) := by
  subst hh
  exact hexec.trans (issue_ready i sup always eff s hready hsup hguard hpacket)

/-- A word whose effect is its own trap, with nothing moved but its issue, takes it (R34). -/
theorem traps_of_trap {i : Instr} {h : Hdr} {sup always : Bool} {eff : Nat → Ctx → State → Eff} {s : State} {cause : Nat} {faddr : Option Word}
    {finfo : Word} (hexec : exec i s = issue i sup always eff s) (hh : i.hdr = h) (hready : (me s).run = .ready)
    (hguard : always = true ∨ guardPasses h (me s) = true) (huser : ctxNo s.cur ≠ 7) (hsup : sup = false) (hcause : cause ≠ 0x0C)
    (hpacket : (me s).dual = none ∨ Instr.packet i = false)
    (heff : eff s.cur ((issued s.cur h s).ctx s.cur) (issued s.cur h s) = .trap (syncTrap cause (me s).pc faddr finfo) (issued s.cur h s)) :
    Traps i s cause faddr finfo := by
  refine ⟨_, exec_ready hexec hh hready hguard (.inl hsup) hpacket, ?_⟩
  rw [heff]
  have hself := issued_ctx_same s.cur h s
  exact trapped_takeTrap faddr finfo huser hcause (by rw [hself]) (by simp) (by simp) (by simp)

/-! ### Guards and reserved words (R34, R38, R51) -/

theorem failedGuardDoesNothing : Claims.FailedGuardDoesNothing := by
  intro i s hword hill hbrk hreserved hready hguard
  obtain ⟨eff, hexec⟩ := exec_issues i hword hill
  have halways : (i.opcode == some 0x02) = false := by simpa using hbrk
  rw [halways] at hexec
  have hsup : Claims.reserved i = false ∨ ctxNo s.cur = 7 := by
    cases hres : Claims.reserved i with
    | false => exact .inl rfl
    | true => exact .inr (hreserved hres)
  exact leaves_of_guarded (hexec s) hready hsup hguard

/-- A word that a user context may not execute is a word of the instruction stream, and not ILL. -/
theorem word_of_reserved {i : Instr} (h : Claims.reserved i = true) : isWord i = true ∧ i.opcode ≠ some 0x00 := by
  unfold Claims.reserved Instr.supervisorOnly at h
  split at h
  iterate 6 exact ⟨rfl, fun e => absurd (Option.some.inj e) (by decide)⟩
  split at h
  iterate 2 exact ⟨rfl, fun e => absurd (Option.some.inj e) (by decide)⟩
  cases h

theorem supervisorWordsTrapInUserContexts : Claims.SupervisorWordsTrapInUserContexts := by
  rintro i s hreserved ⟨hready, huser⟩
  obtain ⟨hword, hill⟩ := word_of_reserved hreserved
  obtain ⟨eff, hexec⟩ := exec_issues i hword hill
  rw [hreserved] at hexec
  exact ⟨_, (hexec s).trans (issue_reserved i _ eff s hready huser),
    trapped_takeTrap none 0 huser (by decide) rfl rfl rfl rfl⟩

/-- Settles O5: a word is issued in one way, which passes over it where its guard fails and traps it where it is reserved. -/
theorem guardsAndReservedWords : Obligations.GuardsAndReservedWords :=
  ⟨failedGuardDoesNothing, supervisorWordsTrapInUserContexts⟩

/-! ### ILL, BRK and TRAP (R78, R79, R81) -/

theorem exec_ill (raw : BitVec 88) (s : State) : exec (.ill raw) s = execIll raw s := by
  rfl

theorem exec_brk (h : Hdr) (f : Fields) (s : State) : exec (.brk h f) s = execBrk h f s := by
  rfl

theorem exec_trap (h : Hdr) (f : Fields) (s : State) : exec (.trap h f) s = execTrap h f s := by
  rfl

/-- An immediate of 40 bits as a word. -/
theorem setWidth_imm40 (v : BitVec 40) : v.setWidth 64 = BitVec.ofNat 64 v.toNat :=
  BitVec.eq_of_toNat_eq (by simp)

theorem brk_finfo (v : BitVec 40) : flag true 63 ||| v.setWidth 64 = BitVec.ofNat 64 (2 ^ 63 + v.toNat) := by
  rw [flag_eq_ofNat, setWidth_imm40, ofNat_or_ofNat 63 (by simp) (by have := v.isLt; omega)]
  rfl

theorem ill_traps (raw : BitVec 88) {s : State} (hready : UserReady s) : Traps (.ill raw) s 0x01 none 0 := by
  obtain ⟨hrun, huser⟩ := hready
  have hexec := exec_ill raw s
  rw [execIll, hrun] at hexec
  exact ⟨_, hexec, trapped_takeTrap none 0 huser (by decide) rfl rfl rfl rfl⟩

theorem brk_traps (h : Hdr) {f : Fields} {v : BitVec 40} {s : State} (hready : UserReady s) (hx : f.x = .i v) :
    Traps (.brk h f) s 0x09 none (BitVec.ofNat 64 (2 ^ 63 + v.toNat)) := by
  obtain ⟨hrun, huser⟩ := hready
  have hexec := exec_brk h f s
  rw [execBrk] at hexec
  refine traps_of_trap hexec rfl hrun (.inl rfl) huser rfl (by decide) (.inr rfl) ?_
  rw [issued_ctx_same, hx, ← brk_finfo]
  rfl

/-- What the trap of TRAP finds of its context once the word has retired (R81). -/
theorem retired_ctx (h : Hdr) (s : State) (sw : Bool) :
    let c := (retire s.cur (me s).pc sw none (issued s.cur h s)).ctx s.cur
    c.pc = (fallThrough (me s) (me s).pc).pc ∧ c.faddr = (me s).faddr ∧ c.stack = (me s).stack ∧ c.p = (me s).p ∧ c.v = (me s).v := by
  intro c
  have hc : c = Ctx.retire _ _ _ _ _ := retire_ctx_same _ _ _ _ _
  rw [issued_ctx_same] at hc
  refine ⟨?_, ?_, ?_, ?_, ?_⟩
  · rw [hc, Ctx.retire_pc_none, fallThrough_count]
  all_goals rw [hc, Ctx.retire_eq]

theorem trap_traps {h : Hdr} {f : Fields} {v : BitVec 40} {s : State} (hready : UserReady s) (hx : f.x = .i v)
    (hguard : guardPasses h (me s) = true) :
    exec (.trap h f) s = .next (takeTrap s.cur ⟨0x11, none, (me s).pc, none, BitVec.ofNat 64 v.toNat⟩
      (retire s.cur (me s).pc h.sw none (issued s.cur h s))) := by
  have hpc : ((issued s.cur h s).ctx s.cur).pc = (me s).pc := by rw [issued_ctx_same]
  have hexec := exec_trap h f s
  rw [execTrap] at hexec
  rw [exec_ready (h := h) hexec rfl hready.1 (.inr hguard) (.inl rfl) (.inr rfl), settle, hpc, hx, ← setWidth_imm40]
  rfl

/-- Settles O6: ILL and BRK are their own traps, and the trap of TRAP is taken after the word has retired. -/
theorem trapWordsTakeTheirTraps : Obligations.TrapWordsTakeTheirTraps := by
  intro h f raw v s hready hx
  refine ⟨ill_traps raw hready, brk_traps h hready hx, fun hguard => ⟨_, trap_traps hready hx hguard, ?_⟩⟩
  obtain ⟨hpc, hfaddr, hstack, hp, hv⟩ := retired_ctx h s h.sw
  have hpoison : ¬ poisonTrap ⟨0x11, none, (me s).pc, none, BitVec.ofNat 64 v.toNat⟩ := fun hpo => absurd (show 0x11 = 0x0C from hpo.1) (by decide)
  intro d
  have hd : d = trappedCtx _ _ := takeTrap_ctx_same _ hready.2 hpoison
  rw [hd]
  exact ⟨rfl, rfl, hpc, rfl, hfaddr, rfl, hstack, hp, hv, wakes_takeTrap hready.2 hpoison (by simp) (by simp),
    (takeTrap_mem _ _ _ hready.2 hpoison).trans (by simp)⟩

end Sys2Proof.Proofs
end

section
/-! PROOFS. A step of the machine runs the instruction that its context's bytes decode to (O57). -/

namespace Sys2Proof.Proofs

open Sys2Proof Sys2Proof.Machine Sys2Proof.Claims

/-- The instruction that a context issues next, where no breakpoint takes its place, is what the fetched bytes decode to (R37, R51). -/
theorem nextInstr_fetched {x : Nat} {p u : State} {w : BitVec 96} (hbreak : ctxNo x = 7 ∨ breakpointAt (p.ctx x) (p.ctx x).pc = none)
    (hfetch : fetchFor p x = (.ok w, u)) :
    nextInstr x p = match decodeWord w with
      | .ok i => (.ok i, u)
      | .error .ill => (.error (syncTrap 0x01 (p.ctx x).pc none 0), u)
      | .error .unassigned => (.error (syncTrap 0x01 (p.ctx x).pc none 0), u)
      | .error _ => (.error (syncTrap 0x02 (p.ctx x).pc none 0), u) := by
  have hnone : (if ctxNo x = 7 then none else breakpointAt (p.ctx x) (p.ctx x).pc) = none := by
    rcases hbreak with h | h
    · exact if_pos h
    · simp [h]
  unfold nextInstr
  simp only [hnone, hfetch] <;> rfl

/-- A Ready context with nothing pending issues: its slot is used up (R20, R33). -/
theorem issues_of_ready {x : Nat} {p : State} (hready : (p.ctx x).run = .ready) (htrap : boundaryTrap x p = none) : issues p x = true := by
  simp [issues, midway, hready, htrap]

theorem runContext_ready {x : Nat} {p : State} (hready : (p.ctx x).run = .ready) (htrap : boundaryTrap x p = none) :
    runContext x p = issueNext x p := by
  simp only [runContext, htrap, hready]

/-- The slot of a core goes to the context that the statement calls chosen (R21). -/
theorem slotTurn_chosen {s p : State} {k x : Nat} (hchosen : Claims.Chosen s k x p) (hready : (p.ctx x).run = .ready)
    (htrap : boundaryTrap x p = none) : slotTurn k s = issueNext x p := by
  obtain ⟨hk, hclock, hdroop, hx⟩ := hchosen
  have hissues := issues_of_ready hready htrap
  rw [slotTurn, if_neg (by omega), if_neg (by rw [hclock]; decide), if_neg (by rw [hdroop]; decide), ← runContext_ready hready htrap]
  dsimp only
  rcases hx with ⟨hsel, hx, hp⟩ | ⟨hsel, hduty, hpick, hp⟩
  · rw [if_pos hsel, ← hx, ← hp, if_pos hissues]
  · rw [if_neg (by rw [hsel]; decide), if_neg hduty, userSlot, ← pickUser, hpick, ← hp]
    exact if_pos hissues

theorem step_nil {s : State} (h : s.agenda = []) : step s = slotTurn s.focus s := by
  simp only [step, turn, h]

theorem step_slot {s : State} {k : Nat} {rest : List Turn} (h : s.agenda = .slot k :: rest) : step s = slotTurn k { s with agenda := rest } := by
  simp only [step, turn, h]

/-- A step of the machine is no word of the instruction stream. -/
theorem isWord_of_opcode_none {i : Instr} (h : i.opcode = none) : isWord i = false := by
  unfold isWord
  split
  · cases h
  · rw [h]; rfl

/-- What an issue of the fetched bytes does: the instruction they decode to, or the trap of the word that they do not make. -/
theorem issueNext_fetched {x : Nat} {p u : State} {w : BitVec 96} (hthrottle : (p.ctx x).pendThrottle = none)
    (hbreak : ctxNo x = 7 ∨ breakpointAt (p.ctx x) (p.ctx x).pc = none) (hfetch : fetchFor p x = (.ok w, u)) :
    issueNext x p = match decodeWord w with
      | .ok i => exec i { u with cur := x }
      | .error .ill => .next (takeTrap x (syncTrap 0x01 (p.ctx x).pc none 0) u)
      | .error .unassigned => .next (takeTrap x (syncTrap 0x01 (p.ctx x).pc none 0) u)
      | .error _ => .next (takeTrap x (syncTrap 0x02 (p.ctx x).pc none 0) u) := by
  unfold issueNext
  rw [nextInstr_fetched hbreak hfetch, hthrottle]
  cases decodeWord w with
  | ok i => rfl
  | error e => cases e <;> rfl

/-- Settles O57: the agenda's head says what a step does, and a slot's context issues what it fetches. -/
theorem aStepRunsTheDecodedInstruction : Obligations.AStepRunsTheDecodedInstruction := by
  intro s p u k x n w i rest s1 ready
  refine ⟨fun hslot hrun => ?_, fun hnil hrest hfocus hrun hok => ?_, fun hnone => ?_, fun huser => ?_, fun hevent hop => ?_, fun htick => ?_,
    fun hslot hk => ?_⟩
  · obtain ⟨hchosen, hready, htrap, hthrottle, hbreak, hfetch⟩ := hrun
    rw [step_slot hslot, slotTurn_chosen hchosen hready htrap, issueNext_fetched hthrottle hbreak hfetch]
    refine ⟨fun h => ?_, fun h => ?_, ?_⟩
    · rw [h]
    · rw [h]
    · rintro (h | h | h | h) <;> rw [h]
  · obtain ⟨hchosen, hready, htrap, hthrottle, hbreak, hfetch⟩ := hrun
    have hs : s1 = s := by simp only [s1, hrest, ← hnil]
    rw [hs] at hchosen
    rw [step_nil hnil, hfocus, slotTurn_chosen hchosen hready htrap, issueNext_fetched hthrottle hbreak hfetch, hok]
  · simp only [fetchFor, hnone]
  · simp only [withyBytes, huser, ne_eq, not_false_eq_true, true_or, if_true]
  · simp only [step, turn, hevent, isWord_of_opcode_none hop, Bool.false_eq_true, if_false, s1]
  · simp only [step, turn, htick]
    rfl
  · simp only [step_slot hslot, slotTurn, hk, if_true]

end Sys2Proof.Proofs
end

section
/-! PROOFS. What the operations on device memory, its caches and its translation leave of a state: all that neither the answer to a request, nor
a line of an L1, nor the marks of held threads, nor an item of a supervisor queue touches. -/

namespace Sys2Proof.Proofs

open Sys2Proof Sys2Proof.Machine Sys2Proof.Claims

/-- What is read of a state does not change with what an access of device memory changes: the state beyond the cores, the answers to requests, the
marks of held threads, the items of the supervisor queues, the lines of the L1s, and the lines that a thread has written. -/
structure Quiet {α : Type} (p : State → α) : Prop where
  beyond : ∀ (s : State) (m : List Host.Cell) (bad : List Nat) (ds : SMap Die) (pk : Package) (n : Nat),
    p { s with mem := m, poison := bad, dies := ds, pkg := pk, freeCtr := n } = p s
  reply : ∀ (r : Req) (v : LongVal) (s : State), p (replyReq r v s) = p s
  mark : ∀ (hit : Home → Bool) (s : State), p (markHeld hit s) = p s
  push : ∀ (k typ data : Nat) (s : State), p (supPush k typ data s) = p s
  lines : ∀ (s : State) (k : Nat) (g : List L1Line → List L1Line), p (s.modCore k fun c => { c with l1 := g c.l1 }) = p s
  wrote : ∀ (s : State) (x ln : Nat), p (s.modCtx x fun c => { c with wrote := insertLine c.wrote ln }) = p s

section
variable {α : Type} {p : State → α} (hp : Quiet p)
include hp

/-! ### Home slices and the LLC (R165, R347, R348) -/

theorem modDie_quiet (s : State) (d : Nat) (g : Die → Die) : p (s.modDie d g) = p s := hp.beyond s s.mem s.poison _ s.pkg s.freeCtr

theorem modPkg_quiet (s : State) (g : Package → Package) : p (s.modPkg g) = p s := hp.beyond s s.mem s.poison s.dies _ s.freeCtr

theorem modMem_quiet (s : State) (m : List Host.Cell) (bad : List Nat) : p { s with mem := m, poison := bad } = p s :=
  hp.beyond s m bad s.dies s.pkg s.freeCtr

theorem serveAt_quiet (e : Option Nat) (pa n : Nat) (s : State) : p (serveAt e pa n s) = p s := by
  unfold serveAt
  dsimp only
  rw [hp.mark]
  split
  · rfl
  · rw [foldl_keeps p _ fun _ _ => hp.reply _ _ _, modDie_quiet hp]

theorem serveMask_quiet (e : Option Nat) (ln : Nat) (mask : BitVec 128) (s : State) : p (serveMask e ln mask s) = p s := by
  unfold serveMask
  apply foldl_keeps p
  intro t i
  split
  · rfl
  · exact serveAt_quiet hp _ _ _ _

theorem homeWrite_quiet (s : State) (pa n v : Nat) : p (homeWrite s pa n v) = p s :=
  (serveAt_quiet hp _ _ _ _).trans (modMem_quiet hp _ _ _)

theorem homeMerge_quiet (s : State) (ln : Nat) (bits : LineBits) (mask : BitVec 128) : p (homeMerge s ln bits mask) = p s :=
  (serveMask_quiet hp _ _ _ _).trans (modMem_quiet hp _ _ _)

theorem poisonLine_quiet (s : State) (pa : Nat) : p (poisonLine s pa) = p s := modMem_quiet hp s s.mem _

theorem llcDrop_quiet (s : State) (d ln : Nat) : p (llcDrop s d ln) = p s := by
  unfold llcDrop
  split
  · rfl
  · dsimp only
    split
    · exact modDie_quiet hp _ _ _
    · split
      · rw [poisonLine_quiet hp, homeMerge_quiet hp, modDie_quiet hp]
      · rw [homeMerge_quiet hp, modDie_quiet hp]

theorem llcClean_quiet (s : State) (d ln : Nat) : p (llcClean s d ln) = p s := by
  unfold llcClean
  split
  · rfl
  · split
    · exact llcDrop_quiet hp _ _ _
    · rw [modDie_quiet hp, llcDrop_quiet hp]

theorem llcInstall_quiet (s : State) (d ln : Nat) (l : LlcLine) : p (llcInstall s d ln l) = p s := by
  unfold llcInstall
  dsimp only
  rw [modDie_quiet hp]
  split
  · split
    · exact llcDrop_quiet hp _ _ _
    · rfl
  · rfl

theorem llcFill_quiet (s : State) (d ln : Nat) : p (llcFill s d ln).2 = p s := by
  unfold llcFill
  split
  · split
    · rfl
    · split
      · split
        · rfl
        · dsimp only
          exact modDie_quiet hp _ _ _
      · rfl
  · split
    · rfl
    · exact llcInstall_quiet hp _ _ _ _

theorem dieRead_quiet (s : State) (d pa n : Nat) : p (dieRead s d pa n).2 = p s := by
  unfold dieRead
  split
  · rfl
  · have hf := llcFill_quiet hp s d (lineOf pa)
    split <;> (next he => rw [he] at hf; exact hf)

theorem dieMerge_quiet (s : State) (d ln : Nat) (bits : LineBits) (mask : BitVec 128) : p (dieMerge s d ln bits mask).2 = p s := by
  unfold dieMerge
  split
  · exact homeMerge_quiet hp _ _ _ _
  · have hfill : p (if (mask == BitVec.allOnes 128) = true then s else (llcFill s d ln).2) = p s := by
      split
      · rfl
      · exact llcFill_quiet hp _ _ _
    dsimp only
    split
    · rw [serveMask_quiet hp, modDie_quiet hp]
      exact hfill
    · split
      · rfl
      · rw [serveMask_quiet hp, llcInstall_quiet hp]
        exact hfill

theorem dieWrite_quiet (s : State) (d pa n v : Nat) : p (dieWrite s d pa n v).2 = p s := by
  unfold dieWrite
  split
  · exact homeWrite_quiet hp _ _ _ _
  · exact dieMerge_quiet hp _ _ _ _ _

theorem streamRead_quiet (s : State) (d pa : Nat) (priv : Bool) (n : Nat) : p (streamRead s d pa priv n).2 = p s := by
  unfold streamRead
  split
  · exact dieRead_quiet hp _ _ _ _
  · exact llcDrop_quiet hp _ _ _

theorem streamWrite_quiet (s : State) (d pa : Nat) (priv : Bool) (n v : Nat) : p (streamWrite s d pa priv n v).2 = p s := by
  unfold streamWrite
  split
  · exact dieWrite_quiet hp _ _ _ _ _
  · split
    · rfl
    · exact (homeWrite_quiet hp _ _ _ _).trans (llcDrop_quiet hp _ _ _)

/-! ### Translation (R350 to R354) -/

theorem walkRead_quiet (s : State) (d pa : Nat) : p (walkRead s d pa).2 = p s := by
  unfold walkRead
  split
  · rfl
  · have hf := streamRead_quiet hp s d pa false 8
    split <;> (next he => rw [he] at hf; exact hf)

theorem walkWords_quiet (s : State) (d pa n : Nat) : p (walkWords s d pa n).2 = p s := by
  induction n generalizing s pa with
  | zero => rfl
  | succ n ih =>
    unfold walkWords
    have hf := walkRead_quiet hp s d pa
    split
    · next he => rw [he] at hf; exact hf
    · next v s1 he =>
      rw [he] at hf
      have hw := (ih s1 (pa + 8)).trans hf
      split <;> (next hg => rw [hg] at hw; exact hw)

theorem walkFrom_quiet (s : State) (d va level table : Nat) : p (walkFrom s d va level table).2 = p s := by
  induction level generalizing s table with
  | zero =>
    unfold walkFrom
    have hf := walkRead_quiet hp s d (entryAddr table 0 va)
    split
    · next he => rw [he] at hf; exact hf
    · next he =>
      rw [he] at hf
      split <;> exact hf
  | succ n ih =>
    unfold walkFrom
    have hf := walkRead_quiet hp s d (entryAddr table (n + 1) va)
    split
    · next he => rw [he] at hf; exact hf
    · next he =>
      rw [he] at hf
      split
      · exact hf
      · exact (ih _ _).trans hf
      · exact hf

theorem readDesc_quiet (s : State) (d pid : Nat) : p (readDesc s d pid).2 = p s := by
  unfold readDesc
  have hf := walkWords_quiet hp s d (descAddr s d pid) 8
  split
  · next he =>
    rw [he] at hf
    split <;> exact hf
  · next he => rw [he] at hf; exact hf

theorem walk_quiet (s : State) (d pid va : Nat) : p (walk s d pid va).2 = p s := by
  have hdesc := readDesc_quiet hp s d pid
  unfold walk
  split
  · next he => rw [he] at hdesc; exact hdesc
  · next he => rw [he] at hdesc; exact (walkFrom_quiet hp _ _ _ _ _).trans hdesc

theorem translate_quiet (s : State) (d pid va : Nat) (acc : Acc) : p (Machine.translate s d pid va acc).2 = p s := by
  unfold Machine.translate
  split
  · rfl
  · have hf := walk_quiet hp s d pid va
    split
    · next he => rw [he] at hf; exact hf
    · next he =>
      rw [he] at hf
      split
      · exact hf
      · dsimp only
        split
        · dsimp only
          exact (modDie_quiet hp _ _ _).trans hf
        · exact hf

/-! ### Error records (R358 to R362) -/

theorem machineCheck_quiet (d b : Nat) (e : ErrRec) (s : State) : p (machineCheck d b e s) = p s := by
  unfold machineCheck
  split
  · unfold sendVector
    rw [modPkg_quiet hp, hp.push, modPkg_quiet hp]
  · rfl

theorem postErrorOpen_quiet (d b : Nat) (e : ErrRec) (s : State) : p (postErrorOpen d b e s) = p s := by
  have hfree : ∀ n, p { s with freeCtr := n } = p s := fun n => hp.beyond s s.mem s.poison s.dies s.pkg n
  unfold postErrorOpen postError
  dsimp only [State.free]
  rw [machineCheck_quiet hp, modDie_quiet hp, hfree]

/-! ### The L1s (R164, R237, R355, R363) -/

theorem l1Put_quiet (s : State) (m : Nat) (l : L1Line) : p (l1Put s m l) = p s :=
  hp.lines s m fun ls => (ls.filter fun e => !(e.pid == l.pid && e.vln == l.vln)) ++ [l]

theorem l1Remove_quiet (s : State) (m pid vln : Nat) : p (l1Remove s m pid vln) = p s :=
  hp.lines s m fun ls => ls.filter fun l => !(l.pid == pid && l.vln == vln)

theorem l1Poisoned_quiet (s : State) (m : Nat) (l : L1Line) (pa : Nat) : p (l1Poisoned s m l pa) = p s := by
  have hdrop : ∀ mem, p (poisonLine { llcDrop s (coreDie m) (lineOf pa) with mem := mem } pa) = p s := fun mem => by
    rw [poisonLine_quiet hp, modMem_quiet hp, llcDrop_quiet hp]
  unfold l1Poisoned
  dsimp only
  split
  · rw [hp.push, postErrorOpen_quiet hp, hdrop]
  · rw [postErrorOpen_quiet hp, hdrop]

theorem l1WriteBack_quiet (s : State) (m : Nat) (l : L1Line) : p (l1WriteBack s m l) = p s := by
  unfold l1WriteBack
  have ht := translate_quiet hp s (coreDie m) l.pid (128 * l.vln) .read
  split
  · rfl
  · split
    · next he => rw [he] at ht; rw [postErrorOpen_quiet hp]; exact ht
    · next he =>
      rw [he] at ht
      split
      · exact (l1Poisoned_quiet hp _ _ _ _).trans ht
      · exact (dieMerge_quiet hp _ _ _ _ _).trans ht

theorem l1Flush_quiet (s : State) (m pid vln : Nat) : p (l1Flush s m pid vln) = p s := by
  unfold l1Flush
  split
  · rfl
  · rw [l1Remove_quiet hp, l1WriteBack_quiet hp]

theorem l1Clean_quiet (s : State) (m pid vln : Nat) : p (l1Clean s m pid vln) = p s := by
  unfold l1Clean
  split
  · rfl
  · split
    · rw [l1Remove_quiet hp, l1WriteBack_quiet hp]
    · rw [l1Put_quiet hp, l1WriteBack_quiet hp]

theorem l1Install_quiet (s : State) (m : Nat) (l : L1Line) : p (l1Install s m l) = p s := by
  unfold l1Install
  split
  · split
    · rw [l1Put_quiet hp, l1Flush_quiet hp]
    · exact l1Put_quiet hp _ _ _
  · exact l1Put_quiet hp _ _ _

theorem l1Bypass_quiet (s : State) (k pid va : Nat) : p (l1Bypass s k pid va) = p s := by
  unfold l1Bypass
  split
  · exact l1Flush_quiet hp _ _ _ _
  · rfl

theorem l1Fill_quiet (s : State) (m pid vln : Nat) (acc : Acc) : p (l1Fill s m pid vln acc).2 = p s := by
  have hfill : ∀ old : Option L1Line, p (match Machine.translate s (coreDie m) pid (128 * vln) acc with
      | (.error e, s1) => ((.error (.xlate e), s1) : Except AccErr L1Line × State)
      | (.ok q, s1) =>
        match dieRead s1 (coreDie m) q.pa 128 with
        | (.error e, s2) => (.error (.resp e), s2)
        | (.ok v, s2) =>
          match old with
          | some l =>
            (.ok { l with bits := lineMerge (BitVec.ofNat 1024 v) l.bits l.dirty, wOk := q.w, stale := false },
              l1Put s2 m { l with bits := lineMerge (BitVec.ofNat 1024 v) l.bits l.dirty, wOk := q.w, stale := false })
          | none =>
            (.ok ⟨pid, vln, BitVec.ofNat 1024 v, 0, q.w, false, none, [], false⟩,
              l1Install s2 m ⟨pid, vln, BitVec.ofNat 1024 v, 0, q.w, false, none, [], false⟩)).2 = p s := by
    intro old
    have ht := translate_quiet hp s (coreDie m) pid (128 * vln) acc
    split
    · next he => rw [he] at ht; exact ht
    · next q s1 he =>
      rw [he] at ht
      have hr := (dieRead_quiet hp s1 (coreDie m) q.pa 128).trans ht
      split
      · next hd => rw [hd] at hr; exact hr
      · next hd =>
        rw [hd] at hr
        split
        · exact (l1Put_quiet hp _ _ _).trans hr
        · exact (l1Install_quiet hp _ _ _).trans hr
  unfold l1Fill
  dsimp only
  split
  · split
    · have ht := translate_quiet hp s (coreDie m) pid (128 * vln) .write
      split <;> (next he => rw [he] at ht; exact ht)
    · split
      · exact hfill (some _)
      · rfl
  · exact hfill none

theorem devLoad_quiet (s : State) (k pid cp va n : Nat) : p (devLoad s k pid cp va n).2 = p s := by
  unfold devLoad
  split
  · next m _ =>
    have hf := l1Fill_quiet hp s m pid (lineOf va) .read
    split <;> (next he => rw [he] at hf; exact hf)
  · dsimp only
    have ht := (translate_quiet hp (l1Bypass s k pid va) (coreDie k) pid va .read).trans (l1Bypass_quiet hp s k pid va)
    split
    · next he => rw [he] at ht; exact ht
    · next q s1 he =>
      rw [he] at ht
      have hr : p (if cp = 2 then streamRead s1 (coreDie k) q.pa q.priv n else dieRead s1 (coreDie k) q.pa n).2 = p s := by
        split
        · exact (streamRead_quiet hp _ _ _ _ _).trans ht
        · exact (dieRead_quiet hp _ _ _ _).trans ht
      split <;> (next hd => rw [hd] at hr; exact hr)

theorem noteWrote_quiet (x : Option Nat) (ln : Nat) (s : State) : p (noteWrote x ln s) = p s := by
  unfold noteWrote
  split
  · exact hp.wrote _ _ _
  · rfl

theorem storeBelow_quiet (s : State) (k : Nat) (x : Option Nat) (pid cp va n v : Nat) : p (storeBelow s k x pid cp va n v).2 = p s := by
  unfold storeBelow
  have ht := translate_quiet hp s (coreDie k) pid va .write
  split
  · next he => rw [he] at ht; exact ht
  · next q s1 he =>
    rw [he] at ht
    have hw : p (if cp = 2 then streamWrite s1 (coreDie k) q.pa q.priv n v else dieWrite s1 (coreDie k) q.pa n v).2 = p s := by
      split
      · exact (streamWrite_quiet hp _ _ _ _ _ _).trans ht
      · exact (dieWrite_quiet hp _ _ _ _ _).trans ht
    split
    · next hd => rw [hd] at hw; exact hw
    · next hd => rw [hd] at hw; exact (noteWrote_quiet hp _ _ _).trans hw

theorem devStore_quiet (s : State) (k : Nat) (x : Option Nat) (pid cp va n v : Nat) : p (devStore s k x pid cp va n v).2 = p s := by
  unfold devStore
  dsimp only
  split
  · next m _ =>
    have hf := l1Fill_quiet hp s m pid (lineOf va) .write
    split
    · next s1 he => rw [he] at hf; exact (storeBelow_quiet hp s1 k x pid cp va n v).trans hf
    · next he => rw [he] at hf; exact hf
    · next he =>
      rw [he] at hf
      rw [noteWrote_quiet hp, l1Put_quiet hp]
      exact hf
  · exact (storeBelow_quiet hp (l1Bypass s k pid va) k x pid cp va n v).trans (l1Bypass_quiet hp s k pid va)

/-! ### Points of coherence (R180 to R182) -/

omit hp in
theorem overRanges_quiet (d pid : Nat) (rs : List (Nat × Nat)) (g : Nat → State → State) (hg : ∀ ln t, p (g ln t) = p t) (s : State) :
    p (overRanges d pid rs g s) = p s := by
  unfold overRanges
  apply foldl_keeps p
  intro t r
  split
  · rfl
  · apply foldl_keeps p
    intro u i
    dsimp only
    split
    · rfl
    · split
      · split
        · rfl
        · exact hg _ _
      · rfl

theorem releaseLines_quiet (s : State) (k pid sc : Nat) (ranges : Option (List (Nat × Nat))) : p (releaseLines s k pid sc ranges) = p s := by
  have hl1 : p ((l1Cores s k).foldl (fun t m =>
      ((t.core m).l1.filter fun l => lineIn ranges l.vln).foldl (fun u l => l1Clean u m l.pid l.vln) t) s) = p s :=
    foldl_keeps p _ (fun _ _ => foldl_keeps p _ (fun _ _ => l1Clean_quiet hp _ _ _ _) _ _) _ _
  unfold releaseLines
  dsimp only
  split
  · split
    · split
      · rw [foldl_keeps p _ fun _ _ => llcClean_quiet hp _ _ _, hl1]
      · rw [overRanges_quiet _ _ _ _ fun _ _ => llcClean_quiet hp _ _ _, hl1]
    · exact hl1
  · rfl

theorem llcAcquire_quiet (d ln : Nat) (s : State) : p (llcAcquire d ln s) = p s := by
  unfold llcAcquire
  split
  · rfl
  · exact modDie_quiet hp _ _ _

theorem acquireLines_quiet (s : State) (k pid sc : Nat) (ranges : Option (List (Nat × Nat))) : p (acquireLines s k pid sc ranges) = p s := by
  have hl1 : p ((l1Cores s k).foldl (fun t m => t.modCore m fun c =>
      { c with l1 := c.l1.filterMap fun l => if lineIn ranges l.vln then l.acquired else some l }) s) = p s :=
    foldl_keeps p _ (fun t m => hp.lines t m fun ls => ls.filterMap fun l => if lineIn ranges l.vln then l.acquired else some l) _ _
  unfold acquireLines
  dsimp only
  split
  · split
    · split
      · rw [foldl_keeps p _ fun _ _ => llcAcquire_quiet hp _ _ _, hl1]
      · rw [overRanges_quiet _ _ _ _ fun _ _ => llcAcquire_quiet hp _ _ _, hl1]
    · exact hl1
  · rfl

theorem acquireObj_quiet (s : State) (k pid sc obj : Nat) : p (acquireObj s k pid sc obj) = p s := by
  unfold acquireObj
  split
  · rfl
  · exact acquireLines_quiet hp _ _ _ _ _

theorem finishReq_quiet (r : Req) (v : LongVal) (s : State) : p (finishReq r v s) = p s := by
  unfold finishReq
  dsimp only
  rw [hp.reply]
  split
  · split
    · rfl
    · exact acquireObj_quiet hp _ _ _ _ _
  · rfl

/-! ### Requests at a slice (R165, R167, R183) -/

theorem ownCopies_quiet (r : Req) (s : State) : p (ownCopies r s) = p s := by
  unfold ownCopies
  dsimp only
  split
  · rw [llcDrop_quiet hp, l1Bypass_quiet hp]
  · exact l1Bypass_quiet hp _ _ _ _

theorem sliceRead_quiet (s : State) (d : Nat) (h : Home) (n : Nat) : p (sliceRead s d h n).2 = p s := by
  unfold sliceRead
  split
  · rfl
  · exact dieRead_quiet hp _ _ _ _
  · rfl

theorem sliceWrite_quiet (s : State) (h : Home) (n v : Nat) : p (sliceWrite s h n v) = p s := by
  unfold sliceWrite
  split
  · exact homeWrite_quiet hp _ _ _ _
  · exact dieWrite_quiet hp _ _ _ _ _
  · rfl

theorem sliceDo_quiet {r : Req} {s t : State} (h : sliceDo r s = .ok t) : p t = p s := by
  have hr := (sliceRead_quiet hp (ownCopies r s) (coreDie r.src) r.home r.size).trans (ownCopies_quiet hp r s)
  unfold sliceDo at h
  dsimp only at h
  split at h
  · next he =>
    rw [he] at hr
    cases h
    exact (finishReq_quiet hp _ _ _).trans hr
  · next he =>
    rw [he] at hr
    split at h
    · cases h
      rw [finishReq_quiet hp, sliceWrite_quiet hp]
      exact hr
    · split at h
      · cases h
        exact (finishReq_quiet hp _ _ _).trans hr
      · split at h
        · cases h
          exact (modDie_quiet hp _ _ _).trans hr
        · cases h

end

end Sys2Proof.Proofs
end

section
/-! PROOFS. Contexts and cores as an access of device memory leaves them. -/

namespace Sys2Proof.Proofs

open Sys2Proof Sys2Proof.Machine Sys2Proof.Claims

/-- A run state without the answer that a wait may have. -/
def unanswered (r : RunState) : RunState :=
  match r with
  | .waiting w => .waiting { w with reply := none }
  | r => r

/-- A context without what an access of device memory may change of it. -/
def stillCtx (c : Ctx) : Ctx := { c with run := unanswered c.run, outstanding := [], pend := [], vstFails := [], wrote := [] }

/-- A core without what an access of device memory may change of it. -/
def stillCore (c : Core) : Core := { c with l1 := [], heldList := [], supq := [], supqKept := [], asleep := false, sleepAt := none }

/-- What a change of a context keeps, every context keeps. -/
theorem modCtx_keeps {α : Type} (p : Ctx → α) (s : State) (x : Nat) (g : Ctx → Ctx) (hg : ∀ c, p (g c) = p c) (y : Nat) :
    p ((s.modCtx x g).ctx y) = p (s.ctx y) := by
  rw [State.modCtx_ctx]
  split
  · next h => rw [h, hg]
  · rfl

theorem postTrap_stillCtx (x y : Nat) (t : TrapInfo) (s : State) : stillCtx ((postTrap x t s).ctx y) = stillCtx (s.ctx y) := by
  unfold postTrap
  apply foldl_keeps fun u => stillCtx (u.ctx y)
  intro _ _
  apply modCtx_keeps stillCtx
  intro _
  rfl

theorem vstSettle_stillCtx (x g y : Nat) (s : State) : stillCtx ((vstSettle x g s).ctx y) = stillCtx (s.ctx y) := by
  unfold vstSettle
  split
  · rfl
  · split
    · rw [postTrap_stillCtx, modCtx_keeps stillCtx]
      intro c
      rfl
    · rfl

theorem vstFail_stillCtx (x g e y : Nat) (t : TrapInfo) (s : State) : stillCtx ((vstFail x g e t s).ctx y) = stillCtx (s.ctx y) := by
  unfold vstFail
  apply modCtx_keeps stillCtx
  intro c
  split
  · split <;> rfl
  · rfl

/-- An answer to a request ends a wait, fills a long result or posts a trap: it changes no register (R24, R35). -/
theorem replyReq_stillCtx (r : Req) (v : LongVal) (s : State) (y : Nat) : stillCtx ((replyReq r v s).ctx y) = stillCtx (s.ctx y) := by
  unfold replyReq
  split
  · apply foldl_keeps fun u => stillCtx (u.ctx y)
    intro t z
    apply modCtx_keeps stillCtx
    intro c
    cases hrun : c.run <;> simp [stillCtx, unanswered, hrun]
  · split
    · unfold fillLong
      apply foldl_keeps fun u => stillCtx (u.ctx y)
      intro _ _
      apply modCtx_keeps stillCtx
      intro _
      rfl
    · split
      · exact postTrap_stillCtx _ _ _ _
      · rfl
      · rw [vstSettle_stillCtx, vstFail_stillCtx]
      · exact vstSettle_stillCtx _ _ _ _

/-- What is computed from something quiet is quiet. -/
theorem Quiet.comp {α β : Type} {p : State → α} (hp : Quiet p) (g : α → β) : Quiet fun s => g (p s) where
  beyond s m bad ds pk n := congrArg g (hp.beyond s m bad ds pk n)
  reply r v s := congrArg g (hp.reply r v s)
  mark hit s := congrArg g (hp.mark hit s)
  push k typ data s := congrArg g (hp.push k typ data s)
  lines s k f := congrArg g (hp.lines s k f)
  wrote s x ln := congrArg g (hp.wrote s x ln)

theorem quiet_stillCtx (x : Nat) : Quiet fun s => stillCtx (s.ctx x) where
  beyond _ _ _ _ _ _ := rfl
  reply r v s := replyReq_stillCtx r v s x
  mark _ _ := rfl
  push _ _ _ _ := rfl
  lines _ _ _ := rfl
  wrote s y ln := modCtx_keeps stillCtx s y (fun c => { c with wrote := insertLine c.wrote ln }) (fun _ => rfl) x

theorem quiet_stillCore (k : Nat) : Quiet fun s => stillCore (s.core k) where
  beyond _ _ _ _ _ _ := rfl
  reply r v s := by rw [replyReq_frame]; rfl
  mark hit s := getD_map_keeps stillCore (markCore hit) (fun _ => rfl) s.cores k Core.reset
  push j typ data s := by
    apply modCore_keeps stillCore
    intro c
    dsimp only
    split <;> rfl
  lines s j f := modCore_keeps stillCore s j (fun c => { c with l1 := f c.l1 }) (fun _ => rfl) k
  wrote _ _ _ := rfl

/-- A state without the parts that an access of device memory may change. -/
def stillRest (s : State) : State := { s with ctxs := [], cores := [], mem := [], poison := [], dies := [], pkg := Package.reset, freeCtr := 0 }

theorem quiet_stillRest : Quiet stillRest where
  beyond _ _ _ _ _ _ := rfl
  reply r v s := by rw [replyReq_frame]; rfl
  mark _ _ := rfl
  push _ _ _ _ := rfl
  lines _ _ _ := rfl
  wrote _ _ _ := rfl

theorem quiet_reqs : Quiet State.reqs := quiet_stillRest.comp State.reqs

end Sys2Proof.Proofs
end

section
/-! PROOFS. Taking a trap, in a user context and in context 7, whose core it kills (O7). -/

namespace Sys2Proof.Proofs

open Sys2Proof Sys2Proof.Machine Sys2Proof.Claims

/-! ### The kill of a core (R228, R229, R237) -/

/-- The core of a kill once it is offline, its slice of a fused L1 disabled and its parcel commands discarded (R229, R237, R262). -/
def haltedCore (k : Nat) (s : State) : State :=
  ((if (s.cluster (clusterOf k)).fused then sliceDisable k s else s).modCore k fun c => { c with offline := true, killed := true }).modCluster
    (clusterOf k) fun q => { q with pce := q.pce.filter fun e => e.core != k }

/-- What neither the answers to the requests of a killed core, nor its events, nor the record and the item of the kill change is as it was when the
core went offline. -/
theorem coreKill_keeps {α : Type} {p : State → α} {k : Nat} {s : State} (typ : Nat) (hlive : (s.core k).killed = false)
    (hhandled : ∀ e t, p (markHandled k e t) = p t) (hreqs : ∀ (t : State) l, p { t with reqs := l } = p t)
    (hports : ∀ t : State, p (t.modCore k fun c => { c with waiters := [], inbox := [] }) = p t) (hreply : ∀ r v t, p (replyReq r v t) = p t)
    (hlinks : ∀ m t, p (failLinkReads m t) = p t) (hrecord : ∀ d b e t, p (postErrorOpen d b e t) = p t)
    (hfree : ∀ (t : State) n, p { t with freeCtr := n } = p t) (hpush : ∀ m typ data t, p (supPush m typ data t) = p t) :
    p (coreKill k typ s) = p (haltedCore k s) := by
  unfold coreKill
  rw [if_neg (by rw [hlive]; decide)]
  dsimp only [State.free]
  rw [hpush, hfree, hrecord]
  refine (foldl_keeps p _ (fun t n => ?_) _ _).trans ?_
  · cases n with
    | some m => exact hlinks m t
    | none => rfl
  · rw [foldl_keeps p _ fun _ _ => hreply _ _ _, hports, hreqs, foldl_keeps p _ fun _ _ => hhandled _ _]
    rfl

theorem coreKill_dead {k typ : Nat} {s : State} (h : (s.core k).killed = true) : coreKill k typ s = s := by
  rw [coreKill, if_pos h]

/-- A change to the requests and registers that no thread holds keeps every context. -/
theorem markHandled_quiet {α : Type} {p : State → α} (hp : Quiet p) (k : Nat) (e : Ev) (s : State) : p (markHandled k e s) = p s := by
  unfold markHandled
  split
  · rfl
  · exact modDie_quiet hp _ _ _

theorem free_quiet {α : Type} {p : State → α} (hp : Quiet p) (s : State) (n : Nat) : p { s with freeCtr := n } = p s :=
  hp.beyond s s.mem s.poison s.dies s.pkg n

theorem failLinkReads_stillCtx (m x : Nat) (s : State) : stillCtx ((failLinkReads m s).ctx x) = stillCtx (s.ctx x) := by
  unfold failLinkReads
  dsimp only
  rw [foldl_keeps fun t => stillCtx (t.ctx x)]
  · rfl
  · intro t e
    apply modCtx_keeps stillCtx
    intro c
    cases hrun : c.run <;> simp [stillCtx, unanswered, hrun]

theorem failLinkReads_core {α : Type} (q : Core → α) (hq : ∀ c, q { c with linkWait := [] } = q c) (m k : Nat) (s : State) :
    q ((failLinkReads m s).core k) = q (s.core k) := by
  unfold failLinkReads
  dsimp only
  rw [foldl_keeps fun t => q (t.core k)]
  · exact modCore_keeps q _ _ (fun c => { c with linkWait := [] }) hq _
  · intro _ _
    rfl

theorem haltedCore_stillCtx (k x : Nat) (s : State) : stillCtx ((haltedCore k s).ctx x) = stillCtx (s.ctx x) := by
  have hp := quiet_stillCtx x
  unfold haltedCore
  show stillCtx ((if (s.cluster (clusterOf k)).fused then sliceDisable k s else s).ctx x) = _
  split
  · exact foldl_keeps (fun t => stillCtx (t.ctx x)) _ (fun _ _ => l1WriteBack_quiet hp _ _ _) _ s
  · rfl

/-- The kill of a core answers what its contexts wait for, and changes nothing else of any context. -/
theorem coreKill_stillCtx (k typ x : Nat) (s : State) : stillCtx ((coreKill k typ s).ctx x) = stillCtx (s.ctx x) := by
  cases hlive : (s.core k).killed with
  | true => rw [coreKill_dead hlive]
  | false =>
    have hp := quiet_stillCtx x
    rw [coreKill_keeps (p := fun t => stillCtx (t.ctx x)) typ hlive (fun _ _ => markHandled_quiet hp _ _ _) (fun _ _ => rfl) (fun _ => rfl)
      hp.reply (fun _ _ => failLinkReads_stillCtx _ _ _) (postErrorOpen_quiet hp) (fun _ _ => rfl) hp.push]
    exact haltedCore_stillCtx k x s

/-- A killed core is offline. -/
theorem coreKill_halted {k : Nat} (typ : Nat) {s : State} (hlive : (s.core k).killed = false) :
    ((coreKill k typ s).core k).killed = true ∧ ((coreKill k typ s).core k).offline = true := by
  have hp : Quiet fun t => ((t.core k).killed, (t.core k).offline) := (quiet_stillCore k).comp fun c => (c.killed, c.offline)
  have h := coreKill_keeps (p := fun t => ((t.core k).killed, (t.core k).offline)) typ hlive (fun _ _ => markHandled_quiet hp _ _ _)
    (fun _ _ => rfl) (fun t => modCore_keeps (fun c => (c.killed, c.offline)) t k (fun c => { c with waiters := [], inbox := [] }) (fun _ => rfl) k)
    hp.reply (fun m t => failLinkReads_core (fun c => (c.killed, c.offline)) (fun _ => rfl) m k t) (postErrorOpen_quiet hp) (fun _ _ => rfl) hp.push
  have hhalted : ((haltedCore k s).core k).killed = true ∧ ((haltedCore k s).core k).offline = true := by
    simp only [haltedCore, State.modCluster_core, State.modCore_core_same, and_self]
  exact ⟨(congrArg Prod.fst h).trans hhalted.1, (congrArg Prod.snd h).trans hhalted.2⟩

theorem coreKill_killed (k typ : Nat) (s : State) : ((coreKill k typ s).core k).killed = true := by
  cases hlive : (s.core k).killed with
  | true => rw [coreKill_dead hlive, hlive]
  | false => exact (coreKill_halted typ hlive).1

/-- Where no slice of a fused L1 writes back, the kill leaves device memory. -/
theorem coreKill_mem {k : Nat} (typ : Nat) {s : State} (hfused : (s.cluster (clusterOf k)).fused = false) : (coreKill k typ s).mem = s.mem := by
  cases hlive : (s.core k).killed with
  | true => rw [coreKill_dead hlive]
  | false =>
    rw [coreKill_keeps (p := State.mem) typ hlive (fun _ _ => markHandled_mem _ _ _) (fun _ _ => rfl) (fun _ => rfl) replyReq_mem
      (fun _ _ => failLinkReads_mem _ _) postErrorOpen_mem (fun _ _ => rfl) supPush_mem, haltedCore, hfused, if_neg (by decide)]
    rfl

/-! ### Taking a trap (R33, R214, R228) -/

theorem takingATrapSavesAndWakes : Claims.TakingATrapSavesAndWakes := by
  intro x p s huser hpoison
  have hp : ¬ poisonTrap p := by simpa [poisonTrap, fld, bitAt, natBits] using hpoison
  refine ⟨takeTrap_ctx_same s huser hp, wakes_takeTrap huser hp rfl rfl, fun y hy => ?_, fun k hk => ?_, ?_⟩
  all_goals rw [takeTrap_eq s huser hp]
  · exact State.modCtx_ctx_ne _ _ _ _ hy
  · exact (supPush_spec _ _ _ _).2.1 k hk
  · rfl

theorem supervisorFaultKillsTheCore : Claims.SupervisorFaultKillsTheCore := by
  intro x p s hx
  rw [takeTrap_supervisor x p s hx]
  refine ⟨coreKill_killed _ _ _, fun hlive => (coreKill_halted _ hlive).2, ?_, fun hfused a => ?_⟩
  · have hpc := congrArg Ctx.pc (coreKill_stillCtx (coreOf x) 0x0E x s)
    exact hpc
  · rw [coreKill_mem _ hfused]

/-- Settles O7: a trap changes its context and the queue of its core; in context 7 the core is killed. -/
theorem takingATrap : Obligations.TakingATrap :=
  ⟨takingATrapSavesAndWakes, supervisorFaultKillsTheCore⟩

end Sys2Proof.Proofs
end

section
/-! PROOFS. The causes pending at a boundary are taken in their order (O8). -/

namespace Sys2Proof.Proofs

open Sys2Proof Sys2Proof.Machine Sys2Proof.Claims

/-- A pending cause is taken: its trap, and after the last trap of a droop stop the item of the recovery (R33, R227). -/
def takePending (x : Nat) (p : TrapInfo × State) : State :=
  if p.1.cause = 0x0E then droopOver (coreOf x) (takeTrap x p.1 p.2) else takeTrap x p.1 p.2

theorem boundaryTrap_ready {x : Nat} {s : State} (h : (s.ctx x).run = .ready) : boundaryTrap x s = (nextPending x s).map (takePending x) := by
  simp only [boundaryTrap, h]
  rfl

theorem boundaryTrap_cancelled {x : Nat} {s : State} {w : Wait} (h : (s.ctx x).run = .waiting w) (hends : waitEnds s x w = false)
    (hpre : (s.ctx x).pendPreempt = true) : boundaryTrap x s = (nextPending x (cancelWait x s)).map (takePending x) := by
  simp only [boundaryTrap, h, hends, hpre, Bool.or_true, Bool.not_false, Bool.and_true, if_true]
  rfl

@[simp] theorem droopOver_ctx (k : Nat) (s : State) (x : Nat) : (droopOver k s).ctx x = s.ctx x := by
  unfold droopOver droopTell
  split
  · rfl
  · split <;> rfl

/-- A cause taken in a user context stops it with the trap registers of R33. -/
theorem takePending_ctx {x : Nat} {p : TrapInfo} (v : State) (hx : ctxNo x ≠ 7) (hp : ¬ poisonTrap p) :
    (takePending x (p, v)).ctx x = trappedCtx p (v.ctx x) := by
  unfold takePending
  split
  · rw [droopOver_ctx, takeTrap_ctx_same v hx hp]
  · exact takeTrap_ctx_same v hx hp

/-! ### The order of the causes (R36) -/

section
variable {x : Nat} {s : State}

theorem nextPending_droop {fi : Word} (hdroop : (s.ctx x).pendDroop = some fi) :
    nextPending x s = some (⟨0x0E, none, s.free.1, none, fi⟩, s.free.2.setCtx x { s.ctx x with pendDroop := none }) := by
  simp only [nextPending, hdroop]

theorem nextPending_preempt (hdroop : (s.ctx x).pendDroop = none) (hpre : (s.ctx x).pendPreempt = true) :
    nextPending x s = some (⟨0x0F, none, s.free.1, none, 0⟩, s.free.2.setCtx x { s.ctx x with pendPreempt := false }) := by
  simp only [nextPending, hdroop, hpre, if_true]

theorem nextPending_reply (hdroop : (s.ctx x).pendDroop = none) (hpre : (s.ctx x).pendPreempt = false) {p : TrapInfo} {rest : List TrapInfo}
    (hpend : (s.ctx x).pend = p :: rest) : nextPending x s = some (p, s.setCtx x { s.ctx x with pend := rest }) := by
  simp only [nextPending, hdroop, hpre, hpend, Bool.false_eq_true, if_false]

/-- A context whose deferred store fault is being taken: every fault of that store has been, and others keep the marker armed (R35). -/
def faultTaken (q : DeferredStore) (c : Ctx) : Ctx :=
  { c with
    deferred := c.deferred.map fun e => if e.group = q.group then { e with taken := true } else e
    deferArmed := c.deferred.any fun e => !e.taken && e.group != q.group }

theorem nextPending_deferred (hdroop : (s.ctx x).pendDroop = none) (hpre : (s.ctx x).pendPreempt = false) (hpend : (s.ctx x).pend = [])
    (harmed : (s.ctx x).deferArmed = true) {q : DeferredStore} (hfault : (s.ctx x).deferred.find? (fun e => !e.taken) = some q) :
    nextPending x s = some (⟨0x05, none, q.fpc, some q.faddr, q.finfo⟩, s.setCtx x (faultTaken q (s.ctx x))) := by
  simp only [nextPending, hdroop, hpre, hpend, harmed, hfault, faultTaken, Bool.false_eq_true, if_false, if_true]

theorem nextPending_step (hdroop : (s.ctx x).pendDroop = none) (hpre : (s.ctx x).pendPreempt = false) (hpend : (s.ctx x).pend = [])
    (harmed : (s.ctx x).deferArmed = false) {a : Word} (hstep : (s.ctx x).pendStep = some a) :
    nextPending x s = some (⟨0x0A, none, a, none, 0⟩, s.setCtx x { s.ctx x with pendStep := none }) := by
  simp only [nextPending, hdroop, hpre, hpend, harmed, hstep, Bool.false_eq_true, if_false]

end

theorem faultTaken_taken (q : DeferredStore) (c : Ctx) : ∀ e ∈ (faultTaken q c).deferred, e.group = q.group → e.taken = true := by
  intro e he hgroup
  simp only [faultTaken, List.mem_map] at he
  obtain ⟨f, _, rfl⟩ := he
  by_cases hf : f.group = q.group
  · simp [hf]
  · simp only [hf, if_false] at hgroup

/-! ### The cancellation of a wait (R35) -/

/-- Cancelling a wait returns link values to the core: no context changes. -/
theorem cancelWait_ctx (x y : Nat) (s : State) : (cancelWait x s).ctx y = s.ctx y := by
  have hlinks : ∀ w : Wait, (w.got.foldl (fun t e => linkReturn x e.1 e.2 t) s).ctxs = s.ctxs := by
    intro w
    apply foldl_keeps State.ctxs
    intro _ _
    rfl
  have hctxs : (cancelWait x s).ctxs = s.ctxs := by
    unfold cancelWait
    dsimp only
    split
    · exact hlinks _
    · rfl
  simp only [State.ctx, hctxs]

/-! ### TRAP_TAKEN (R33, R36) -/

theorem exec_trapTaken (x : Nat) (s : State) : exec (.trapTaken x) s = execTrapTaken x s := by
  rfl

theorem trapTaken_none {x : Nat} {s : State} (h : boundaryTrap x s = none) : exec (.trapTaken x) s = .next s := by
  rw [exec_trapTaken, execTrapTaken, h]
  split <;> rfl

/-- The first pending cause, taken in a user context, is what TRAP_TAKEN leaves. -/
theorem trapTaken_pending {x : Nat} {s u v : State} {p : TrapInfo} (hclock : clockRuns s (coreOf x) = true)
    (hboundary : boundaryTrap x s = (nextPending x u).map (takePending x)) (hnext : nextPending x u = some (p, v)) :
    exec (.trapTaken x) s = .next (takePending x (p, v)) := by
  rw [exec_trapTaken, execTrapTaken, if_pos hclock, hboundary, hnext]
  rfl

/-- So a cause that carries no poison leaves its context with the trap registers written. -/
theorem trapTaken_traps {x : Nat} {s u v : State} {p : TrapInfo} (hclock : clockRuns s (coreOf x) = true) (hx : ctxNo x ≠ 7)
    (hboundary : boundaryTrap x s = (nextPending x u).map (takePending x)) (hnext : nextPending x u = some (p, v)) (hp : ¬ poisonTrap p) :
    ∃ t, exec (.trapTaken x) s = .next t ∧ t.ctx x = trappedCtx p (v.ctx x) :=
  ⟨_, trapTaken_pending hclock hboundary hnext, takePending_ctx v hx hp⟩

/-- Settles O8: the first pending cause in the order of R36 is the one whose trap is taken. -/
theorem pendingTrapsAreTakenInOrder : Obligations.PendingTrapsAreTakenInOrder := by
  intro x s hx hclock c
  have hcode : ∀ (cause : Nat) (fpc finfo : Word) (faddr : Option Word), cause ≠ 0x0C → ¬ poisonTrap ⟨cause, none, fpc, faddr, finfo⟩ :=
    fun _ _ _ _ hcause hpoison => hcause hpoison.1
  refine ⟨?parked, ?waiting, ?cancelled, fun hready => ?ready⟩
  case parked =>
    intro drain j hrun hout hpre
    refine trapTaken_none ?_
    have hempty : (s.ctx x).outstanding.isEmpty = false := by simpa [List.isEmpty_eq_false_iff] using hout
    simp only [boundaryTrap, show (s.ctx x).run = .parked drain j from hrun, hempty, show (s.ctx x).pendPreempt = false from hpre,
      Bool.false_and, Bool.or_self, Bool.and_false, Bool.false_eq_true, if_false]
  case waiting =>
    intro w hrun hdroop hpre
    refine trapTaken_none ?_
    simp only [boundaryTrap, show (s.ctx x).run = .waiting w from hrun, show (s.ctx x).pendDroop = none from hdroop,
      show (s.ctx x).pendPreempt = false from hpre, Option.isSome_none, Bool.or_self, Bool.and_false, Bool.false_eq_true, if_false]
  case cancelled =>
    intro w hrun hends hdroop hpre
    have hc := cancelWait_ctx x x s
    have hnext : nextPending x (cancelWait x s) = _ := nextPending_preempt (by rw [hc]; exact hdroop) (by rw [hc]; exact hpre)
    obtain ⟨t, ht, hctx⟩ := trapTaken_traps hclock hx (boundaryTrap_cancelled hrun hends hpre) hnext (hcode _ _ _ _ (by decide))
    rw [State.setCtx_ctx_same, hc] at hctx
    exact ⟨t, ht, by rw [hctx]; exact ⟨rfl, rfl, rfl, rfl⟩⟩
  case ready =>
    have hboundary := boundaryTrap_ready hready
    refine ⟨?droop, ?preempt, ?reply, ?poison, ?deferred, ?step⟩
    case droop =>
      intro fi hdroop
      obtain ⟨t, ht, hctx⟩ := trapTaken_traps hclock hx hboundary (nextPending_droop hdroop) (hcode _ _ _ _ (by decide))
      rw [State.setCtx_ctx_same] at hctx
      exact ⟨t, ht, by rw [hctx]; exact ⟨rfl, rfl, rfl, rfl, rfl⟩⟩
    case preempt =>
      intro hdroop hpre
      obtain ⟨t, ht, hctx⟩ := trapTaken_traps hclock hx hboundary (nextPending_preempt hdroop hpre) (hcode _ _ _ _ (by decide))
      rw [State.setCtx_ctx_same] at hctx
      exact ⟨t, ht, by rw [hctx]; exact ⟨rfl, rfl, rfl, rfl⟩⟩
    case reply =>
      intro hdroop hpre p rest hpend hpoison
      have hp : ¬ poisonTrap p := by simpa [poisonTrap, fld, bitAt, natBits] using hpoison
      obtain ⟨t, ht, hctx⟩ := trapTaken_traps hclock hx hboundary (nextPending_reply hdroop hpre hpend) hp
      rw [State.setCtx_ctx_same] at hctx
      exact ⟨t, ht, by rw [hctx]; exact ⟨rfl, rfl, rfl, rfl, rfl⟩⟩
    case poison =>
      intro hdroop hpre p rest hpend hcause hcode4 hbit
      refine ⟨_, trapTaken_pending hclock hboundary (nextPending_reply hdroop hpre hpend), ?_⟩
      have hp : p.cause = 0x0C ∧ fld p.finfo 0 8 = 4 ∧ bitAt p.finfo 63 = false := 
        ⟨hcause, by simpa [fld, natBits] using hcode4, hbit⟩
      rw [takePending, if_neg (show ¬ p.cause = 0x0E by rw [hcause]; decide)]
      dsimp only
      rw [takeTrap, if_neg hx, if_pos hp]
      exact coreKill_killed _ _ _
    case deferred =>
      intro hdroop hpre hpend harmed q hfault
      obtain ⟨t, ht, hctx⟩ := trapTaken_traps hclock hx hboundary (nextPending_deferred hdroop hpre hpend harmed hfault) (hcode _ _ _ _ (by decide))
      rw [State.setCtx_ctx_same] at hctx
      exact ⟨t, ht, by rw [hctx]; exact ⟨rfl, rfl, rfl, rfl, rfl, rfl, faultTaken_taken q (s.ctx x)⟩⟩
    case step =>
      intro hdroop hpre hpend harmed a hstep
      obtain ⟨t, ht, hctx⟩ := trapTaken_traps hclock hx hboundary (nextPending_step hdroop hpre hpend harmed hstep) (hcode _ _ _ _ (by decide))
      rw [State.setCtx_ctx_same] at hctx
      exact ⟨t, ht, by rw [hctx]; exact ⟨rfl, rfl, rfl, rfl, rfl⟩⟩

end Sys2Proof.Proofs
end

section
/-! PROOFS. Every instruction answers a next state, and a word has its effect only in a context that may run it (O59). -/

namespace Sys2Proof.Proofs

open Sys2Proof Sys2Proof.Machine Sys2Proof.Claims

/-! ### Every instruction answers -/

/-- A meaning answers a next state. -/
def Answers (o : Out) : Prop := ∃ t, o = .next t

theorem answers_next (t : State) : Answers (.next t) := ⟨t, rfl⟩

theorem execIll_answers (raw : BitVec 88) (s : State) : Answers (execIll raw s) := by
  unfold execIll
  split <;> exact answers_next _

/-- The opcode 0 is that of ILL alone (R78). -/
theorem eq_ill_of_opcode {i : Instr} (h : i.opcode = some 0x00) : ∃ raw, i = .ill raw := by
  cases i
  case ill raw => exact ⟨raw, rfl⟩
  all_goals cases h

theorem word_answers {i : Instr} (hword : isWord i = true) (s : State) : Answers (exec i s) := by
  by_cases hill : i.opcode = some 0x00
  · obtain ⟨raw, rfl⟩ := eq_ill_of_opcode hill
    rw [exec_ill]
    exact execIll_answers raw s
  · obtain ⟨eff, hexec⟩ := exec_issues i hword hill
    rw [hexec]
    exact issue_goes _ _ _ _ _

theorem courierRun_answers (cmd tag : Nat) (good : Bool) (body : State → State) (s : State) : Answers (courierRun cmd tag good body s) := by
  unfold courierRun
  split <;> exact answers_next _

/-- A step of the machine whose condition is not met answers the state as it was, on whatever branch that is seen (log entry 3). -/
theorem machineStep_answers {i : Instr} (hstep : isWord i = false) (s : State) : Answers (exec i s) := by
  cases i
  any_goals (cases hstep; done)
  all_goals
    delta exec
    dsimp only
  any_goals exact courierRun_answers _ _ _ _ _
  any_goals exact answers_next _
  all_goals
    simp -zeta only [execMigrationArrival, execMigrationAcknowledge, execMigrationRefused, execEventArrival, execRecordArrival, execWakeBinding, execRecordRaise,
      execLoadLevelling, execSleepTimerExpiry, execCtxopSave, execCtxopRestore, execPreEmptionRequest, execHardDroop, execDroopRecovery,
      execHardDroopLimit, execPostmasterRestart, execWaitaTimeout, execForwardProgressHold, execHeldThreadWake, execL1Replacement,
      execBteTransferComplete, execMxeCommandArrival, execMxeStep, execMsaveSave, execMsaveRestore, execSpeCommandExecute, execSpsaveSave,
      execSpsaveRestore, execWeaverEvent, execWriteOut, execBufferFree, execNoticeRetry, execRquCommandExecute, execErrorRecordApply,
      execSecondaryChoice, execPairingCompare, execDualMismatch, execMapApply, execPlacementReoffer, execTguDispatch,
      execRangeChunkDispatch, execRangeSteal, execWirePacketReceive, execEventSend, execHeartbeat, execDestinationReceive,
      execWindowBarrier, execIsqRound, execStageSubmitRetry, execStageComplete, execStageTimeout, execIsqPreemptStop, execUcieReplay,
      execStaleRequestRefusal, execPatrolScrub, execBudgetInterval, execLenderRecall, execDumpWrite, execBoot, execBar2Write, execBar2Read,
      execQueueService, execPacketValidPoll, execNopPacket, execLaunchPacket, execNodePacket, execCopyPacket, execCollectivePacket,
      execSignalPacket, execWaitPacket, execLeasePacket, execPacketCompletion, execCollectiveComplete, execCollectiveTimeout,
      execLctlResume, execLctlEnd, execPeerFrameReplay, execRegisterWrite, execWaitPacketTimeout, execUncorrectableUnitStateError,
      execLlcReplacement]
    repeat' first | split | dsimp only
  all_goals exact answers_next _

/-! ### Where a word has no effect (R20) -/

/-- A context that issues nothing and goes on with nothing: it holds no thread, is Stopped or leaving, or is Parked at a marker. -/
def Idle (r : RunState) : Prop := r = .free ∨ r = .stopped ∨ r = .migrating ∨ ∃ d, r = .parked d none

theorem issue_idle {i : Instr} {sup always : Bool} {eff : Nat → Ctx → State → Eff} {s : State} (h : Idle (me s).run) :
    issue i sup always eff s = .next s := by
  unfold issue
  rcases h with h | h | h | ⟨d, h⟩ <;> simp only [show (s.ctx s.cur).run = _ from h]

theorem execIll_idle (raw : BitVec 88) {s : State} (h : Idle (me s).run) : execIll raw s = .next s := by
  unfold execIll
  rcases h with h | h | h | ⟨d, h⟩ <;> simp only [show (s.ctx s.cur).run = _ from h]

theorem word_idle {i : Instr} (hword : isWord i = true) {s : State} (h : Idle (me s).run) : exec i s = .next s := by
  by_cases hill : i.opcode = some 0x00
  · obtain ⟨raw, rfl⟩ := eq_ill_of_opcode hill
    rw [exec_ill, execIll_idle raw h]
  · obtain ⟨eff, hexec⟩ := exec_issues i hword hill
    rw [hexec, issue_idle h]

/-- What a word leaves, when it leaves its context as it was but for the next PC, counts it and goes past it. -/
theorem advances_of_leaves {i : Instr} {h : Hdr} {s : State} (hleaves : Leaves i h s (fallThrough (me s) (me s).pc)) :
    Ends i s fun t => Advances h (me s) (t.ctx s.cur) ∧ t.mem = s.mem := by
  obtain ⟨t, hexec, hself, _, _, hrest⟩ := hleaves
  refine ⟨t, hexec, ?_, by rw [hrest]⟩
  rw [hself]
  exact ⟨rfl, rfl, rfl, rfl, rfl⟩

/-- Settles O59: every arm answers; a word is issued by a Ready context and gone on with by one in the middle of it. -/
theorem everyInstructionAnswersANextState : Obligations.EveryInstructionAnswersANextState := by
  intro i s
  refine ⟨?answers, fun hword hidle => word_idle hword hidle, fun hword hill hbrk hreserved hready hguard =>
    advances_of_leaves (failedGuardDoesNothing i s hword hill hbrk hreserved hready hguard), fun hreserved hready => ?trap⟩
  case answers =>
    cases hword : isWord i with
    | true => exact word_answers hword s
    | false => exact machineStep_answers hword s
  case trap =>
    obtain ⟨t, hexec, hctx, -, -⟩ := supervisorWordsTrapInUserContexts i s hreserved hready
    exact ⟨t, hexec, by rw [hctx], by rw [hctx]; rfl, by rw [hctx]⟩

end Sys2Proof.Proofs
end

section
/-! PROOFS. The space that a data address names, and the checks of a data access in their order (O18). -/

namespace Sys2Proof.Proofs

open Sys2Proof Sys2Proof.Machine Sys2Proof.Claims

/-! ### Fields of a word as arithmetic -/

theorem fld_eq (a : Word) (lo len : Nat) : fld a lo len = a.toNat / 2 ^ lo % 2 ^ len := by
  rw [fld, natBits, Nat.shiftRight_eq_div_pow]

theorem bitAt_eq (a : Word) (n : Nat) : bitAt a n = decide (a.toNat / 2 ^ n % 2 = 1) := by
  rw [bitAt, BitVec.getLsbD, Nat.testBit_eq_decide_div_mod_eq]

/-! ### Address spaces (R157) -/

theorem badTop_eq (a : Word) : badTop a = decide (2 ^ 54 ≤ a.toNat) := by
  have := a.isLt
  rw [badTop, fld_eq, bne, beq_eq_decide, ← decide_not]
  exact decide_eq_decide.mpr (by omega)

/-- What an address names by its top bits: the spaces below and from bit 53, and within the latter the own scratchpad under its local name. -/
theorem resolve_eq (k : Nat) (a : Word) :
    resolve k a =
      if 2 ^ 54 ≤ a.toNat then .bad
      else if a.toNat / 2 ^ 53 % 2 ≠ 1 then .dev a.toNat
      else if a.toNat / 2 ^ 52 % 2 = 1 then (if a.toNat / 2 ^ 18 % 2 ^ 34 ≠ 0 then .bad else .spad k (a.toNat % 2 ^ 18))
      else if a.toNat / 2 ^ 50 % 2 ^ 2 ≠ 0 ∨ a.toNat / 2 ^ 18 % 2 ^ 21 ≠ 0 then .bad
      else if a.toNat / 2 ^ 44 % 2 ^ 5 ≤ 23 then
        .spad (coreAt (a.toNat / 2 ^ 49 % 2) (a.toNat / 2 ^ 44 % 2 ^ 5) (a.toNat / 2 ^ 39 % 2 ^ 5)) (a.toNat % 2 ^ 18)
      else .bad := by
  unfold resolve coreNamed
  simp only [badTop_eq, bitAt_eq, fld_eq, decide_eq_true_eq, Bool.not_eq_true', decide_eq_false_iff_not, Nat.pow_zero, Nat.div_one, Nat.pow_one, ne_eq]
  split_ifs <;> rfl

theorem dataAddressSpaces : Claims.DataAddressSpaces := by
  intro k a n die row col
  have hn : a.toNat = n := rfl
  have hmax : n < 2 ^ 64 := a.isLt
  rw [resolve_eq, hn]
  refine ⟨fun h => if_pos h, fun h => ?device, fun h => ?own, fun h => ?named⟩
  case device =>
    rw [if_neg (by omega), if_pos (by omega)]
  case own =>
    rw [if_neg (by omega), if_neg (by omega), if_pos (by omega), ite_not]
  case named =>
    rw [if_neg (by omega), if_neg (by omega), if_neg (by omega)]
    by_cases hzero : n / 2 ^ 50 % 4 = 0 ∧ n / 2 ^ 18 % 2 ^ 21 = 0
    · obtain ⟨h50, h18⟩ := hzero
      rw [if_neg (by omega)]
      simp only [h50, h18, true_and]
      rfl
    · rw [if_pos (by omega), if_neg (by tauto)]

/-! ### The effective address (R46) -/

theorem ea_eq_addr (f : Fields) (s : State) : (me s).ea f = addr s f := by
  have hscale : ∀ v : Word, v <<< f.subBits 0 3 = v * BitVec.ofNat 64 (2 ^ (f.sub.toNat % 8)) := by
    intro v
    rw [Fields.subBits, natBits, Nat.shiftRight_zero]
    apply BitVec.eq_of_toNat_eq
    simp [BitVec.toNat_shiftLeft, Nat.shiftLeft_eq, BitVec.toNat_mul]
  unfold Ctx.ea addr
  congr 2
  split
  · exact hscale _
  · rfl

/-! ### The checks of an access (R36, R158, R162) -/

section
variable {s : State} {x n : Nat} {pc a : Word}

theorem accessSpace_bad (h : resolve (coreOf x) a = .bad) : accessSpace s x pc a n = .error (malformedTrap pc a) := by
  simp only [accessSpace, h]

theorem accessSpace_misaligned (h : resolve (coreOf x) a ≠ .bad) (hn : a.toNat % n ≠ 0) :
    accessSpace s x pc a n = .error (misalignedTrap pc a 0) := by
  unfold accessSpace
  split
  · contradiction
  · rw [if_pos hn]

theorem accessSpace_absent {off : Nat} (h : resolve (coreOf x) a = .spad (coreOf x) off) (hn : a.toNat % n = 0)
    (hres : resident s (coreOf x) off = false) :
    accessSpace s x pc a n = .error (syncTrap 0x06 pc (some a) (BitVec.ofNat 64 (slotOf off))) := by
  simp [accessSpace, h, hn, hres]

theorem accessSpace_device (h : a.toNat < 2 ^ 53) (hn : a.toNat % n = 0) : accessSpace s x pc a n = .ok (.dev a.toNat) := by
  simp only [accessSpace, (dataAddressSpaces (coreOf x) a).2.1 h, hn, ne_eq, not_true, if_false]

end

/-! ### Requests of the thread that go first (R167) -/

/-- Where no request satisfies the test, none is performed. -/
theorem flushReqs_none {p : Req → Bool} {s : State} (h : ∀ r ∈ s.reqs, p r = false) : flushReqs p s = s := by
  have hdue : ∀ i, reqDue p s i = false := by
    intro i
    unfold reqDue
    split
    · rfl
    · rw [List.any_eq_false]
      intro q hq
      simp [h q (List.mem_of_mem_drop hq)]
  have hfrom : ∀ n i, flushFrom p n i s = s := by
    intro n
    induction n with
    | zero => intro i; rfl
    | succ n ih =>
      intro i
      rw [flushFrom, hdue]
      simp [ih]
  exact hfrom _ _

theorem flushOwn_none {x : Nat} {s : State} (h : ∀ r ∈ s.reqs, r.x ≠ x) (a : Word) : flushOwn x a s = s :=
  flushReqs_none fun r hr => by simp [h r hr]

theorem acquirePending_none {x : Nat} {s : State} (h : ∀ r ∈ s.reqs, r.x ≠ x) : acquirePending s x = false := by
  simp only [acquirePending, List.any_eq_false, Bool.and_eq_true, beq_iff_eq, not_and]
  exact fun r hr hx => absurd hx (h r hr)

/-- A check that fails is the trap of the access, with nothing else of it done. -/
theorem access_error {x : Nat} {i : Instr} {a : Word} {n : Nat} {mig : Bool} {s : State} {spad : Nat → Nat → State → Eff} {dev : Nat → State → Eff}
    {e : TrapInfo} (h : accessSpace s x (s.ctx x).pc a n = .error e) : access x i a n mig s spad dev = .trap e s := by
  simp only [access, h]

/-- An access of device memory, of a thread with no request under way, starts from the state as it is. -/
theorem access_device {x : Nat} {i : Instr} {a : Word} {n : Nat} {mig : Bool} {s : State} {spad : Nat → Nat → State → Eff} {dev : Nat → State → Eff}
    {va : Nat} (h : accessSpace s x (s.ctx x).pc a n = .ok (.dev va)) (hreqs : ∀ r ∈ s.reqs, r.x ≠ x) :
    access x i a n mig s spad dev = dev va s := by
  simp only [access, h, flushOwn_none hreqs, acquirePending_none hreqs, Bool.false_eq_true, if_false]

/-! ### The words that access data -/

/-- An effect traps where a check of its access fails. -/
def ChecksAccess (f : Fields) (n : Nat) (eff : Nat → Ctx → State → Eff) : Prop :=
  ∀ (x : Nat) (t : State) (e : TrapInfo), (t.ctx x).wait? = none →
    accessSpace t x (t.ctx x).pc ((t.ctx x).ea f) n = .error e → eff x (t.ctx x) t = .trap e t

theorem taggedEff_checks (i : Instr) (f : Fields) (op : ReqOp) (kind : WaitKind) (release : Bool) (acq : Nat) (val : Ctx → Nat)
    (fin : Nat → Nat → State → State) : ChecksAccess f 8 fun x c t => taggedEff x i f op kind release acq (val c) t (fin x) := by
  intro x t e hwait h
  unfold taggedEff
  simp only [hwait, Option.isSome_none, Bool.false_eq_true, if_false]
  exact access_error h

theorem atomicEff_checks (i : Instr) (f : Fields) (op : AtomKind) (v cmp : Ctx → Word) :
    ChecksAccess f (tyBytes f.x.ty) fun x c t => atomicEff x i f op (v c) (cmp c) t := by
  intro x t e _ h
  unfold atomicEff
  exact access_error h

/-- Every word that accesses data makes its checks before anything else of it (R36). -/
theorem access_checks {i : Instr} {h : Hdr} {f : Fields} {n : Nat} (hsize : Claims.accessSize i = some (h, f, n)) :
    ∃ eff, (∀ s, exec i s = issue i false false eff s) ∧ i.hdr = h ∧ ChecksAccess f n eff := by
  cases i
  any_goals (cases hsize; done)
  all_goals
    cases hsize
    constructor
    refine ⟨fun s => by delta exec; dsimp only; rfl, rfl, ?_⟩
  case ldf | ldff | ste | stf => exact taggedEff_checks _ _ _ _ _ _ _ _
  case aadd | afadd | amin | amax | aand | aor | axor | aswp | acas => exact atomicEff_checks _ _ _ _ _
  case ld | st | tagr | tagw | acq =>
    intro x t e _ h
    exact access_error h
  case rel =>
    intro x t e _ h
    simp only [h]
  case join =>
    intro x t e hwait h
    simp only [hwait, h, Option.isSome_none, Bool.false_eq_true, if_false]
  case waita =>
    intro x t e hwait h
    simp only [hwait, Option.isSome_none, Bool.false_eq_true, if_false]
    exact access_error h

/-- The words of the full/empty tags (R171). -/
def isTagged (i : Instr) : Prop :=
  match i with
  | .ldf .. | .ldff .. | .ste .. | .stf .. | .tagr .. | .tagw .. => True
  | _ => False

/-- An effect traps in device memory. -/
def TrapsInDevice (f : Fields) (eff : Nat → Ctx → State → Eff) : Prop :=
  ∀ (x : Nat) (t : State) (va : Nat), (t.ctx x).wait? = none → accessSpace t x (t.ctx x).pc ((t.ctx x).ea f) 8 = .ok (.dev va) →
    (∀ r ∈ t.reqs, r.x ≠ x) → eff x (t.ctx x) t = .trap (tagTrap (t.ctx x).pc ((t.ctx x).ea f)) t

theorem taggedEff_device (i : Instr) (f : Fields) (op : ReqOp) (kind : WaitKind) (release : Bool) (acq : Nat) (val : Ctx → Nat)
    (fin : Nat → Nat → State → State) : TrapsInDevice f fun x c t => taggedEff x i f op kind release acq (val c) t (fin x) := by
  intro x t va hwait h hreqs
  unfold taggedEff
  simp only [hwait, Option.isSome_none, Bool.false_eq_true, if_false]
  exact access_device h hreqs

/-- Device memory has no tags (R169, R171). -/
theorem tagged_device {i : Instr} {h : Hdr} {f : Fields} {n : Nat} (hsize : Claims.accessSize i = some (h, f, n)) (htag : isTagged i) :
    n = 8 ∧ ∃ eff, (∀ s, exec i s = issue i false false eff s) ∧ i.hdr = h ∧ TrapsInDevice f eff := by
  cases i
  any_goals (cases htag; done)
  all_goals
    cases hsize
    refine ⟨rfl, ?_⟩
    constructor
    refine ⟨fun s => by delta exec; dsimp only; rfl, rfl, ?_⟩
  case ldf | ldff | ste | stf => exact taggedEff_device _ _ _ _ _ _ _ _
  case tagr | tagw =>
    intro x t va _ h hreqs
    exact access_device h hreqs

/-! ### The traps of an access -/

theorem ea_issued (x : Nat) (h : Hdr) (f : Fields) (s : State) : ((issued x h s).ctx x).ea f = (s.ctx x).ea f := by
  rw [issued_ctx_same]
  rfl

theorem resident_issued (x : Nat) (h : Hdr) (s : State) (k off : Nat) : resident (issued x h s) k off = resident s k off := by
  rw [resident, residOf, issued_core]
  rfl

theorem issued_pc (x : Nat) (h : Hdr) (s : State) : ((issued x h s).ctx x).pc = (s.ctx x).pc := by
  rw [issued_ctx_same]

theorem issued_wait {x : Nat} {h : Hdr} {s : State} (hready : (s.ctx x).run = .ready) : ((issued x h s).ctx x).wait? = none := by
  rw [issued_ctx_same, Ctx.wait?, hready]

/-- A word whose access fails a check takes that check's trap. -/
theorem traps_of_check {i : Instr} {h : Hdr} {f : Fields} {n : Nat} {s : State} {cause : Nat} {faddr : Option Word} {finfo : Word}
    (hsize : Claims.accessSize i = some (h, f, n)) (hrun : RunsAlone h s) (huser : ctxNo s.cur ≠ 7) (hcause : cause ≠ 0x0C)
    (hcheck : accessSpace (issued s.cur h s) s.cur (me s).pc (addr s f) n = .error (syncTrap cause (me s).pc faddr finfo)) :
    Traps i s cause faddr finfo := by
  obtain ⟨⟨hready, hguard⟩, halone⟩ := hrun
  obtain ⟨eff, hexec, hhdr, heff⟩ := access_checks hsize
  refine traps_of_trap (hexec s) hhdr hready (.inr hguard) huser rfl hcause (.inl halone) (heff _ _ _ (issued_wait hready) ?_)
  rw [issued_pc, ea_issued, ea_eq_addr]
  exact hcheck

theorem dataAccessChecks : Claims.DataAccessChecks := by
  intro i h f n s hsize hrun huser a
  refine ⟨fun hbad => ?_, fun hgood halign => ?_, fun off hspad halign hres => ?_, fun hdev halign hreqs htag => ?_⟩
  · exact traps_of_check hsize hrun huser (by decide) (accessSpace_bad hbad)
  · exact traps_of_check hsize hrun huser (by decide) (accessSpace_misaligned hgood halign)
  · exact traps_of_check hsize hrun huser (by decide) (accessSpace_absent hspad halign (by rw [resident_issued, hres]))
  · obtain ⟨rfl, eff, hexec, hhdr, heff⟩ := tagged_device hsize htag
    obtain ⟨⟨hready, hguard⟩, halone⟩ := hrun
    refine traps_of_trap (hexec s) hhdr hready (.inr hguard) huser rfl (by decide) (.inl halone) ?_
    have hspace := accessSpace_device (s := issued s.cur h s) (x := s.cur) (pc := (me s).pc) hdev halign
    have htrap := heff s.cur (issued s.cur h s) a.toNat (issued_wait hready) (by rw [issued_pc, ea_issued, ea_eq_addr]; exact hspace)
      (by rw [issued_reqs]; exact hreqs)
    rw [htrap, issued_pc, ea_issued, ea_eq_addr]
    rfl

/-- Settles O18: the space of an address is told by its top bits, and every access makes its checks first. -/
theorem dataAddresses : Obligations.DataAddresses :=
  ⟨dataAccessChecks, dataAddressSpaces⟩

end Sys2Proof.Proofs
end

section
/-! PROOFS. Branches and literal loads take their offset from formats I and B alike, the statements from format B alone (O9, O10). -/

namespace Sys2Proof.Proofs

open Sys2Proof Sys2Proof.Machine Sys2Proof.Claims

/-! ### A word at the last place below 2^54 (R37) -/

/-- Context 0 is Ready at 2^54 − 4. -/
def atTheTop : State := State.reset.setCtx 0 { Ctx.reset with run := .ready, pc := 0x3F_FFFF_FFFF_FFFC }

/-- No guard, no marker, no hint. -/
def plainHdr : Hdr := ⟨false, 0, false, false, false, false⟩

/-- An offset of one word that stands in format I, where no decoded branch or LDL has one (R47, R53). -/
def offsetInFormatI : Fields := ⟨.w 0, .none, .none, 0, .i 1⟩

theorem atTheTop_runs : Runs plainHdr atTheTop := by
  decide

/-- The model adds that offset, and the target lies beyond the 54 bits of an address. -/
theorem bTarget_atTheTop : bTarget (me atTheTop).pc offsetInFormatI = 0x40_0000_0000_0000 := by
  decide

/-- The statements add nothing. -/
theorem branchTarget_atTheTop : branchTarget atTheTop offsetInFormatI = 0x3F_FFFF_FFFF_FFFC := by
  decide

theorem exec_br (h : Hdr) (f : Fields) (s : State) : exec (.br h f) s = execBr h f s := by
  rfl

theorem exec_ldl (h : Hdr) (f : Fields) (s : State) : exec (.ldl h f) s = execLdl h f s := by
  rfl

/-- A branch whose target is malformed traps 0x05 (R71). -/
theorem br_traps_malformed {h : Hdr} {f : Fields} {s : State} (hrun : Runs h s) (huser : ctxNo s.cur ≠ 7)
    (htop : badTop (bTarget (me s).pc f) = true) : Traps (.br h f) s 0x05 (some (bTarget (me s).pc f)) malformed := by
  have hexec := exec_br h f s
  rw [execBr] at hexec
  refine traps_of_trap hexec rfl hrun.1 (.inr hrun.2) huser rfl (by decide) (.inr rfl) ?_
  rw [issued_pc]
  exact if_pos htop

/-- So does a literal load, before its alignment is looked at (R77). -/
theorem ldl_traps_malformed {h : Hdr} {f : Fields} {s : State} (hrun : Runs h s) (huser : ctxNo s.cur ≠ 7)
    (htop : badTop (bTarget (me s).pc f) = true) : Traps (.ldl h f) s 0x05 (some (bTarget (me s).pc f)) malformed := by
  have hexec := exec_ldl h f s
  rw [execLdl] at hexec
  refine traps_of_trap hexec rfl hrun.1 (.inr hrun.2) huser rfl (by decide) (.inr rfl) ?_
  rw [issued_pc]
  exact if_pos htop

/-- A word takes one trap at most. -/
theorem traps_cause {i : Instr} {s : State} {n m : Nat} {a b : Option Word} {v w : Word} (hn : Traps i s n a v) (hm : Traps i s m b w) :
    BitVec.ofNat 64 n = BitVec.ofNat 64 m := by
  obtain ⟨t, ht, hctx, -⟩ := hn
  obtain ⟨u, hu, hctx', -⟩ := hm
  cases ht.symm.trans hu
  exact congrArg Ctx.cause (hctx.symm.trans hctx')

/-- A word that traps does not complete. -/
theorem not_leaves_of_traps {i : Instr} {h : Hdr} {s : State} {c : Ctx} {n : Nat} {a : Option Word} {v : Word} (hn : Traps i s n a v) :
    ¬ Leaves i h s c := by
  rintro ⟨u, hu, hctx', -⟩
  obtain ⟨t, ht, hctx, -⟩ := hn
  cases ht.symm.trans hu
  have hrun : RunState.stopped = if h.sw = true ∧ c.outstanding ≠ [] then RunState.parked false none else .ready :=
    congrArg Ctx.run (hctx.symm.trans hctx')
  split at hrun <;> cases hrun

/-- Refutes O9: BR with an offset of one word in format I, at 2^54 − 4, traps 0x05 in the model; the statement has it branch to itself. -/
theorem not_branchesCallsReturnsAndLoops : ¬ Obligations.BranchesCallsReturnsAndLoops := by
  rintro ⟨hbranches, -, -⟩
  obtain ⟨hbr, -⟩ := hbranches plainHdr offsetInFormatI atTheTop atTheTop_runs
  refine not_leaves_of_traps (br_traps_malformed (f := offsetInFormatI) atTheTop_runs (by decide) ?_) (hbr ?_)
  · rw [bTarget_atTheTop]
    decide
  · rw [branchTarget_atTheTop]
    decide

/-- Refutes O10: LDL with an offset of one word in format I, at 2^54 − 4, traps 0x05 in the model; the statement has it trap 0x04. -/
theorem not_markersYieldFlushAndLiterals : ¬ Obligations.MarkersYieldFlushAndLiterals := by
  rintro ⟨-, hliterals⟩
  obtain ⟨-, hldl⟩ := hliterals plainHdr offsetInFormatI 0 atTheTop atTheTop_runs rfl
  have h04 : Traps (.ldl plainHdr offsetInFormatI) atTheTop 0x04 _ _ :=
    hldl (by decide) (by rw [branchTarget_atTheTop]; decide) (by rw [branchTarget_atTheTop]; decide)
  have h05 := ldl_traps_malformed (f := offsetInFormatI) atTheTop_runs (by decide) (by rw [bTarget_atTheTop]; decide)
  exact absurd (traps_cause h04 h05) (by decide)

end Sys2Proof.Proofs
end

section
/-! PROOFS. What the home ports, the requests in flight and the accesses made for a thread leave of a state: all that is neither of the memory
behind them, nor of the scratchpads with their ports and links. -/

namespace Sys2Proof.Proofs

open Sys2Proof Sys2Proof.Machine Sys2Proof.Claims

/-- A core without its scratchpad, its home port and its receive registers. -/
def portless (c : Core) : Core :=
  { c with spad := [], older := [], badSpad := [], tags := [], resid := [], waiters := [], links := [], linkRel := [], linkHold := [] }

/-- What is read of a state does not change with what an access at its home changes, be it in device memory or in a scratchpad. -/
structure Steady {α : Type} (p : State → α) : Prop extends Quiet p where
  port : ∀ (s : State) (k : Nat) (c : Core), portless c = portless (s.core k) → p (s.setCore k c) = p s
  inFlight : ∀ (s : State) (rs : List Req), p { s with reqs := rs } = p s

section
variable {α : Type} {p : State → α} (hp : Steady p)
include hp

/-! ### Scratchpad words (R159 to R163, R254) -/

theorem spadSet_steady (s : State) (k off n v : Nat) : p (spadSet s k off n v) = p s := hp.port s k _ rfl

theorem spadSetTag_steady (s : State) (k off : Nat) (b : Bool) : p (spadSetTag s k off b) = p s := hp.port s k _ rfl

theorem meetWord_steady (m k off : Nat) (s : State) : p (meetWord m k off s) = p s := by
  unfold meetWord
  split
  · rfl
  · exact hp.port s k _ rfl

theorem leaveWord_steady (q k off : Nat) (s : State) : p (leaveWord q k off s) = p s := by
  unfold leaveWord
  split
  · exact meetWord_steady hp _ _ _ _
  · refine (hp.port (meetWord (2 ^ q) k off s) k _ ?_).trans (meetWord_steady hp _ _ _ _)
    rfl

theorem pathGet_steady (s : State) (q k off n : Nat) : p (pathGet s q k off n).2 = p s := by
  unfold pathGet
  split
  · rfl
  · split
    · exact free_quiet hp.toQuiet s _
    · exact (meetWord_steady hp _ _ _ _).trans (free_quiet hp.toQuiet s _)

/-! ### The home port (R160, R171 to R174) -/

theorem spadPerform_steady (r : Req) (k off : Nat) (s : State) : p (spadPerform r k off s) = p s := by
  have hfinish : ∀ (v : LongVal) (t : State), p (finishReq r v t) = p t := fun v t => finishReq_quiet hp.toQuiet r v t
  unfold spadPerform
  dsimp only
  split
  · split
    · rw [hfinish, pathGet_steady hp]
    · rw [hfinish, meetWord_steady hp]
  · rw [hfinish, spadSet_steady hp, leaveWord_steady hp]
  · rw [hfinish, spadSetTag_steady hp, meetWord_steady hp]
  · rw [hfinish, meetWord_steady hp]
  · rw [hfinish, spadSetTag_steady hp, spadSet_steady hp, leaveWord_steady hp]
  · rw [hfinish, spadSetTag_steady hp, spadSet_steady hp, leaveWord_steady hp]
  · exact hfinish _ _
  · rw [hfinish, spadSetTag_steady hp]
  · rw [hfinish, meetWord_steady hp]
  · rw [hfinish, meetWord_steady hp]
  · rw [hfinish, spadSet_steady hp, leaveWord_steady hp]
  · rfl

theorem spadServe_steady (k off n : Nat) (s : State) : p (spadServe k off n s) = p s := by
  induction n generalizing s with
  | zero => rfl
  | succ n ih =>
    unfold spadServe
    split
    · rfl
    · rw [ih, spadPerform_steady hp]
      exact hp.port s k _ rfl

theorem spadChanged_steady (k off : Nat) (s : State) : p (spadChanged k off s) = p s :=
  (spadServe_steady hp _ _ _ _).trans (hp.mark _ _)

theorem spadWrite_steady (s : State) (k off n v : Nat) : p (spadWrite s k off n v) = p s :=
  (spadChanged_steady hp _ _ _).trans (spadSet_steady hp _ _ _ _ _)

theorem portDo_steady {r : Req} {k off : Nat} {s t : State} (h : portDo r k off s = .ok t) : p t = p s := by
  unfold portDo at h
  split at h
  · cases h
    split
    · exact (spadChanged_steady hp _ _ _).trans (spadPerform_steady hp _ _ _ _)
    · exact spadPerform_steady hp _ _ _ _
  · split at h
    · cases h
      exact hp.port s k _ rfl
    · cases h

theorem linkArrive_steady {r : Req} {k n : Nat} {rel : Bool} {s t : State} (h : linkArrive r k n rel s = .ok t) : p t = p s := by
  unfold linkArrive at h
  dsimp only at h
  split at h
  · cases h
    exact hp.port s k _ rfl
  · split at h
    · cases h
      exact hp.port s k _ rfl
    · cases h

/-! ### Requests in flight (R160, R183, R345) -/

theorem performReq_steady {r : Req} {s t : State} (h : performReq r s = .ok t) : p t = p s := by
  have hfail : ∀ e, finishReq r (.fail e) s = t → p t = p s := fun e he => he ▸ finishReq_quiet hp.toQuiet r _ s
  have hslice : (if r.stale then .error r else sliceDo r s : Except Req State) = .ok t → p t = p s := by
    intro hs
    split at hs
    · cases hs
    · exact sliceDo_quiet hp.toQuiet hs
  unfold performReq at h
  split at h
  · exact hslice h
  · exact hslice h
  · split at h
    · exact hfail _ (Except.ok.inj h)
    · split at h
      · split at h
        · exact hfail _ (Except.ok.inj h)
        · split at h
          · cases h
          · exact linkArrive_steady hp h
      · split at h
        · exact hfail _ (Except.ok.inj h)
        · split at h
          · cases h
          · split at h
            · cases h
            · split at h
              · exact hfail _ (Except.ok.inj h)
              · exact portDo_steady hp h

theorem performAt_steady (i : Nat) (s : State) : p (performAt i s) = p s := by
  unfold performAt
  split
  · rfl
  · split
    · next he => exact (performReq_steady hp he).trans (hp.inFlight s _)
    · exact hp.inFlight s _

theorem flushFrom_steady (q : Req → Bool) (n i : Nat) (s : State) : p (flushFrom q n i s) = p s := by
  induction n generalizing i s with
  | zero => rfl
  | succ n ih =>
    unfold flushFrom
    dsimp only
    rw [ih]
    split
    · exact performAt_steady hp _ _
    · rfl

theorem flushReqs_steady (q : Req → Bool) (s : State) : p (flushReqs q s) = p s := flushFrom_steady hp _ _ _ _

theorem sendReq_steady (r : Req) (s : State) : p (sendReq r s) = p s := hp.inFlight s _

theorem startReq_steady (r : Req) (s : State) : p (startReq r s) = p s := by
  unfold startReq
  split
  · next he => exact performReq_steady hp he
  · exact sendReq_steady hp _ _

theorem launchReq_steady (r : Req) (s : State) : p (launchReq r s) = p s := by
  unfold launchReq
  split
  · exact startReq_steady hp _ _
  · exact sendReq_steady hp _ _

theorem releaseVia_steady (s : State) (k pid sc : Nat) (ranges : Option (List (Nat × Nat))) : p (releaseVia s k pid sc ranges) = p s :=
  (releaseLines_quiet hp.toQuiet _ _ _ _ _).trans (flushReqs_steady hp _ _)

/-! ### Accesses made for a thread (R11, R19, R175) -/

theorem portLoad_steady (s : State) (q d k off n : Nat) : p (portLoad s q d k off n).2 = p s := by
  unfold portLoad
  split
  · rfl
  · exact pathGet_steady hp _ _ _ _ _

theorem portStore_steady (s : State) (q d k off n v : Nat) : p (portStore s q d k off n v).2 = p s := by
  unfold portStore
  split
  · rfl
  · exact (spadWrite_steady hp _ _ _ _ _).trans (leaveWord_steady hp _ _ _ _)

theorem wordLoad_steady (s : State) (k pid cp : Nat) (a : Word) (n : Nat) : p (wordLoad s k pid cp a n).2 = p s := by
  unfold wordLoad
  split
  · rfl
  · exact devLoad_quiet hp.toQuiet _ _ _ _ _ _
  · exact portLoad_steady hp _ _ _ _ _ _

theorem wordStore_steady (s : State) (k : Nat) (x : Option Nat) (pid cp : Nat) (a : Word) (n v : Nat) :
    p (wordStore s k x pid cp a n v).2 = p s := by
  unfold wordStore
  split
  · rfl
  · exact devStore_quiet hp.toQuiet _ _ _ _ _ _ _ _
  · exact portStore_steady hp _ _ _ _ _ _ _

theorem wordsStore_steady (s : State) (k : Nat) (x : Option Nat) (pid cp : Nat) (a : Word) (ws : List Word) :
    p (wordsStore s k x pid cp a ws).2 = p s := by
  induction ws generalizing s a with
  | nil => rfl
  | cons w rest ih =>
    unfold wordsStore
    have hs := wordStore_steady hp s k x pid cp a 8 w.toNat
    split
    · next he => rw [he] at hs; exact hs
    · next he => rw [he] at hs; exact (ih _ _).trans hs

theorem wordsLoad_steady (s : State) (k pid cp : Nat) (a : Word) (n : Nat) : p (wordsLoad s k pid cp a n).2 = p s := by
  induction n generalizing s a with
  | zero => rfl
  | succ n ih =>
    unfold wordsLoad
    have hs := wordLoad_steady hp s k pid cp a 8
    split
    · next he => rw [he] at hs; exact hs
    · next v s1 he =>
      rw [he] at hs
      have hrest := (ih s1 (a + 8)).trans hs
      split <;> (next hg => rw [hg] at hrest; exact hrest)

end

/-! ### Contexts and cores -/

/-- What is computed from something steady is steady. -/
theorem Steady.comp {α β : Type} {p : State → α} (hp : Steady p) (g : α → β) : Steady fun s => g (p s) where
  toQuiet := hp.toQuiet.comp g
  port s k c h := congrArg g (hp.port s k c h)
  inFlight s rs := congrArg g (hp.inFlight s rs)

theorem steady_stillCtx (x : Nat) : Steady fun s => stillCtx (s.ctx x) where
  toQuiet := quiet_stillCtx x
  port _ _ _ _ := rfl
  inFlight _ _ := rfl

theorem steady_icache (k : Nat) : Steady fun s => (s.core k).icache where
  toQuiet := (quiet_stillCore k).comp Core.icache
  port s j c h := by
    rw [State.setCore_core]
    split
    · next e =>
      have hi : (portless c).icache = (portless (s.core j)).icache := by rw [h]
      rw [e]
      exact hi
    · rfl
  inFlight _ _ := rfl

end Sys2Proof.Proofs
end

section
/-! PROOFS. The return from a trap, and the end of a thread by its supervisor (O13). -/

namespace Sys2Proof.Proofs

open Sys2Proof Sys2Proof.Machine Sys2Proof.Claims

/-! ### Ends of launches and threads (R19, R237) -/

section
variable {α : Type} {p : State → α}

theorem launchOver_quiet (hp : Quiet p) (lid : Option Nat) (s : State) : p (launchOver lid s) = p s := by
  have hempty : ∀ (t : State) k, p (emptyL1 k t) = p t := fun t k => foldl_keeps p _ (fun _ _ => l1Flush_quiet hp _ _ _ _) _ _
  unfold launchOver
  split
  · split
    · rfl
    · exact foldl_keeps p _ hempty _ _
  · rfl

theorem devHome_quiet (hp : Quiet p) (s : State) (k pid va : Nat) (acc : Acc) : p (devHome s k pid va acc).2 = p s := by
  have ht := (translate_quiet hp (l1Bypass s k pid va) (coreDie k) pid va acc).trans (l1Bypass_quiet hp s k pid va)
  unfold devHome
  split
  · next he => rw [he] at ht; exact ht
  · next he =>
    rw [he] at ht
    split
    · exact ht
    · exact (llcDrop_quiet hp _ _ _).trans ht

theorem atomicAt_steady (hp : Steady p) (s : State) (k pid : Nat) (a : Word) (op : AtomKind) (ty size v : Nat) :
    p (atomicAt s k pid a op ty size v).2 = p s := by
  unfold atomicAt
  split
  · rfl
  · split
    · rfl
    · exact (spadWrite_steady hp _ _ _ _ _).trans (leaveWord_steady hp _ _ _ _)
  · next va _ =>
    have hh := devHome_quiet hp.toQuiet s k pid va .write
    split
    · next he => rw [he] at hh; exact hh
    · next home s1 he =>
      rw [he] at hh
      have hr := (sliceRead_quiet hp.toQuiet s1 (coreDie k) home size).trans hh
      split
      · next hs => rw [hs] at hr; exact hr
      · next hs => rw [hs] at hr; exact (sliceWrite_quiet hp.toQuiet _ _ _ _).trans hr

theorem signalFell_quiet (hp : Quiet p) (pkt : Option (Nat × Nat)) (old : Nat) (s : State) : p (signalFell pkt old s) = p s := by
  unfold signalFell
  split
  · rfl
  · split
    · rfl
    · split
      · exact modPkg_quiet hp _ _
      · rfl

/-- The state that a completion release leaves, done or failed. -/
def releaseState (r : Except (Option TrapInfo × State) State) : State :=
  match r with
  | .ok t => t
  | .error (_, t) => t

theorem completionRelease_steady (hp : Steady p) (y : Nat) (pc : Word) (s : State) : p (releaseState (completionRelease y pc s)) = p s := by
  unfold completionRelease
  dsimp only
  split
  · rfl
  · have ha := (atomicAt_steady hp (releaseVia s (coreOf y) (s.ctx y).pid (scopeOf (s.ctx y).tcomp) none) (coreOf y) (s.ctx y).pid
      (wordAddr (s.ctx y).tcomp) .add 6 8 (2 ^ 64 - 1)).trans (releaseVia_steady hp _ _ _ _ _)
    split
    · next he => rw [he] at ha; exact (signalFell_quiet hp.toQuiet _ _ _).trans ha
    · next he => rw [he] at ha; exact ha
    · next he => rw [he] at ha; exact ha

end

/-- A context that holds no thread, with the pair and the due completions that the ended thread leaves it (R19, R269). -/
def freed (c : Ctx) : Ctx :=
  { Ctx.reset with
    pair := c.pair
    mstat := { EngStat.reset with unf := c.mstat.unf }
    spstat := { EngStat.reset with unf := c.spstat.unf }
    rqstat := { EngStat.reset with unf := c.rqstat.unf }
    closing := c.mstat.unf + c.spstat.unf + c.rqstat.unf != 0 }

theorem endThread_ctx_same (y : Nat) (s : State) : (endThread y s).ctx y = freed (s.ctx y) := by
  unfold endThread
  exact State.setCtx_ctx_same _ _ _

theorem unanswered_eq {r q : RunState} (h : unanswered r = unanswered q) (hq : ∀ w, q ≠ .waiting w) : r = q := by
  cases q with
  | waiting w => exact absurd rfl (hq w)
  | _ => cases r <;> simp_all [unanswered]

/-- A context that waits for nothing keeps its run state where it is still. -/
theorem run_of_still {c d : Ctx} (h : stillCtx d = stillCtx c) (hc : ∀ w, c.run ≠ .waiting w) : d.run = c.run :=
  unanswered_eq (congrArg Ctx.run h) hc

/-! ### RTE (R82) -/

theorem exec_rte (h : Hdr) (f : Fields) (s : State) : exec (.rte h f) s = execRte h f s := by
  rfl

theorem exec_rteEnd (h : Hdr) (f : Fields) (s : State) : exec (.rteEnd h f) s = execRteEnd h f s := by
  rfl

theorem exec_rteDrop (h : Hdr) (f : Fields) (s : State) : exec (.rteDrop h f) s = execRteDrop h f s := by
  rfl

/-- The number of the context that an RTE names (R82). -/
def rteNumber (s : State) (f : Fields) : Nat := match f.a with | .imm v => v.toNat | o => (source s o).toNat % 8

theorem fld_three_bits (w : Word) : fld w 0 3 = w.toNat % 8 := by
  rw [fld_eq, Nat.pow_zero, Nat.div_one]
  rfl

theorem rteTarget_eq {h : Hdr} {f : Fields} {s : State} (ha : (∃ m, f.a = .w m) ∨ ∃ v, f.a = .imm v) :
    rteTarget s.cur ((issued s.cur h s).ctx s.cur) f =
      if rteNumber s f ≤ 6 then some (8 * coreOf s.cur + rteNumber s f) else none := by
  have hlink : f.a.link? = none := by rcases ha with ⟨m, hm⟩ | ⟨v, hv⟩ <;> simp only [*] <;> rfl
  have hsrc := srcS_issued h s f.a hlink
  unfold rteTarget rteNumber
  rcases ha with ⟨m, hm⟩ | ⟨v, hv⟩
  · rw [hm] at hsrc ⊢
    dsimp only
    rw [hsrc, fld_three_bits]
    by_cases h7 : (source s (.w m)).toNat % 8 = 7
    · rw [if_pos h7, if_neg (by omega)]
    · rw [if_neg h7, if_pos (by omega)]
      rfl
  · rw [hv]
    dsimp only
    by_cases h6 : v.toNat ≤ 6
    · rw [if_pos h6, if_neg (by omega), if_pos h6]
      rfl
    · rw [if_neg h6, if_pos rfl, if_neg h6]

/-- P[D] tells the outcome (R82). -/
def Tells (s : State) (f : Fields) (t : State) (b : Bool) : Prop :=
  ∀ p : BitVec 3, f.d = .p p → (t.ctx s.cur).pred p.toNat = if p = 0 ∨ b = true then BitVec.allOnes 64 else 0

theorem allOf_eq (b : Bool) : allOf b = if b = true then BitVec.allOnes 64 else 0 := by
  cases b <;> rfl

theorem pred_writeD (c : Ctx) (p : BitVec 3) (b : Bool) :
    (c.writeD (.p p) (allOf b)).pred p.toNat = if p = 0 ∨ b = true then BitVec.allOnes 64 else 0 := by
  by_cases hp : p = 0
  · rw [if_pos (.inl hp)]
    subst hp
    rfl
  · have hn : p.toNat ≠ 0 := fun h0 => hp (BitVec.eq_of_toNat_eq h0)
    simp only [Ctx.writeD, Ctx.pred, Ctx.setPred, hn, if_false, SMap.getD_put_same, hp, false_or]
    exact allOf_eq b

/-- The outcome of an RTE leaves every context but the own one, and memory, as the RTE itself did. -/
theorem outcome_ends {i : Instr} {h : Hdr} {f : Fields} {eff : Nat → Ctx → State → Eff} {s v : State} {ok : Bool}
    (hexec : exec i s = issue i true false eff s) (hh : i.hdr = h) (hrun : Runs h s) (hsup : ctxNo s.cur = 7) (hpacket : Instr.packet i = false)
    (heff : eff s.cur ((issued s.cur h s).ctx s.cur) (issued s.cur h s) = rteOutcome s.cur f ok v) :
    ∃ t, exec i s = .next t ∧ Tells s f t ok ∧ (∀ y, y ≠ s.cur → t.ctx y = v.ctx y) ∧ t.mem = v.mem ∧
      (v = issued s.cur h s → OthersKept s t) := by
  refine ⟨_, exec_ready hexec hh hrun.1 (.inr hrun.2) (.inr hsup) (.inr hpacket), ?_⟩
  rw [heff]
  refine ⟨fun q hq => ?_, fun y hy => ?_, rfl, ?_⟩
  · have hp : ((retire s.cur (me s).pc h.sw none (v.modCtx s.cur fun c => c.writeD f.d (allOf ok))).ctx s.cur).p =
        ((v.ctx s.cur).writeD f.d (allOf ok)).p := by
      rw [retire_ctx_same, Ctx.retire_eq, State.modCtx_ctx_same]
    rw [← pred_writeD (v.ctx s.cur) q ok, ← hq]
    simp only [Ctx.pred]
    exact congrArg (fun m => if q.toNat = 0 then allOf true else SMap.getD m q.toNat 0) hp
  · exact (retire_ctx_ne _ _ _ _ _ _ hy).trans (State.modCtx_ctx_ne _ _ _ _ hy)
  · rintro rfl
    exact othersKept_retire (h := h) _ _ _ rfl fun y hy => State.modCtx_ctx_ne _ _ _ _ hy

/-! ### What an RTE does to its target -/

section
variable {s : State} {h : Hdr} {f : Fields}

/-- Another context keeps everything but its hold count through an issue. -/
theorem issued_other {y : Nat} (hy : y ≠ s.cur) : ((issued s.cur h s).ctx y) = { s.ctx y with held := ((issued s.cur h s).ctx y).held } :=
  issued_ctx_ne _ _ _ _ hy

theorem drainOver_issued {y : Nat} (hy : y ≠ s.cur) : drainOver (issued s.cur h s) y = drainOver s y := by
  rw [drainOver, issued_other hy, issued_reqs]
  rfl

end

theorem epc_of_still {c d : Ctx} (h : stillCtx d = stillCtx c) : d.epc = c.epc := by
  have he : (stillCtx d).epc = (stillCtx c).epc := by rw [h]
  exact he

/-- A store, or an atomic, whose deferred fault has been taken is made again (R35). -/
def storeAgain (y : Nat) (q : DeferredStore) (t : State) : Except AccErr Unit × State :=
  match q.atom with
  | none => wordStore t (coreOf y) (some y) (t.ctx y).pid q.cp q.faddr q.size q.val
  | some (op, ty) => match atomicAt t (coreOf y) (t.ctx y).pid q.faddr op ty q.size q.val with
    | (.ok _, u) => (.ok (), noteWrote (some y) (lineOf q.faddr.toNat) u)
    | (.error e, u) => (.error e, u)

theorem storeAgain_steady {α : Type} {p : State → α} (hp : Steady p) (y : Nat) (q : DeferredStore) (t : State) : p (storeAgain y q t).2 = p t := by
  unfold storeAgain
  split
  · exact wordStore_steady hp _ _ _ _ _ _ _ _
  · next op ty _ =>
    have ha := atomicAt_steady hp t (coreOf y) (t.ctx y).pid q.faddr op ty q.size q.val
    split
    · next he => rw [he] at ha; exact (noteWrote_quiet hp.toQuiet (some y) (lineOf q.faddr.toNat) _).trans ha
    · next he => rw [he] at ha; exact ha

/-- The PC at which a Stopped thread resumes does not change with the stores that are made good (R35). -/
theorem redoStores_epc (y : Nat) (s : State) : ((redoStores y s).ctx y).epc = (s.ctx y).epc := by
  have hp : Steady fun t => (t.ctx y).epc := (steady_stillCtx y).comp Ctx.epc
  unfold redoStores
  dsimp only
  rw [foldl_keeps (fun t => (t.ctx y).epc) _ fun _ _ => epc_of_still (vstSettle_stillCtx _ _ _ _)]
  apply foldl_keeps fun t => (t.ctx y).epc
  intro t q
  have hstored : ∀ r, storeAgain y q t = r → (r.2.ctx y).epc = (t.ctx y).epc := fun r hr => hr ▸ storeAgain_steady hp y q t
  split
  · split
    · next t1 he =>
      refine (modCtx_keeps Ctx.epc t1 y _ ?_ y).trans (hstored _ he)
      intro c
      rfl
    · next n t1 he =>
      refine (epc_of_still (vstFail_stillCtx _ _ _ _ _ _)).trans ((modCtx_keeps Ctx.epc t1 y _ ?_ y).trans (hstored _ he))
      intro c
      rfl
    · next e t1 _ he =>
      refine (modCtx_keeps Ctx.epc t1 y _ ?_ y).trans (hstored _ he)
      intro c
      rfl
  · rfl

/-- No completion word is named by zero. -/
theorem completionRelease_none {y : Nat} {pc : Word} {s : State} (h : (s.ctx y).tcomp.toNat / 8 % 2 ^ 51 = 0) :
    completionRelease y pc s = .ok s := by
  have ha : wordAddr (s.ctx y).tcomp = 0 := by
    rw [wordAddr, put_eq_ofNat, fld_eq, show (2 : Nat) ^ 3 = 8 from rfl, h]
    rfl
  unfold completionRelease
  rw [if_pos ha]

/-- The thread of a context ends, and what was its launch's (R19, R237). -/
theorem ended_still (y : Nat) (lid : Option Nat) (s : State) : stillCtx ((launchOver lid (endThread y s)).ctx y) = stillCtx (freed (s.ctx y)) := by
  rw [launchOver_quiet (quiet_stillCtx y), endThread_ctx_same]

/-- A context whose thread has ended is free, with the pair and the due completions it had. -/
theorem ended_freed {y : Nat} {lid : Option Nat} {s : State} {c : Ctx} (h : stillCtx (s.ctx y) = stillCtx c) :
    ((launchOver lid (endThread y s)).ctx y).run = .free ∧ ((launchOver lid (endThread y s)).ctx y).pair = c.pair ∧
      (((launchOver lid (endThread y s)).ctx y).closing = true ↔ c.mstat.unf + c.spstat.unf + c.rqstat.unf ≠ 0) := by
  have hstill := ended_still y lid s
  have hpair : (stillCtx (s.ctx y)).pair = (stillCtx c).pair := by rw [h]
  have hclosing : (freed (stillCtx (s.ctx y))).closing = (freed (stillCtx c)).closing := by rw [h]
  refine ⟨run_of_still hstill (fun w => by simp [freed, Ctx.reset]), ?_, ?_⟩
  · have he := congrArg Ctx.pair hstill
    exact Eq.trans he hpair
  · have he : ((launchOver lid (endThread y s)).ctx y).closing = (freed (stillCtx c)).closing := Eq.trans (congrArg Ctx.closing hstill :) hclosing
    rw [he]
    simp [freed, stillCtx]

/-- Settles O13: an RTE acts on the context it names where that is Stopped, and tells the outcome. -/
theorem returnsFromATrap : Obligations.ReturnsFromATrap := by
  intro h f s hrun hsup ha n y c tells u
  have htarget : rteTarget s.cur ((issued s.cur h s).ctx s.cur) f = if n ≤ 6 then some y else none := rteTarget_eq ha
  have hrte := exec_rte h f s
  have hend := exec_rteEnd h f s
  have hdrop := exec_rteDrop h f s
  rw [execRte] at hrte
  rw [execRteEnd] at hend
  rw [execRteDrop] at hdrop
  refine ⟨fun hsix hstopped => ?acts, fun hnot => ?left⟩
  case acts =>
    have hy : y ≠ s.cur := by
      have h7 : s.cur % 8 = 7 := hsup
      have hcore : coreOf s.cur = s.cur / 8 := rfl
      omega
    have hcy : (issued s.cur h s).ctx y = { c with held := (u.ctx y).held } := issued_other hy
    have hrunning : ((issued s.cur h s).ctx y).run = .stopped := by rw [hcy]; exact hstopped
    have hsome : rteTarget s.cur ((issued s.cur h s).ctx s.cur) f = some y := by rw [htarget, if_pos hsix]
    have hover : drainOver s y = true → drainOver (issued s.cur h s) y = true := fun ho => by rw [drainOver_issued hy, ho]
    have hlid : ((issued s.cur h s).ctx y).lid = c.lid := by rw [hcy]
    have hepc : ((issued s.cur h s).ctx y).epc = c.epc := by rw [hcy]
    refine ⟨?resumes, ?plain, ?noWord, ?released, ?failed, ?dropped⟩
    case resumes =>
      obtain ⟨t, ht, htells, hother, -, -⟩ := outcome_ends (h := h) (v := returnFromTrap y (redoStores y u)) (ok := true) hrte rfl hrun hsup rfl
        (by simp only [hsome, hrunning, if_true] <;> rfl)
      obtain ⟨hback, -, -⟩ := returnFromTrap_spec y (redoStores y u)
      refine ⟨t, ht, htells, ?_, ?_⟩
      · rw [hother y hy, hback]
        exact (redoStores_epc y u).trans hepc
      · rw [hother y hy, hback]
        dsimp only
        split
        · exact .inl rfl
        · exact .inr rfl
    case plain =>
      intro hdeferred
      have hredo : redoStores y (issued s.cur h s) = issued s.cur h s := by
        rw [redoStores, hcy, show c.deferred = [] from hdeferred]
        rfl
      obtain ⟨t, ht, htells, hother, hmem, -⟩ := outcome_ends (h := h) (v := returnFromTrap y u) (ok := true) hrte rfl hrun hsup rfl
        (by simp only [hsome, hrunning, hredo, if_true] <;> rfl)
      obtain ⟨hback, -, -⟩ := returnFromTrap_spec y u
      refine ⟨t, ht, htells, ?_, ?_, ?_, ?_, hmem.trans (issued_mem _ _ _)⟩
      all_goals
        rw [hother y hy, hback, hcy]
      cases hout : c.outstanding <;> simp
    case noWord =>
      intro hdrained hword
      have hnone : completionRelease y ((issued s.cur h s).ctx y).epc (issued s.cur h s) = .ok (issued s.cur h s) :=
        completionRelease_none (by rw [hcy]; exact hword)
      obtain ⟨t, ht, htells, hother, -, -⟩ := outcome_ends (h := h) (v := launchOver (u.ctx y).lid (endThread y u)) (ok := true) hend rfl hrun hsup rfl
        (by simp only [hsome, hrunning, hover hdrained, hnone, if_true] <;> rfl)
      obtain ⟨hfree, hpair, -⟩ := ended_freed (y := y) (lid := (u.ctx y).lid) (s := u) rfl
      refine ⟨t, ht, htells, ?_, ?_⟩
      · rw [hother y hy, hfree]
      · rw [hother y hy, hpair]
        show ((issued s.cur h s).ctx y).pair = c.pair
        rw [hcy]
    case released =>
      intro v hdrained hrelease
      have hok : completionRelease y ((issued s.cur h s).ctx y).epc (issued s.cur h s) = .ok v := by rw [hepc]; exact hrelease
      obtain ⟨t, ht, htells, hother, hmem, -⟩ := outcome_ends (h := h) (v := launchOver c.lid (endThread y v)) (ok := true) hend rfl hrun hsup rfl
        (by simp only [hsome, hrunning, hover hdrained, hok, hlid, if_true] <;> rfl)
      obtain ⟨hfree, -, -⟩ := ended_freed (y := y) (lid := c.lid) (s := v) rfl
      exact ⟨t, ht, htells, by rw [hother y hy, hfree], hmem⟩
    case failed =>
      intro e v hdrained hrelease
      have herr : completionRelease y ((issued s.cur h s).ctx y).epc (issued s.cur h s) = .error (some e, v) := by rw [hepc]; exact hrelease
      have hstill : stillCtx (v.ctx y) = stillCtx (u.ctx y) := by
        have hs := completionRelease_steady (steady_stillCtx y) y c.epc u
        rw [hrelease] at hs
        exact hs
      obtain ⟨t, ht, htells, hother, -, -⟩ := outcome_ends (h := h) (ok := false) hend rfl hrun hsup rfl
        (v := v.modCtx y fun d => { d with cause := BitVec.ofNat 64 e.cause, fpc := e.fpc, faddr := e.faddr.getD d.faddr, finfo := e.finfo })
        (by simp only [hsome, hrunning, hover hdrained, herr, if_true] <;> rfl)
      refine ⟨t, ht, htells, ?_⟩
      rw [hother y hy, State.modCtx_ctx_same]
      exact ⟨(run_of_still hstill (fun w => by rw [hrunning]; exact RunState.noConfusion)).trans hrunning, rfl, rfl, rfl⟩
    case dropped =>
      obtain ⟨t, ht, htells, hother, -, -⟩ := outcome_ends (h := h) (v := launchOver (u.ctx y).lid (endThread y u)) (ok := true) hdrop rfl hrun hsup rfl
        (by simp only [hsome, hrunning, if_true] <;> rfl)
      obtain ⟨hfree, hpair, hclosing⟩ := ended_freed (y := y) (lid := (u.ctx y).lid) (s := u) (c := u.ctx y) rfl
      have hc : (u.ctx y).pair = c.pair ∧ (u.ctx y).mstat = c.mstat ∧ (u.ctx y).spstat = c.spstat ∧ (u.ctx y).rqstat = c.rqstat := by
        rw [show u.ctx y = _ from hcy]
        exact ⟨rfl, rfl, rfl, rfl⟩
      obtain ⟨hp, hm, hsp, hrq⟩ := hc
      refine ⟨t, ht, htells, ?_, ?_, ?_⟩
      · rw [hother y hy, hfree]
      · rw [hother y hy, hpair, hp]
      · rw [hother y hy, hclosing, hm, hsp, hrq]
  case left =>
    have hrunning : n ≤ 6 → ((issued s.cur h s).ctx y).run ≠ .stopped := fun hsix => by
      have h7 : s.cur % 8 = 7 := hsup
      have hcore : coreOf s.cur = s.cur / 8 := rfl
      rw [issued_other (show y ≠ s.cur by omega)]
      exact hnot.resolve_left (by omega)
    have hends : ∀ (i : Instr) (g : Nat → Ctx → State → Nat → Eff), exec i s = issue i true false (fun x d t =>
          match rteTarget x d f with
          | some z => if (t.ctx z).run = .stopped then g x d t z else rteOutcome x f false t
          | none => rteOutcome x f false t) s → i.hdr = h → Instr.packet i = false → Ends i s fun t => tells t false ∧ OthersKept s t :=
        fun i g hexec hh hpacket => by
      obtain ⟨t, ht, htells, -, -, hkept⟩ := outcome_ends (h := h) (v := u) (ok := false) hexec hh hrun hsup hpacket (by
        rw [htarget]
        by_cases hsix : n ≤ 6
        · rw [if_pos hsix]
          exact if_neg (hrunning hsix)
        · rw [if_neg hsix])
      exact ⟨t, ht, htells, hkept rfl⟩
    exact ⟨hends _ _ hrte rfl rfl, hends _ _ hend rfl rfl, hends _ _ hdrop rfl rfl⟩

end Sys2Proof.Proofs
end

section
/-! PROOFS. EXIT and EVNEXT (O15). -/

namespace Sys2Proof.Proofs

open Sys2Proof Sys2Proof.Machine Sys2Proof.Claims

/-! ### The implicit marker (R25) -/

/-- Nothing is due before a word's own effect: no long result, no pending trap, no deferred fault, and with `drain` no request. -/
theorem marker_none {x : Nat} {i : Instr} {drain : Bool} {s : State} (hout : (s.ctx x).outstanding = []) (hpend : (s.ctx x).pend = [])
    (hdef : (s.ctx x).deferred = []) (hreqs : drain = true → (s.reqs.any fun r => r.x == x) = false) : marker x i drain s = none := by
  unfold marker
  cases drain
  · simp [hout, hpend, hdef]
  · simp [hout, hpend, hdef, hreqs rfl]

theorem drainOver_issued_same (h : Hdr) (s : State) : drainOver (issued s.cur h s) s.cur = drainOver s s.cur := by
  rw [drainOver, issued_ctx_same, issued_reqs]
  rfl

/-! ### What the end of a thread leaves (R19) -/

theorem cancelWait_mem (x : Nat) (s : State) : (cancelWait x s).mem = s.mem := by
  unfold cancelWait
  dsimp only
  split
  · apply foldl_keeps State.mem
    intro _ _
    rfl
  · rfl

theorem linkReturn_spad (x n : Nat) (v : Word) (s : State) (k : Nat) : ((linkReturn x n v s).core k).spad = (s.core k).spad := by
  unfold linkReturn
  dsimp only
  rw [State.setCore_core]
  split
  · next hk =>
    subst hk
    split <;> split <;> rfl
  · rfl

theorem cancelWait_spad (x : Nat) (s : State) (k : Nat) : ((cancelWait x s).core k).spad = (s.core k).spad := by
  unfold cancelWait
  dsimp only
  refine (getD_map_keeps Core.spad (fun c : Core => { c with
      waiters := c.waiters.filter fun r => !(r.x == x && r.waits)
      linkWait := c.linkWait.filter fun q => q.2 != x }) (fun _ => rfl) _ k Core.reset).trans ?_
  split
  · exact foldl_keeps (fun t => (t.core k).spad) _ (fun _ _ => linkReturn_spad _ _ _ _ _) _ _
  · rfl

theorem dropOwner_spad (y : Nat) (s : State) (k : Nat) : ((dropOwner y s).core k).spad = (s.core k).spad := by
  unfold dropOwner
  apply foldl_keeps fun t => (t.core k).spad
  intro t m
  apply modCore_keeps Core.spad
  intro c
  split <;> rfl

theorem dropOwner_mem (y : Nat) (s : State) : (dropOwner y s).mem = s.mem := by
  unfold dropOwner
  apply foldl_keeps State.mem
  intro _ _
  rfl

/-- Where the thread of a context is over, its event is counted and its packet told (R211, R468). -/
def eventHandled (y : Nat) (s : State) : State :=
  match (s.ctx y).event? with
  | some e => markHandled (coreOf y) e s
  | none => s

theorem packetEnd_quiet {α : Type} {p : State → α} (hp : Quiet p) (pkt : Option (Nat × Nat)) (s : State) : p (packetEnd pkt s) = p s := by
  unfold packetEnd
  split
  · rfl
  · exact modPkg_quiet hp _ _

theorem eventHandled_quiet {α : Type} {p : State → α} (hp : Quiet p) (y : Nat) (s : State) : p (eventHandled y s) = p s := by
  unfold eventHandled
  split
  · exact markHandled_quiet hp _ _ _
  · rfl

theorem endThread_spad (y : Nat) (s : State) (k : Nat) : ((endThread y s).core k).spad = (s.core k).spad := by
  have hp : Quiet fun t => (t.core k).spad := (quiet_stillCore k).comp Core.spad
  calc ((endThread y s).core k).spad
      = ((dropOwner y { cancelWait y (packetEnd (s.ctx y).pkt (eventHandled y s)) with
          reqs := (cancelWait y (packetEnd (s.ctx y).pkt (eventHandled y s))).reqs.map fun (r : Req) =>
            if r.x = y then { r with x := nobody, acq := 0 } else r }).core k).spad := rfl
    _ = ((cancelWait y (packetEnd (s.ctx y).pkt (eventHandled y s))).core k).spad := dropOwner_spad _ _ _
    _ = (s.core k).spad := by
      rw [cancelWait_spad]
      exact (packetEnd_quiet hp _ _).trans (eventHandled_quiet hp _ _)

theorem endThread_mem (y : Nat) (s : State) : (endThread y s).mem = s.mem := by
  have hpacket : ∀ (pkt : Option (Nat × Nat)) (t : State), (packetEnd pkt t).mem = t.mem := fun pkt t => by
    unfold packetEnd
    split <;> rfl
  have hevent : (eventHandled y s).mem = s.mem := by
    unfold eventHandled
    split
    · exact markHandled_mem _ _ _
    · rfl
  exact (dropOwner_mem _ _).trans ((cancelWait_mem _ _).trans ((hpacket _ _).trans hevent))

/-! ### A word of a scratchpad (R159, R160) -/

/-- The offset that an address names in a scratchpad. -/
theorem off_of_resolve {k c off : Nat} {a : Word} (h : resolve k a = .spad c off) : off = a.toNat % 2 ^ 18 := by
  rw [resolve_eq] at h
  split_ifs at h <;> cases h <;> rfl

theorem setFld_whole (w : Word) (n : Nat) : setFld w 0 64 n = BitVec.ofNat 64 n := by
  have hmask : w &&& ~~~(BitVec.ofNat 64 ((2 ^ 64 - 1) <<< 0)) = 0 := BitVec.and_zero
  rw [setFld, hmask, put_eq_ofNat, Nat.pow_zero, Nat.mul_one]
  refine BitVec.zero_or.trans (BitVec.eq_of_toNat_eq ?_)
  simp

/-- A word-aligned offset within a scratchpad names the word at its eighth. -/
theorem wordAddr_off {k c off : Nat} {w : Word} (h : resolve k (wordAddr w) = .spad c off) : off % 8 = 0 ∧ off / 8 % 32768 = off / 8 := by
  have hoff := off_of_resolve h
  have hlt : w.toNat / 2 ^ 3 % 2 ^ 51 * 2 ^ 3 < 2 ^ 64 := by omega
  rw [wordAddr, put_eq_ofNat, fld_eq, BitVec.toNat_ofNat, Nat.mod_mod, Nat.mod_eq_of_lt hlt] at hoff
  omega

/-- Nothing keeps an access of the core's own die from a word that is there (R160). -/
theorem portErr_none {s : State} {k off : Nat} (hlive : (s.core k).killed = false) (hdroop : (s.core k).droopAt = none)
    (hres : resident s k off = true) (hbad : spadBad s k off = false) (whole : Bool) : portErr s (coreDie k) k off whole = none := by
  simp [portErr, hlive, hdroop, hres, hbad]

/-- Where no waiter is registered at the port, a write changes the word and marks the held threads. -/
theorem spadWrite_alone {s : State} {k : Nat} (hwait : (s.core k).waiters = []) (off n v : Nat) :
    spadWrite s k off n v = markHeld (fun h => match h with | .spad c o => c == k && o / 8 == off / 8 | _ => false) (spadSet s k off n v) := by
  have hmarked : ∀ hit, ((markHeld hit (spadSet s k off n v)).core k).waiters = [] := fun hit => by
    refine (((quiet_stillCore k).comp Core.waiters).mark hit _).trans ?_
    show ((spadSet s k off n v).core k).waiters = []
    rw [spadSet, State.modCore_core_same]
    exact hwait
  unfold spadWrite spadChanged
  dsimp only
  rw [hmarked]
  rfl

/-- The word that a decrement leaves. -/
theorem atomNew_decrement (w : Word) : BitVec.ofNat 64 (atomNew .add 6 8 (natBits w.toNat 0 64) (2 ^ 64 - 1) 0) = w - 1 := by
  apply BitVec.eq_of_toNat_eq
  have hw := w.isLt
  have hone : (1 : Word).toNat = 1 := rfl
  simp only [atomNew, natBits, Nat.shiftRight_zero, BitVec.toNat_ofNat, BitVec.toNat_sub, hone]
  omega

/-- A release at core scope writes nothing back (R166, R181). -/
theorem releaseVia_core {sc : Nat} (hsc : sc = 1) (k pid : Nat) (ranges : Option (List (Nat × Nat))) (s : State) : releaseVia s k pid sc ranges = s := by
  subst hsc
  have hnone : flushReqs (fun r => r.src == k && ([] : List Home).any fun h => r.home.sameSlice h) s = s :=
    flushReqs_none fun r _ => Bool.and_false _
  unfold releaseVia releaseLines
  simp only [scopeAtDie, scopeAtHome, hnone, Bool.false_and, Nat.reduceEqDiff, decide_false, Bool.or_self, Bool.false_eq_true, if_false,
    Nat.reduceLeDiff]

/-- A decrement of a completion word of the own scratchpad is made at once, and changes that word alone (R19, R160). -/
theorem completionRelease_own {x off : Nat} {pc : Word} {s : State} (hscope : (s.ctx x).tcomp.toNat % 8 = 1)
    (hword : (s.ctx x).tcomp.toNat / 8 % 2 ^ 51 ≠ 0) (hspace : resolve (coreOf x) (wordAddr (s.ctx x).tcomp) = .spad (coreOf x) off)
    (hlive : (s.core (coreOf x)).killed = false) (hdroop : (s.core (coreOf x)).droopAt = none) (hwait : (s.core (coreOf x)).waiters = [])
    (hres : resident s (coreOf x) off = true) (hbad : spadBad s (coreOf x) off = false) :
    ∃ v, completionRelease x pc s = .ok v ∧
      (v.core (coreOf x)).spad.getD (off / 8) 0 = (s.core (coreOf x)).spad.getD (off / 8) 0 - 1 ∧
      ∀ j, j ≠ off / 8 → (v.core (coreOf x)).spad.getD j 0 = (s.core (coreOf x)).spad.getD j 0 := by
  generalize hk : coreOf x = k at *
  obtain ⟨halign, hin⟩ := wordAddr_off hspace
  have hrelease : ∀ pid, releaseVia s k pid (scopeOf (s.ctx x).tcomp) none = s := by
    intro pid
    have hone : scopeOf (s.ctx x).tcomp = 1 := by
      rw [scopeOf, fld_eq, Nat.pow_zero, Nat.div_one, show (2 : Nat) ^ 3 = 8 from rfl, hscope]
      rfl
    exact releaseVia_core hone k pid none s
  have hnonzero : wordAddr (s.ctx x).tcomp ≠ 0 := by
    intro h0
    have hzero := congrArg BitVec.toNat h0
    rw [wordAddr, put_eq_ofNat, fld_eq, BitVec.toNat_ofNat] at hzero
    have hnought : (0 : Word).toNat = 0 := rfl
    omega
  obtain ⟨o, ho⟩ := leaveWord_core 0 k off k s
  have hatomic : ∀ pid, atomicAt s k pid (wordAddr (s.ctx x).tcomp) .add 6 8 (2 ^ 64 - 1) =
      (.ok (spadGet s k off 8), spadWrite (leaveWord 0 k off s) k off 8 (atomNew .add 6 8 (spadGet s k off 8) (2 ^ 64 - 1) 0)) := by
    intro pid
    rw [atomicAt, hspace]
    dsimp only
    rw [portErr_none hlive hdroop hres hbad]
  refine ⟨signalFell (s.ctx x).pkt (spadGet s k off 8) (spadWrite (leaveWord 0 k off s) k off 8 (atomNew .add 6 8 (spadGet s k off 8) (2 ^ 64 - 1) 0)), ?_, ?_⟩
  · unfold completionRelease
    dsimp only
    rw [if_neg hnonzero, hk, hrelease, hatomic]
  · have hcore : ((signalFell (s.ctx x).pkt (spadGet s k off 8)
        (spadWrite (leaveWord 0 k off s) k off 8 (atomNew .add 6 8 (spadGet s k off 8) (2 ^ 64 - 1) 0))).core k).spad =
        ((s.core k).spad.putD (off / 8) 0 ((s.core k).spad.getD (off / 8) 0 - 1)) := by
      refine (signalFell_quiet ((quiet_stillCore k).comp Core.spad) _ _ _).trans ?_
      rw [spadWrite_alone (by rw [ho]; exact hwait)]
      refine (((quiet_stillCore k).comp Core.spad).mark _ _).trans ?_
      show ((spadSet (leaveWord 0 k off s) k off 8 _).core k).spad = _
      rw [spadSet, State.modCore_core_same, ho]
      dsimp only
      rw [halign, hin, spadGet, spadWord, halign, hin, setFld_whole, atomNew_decrement]
    rw [hcore]
    refine ⟨?_, fun j hj => ?_⟩
    · rw [SMap.getD_putD, if_pos rfl]
    · rw [SMap.getD_putD, if_neg hj]

/-! ### EXIT and EVNEXT -/

theorem exec_exit (h : Hdr) (f : Fields) (s : State) : exec (.exit h f) s = execExit h f s := by
  rfl

theorem exec_evnext (h : Hdr) (f : Fields) (s : State) : exec (.evnext h f) s = execEvnext h f s := by
  rfl

/-- A return with a caller resident moves the window down to it (R73). -/
theorem retWindow_resident {x : Nat} {pc : Word} {s : State} (h : (s.ctx x).res ≠ 0) :
    retWindow x pc s = .ok ((s.ctx x).w 7 &&& ~~~3, s.modCtx x fun d => { d with wf := (d.wf + 7) % 8, res := d.res - 1 }) := by
  unfold retWindow
  simp only [h, ne_eq, not_false_eq_true, if_true]

/-- The end of a thread of which nothing is under way, and whose completion release is done. -/
theorem endEff_over {x : Nat} {i : Instr} {s v : State} (hover : drainOver s x = true) (hrelease : completionRelease x (s.ctx x).pc s = .ok v) :
    endEff x i s = .leave (launchOver (s.ctx x).lid (endThread x v)) := by
  unfold endEff
  rw [if_pos hover, hrelease]

section
variable {h : Hdr} {f : Fields} {s : State}

/-- A word that runs settles what its effect answers. -/
theorem exec_settles {i : Instr} {sup : Bool} {eff : Nat → Ctx → State → Eff} {e : Eff} (hexec : exec i s = issue i sup false eff s)
    (hh : i.hdr = h) (hrun : RunsAlone h s) (hsup : sup = false ∨ ctxNo s.cur = 7)
    (heff : eff s.cur ((issued s.cur h s).ctx s.cur) (issued s.cur h s) = e) : exec i s = .next (settle s.cur (me s).pc h e) := by
  rw [exec_ready hexec hh hrun.1.1 (.inr hrun.1.2) hsup (.inl hrun.2), heff]

/-- A word whose effect is the end of its thread, of which nothing is under way, and whose completion release is done. -/
theorem exec_over {i : Instr} {eff : Nat → Ctx → State → Eff} {v : State} (hexec : exec i s = issue i false false eff s) (hh : i.hdr = h)
    (hrun : RunsAlone h s) (heff : eff s.cur ((issued s.cur h s).ctx s.cur) (issued s.cur h s) = endEff s.cur i (issued s.cur h s))
    (hover : drainOver s s.cur = true) (hrelease : completionRelease s.cur (me s).pc (issued s.cur h s) = .ok v) :
    exec i s = .next (launchOver (me s).lid (endThread s.cur v)) := by
  have hself := issued_ctx_same s.cur h s
  have hpc : ((issued s.cur h s).ctx s.cur).pc = (me s).pc := by rw [hself]
  have hlid : ((issued s.cur h s).ctx s.cur).lid = (me s).lid := by rw [hself]
  have hend := endEff_over (i := i) ((drainOver_issued_same h s).trans hover) (v := v) (by rw [hpc]; exact hrelease)
  rw [hlid] at hend
  exact exec_settles hexec hh hrun (.inl rfl) (heff.trans hend)

/-- No implicit marker holds a word of a context where nothing is due. -/
theorem marker_issued_none {i : Instr} (hout : (me s).outstanding = []) (hpend : (me s).pend = []) (hdef : (me s).deferred = []) :
    marker s.cur i false (issued s.cur h s) = none := by
  have hself := issued_ctx_same s.cur h s
  exact marker_none (by rw [hself]; exact hout) (by rw [hself]; exact hpend) (by rw [hself]; exact hdef) fun hd => by cases hd

theorem inlineFrame_issued : ((issued s.cur h s).ctx s.cur).inlineFrame = ((me s).res + (me s).spl != 0 && ((me s).w 7).getLsbD 0) := by
  rw [issued_ctx_same]
  rfl

theorem completionRelease_issued_none (hword : (me s).tcomp.toNat / 8 % 2 ^ 51 = 0) :
    completionRelease s.cur (me s).pc (issued s.cur h s) = .ok (issued s.cur h s) :=
  completionRelease_none (by rw [issued_ctx_same]; exact hword)

end

theorem threadsEnd : Claims.ThreadsEnd := by
  intro h f s hrun c k hout hpend hdef
  have hself := issued_ctx_same s.cur h s
  have hmark : ∀ i, marker s.cur i false (issued s.cur h s) = none := fun i => marker_issued_none hout hpend hdef
  have hexit := exec_exit h f s
  have hevnext := exec_evnext h f s
  rw [execExit] at hexit
  rw [execEvnext] at hevnext
  have houter : c.res + c.spl = 0 ∨ (c.w 7).getLsbD 0 = false → ∀ v, drainOver s s.cur = true →
      completionRelease s.cur c.pc (issued s.cur h s) = .ok v → exec (.exit h f) s = .next (launchOver c.lid (endThread s.cur v)) := by
    intro hframe v hover hrelease
    have hinline : ((issued s.cur h s).ctx s.cur).inlineFrame = false := by
      rw [inlineFrame_issued]
      rcases hframe with h0 | h0
      · rw [show (me s).res + (me s).spl = 0 from h0]
        rfl
      · rw [show ((me s).w 7).getLsbD 0 = false from h0, Bool.and_false]
    exact exec_over (h := h) hexit rfl hrun (by simp only [hmark, hinline] <;> rfl) hover hrelease
  refine ⟨?returns, ?plain, ?counted⟩
  case returns =>
    intro _ hlink hres
    have hinline : ((issued s.cur h s).ctx s.cur).inlineFrame = true := by
      rw [inlineFrame_issued, show ((me s).w 7).getLsbD 0 = true from hlink, Bool.and_true]
      exact bne_iff_ne.mpr (by omega)
    have hresident : ((issued s.cur h s).ctx s.cur).res ≠ 0 := by rw [hself]; exact hres
    have hpc : ((issued s.cur h s).ctx s.cur).pc = c.pc := by rw [hself]
    refine ⟨_, exec_settles (h := h) hexit rfl hrun (.inl rfl)
      (by simp only [hmark, hinline, if_true, retWindow_resident hresident] <;> rfl), ?_, ?_,
      othersKept_retire (h := h) _ _ _ rfl fun y hy => State.modCtx_ctx_ne _ _ _ _ hy⟩
    · refine (congrArg Ctx.pc (retire_ctx_same _ _ _ _ _)).trans ?_
      rw [Ctx.retire_pc_some, hself]
      rfl
    · refine (congrArg Ctx.res (retire_ctx_same _ _ _ _ _)).trans ?_
      rw [Ctx.retire_eq, State.modCtx_ctx_same, hself]
  case plain =>
    intro hover hword
    have hrelease := completionRelease_issued_none (h := h) (s := s) hword
    obtain ⟨hfree, hpair, -⟩ := ended_freed (y := s.cur) (lid := c.lid) (s := issued s.cur h s) rfl
    have hkept : ((issued s.cur h s).ctx s.cur).pair = c.pair := by rw [hself]
    refine ⟨fun hframe => ?_, ?_⟩
    · refine ⟨_, houter hframe _ hover hrelease, hfree, hpair.trans hkept, rfl, fun hlid a => ?_⟩
      rw [hlid]
      show memByte (endThread s.cur (issued s.cur h s)).mem a = _
      rw [endThread_mem, issued_mem]
    · refine ⟨_, exec_over (h := h) hevnext rfl hrun ?_ hover hrelease, hfree, hpair.trans hkept⟩
      simp only [hmark]
  case counted =>
    intro off hover houtermost hscope hword hspace hlive hdroop hwait hres hbad
    have hcore := issued_core s.cur h s k
    obtain ⟨v, hrelease, hdown, hothers⟩ := completionRelease_own (x := s.cur) (pc := c.pc) (s := issued s.cur h s) (off := off)
      (by rw [hself]; exact hscope) (by rw [hself]; exact hword) (by rw [hself]; exact hspace) (by rw [hcore]; exact hlive)
      (by rw [hcore]; exact hdroop) (by rw [hcore]; exact hwait) (by rw [resident_issued]; exact hres)
      (by rw [spadBad, hcore]; exact hbad)
    have hspad : ((launchOver c.lid (endThread s.cur v)).core k).spad = (v.core k).spad :=
      (launchOver_quiet ((quiet_stillCore k).comp Core.spad) _ _).trans (endThread_spad _ _ _)
    rw [hcore] at hdown hothers
    obtain ⟨hfree, -, -⟩ := ended_freed (y := s.cur) (lid := c.lid) (s := v) rfl
    refine ⟨_, houter (.inl houtermost) v hover hrelease, hfree, ?_, fun j hj => ?_⟩
    · rw [hspad]
      exact hdown
    · rw [hspad]
      exact hothers j hj

end Sys2Proof.Proofs
end

section
/-! PROOFS. SLEEP, POPR, MIGR and JOIN (O15). -/

namespace Sys2Proof.Proofs

open Sys2Proof Sys2Proof.Machine Sys2Proof.Claims

/-! ### A word that completes -/

/-- Where the flow goes depends on the PC and the loop registers alone (R75). -/
theorem fallThrough_flow {c d : Ctx} (hpc : d.loopcnt = c.loopcnt) (hbody : d.lbody = c.lbody) (pc : Word) :
    (fallThrough d pc).pc = (fallThrough c pc).pc ∧ (fallThrough d pc).loopcnt = (fallThrough c pc).loopcnt ∧
      (fallThrough d pc).lbody = (fallThrough c pc).lbody := by
  unfold fallThrough
  rw [hpc, hbody]
  split
  · split <;> exact ⟨rfl, rfl, rfl⟩
  · exact ⟨rfl, rfl, rfl⟩

/-- The marker parks a context while a long result is outstanding (R23). -/
theorem retire_run (d : Ctx) (user : Bool) (pc : Word) (sw : Bool) (target : Option Word) :
    (d.retire user pc sw target).run = if sw = true ∧ d.outstanding ≠ [] then .parked false none else .ready := by
  have hout : ∀ (e : Ctx), e.outstanding = d.outstanding →
      (if e.outstanding.isEmpty then RunState.ready else .parked false none) = if d.outstanding ≠ [] then .parked false none else .ready := by
    intro e he
    rw [he]
    cases d.outstanding <;> rfl
  have hfall : (fallThrough d pc).outstanding = d.outstanding := by rw [fallThrough_eq]
  cases sw
  · rw [Ctx.retire_run_plain, if_neg (by simp)]
  · unfold Ctx.retire
    simp only [if_true, true_and]
    apply hout
    cases target <;> dsimp only <;> split <;> simp only [hfall]

/-- A word that keeps the loop registers advances when it retires. -/
theorem advances_retire {h : Hdr} {c d : Ctx} (hicount : d.icount = c.icount + 1) (hcnt : d.loopcnt = c.loopcnt) (hbody : d.lbody = c.lbody)
    (user : Bool) : Advances h c (d.retire user c.pc h.sw none) := by
  obtain ⟨hpc, hloop, hlb⟩ := fallThrough_flow hcnt hbody c.pc
  refine ⟨?_, ?_, ?_, ?_, ?_⟩
  · rw [Ctx.retire_icount, hicount]
  · rw [Ctx.retire_pc_none, hpc]
  · rw [Ctx.retire_loopcnt_none, hloop]
  · rw [Ctx.retire_lbody_none, hlb]
  · rw [retire_run, Ctx.retire_outstanding]

/-- A word of any thread that is done has the next PC, and what its effect left. -/
theorem exec_done {i : Instr} {h : Hdr} {sup : Bool} {eff : Nat → Ctx → State → Eff} {s v : State} (hexec : exec i s = issue i sup false eff s)
    (hh : i.hdr = h) (hrun : RunsAlone h s) (hsup : sup = false ∨ ctxNo s.cur = 7)
    (heff : eff s.cur ((issued s.cur h s).ctx s.cur) (issued s.cur h s) = .done v)
    (hicount : (v.ctx s.cur).icount = (me s).icount + 1) (hcnt : (v.ctx s.cur).loopcnt = (me s).loopcnt) (hbody : (v.ctx s.cur).lbody = (me s).lbody) :
    ∃ t, exec i s = .next t ∧ Advances h (me s) (t.ctx s.cur) ∧ (∀ k, t.core k = v.core k) ∧ t.mem = v.mem ∧
      (∀ n, (t.ctx s.cur).w n = (v.ctx s.cur).w n) ∧ ∀ n, (t.ctx s.cur).pred n = (v.ctx s.cur).pred n := by
  refine ⟨_, exec_settles hexec hh hrun hsup heff, ?_, fun k => rfl, rfl, fun n => ?_, fun n => ?_⟩
  all_goals
    have hself := retire_ctx_same s.cur (me s).pc h.sw none v
  · show Advances h (me s) ((retire s.cur (me s).pc h.sw none v).ctx s.cur)
    rw [hself]
    exact advances_retire hicount hcnt hbody _
  · exact (congrArg (fun d => Ctx.w d n) hself).trans (Ctx.retire_w _ _ _ _ _ _)
  · exact (congrArg (fun d => Ctx.pred d n) hself).trans (Ctx.retire_pred _ _ _ _ _ _)

/-! ### SLEEP (R212) -/

theorem exec_sleep (h : Hdr) (f : Fields) (s : State) : exec (.sleep h f) s = execSleep h f s := by
  rfl

section
variable {h : Hdr} {f : Fields} {s : State}

theorem sleep_sleeps {v : BitVec 40} (hrun : RunsAlone h s) (hsup : ctxNo s.cur = 7) (hx : f.x = .i v) (hempty : (Claims.core s).supq = []) :
    Ends (.sleep h f) s fun t => Advances h (me s) (t.ctx s.cur) ∧ (t.core (coreOf s.cur)).asleep = true ∧
      (t.core (coreOf s.cur)).sleepAt = if v = 0 then none else some (s.pkg.time + v.toNat) := by
  have hself := issued_ctx_same s.cur h s
  have hexec := exec_sleep h f s
  rw [execSleep] at hexec
  have hq : ((issued s.cur h s).core (coreOf s.cur)).supq.isEmpty = true := by rw [issued_core, hempty]; rfl
  obtain ⟨t, ht, hadv, hcore, -, -, -⟩ := exec_done (h := h) hexec rfl hrun (.inr hsup)
    (v := (issued s.cur h s).modCore (coreOf s.cur) fun c =>
      { c with asleep := true, sleepAt := if v.toNat = 0 then none else some (s.pkg.time + v.toNat) })
    (by simp only [hq, if_true, hx, issued_pkg] <;> rfl) (congrArg Ctx.icount hself :) (congrArg Ctx.loopcnt hself :) (congrArg Ctx.lbody hself :)
  refine ⟨t, ht, hadv, ?_, ?_⟩
  · rw [hcore, State.modCore_core_same]
  · rw [hcore, State.modCore_core_same]
    exact if_congr (by simp [BitVec.toNat_eq]) rfl rfl

theorem sleep_goes_on (hrun : RunsAlone h s) (hsup : ctxNo s.cur = 7) (hitem : (Claims.core s).supq ≠ []) :
    Leaves (.sleep h f) h s (fallThrough (me s) (me s).pc) := by
  have hq : ((issued s.cur h s).core (coreOf s.cur)).supq.isEmpty = false := by
    rw [issued_core]
    exact List.isEmpty_eq_false_iff.mpr hitem
  have hexec := exec_sleep h f s
  rw [execSleep] at hexec
  exact leaves_of_done (h := h) hexec rfl hrun.1 (.inr hsup) rfl (v := issued s.cur h s) (by simp only [hq] <;> rfl) rfl (fun _ _ => rfl)
    (issued_ctx_same _ _ _)

/-! ### POPR (R213) -/

theorem exec_popr (h : Hdr) (f : Fields) (s : State) : exec (.popr h f) s = execPopr h f s := by
  rfl

/-- POPR takes nothing where the bottom of the deque is no record of its own (R213). -/
theorem popr_nothing {p : BitVec 3} (hrun : RunsAlone h s) (hd : f.d = .p p)
    (hnone : ∀ q, (Claims.core s).deque.getLast? = some q → q.r.dualFlag = true) :
    Leaves (.popr h f) h s (fallThrough ((me s).setPred p.toNat 0) (me s).pc) := by
  have hself := issued_ctx_same s.cur h s
  have hdeque : ((issued s.cur h s).core (coreOf s.cur)).deque = (Claims.core s).deque := by rw [issued_core]
  have hexec := exec_popr h f s
  rw [execPopr] at hexec
  refine leaves_of_done (h := h) hexec rfl hrun.1 (.inl rfl) rfl
    (v := (issued s.cur h s).modCtx s.cur fun c => c.setPred p.toNat 0) ?_ rfl (fun y hy => State.modCtx_ctx_ne _ _ _ _ hy) ?_
  · dsimp only
    rw [hdeque]
    cases hlast : (Claims.core s).deque.getLast? with
    | none => simp only [hd] <;> rfl
    | some q => simp only [hd, hnone q hlast, if_true] <;> rfl
  · rw [State.modCtx_ctx_same, hself]
    unfold Ctx.setPred
    split <;> rfl

/-- The registers of a record go to eight entries of the window (R213). -/
def takeWords (n : Nat) (word : Nat → Word) (c : Ctx) (m : Nat) : Ctx := (List.range m).foldl (fun d i => d.setW (n + i) (word i)) c

theorem takeWords_succ (n : Nat) (word : Nat → Word) (c : Ctx) (m : Nat) :
    takeWords n word c (m + 1) = (takeWords n word c m).setW (n + m) (word m) := by
  simp only [takeWords, List.range_succ, List.foldl_append, List.foldl_cons, List.foldl_nil]

theorem takeWords_keeps {α : Type} (p : Ctx → α) (hp : ∀ c i v, p (c.setW i v) = p c) (n : Nat) (word : Nat → Word) (c : Ctx) (m : Nat) :
    p (takeWords n word c m) = p c := by
  induction m with
  | zero => rfl
  | succ m ih => rw [takeWords_succ, hp, ih]

theorem takeWords_w {n m j : Nat} (word : Nat → Word) (c : Ctx) (hin : n + m ≤ 16) (hj : j < m) : (takeWords n word c m).w (n + j) = word j := by
  induction m with
  | zero => omega
  | succ m ih =>
    rw [takeWords_succ, Ctx.setW_w _ _ _ _ (by omega) (by omega)]
    by_cases hlast : j = m
    · rw [if_pos (by omega), hlast]
    · rw [if_neg (by omega), ih (by omega) (by omega)]

/-- POPR takes the bottom record of the deque (R213). -/
theorem popr_takes {p : BitVec 3} {n : BitVec 4} {q : Queued} {rest : List Queued} (hrun : RunsAlone h s) (hd : f.d = .p p) (ha : f.a = .w n)
    (hn : n.toNat ≤ 8) (hdeque : (Claims.core s).deque = rest ++ [q]) (hdual : q.r.dualFlag = false) :
    Ends (.popr h f) s fun t => Advances h (me s) (t.ctx s.cur) ∧ (t.core (coreOf s.cur)).deque = rest ∧
      (t.ctx s.cur).pred p.toNat = BitVec.allOnes 64 ∧ ∀ j, j < 8 → (t.ctx s.cur).w (n.toNat + j) = q.r.word j := by
  have hself := issued_ctx_same s.cur h s
  have hlast : ((issued s.cur h s).core (coreOf s.cur)).deque.getLast? = some q := by
    rw [issued_core, hdeque]
    exact List.getLast?_concat
  have hexec := exec_popr h f s
  rw [execPopr] at hexec
  obtain ⟨v, hv⟩ : ∃ v, v = (((issued s.cur h s).modCore (coreOf s.cur) fun c => { c with deque := c.deque.dropLast }).modCtx s.cur fun c =>
      (takeWords n.toNat q.r.word { c with chunks := c.chunks ++ q.r.chunk.toList } 8).writeD (.p p) (allOf true)) := ⟨_, rfl⟩
  obtain ⟨c, hc, hcv⟩ : ∃ c : Ctx, (c.icount = (me s).icount + 1 ∧ c.loopcnt = (me s).loopcnt ∧ c.lbody = (me s).lbody) ∧
      v.ctx s.cur = (takeWords n.toNat q.r.word c 8).writeD (.p p) (allOf true) := by
    refine ⟨{ (issued s.cur h s).ctx s.cur with chunks := ((issued s.cur h s).ctx s.cur).chunks ++ q.r.chunk.toList }, ?_, ?_⟩
    · rw [hself]
      exact ⟨rfl, rfl, rfl⟩
    · rw [hv, State.modCtx_ctx_same]
      rfl
  obtain ⟨hicount, hcnt, hbody⟩ := hc
  have hflow : ∀ e : Ctx, ((e.writeD (.p p) (allOf true)).icount, (e.writeD (.p p) (allOf true)).loopcnt, (e.writeD (.p p) (allOf true)).lbody) =
      (e.icount, e.loopcnt, e.lbody) := fun e => by
    simp only [Ctx.writeD, Ctx.setPred]
    split <;> rfl
  have hkept := (hflow _).trans (takeWords_keeps (fun e => (e.icount, e.loopcnt, e.lbody)) (fun _ _ _ => rfl) n.toNat q.r.word c 8)
  rw [← hcv, Prod.mk.injEq, Prod.mk.injEq] at hkept
  obtain ⟨t, ht, hadv, hcore, -, hw, hpred⟩ := exec_done (h := h) hexec rfl hrun (.inl rfl) (v := v)
    (by dsimp only; rw [hlast]; dsimp only; rw [hdual, hd, ha, hv]; rfl)
    (hkept.1.trans hicount) (hkept.2.1.trans hcnt) (hkept.2.2.trans hbody)
  refine ⟨t, ht, hadv, ?_, ?_, fun j hj => ?_⟩
  · rw [hcore, hv]
    rw [State.modCtx_core, State.modCore_core_same, issued_core, hdeque]
    exact List.dropLast_concat
  · rw [hpred, hcv, pred_writeD, if_pos (.inr rfl)]
  · rw [hw, hcv]
    exact (Ctx.setPred_w _ _ _ _).trans (takeWords_w _ _ (by omega) hj)

end

end Sys2Proof.Proofs
end

section
/-! PROOFS. MIGR and JOIN (O15). -/

namespace Sys2Proof.Proofs

open Sys2Proof Sys2Proof.Machine Sys2Proof.Claims

/-! ### The departure of a thread (R27) -/

/-- The threads on their way, which no access of memory touches. -/
theorem steady_migs : Steady State.migs :=
  { quiet_stillRest.comp State.migs with
    port := fun _ _ _ _ => rfl
    inFlight := fun _ _ => rfl }

/-- The registers of a context that a departure sends with the thread packet. -/
def sent (c : Ctx) : Word × Word × Word × SMap Word := (c.pc, c.loopcnt, c.lbody, c.p)

/-- What a departure reads of the thread and of the threads on their way, as it was. -/
def departureView (x : Nat) (s : State) : (Word × Word × Word × SMap Word) × List MigMsg := (sent (s.ctx x), s.migs)

theorem steady_departureView (x : Nat) : Steady (departureView x) := by
  have hsent : Steady fun s => sent (s.ctx x) := (steady_stillCtx x).comp sent
  exact {
    beyond := fun s m bad ds pk n => Prod.ext (hsent.beyond s m bad ds pk n) (steady_migs.beyond s m bad ds pk n)
    reply := fun r v s => Prod.ext (hsent.reply r v s) (steady_migs.reply r v s)
    mark := fun hit s => Prod.ext (hsent.mark hit s) (steady_migs.mark hit s)
    push := fun k typ data s => Prod.ext (hsent.push k typ data s) (steady_migs.push k typ data s)
    lines := fun s k g => Prod.ext (hsent.lines s k g) (steady_migs.lines s k g)
    wrote := fun s y ln => Prod.ext (hsent.wrote s y ln) (steady_migs.wrote s y ln)
    port := fun s k c h => Prod.ext (hsent.port s k c h) (steady_migs.port s k c h)
    inFlight := fun s rs => Prod.ext (hsent.inFlight s rs) (steady_migs.inFlight s rs) }

theorem departureView_modCtx (x : Nat) (s : State) (g : Ctx → Ctx) (hg : ∀ c, sent (g c) = sent c) : departureView x (s.modCtx x g) = departureView x s := by
  rw [departureView, State.modCtx_ctx_same, hg]
  rfl

/-- Spilling a frame moves nothing that the packet carries (R11). -/
theorem spillFrame_departureView {x : Nat} {pc : Word} {s t : State} (h : spillFrame x pc s = .ok t) : departureView x t = departureView x s := by
  unfold spillFrame at h
  dsimp only at h
  have hstore := fun a ws => wordsStore_steady (steady_departureView x) s (coreOf x) (some x) (s.ctx x).pid (s.ctx x).normal a ws
  split at h
  · cases h
  · split at h
    · cases h
    · cases h
    · next he =>
      cases h
      have hs := hstore ((s.ctx x).wsp - 64) ((s.ctx x).frame ((s.ctx x).wf + 8 - (s.ctx x).res))
      rw [he] at hs
      refine (departureView_modCtx x _ _ ?_).trans hs
      intro _
      rfl

theorem spillAll_departureView {x : Nat} {pc : Word} {n : Nat} {s t : State} (h : spillAll x pc n s = .ok t) : departureView x t = departureView x s := by
  induction n generalizing s with
  | zero =>
    cases h
    rfl
  | succ n ih =>
    unfold spillAll at h
    split at h
    · cases h
      rfl
    · split at h
      · cases h
      · next he => exact (ih h).trans (spillFrame_departureView he)

theorem sendHome_quiet {α : Type} {p : State → α} (hp : Quiet p) (k pid vln : Nat) (s : State) : p (sendHome k pid vln s) = p s := by
  have hlines : p ((l1Cores s k).foldl (fun t m => l1Clean t m pid vln) s) = p s := foldl_keeps p _ (fun _ _ => l1Clean_quiet hp _ _ _ _) _ _
  unfold sendHome
  dsimp only
  split
  · split
    · exact hlines
    · exact (llcClean_quiet hp _ _ _).trans hlines
  · exact hlines

theorem releaseOwn_quiet {α : Type} {p : State → α} (hp : Quiet p) (x : Nat) (s : State) : p (releaseOwn x s) = p s :=
  foldl_keeps p _ (fun _ _ => sendHome_quiet hp _ _ _ _) _ _

/-- A departure leaves the context Migrating and one more thread packet, with the PC at which the thread goes on and its predicates (R27). -/
theorem depart_ok {x dst : Nat} {s t : State} (h : depart x dst false s = .ok t) :
    (t.ctx x).run = .migrating ∧ t.migs.length = s.migs.length + 1 ∧
      ∃ m ∈ t.migs, m.dst = dst ∧ m.ctx.pc = (fallThrough (s.ctx x) (s.ctx x).pc).pc ∧ m.ctx.p = (s.ctx x).p := by
  unfold depart at h
  dsimp only at h
  split at h
  · cases h
  · next s1 hspill =>
    have hstore := wordsStore_steady (steady_departureView x) s1 (coreOf x) (some x) (s1.ctx x).pid 0 ((s1.ctx x).wsp - 128) (departureFrame (s1.ctx x))
    split at h
    · cases h
    · cases h
    · next s2 he =>
      rw [he] at hstore
      have hview : departureView x (releaseOwn x s2) = departureView x s :=
        (releaseOwn_quiet (steady_departureView x).toQuiet x s2).trans (hstore.trans (spillAll_departureView hspill))
      obtain ⟨hsent, hmigs⟩ := Prod.mk.inj hview
      have hp : ((releaseOwn x s2).ctx x).p = (s.ctx x).p := congrArg (fun v => v.2.2.2) hsent
      have hspilled : sent (s1.ctx x) = sent (s.ctx x) := congrArg Prod.fst (spillAll_departureView hspill)
      have hflow := (fallThrough_flow (c := s.ctx x) (d := s1.ctx x) (congrArg (fun v => v.2.1) hspilled) (congrArg (fun v => v.2.2.1) hspilled)
        (s.ctx x).pc).1
      cases h
      refine ⟨?_, ?_, _, List.mem_append_right _ (List.mem_singleton.mpr rfl), rfl, ?_, hp⟩
      · have hrun := congrArg Ctx.run (State.modCtx_ctx_same (releaseOwn x s2) x fun d => { d with run := .migrating })
        exact hrun
      · rw [List.length_append, hmigs]
        rfl
      · exact hflow

/-! ### MIGR (R89) -/

theorem exec_migr (h : Hdr) (f : Fields) (s : State) : exec (.migr h f) s = execMigr h f s := by
  rfl

section
variable {h : Hdr} {f : Fields} {s : State}

/-- An address that names the own scratchpad names the thread's own core (R89). -/
theorem names_own_core {k off : Nat} {a : Word} (h : resolve k a = .spad k off) :
    (bitAt a 53 && (bitAt a 52 || coreNamed a == some k)) = true := by
  unfold resolve at h
  split at h
  · cases h
  · split at h
    · cases h
    · next h53 =>
      have h1 : bitAt a 53 = true := by simpa using h53
      rw [h1, Bool.true_and]
      split at h
      · next h52 => rw [h52, Bool.true_or]
      · split at h
        · cases h
        · split at h
          · next c hc =>
            obtain ⟨rfl, -⟩ := Space.spad.inj h
            rw [hc, beq_self_eq_true, Bool.or_true]
          · cases h

/-- MIGR to the own core, and every MIGR of context 7, is nothing but the marker (R89, R214). -/
theorem migr_goes_on {n : BitVec 4} (hrun : RunsAlone h s) (ha : f.a = .w n) (hout : (me s).outstanding = []) (hpend : (me s).pend = [])
    (hdef : (me s).deferred = []) (hown : resolve (coreOf s.cur) ((me s).w n.toNat) = .spad (coreOf s.cur) 0 ∨ ctxNo s.cur = 7) :
    Leaves (.migr h f) h s (fallThrough (me s) (me s).pc) := by
  have hself := issued_ctx_same s.cur h s
  have hsrc : srcS ((issued s.cur h s).ctx s.cur) [] f.a = (me s).w n.toNat := by rw [srcS_issued _ _ _ (by rw [ha]; rfl), ha]; rfl
  have hexec := exec_migr h f s
  rw [execMigr] at hexec
  have hdual : ((issued s.cur h s).ctx s.cur).dual.isSome = false := by
    rw [hself]
    exact congrArg Option.isSome hrun.2
  have hmine : (ctxNo s.cur == 7 || bitAt ((me s).w n.toNat) 53 && (bitAt ((me s).w n.toNat) 52 ||
      coreNamed ((me s).w n.toNat) == some (coreOf s.cur))) = true := by
    rcases hown with ho | ho
    · rw [names_own_core ho, Bool.or_true]
    · rw [ho]
      rfl
  refine leaves_of_done (h := h) hexec rfl hrun.1 (.inl rfl) rfl (v := issued s.cur h s) ?_ rfl (fun _ _ => rfl) hself
  dsimp only
  rw [hsrc, hmine, hdual]
  simp only [Bool.not_true, Bool.false_and, Bool.false_eq_true, if_false, if_true, marker_issued_none hout hpend hdef]

/-- MIGR to another core departs, where nothing of the thread is due or under way (R27). -/
theorem migr_departs {n : BitVec 4} {dst : Nat} {u : State} (hrun : RunsAlone h s) (ha : f.a = .w n) (hout : (me s).outstanding = [])
    (hpend : (me s).pend = []) (hdef : (me s).deferred = []) (h53 : ((me s).w n.toNat).getLsbD 53 = true)
    (h52 : ((me s).w n.toNat).getLsbD 52 = false) (hnamed : coreNamed ((me s).w n.toNat) = some dst) (hother : dst ≠ coreOf s.cur)
    (huser : ctxNo s.cur ≠ 7) (hroom : (me s).wlim.toNat + 64 * (me s).res + 128 ≤ (me s).wsp.toNat) (hover : drainOver s s.cur = true)
    (hbatches : (me s).xbatches = []) (hopen : (me s).xopen = 0)
    (hdepart : depart s.cur dst false ((issued s.cur h s).modCtx s.cur Ctx.seal) = .ok u) :
    exec (.migr h f) s = .next u := by
  have hself := issued_ctx_same s.cur h s
  have hsrc : srcS ((issued s.cur h s).ctx s.cur) [] f.a = (me s).w n.toNat := by rw [srcS_issued _ _ _ (by rw [ha]; rfl), ha]; rfl
  have hexec := exec_migr h f s
  rw [execMigr] at hexec
  have hdual : ((issued s.cur h s).ctx s.cur).dual.isSome = false := by
    rw [hself]
    exact congrArg Option.isSome hrun.2
  have hmine : (ctxNo s.cur == 7 || bitAt ((me s).w n.toNat) 53 && (bitAt ((me s).w n.toNat) 52 ||
      coreNamed ((me s).w n.toNat) == some (coreOf s.cur))) = false := by
    rw [hnamed, show bitAt ((me s).w n.toNat) 52 = false from h52, beq_false_of_ne huser, beq_false_of_ne (fun hd => hother (Option.some.inj hd))]
    simp
  have hlimit : migOverflow ((issued s.cur h s).ctx s.cur) = false := by
    rw [hself]
    exact decide_eq_false (Nat.not_lt.mpr hroom)
  have hdrained := (drainOver_issued_same h s).trans hover
  have hreqs : ((issued s.cur h s).reqs.any fun r => r.x == s.cur) = false := by
    unfold drainOver at hdrained
    dsimp only at hdrained
    simp only [Bool.and_eq_true, Bool.not_eq_true'] at hdrained
    exact hdrained.1.1.1.2
  have hmark : marker s.cur (.migr h f) true (issued s.cur h s) = none :=
    marker_none (by rw [hself]; exact hout) (by rw [hself]; exact hpend) (by rw [hself]; exact hdef) fun _ => hreqs
  have hsealed : drainOver ((issued s.cur h s).modCtx s.cur Ctx.seal) s.cur = true := by
    rw [drainOver, State.modCtx_ctx_same]
    exact hdrained
  have hclosed : (((issued s.cur h s).modCtx s.cur Ctx.seal).ctx s.cur).xbatches.isEmpty = true := by
    rw [State.modCtx_ctx_same, hself]
    simp only [Ctx.seal, show (s.ctx s.cur).xbatches = [] from hbatches, show (s.ctx s.cur).xopen = 0 from hopen, List.nil_append, pruneBatches, if_true,
      List.isEmpty_nil]
  have hnowait : ((issued s.cur h s).ctx s.cur).wait? = none := issued_wait hrun.1.1
  have hfew : ¬ 16 ≤ ((issued s.cur h s).ctx s.cur).xbatches.length := by
    rw [hself, show (s.ctx s.cur).xbatches = [] from hbatches]
    exact Nat.not_succ_le_zero 15
  have hglobal : bitAt ((me s).w n.toNat) 53 = true := h53
  refine exec_settles (h := h) hexec rfl hrun (.inl rfl) (e := .leave u) ?_
  dsimp only
  rw [hsrc, hmine, hdual]
  simp only [hglobal, hnamed, hlimit, hmark, hnowait, hfew, hsealed, hclosed, hdepart, Option.getD_some, Bool.not_false, Bool.and_false,
    Bool.and_true, Bool.false_eq_true, if_true, if_false, decide_false]
end

/-! ### An access of the own scratchpad that waits for its reply (R88, R160) -/

theorem acquireObj_mem (s : State) (k pid sc obj : Nat) : (acquireObj s k pid sc obj).mem = s.mem := by
  have hline : ∀ d ln (t : State), (llcAcquire d ln t).mem = t.mem := fun d ln t => by
    unfold llcAcquire
    split <;> rfl
  have hl1 : ∀ ranges, ((l1Cores s k).foldl (fun t m => t.modCore m fun c =>
      { c with l1 := c.l1.filterMap fun l => if lineIn ranges l.vln then l.acquired else some l }) s).mem = s.mem := fun ranges => by
    apply foldl_keeps State.mem
    intro _ _
    rfl
  unfold acquireObj acquireLines
  dsimp only
  split
  · rfl
  · split
    · split
      · rw [overRanges_quiet _ _ _ _ fun _ _ => hline _ _ _, hl1]
      · exact hl1 _
    · rfl

/-- The reply to a context that waits, and that is no copy of a pair, is kept with its wait (R35). -/
theorem replyReq_waiting {r : Req} {s : State} {w : Wait} (hwaits : r.waits = true) (hdual : (s.ctx r.x).dual = none)
    (hrun : (s.ctx r.x).run = .waiting w) (v : LongVal) : ((replyReq r v s).ctx r.x).reply? = some v := by
  have hto : replyTo r.x s = [r.x] := by rw [replyTo, hdual]
  unfold replyReq
  rw [if_pos hwaits, hto]
  rw [List.foldl_cons, List.foldl_nil, State.modCtx_ctx_same, hrun]
  rfl

/-- A JOIN whose counter reads 0 is answered at its home at once (R88). -/
theorem performReq_join {r : Req} {s : State} {off : Nat} (hop : r.op = .join) (hsize : r.size = 8) (hhome : r.home = .spad r.src off)
    (hlive : (s.core r.src).killed = false) (hdroop : (s.core r.src).droopAt = none) (hres : resident s r.src off = true)
    (hbad : spadBad s r.src off = false) (hzero : spadWord s r.src off = 0) (halign : off % 8 = 0) :
    performReq r s = .ok (finishReq r (.ok 0) (meetWord 1 r.src off s)) := by
  have hget : spadGet s r.src off r.size = 0 := by rw [spadGet, hzero, halign, hsize]; rfl
  have heligible : r.eligible s r.src off = true := by
    simp only [Req.eligible, hop, Req.holds, hget]
    rfl
  unfold performReq
  rw [hhome]
  simp only [fencedFrom_self, hop, hlive, hdroop, hres, hbad, Bool.false_eq_true, if_false, Option.isSome_none, Bool.not_true, Bool.false_and]
  unfold portDo
  rw [if_pos heligible]
  simp only [spadPerform, hop, hget, ReqOp.changes, Bool.false_eq_true, if_false]

/-- The context that waits, with what it waits for. -/
def waitCtx (i : Instr) (kind : WaitKind) (s : State) (c : Ctx) : Ctx :=
  { c with run := .waiting ⟨i, kind, s.pkg.time, s.nextId, none, none, false, [], 0⟩ }

theorem waitFor_start {x : Nat} {i : Instr} {kind : WaitKind} {s : State} (hready : (s.ctx x).run = .ready) :
    waitFor x i kind none s = s.fresh.2.modCtx x (waitCtx i kind s) := by
  unfold waitFor
  rw [hready]
  rfl

/-- The count of instructions and the loop registers of a context. -/
def loopState (c : Ctx) : Word × Word × Word := (c.icount, c.loopcnt, c.lbody)

/-- The request of a JOIN for a counter of the own scratchpad. -/
def joinReq (x off : Nat) (a : Word) (c : Ctx) : Req := { mkReq x c .join (.spad (coreOf x) off) 8 7 0 a with waits := true }

/-- JOIN's request for a counter of the own scratchpad that reads 0 is answered at once, and nothing but the wait has changed. -/
theorem join_answered {x off : Nat} {i : Instr} {a : Word} {u : State} (hready : (u.ctx x).run = .ready) (hdual : (u.ctx x).dual = none)
    (hlive : (u.core (coreOf x)).killed = false) (hdroop : (u.core (coreOf x)).droopAt = none) (hres : resident u (coreOf x) off = true)
    (hbad : spadBad u (coreOf x) off = false) (hzero : spadWord u (coreOf x) off = 0) (halign : off % 8 = 0) :
    ∃ v, launchReq (joinReq x off a (u.ctx x)) (waitFor x i .join none u) = v ∧ (v.ctx x).reply? = some (.ok 0) ∧
      loopState (v.ctx x) = loopState (u.ctx x) ∧ (v.core (coreOf x)).spad = (u.core (coreOf x)).spad ∧ v.mem = u.mem := by
  rw [waitFor_start hready]
  obtain ⟨w, hw⟩ : ∃ w, w = u.fresh.2.modCtx x (waitCtx i .join u) := ⟨_, rfl⟩
  have hwctx : w.ctx x = waitCtx i .join u (u.ctx x) := by rw [hw, State.modCtx_ctx_same]; rfl
  have hwcore : w.core (coreOf x) = u.core (coreOf x) := by rw [hw]; rfl
  have hperform : performReq (joinReq x off a (u.ctx x)) w = .ok (finishReq (joinReq x off a (u.ctx x)) (.ok 0) (meetWord 1 (coreOf x) off w)) := by
    refine performReq_join rfl rfl rfl ?_ ?_ ?_ ?_ ?_ halign <;> rw [hw]
    · exact hlive
    · exact hdroop
    · exact hres
    · exact hbad
    · exact hzero
  have hat : (joinReq x off a (u.ctx x)).atCore (joinReq x off a (u.ctx x)).src = true := beq_self_eq_true _
  have hmeet : (meetWord 1 (coreOf x) off w).ctx x = w.ctx x := by rw [State.ctx, meetWord_ctxs]; rfl
  obtain ⟨o, ho⟩ := meetWord_core 1 (coreOf x) off (coreOf x) w
  refine ⟨replyReq (joinReq x off a (u.ctx x)) (.ok 0) (meetWord 1 (coreOf x) off w), ?_, ?_, ?_, ?_, ?_⟩
  · rw [← hw, launchReq, if_pos hat, startReq, hperform]
    rfl
  · exact replyReq_waiting (r := joinReq x off a (u.ctx x)) rfl ((congrArg Ctx.dual (hmeet.trans hwctx)).trans hdual)
      (congrArg Ctx.run (hmeet.trans hwctx)) _
  · refine (((steady_stillCtx x).comp loopState).reply _ _ _).trans ?_
    show loopState ((meetWord 1 (coreOf x) off w).ctx x) = _
    rw [hmeet, hwctx]
    rfl
  · refine (((quiet_stillCore (coreOf x)).comp Core.spad).reply _ _ _).trans ?_
    show ((meetWord 1 (coreOf x) off w).core (coreOf x)).spad = _
    rw [ho, hwcore]
  · rw [replyReq_mem, meetWord_mem, hw]
    rfl

theorem exec_join (h : Hdr) (f : Fields) (s : State) : exec (.join h f) s = execJoin h f s := by
  rfl

theorem accessSpace_own {x n off : Nat} {pc a : Word} {s : State} (hspace : resolve (coreOf x) a = .spad (coreOf x) off) (hn : a.toNat % n = 0)
    (hres : resident s (coreOf x) off = true) : accessSpace s x pc a n = .ok (.spad (coreOf x) off) := by
  simp [accessSpace, hspace, hn, hres]

/-- A word whose request is answered at once goes on with the answer. -/
theorem waitReply_answered {x : Nat} {i : Instr} {kind : WaitKind} {deadline : Option Nat} {r : Req} {s v : State} {val : LongVal}
    {k : LongVal → State → Eff} (hnowait : (s.ctx x).wait? = none)
    (hlaunch : launchReq { r with waits := true } (waitFor x i kind deadline s) = v) (hreply : (v.ctx x).reply? = some val) :
    waitReply x i kind deadline r s k = k val v := by
  unfold waitReply
  simp only [hnowait, Option.isSome_none, Bool.false_eq_true, if_false, hlaunch, hreply]

/-- JOIN on a counter of the own scratchpad that reads 0 goes on (R88). -/
theorem join_goes_on {h : Hdr} {f : Fields} {s : State} {off : Nat} (hrun : RunsAlone h s) (hown : OwnWord s (addr s f) 8 off)
    (hzero : (Claims.core s).spad.getD (off / 8) 0 = 0) :
    Ends (.join h f) s fun t => Advances h (me s) (t.ctx s.cur) ∧ (t.core (coreOf s.cur)).spad = (Claims.core s).spad ∧ t.mem = s.mem := by
  obtain ⟨⟨hspace, halign, hres, hlive, hdroop, hreqs⟩, hbad⟩ := hown
  have hexec := exec_join h f s
  rw [execJoin] at hexec
  have hself := issued_ctx_same s.cur h s
  have hcore := issued_core s.cur h s (coreOf s.cur)
  have hoff := off_of_resolve hspace
  have hin : off / 8 % 32768 = off / 8 := by omega
  obtain ⟨v, hlaunch, hreply, hloop, hspad, hmem⟩ := join_answered (x := s.cur) (u := issued s.cur h s) (off := off) (i := .join h f) (a := addr s f)
    (by rw [hself]; exact hrun.1.1) (by rw [hself]; exact hrun.2) (by rw [hcore]; exact hlive) (by rw [hcore]; exact hdroop)
    (by rw [resident_issued]; exact hres) (by rw [spadBad, hcore]; exact hbad)
    (by rw [spadWord, hcore, hin]; exact congrArg BitVec.toNat hzero) (by omega)
  have hnowait : ((issued s.cur h s).ctx s.cur).wait? = none := issued_wait hrun.1.1
  have hea : ((issued s.cur h s).ctx s.cur).ea f = addr s f := (ea_issued _ _ _ _).trans (ea_eq_addr _ _)
  have hflush : flushOwn s.cur (addr s f) (issued s.cur h s) = issued s.cur h s := flushOwn_none (by rw [issued_reqs]; exact hreqs) _
  obtain ⟨V, hV⟩ : ∃ V, V = acquireObj v (coreOf s.cur) ((issued s.cur h s).ctx s.cur).pid f.x.sc (globalOf (coreOf s.cur) (addr s f)).toNat :=
    ⟨_, rfl⟩
  have hVloop : loopState (V.ctx s.cur) = loopState ((issued s.cur h s).ctx s.cur) := by
    rw [hV]
    exact (acquireObj_quiet ((quiet_stillCtx s.cur).comp loopState) _ _ _ _ _).trans hloop
  rw [hself] at hVloop
  obtain ⟨hicount, hflow⟩ := Prod.mk.inj hVloop
  obtain ⟨hcnt, hbody⟩ := Prod.mk.inj hflow
  obtain ⟨t, ht, hadv, htcore, htmem, -, -⟩ := exec_done (h := h) hexec rfl hrun (.inl rfl) (v := V) (by
    dsimp only
    rw [hea, hnowait, accessSpace_own hspace halign (by rw [resident_issued]; exact hres)]
    simp only [Option.isSome_none, Bool.false_eq_true, if_false, hflush]
    rw [waitReply_answered hnowait hlaunch hreply, hV]) hicount hcnt hbody
  refine ⟨t, ht, hadv, ?_, ?_⟩
  · rw [htcore, hV]
    refine (acquireObj_quiet ((quiet_stillCore (coreOf s.cur)).comp Core.spad) _ _ _ _ _).trans ?_
    exact hspad.trans (issued_core_spad _ _ _ _)
  · rw [htmem, hV, acquireObj_mem, hmem]
    exact issued_mem _ _ _

theorem threadWordsComplete : Claims.ThreadWordsComplete := by
  intro h f s hrun c k
  refine ⟨fun n ha hout hpend hdef => ⟨?stays, ?departs⟩, fun off hown _ hzero => join_goes_on hrun hown hzero, fun v hsup hx => ⟨?sleeps, ?wakes⟩,
    fun p n hd ha hn => ⟨?takes, ?dual, ?empty⟩⟩
  case stays => exact migr_goes_on hrun ha hout hpend hdef
  case departs =>
    intro dst h53 h52 hnamed hother huser hroom hover hbatches hopen u hdepart
    obtain ⟨hmigrating, hlength, m, hmem, hdst, hpc, hp⟩ := depart_ok hdepart
    have hsealed : ((issued s.cur h s).modCtx s.cur Ctx.seal).ctx s.cur = Ctx.seal ((issued s.cur h s).ctx s.cur) := State.modCtx_ctx_same _ _ _
    rw [hsealed] at hpc hp
    rw [State.modCtx_migs, issued_migs] at hlength
    refine ⟨u, migr_departs hrun ha hout hpend hdef h53 h52 hnamed hother huser hroom hover hbatches hopen hdepart, hmigrating, hlength, m, hmem,
      hdst, hpc.trans ?_, hp.trans ?_⟩
    · have hatpc : ((issued s.cur h s).ctx s.cur).seal.pc = c.pc := by rw [issued_ctx_same]; rfl
      rw [hatpc]
      exact (fallThrough_flow (by rw [issued_ctx_same]; rfl) (by rw [issued_ctx_same]; rfl) _).1
    · rw [issued_ctx_same]
      rfl
  case sleeps => exact sleep_sleeps hrun hsup hx
  case wakes => exact sleep_goes_on hrun hsup
  case takes =>
    intro q rest hdeque hdual
    exact popr_takes hrun hd ha hn hdeque hdual
  case dual =>
    intro q rest hdeque hdual
    refine popr_nothing hrun hd fun r hr => ?_
    rw [hdeque, List.getLast?_concat] at hr
    cases hr
    exact hdual
  case empty =>
    intro hdeque
    refine popr_nothing hrun hd fun r hr => ?_
    rw [hdeque] at hr
    cases hr

/-- Settles O15: the end of a thread, and the words that move it, hold it, put it to sleep and feed it. -/
theorem threadWords : Obligations.ThreadWords :=
  ⟨threadsEnd, threadWordsComplete⟩

end Sys2Proof.Proofs
end

section
/-! PROOFS. The lanes of a vector register, and the words that write them (R129 to R133). -/

namespace Sys2Proof.Proofs

open Sys2Proof Sys2Proof.Machine Sys2Proof.Claims

/-! ### Lanes (R129) -/

theorem laneGet_eq (v : VReg) (w i : Nat) : laneGet v w i = Claims.lane v w i := by
  rw [laneGet, natBits, Nat.shiftRight_eq_div_pow, Claims.lane]

theorem lane_lt (v : VReg) (w i : Nat) : Claims.lane v w i < 2 ^ w := Nat.mod_lt _ (Nat.two_pow_pos w)

theorem lanePack_lt (w : Nat) (l : List Nat) : lanePack w l < 2 ^ (w * l.length) := by
  induction l with
  | nil => exact Nat.one_pos
  | cons n rest ih =>
    have hn : n % 2 ^ w < 2 ^ w := Nat.mod_lt _ (Nat.two_pow_pos w)
    calc lanePack w (n :: rest) < 2 ^ w + 2 ^ w * lanePack w rest := Nat.add_lt_add_right hn _
      _ = 2 ^ w * (lanePack w rest + 1) := by ring
      _ ≤ 2 ^ w * 2 ^ (w * rest.length) := Nat.mul_le_mul_left _ ih
      _ = 2 ^ (w * (n :: rest).length) := by rw [← pow_add, List.length_cons, Nat.mul_succ, Nat.add_comm]

theorem lanePack_lane (w : Nat) (l : List Nat) (j : Nat) : lanePack w l / 2 ^ (w * j) % 2 ^ w = l.getD j 0 % 2 ^ w := by
  induction l generalizing j with
  | nil => simp [lanePack]
  | cons n rest ih =>
    cases j with
    | zero => simp [lanePack, Nat.add_mul_mod_self_left]
    | succ j =>
      have hshift : (n % 2 ^ w + 2 ^ w * lanePack w rest) / 2 ^ w = lanePack w rest := by
        rw [Nat.add_mul_div_left _ _ (Nat.two_pow_pos w), Nat.div_eq_of_lt (Nat.mod_lt _ (Nat.two_pow_pos w)), Nat.zero_add]
      rw [lanePack, Nat.mul_succ, Nat.add_comm (w * j), pow_add, ← Nat.div_div_eq_div_mul, hshift, ih, List.getD_cons_succ]

/-- A register packed of lanes that fit it has them (R129). -/
theorem lane_lanesOf {w n j : Nat} (hfit : w * n ≤ 512) (hj : j < n) (g : Nat → Nat) : Claims.lane (lanesOf w n g) w j = g j % 2 ^ w := by
  have hlt : lanePack w ((List.range n).map g) < 2 ^ 512 :=
    (lanePack_lt _ _).trans_le (Nat.pow_le_pow_right Nat.two_pos (by rwa [List.length_map, List.length_range]))
  rw [Claims.lane, lanesOf, BitVec.toNat_ofNat, Nat.mod_eq_of_lt hlt, lanePack_lane]
  simp [hj]

/-- A merge replaces the lanes that are on (R131). -/
theorem lane_laneMerge {w n j : Nat} (hfit : w * n ≤ 512) (hw : w ≠ 6) (hj : j < n) (d : VReg) (on : Nat → Bool) (g : Nat → Nat) :
    Claims.lane (laneMerge d w n on g) w j = if on j then g j % 2 ^ w else Claims.lane d w j := by
  rw [laneMerge, decide_eq_false hw, Bool.false_and, if_neg (by decide)]
  refine (congrArg (fun v => Claims.lane v w j) BitVec.or_zero).trans ?_
  rw [lane_lanesOf hfit hj]
  split
  · rfl
  · rw [laneGet_eq, Nat.mod_eq_of_lt (lane_lt _ _ _)]

/-! ### The lanes that a word names (R131, R133, R139) -/

section
variable {h : Hdr} {s : State}

theorem vec_issued (n : Nat) : ((issued s.cur h s).ctx s.cur).vec n = (me s).vec n := by
  rw [issued_ctx_same]
  rfl

theorem laneSrc_issued {o : Opnd} (ho : o.link? = none) (w j : Nat) : laneSrc ((issued s.cur h s).ctx s.cur) o w j = Claims.laneOf s o w j := by
  have hsrc := srcS_issued h s o ho
  unfold laneSrc Claims.laneOf
  cases o with
  | v n => exact (laneGet_eq _ _ _).trans (congrArg (fun v => Claims.lane v w j) (vec_issued _))
  | _ => exact congrArg (fun v : Word => v.toNat % 2 ^ w) hsrc

theorem laneOf_lt (o : Opnd) (w j : Nat) : Claims.laneOf s o w j < 2 ^ w := by
  unfold Claims.laneOf
  split
  · exact lane_lt _ _ _
  · exact Nat.mod_lt _ (Nat.two_pow_pos w)

theorem laneCnt_issued {o : Opnd} (ho : o.link? = none) (w j : Nat) : laneCnt ((issued s.cur h s).ctx s.cur) o w j = Claims.laneCount s o w j := by
  have hsrc := srcS_issued h s o ho
  unfold laneCnt Claims.laneCount
  cases o with
  | v n => exact (laneGet_eq _ _ _).trans (congrArg (fun v => Claims.lane v w j) (vec_issued _))
  | imm n => rfl
  | _ => exact congrArg BitVec.toNat hsrc

theorem laneOn_issued (f : Fields) (j : Nat) : laneOn ((issued s.cur h s).ctx s.cur) f j = Claims.enabled s f j := by
  rw [issued_ctx_same]
  rfl

/-- A word that writes D lane by lane replaces the enabled lanes, and leaves the rest (R129 to R131). -/
theorem vecOp_gives {i : Instr} {f : Fields} {d : BitVec 5} {w n : Nat} {g : Ctx → Nat → Nat} {r : Nat → Nat} (hexec : exec i s = vecOp i f g s)
    (hh : i.hdr = h) (hrun : Runs h s) (hpacket : Instr.packet i = false) (hd : f.d = .v d) (hw : tyBits f.x.ty = w)
    (hn : Sys2Proof.laneCount f.x.ty = n) (hfit : w * n ≤ 512) (hw6 : w ≠ 6)
    (hg : ∀ j, g ((issued s.cur h s).ctx s.cur) j % 2 ^ w = r j % 2 ^ w) : Claims.VecGives i h f d s w n r := by
  have hself := issued_ctx_same s.cur h s
  obtain ⟨c, hc⟩ : ∃ c, c = (issued s.cur h s).ctx s.cur := ⟨_, rfl⟩
  obtain ⟨e, he⟩ : ∃ e, e = c.setVec d.toNat (laneResult c f (g c)) := ⟨_, rfl⟩
  have hstep : exec i s = .next (retire s.cur (me s).pc h.sw none
      ((issued s.cur h s).modCtx s.cur fun c => c.setVec f.d.num (laneResult c f (g c)))) :=
    exec_ready hexec hh hrun.1 (.inr hrun.2) (.inl rfl) (.inr hpacket)
  have hafter : (retire s.cur (me s).pc h.sw none ((issued s.cur h s).modCtx s.cur fun c => c.setVec f.d.num (laneResult c f (g c)))).ctx s.cur =
      e.retire (ctxNo s.cur != 7) (me s).pc h.sw none := by
    rw [retire_ctx_same, State.modCtx_ctx_same, he, hc, hd]
    rfl
  have hcw : tyBits f.ty = w := hw
  have hcn : Sys2Proof.laneCount f.ty = n := hn
  have hvec : ∀ m, (e.retire (ctxNo s.cur != 7) (me s).pc h.sw none).vec m = if m = d.toNat then laneResult c f (g c) else (me s).vec m := fun m => by
    rw [Ctx.retire_vec, he, Ctx.setVec_vec, hc, vec_issued]
  refine ⟨_, hstep, ?_, othersKept_retire (h := h) _ _ _ rfl fun y hy => State.modCtx_ctx_ne _ _ _ _ hy, ?_, fun j hj => ?_, fun m hm => ?_, ?_, ?_⟩
  all_goals rw [hafter]
  · refine advances_retire ?_ ?_ ?_ _ <;> rw [he, hc, hself] <;> rfl
  · rw [Ctx.retire_eq, he]
    rfl
  · rw [hvec, if_pos rfl, laneResult, hcw, hcn, lane_laneMerge hfit hw6 hj, hc, laneOn_issued, hg, hd]
    exact if_congr Iff.rfl rfl (congrArg (fun v => Claims.lane v w j) (vec_issued _))
  · rw [hvec, if_neg hm]
  · rw [Ctx.retire_stack, he, hc, hself]
    rfl
  · rw [Ctx.retire_p, he, hc, hself]
    rfl

end

end Sys2Proof.Proofs
end

section
/-! PROOFS. The arithmetic of integer lanes (R135, R136, R138, R139). -/

namespace Sys2Proof.Proofs

open Sys2Proof Sys2Proof.Machine Sys2Proof.Claims

/-! ### Integer types (R129) -/

section
variable {ty : Nat} (hty : ty < 8)
include hty

theorem tyBits_int : tyBits ty = width ty := by
  interval_cases ty <;> rfl

theorem laneCount_int : Sys2Proof.laneCount ty = 512 / width ty := by
  interval_cases ty <;> rfl

theorem tySigned_int : tySigned ty = decide (ty % 2 = 0) := by
  interval_cases ty <;> rfl

theorem tyFloat_int : tyFloat ty = false := by
  interval_cases ty <;> rfl

omit hty in
theorem width_pos (ty : Nat) : 0 < width ty := Nat.mul_pos (by decide) (Nat.two_pow_pos _)

theorem width_ne_six : width ty ≠ 6 := by
  interval_cases ty <;> decide

end

/-! ### Numbers modulo a power of two -/

theorem wrap_eq (w : Nat) (r : Int) : Claims.wrap w r = wrapInt w r := rfl

theorem wrapInt_lt (w : Nat) (r : Int) : wrapInt w r < 2 ^ w := by
  have hpos : (0 : Int) < (2 ^ w : Nat) := Int.natCast_pos.mpr (Nat.two_pow_pos w)
  have hlt := Int.emod_lt_of_pos r hpos
  have hnonneg := Int.emod_nonneg r hpos.ne'
  unfold wrapInt
  omega

theorem wrapInt_mod (w : Nat) (r : Int) : wrapInt w r % 2 ^ w = wrapInt w r := Nat.mod_eq_of_lt (wrapInt_lt w r)

theorem wrapInt_natCast (w n : Nat) : wrapInt w n = n % 2 ^ w := by
  rw [wrapInt, ← Int.natCast_emod, Int.toNat_natCast]

theorem wrapInt_congr {w : Nat} {r q : Int} (h : r ≡ q [ZMOD (2 ^ w : Nat)]) : wrapInt w r = wrapInt w q := congrArg Int.toNat h

theorem signedOf_eq {w : Nat} (hw : 0 < w) (n : Nat) : signedOf w n = Int.bmod n (2 ^ w) := by
  obtain ⟨v, rfl⟩ : ∃ v, w = v + 1 := ⟨w - 1, by omega⟩
  rw [signedOf, Int.bmod_def, Nat.add_sub_cancel, ← Int.natCast_emod]
  have hpow : 2 ^ (v + 1) = 2 * 2 ^ v := pow_succ' 2 v
  have hhalf : ((2 ^ (v + 1) : Nat) + 1 : Int) / 2 = (2 ^ v : Nat) := by omega
  rw [hhalf]
  simp only [Nat.cast_lt]

/-! ### Lanes as integers (R138) -/

section
variable {ty a b : Nat} (hty : ty < 8)
include hty

theorem laneInt_eq (ha : a < 2 ^ width ty) : laneInt ty a = Claims.laneValue ty a := by
  rw [laneInt, tySigned_int hty, tyBits_int hty, signedOf_eq (width_pos ty), Nat.mod_eq_of_lt ha, Claims.laneValue]
  simp only [decide_eq_true_eq]

omit hty in
theorem laneValue_modEq (ty a : Nat) : Claims.laneValue ty a ≡ a [ZMOD (2 ^ width ty : Nat)] := by
  unfold Claims.laneValue
  split
  · exact Int.bmod_emod
  · rfl

theorem satLane_wraps (r : Int) : satLane ty false r = wrapInt (width ty) r := by
  rw [satLane, tyBits_int hty]
  rfl

theorem satLane_clamps (r : Int) : satLane ty true r = wrapInt (width ty) (Claims.clamp ty r) := by
  have hone : ((2 ^ (width ty - 1) : Nat) : Int) = 2 ^ (width ty - 1) := by push_cast; rfl
  have htwo : ((2 ^ width ty : Nat) : Int) = 2 ^ width ty := by push_cast; rfl
  rw [satLane, if_pos rfl, satInt, tySigned_int hty, tyBits_int hty, Claims.clamp, hone, htwo]
  simp only [decide_eq_true_eq, min_comm r]

omit hty in
/-- A sum of lanes wraps to the sum of their bits. -/
theorem add_wraps : wrapInt (width ty) (Claims.laneValue ty a + Claims.laneValue ty b) = (a + b) % 2 ^ width ty := by
  rw [wrapInt_congr ((laneValue_modEq ty a).add (laneValue_modEq ty b)), ← Nat.cast_add, wrapInt_natCast]

omit hty in
/-- A difference of lanes wraps to the difference of their bits. -/
theorem sub_wraps (hb : b < 2 ^ width ty) :
    wrapInt (width ty) (Claims.laneValue ty a - Claims.laneValue ty b) = (a + (2 ^ width ty - b)) % 2 ^ width ty := by
  have hdiff : (a : Int) - b ≡ ((a + (2 ^ width ty - b) : Nat) : Int) [ZMOD (2 ^ width ty : Nat)] := by
    rw [Int.modEq_iff_dvd]
    refine ⟨1, ?_⟩
    rw [Nat.cast_add, Nat.cast_sub hb.le]
    ring
  rw [wrapInt_congr (((laneValue_modEq ty a).sub (laneValue_modEq ty b)).trans hdiff), wrapInt_natCast]

/-- The high half of a product (R138). -/
theorem mulHigh_wraps (ha : a < 2 ^ width ty) (hb : b < 2 ^ width ty) :
    wrapInt (tyBits ty) (laneInt ty a * laneInt ty b / (2 ^ tyBits ty : Nat)) =
      Claims.wrap (width ty) (Int.fdiv (Claims.laneValue ty a * Claims.laneValue ty b) (2 ^ width ty)) := by
  have hpow : ((2 ^ width ty : Nat) : Int) = 2 ^ width ty := by push_cast; rfl
  rw [laneInt_eq hty ha, laneInt_eq hty hb, tyBits_int hty, wrap_eq, hpow, Int.fdiv_eq_ediv_of_nonneg _ (by positivity)]

/-- Which of two lanes is the smaller (R135, R141). -/
theorem intCond_lt (ha : a < 2 ^ width ty) (hb : b < 2 ^ width ty) :
    intCond 2 (tySigned ty) (tyBits ty) a b = decide (Claims.laneValue ty a < Claims.laneValue ty b) := by
  simp only [intCond, tySigned_int hty, tyBits_int hty, Nat.mod_eq_of_lt ha, Nat.mod_eq_of_lt hb, signedOf_eq (width_pos ty), Claims.laneValue,
    decide_eq_true_eq]
  split
  · rfl
  · exact decide_eq_decide.mpr Nat.cast_lt.symm

theorem minMax_min (ha : a < 2 ^ width ty) (hb : b < 2 ^ width ty) :
    minMax ty false a b = if Claims.laneValue ty b < Claims.laneValue ty a then b else a := by
  rw [minMax, tyFloat_int hty]
  simp only [Bool.false_eq_true, if_false, intCond_lt hty hb ha, decide_eq_true_eq]

theorem minMax_max (ha : a < 2 ^ width ty) (hb : b < 2 ^ width ty) :
    minMax ty true a b = if Claims.laneValue ty a < Claims.laneValue ty b then b else a := by
  rw [minMax, tyFloat_int hty]
  simp only [Bool.false_eq_true, if_false, if_true, intCond_lt hty ha hb, decide_eq_true_eq]

omit hty in
/-- A lane is negative where its type is signed and its top bit is set. -/
theorem laneValue_neg_iff (ha : a < 2 ^ width ty) : Claims.laneValue ty a < 0 ↔ ty % 2 = 0 ∧ 2 ^ (width ty - 1) ≤ a := by
  have hpow : 2 ^ width ty = 2 * 2 ^ (width ty - 1) := by
    rw [← pow_succ', Nat.sub_add_cancel (width_pos ty)]
  unfold Claims.laneValue
  split
  · next heven =>
    rw [← signedOf_eq (width_pos ty), signedOf, Nat.mod_eq_of_lt ha]
    split <;> omega
  · next hodd =>
    simp only [hodd, false_and, iff_false, not_lt]
    exact Int.natCast_nonneg a

theorem signOp_negates : signOp ty true a % 2 ^ width ty = (2 ^ width ty - a) % 2 ^ width ty := by
  rw [signOp, tyFloat_int hty, tyBits_int hty]
  simp only [Bool.false_eq_true, if_false, Bool.true_or, if_true, Nat.mod_mod]

theorem signOp_magnitude (ha : a < 2 ^ width ty) :
    signOp ty false a = Claims.wrap (width ty) (if Claims.laneValue ty a < 0 then -(Claims.laneValue ty a) else Claims.laneValue ty a) := by
  rw [signOp, tyFloat_int hty, tyBits_int hty, tySigned_int hty, wrap_eq]
  simp only [Bool.false_eq_true, if_false, Bool.false_or, Bool.and_eq_true, decide_eq_true_eq]
  by_cases hneg : Claims.laneValue ty a < 0
  · rw [if_pos hneg, if_pos ((laneValue_neg_iff ha).mp hneg), ← wrapInt_natCast]
    apply wrapInt_congr
    have hdiff := (laneValue_modEq ty a).neg
    rw [Nat.cast_sub ha.le]
    refine Int.ModEq.trans ?_ hdiff.symm
    rw [Int.modEq_iff_dvd]
    exact ⟨-1, by ring⟩
  · rw [if_neg hneg, if_neg fun h => hneg ((laneValue_neg_iff ha).mpr h), wrapInt_congr (laneValue_modEq ty a), wrapInt_natCast,
      Nat.mod_eq_of_lt ha]

end

/-! ### Shifts (R139) -/

theorem shiftLane_left {w a cnt : Nat} : shiftLane 0 w a cnt % 2 ^ w = (if cnt < w then a * 2 ^ cnt else 0) % 2 ^ w := by
  unfold shiftLane
  by_cases h : cnt < w
  · rw [if_neg (by omega), if_pos h]
    simp only [Nat.shiftLeft_eq, Nat.mod_mod]
  · rw [if_pos (by omega), if_neg h]
    rfl

theorem shiftLane_right {w a cnt : Nat} (ha : a < 2 ^ w) : shiftLane 1 w a cnt = if cnt < w then a / 2 ^ cnt else 0 := by
  unfold shiftLane
  by_cases h : cnt < w
  · rw [if_neg (by omega), if_pos h]
    simp only [Nat.mod_eq_of_lt ha, Nat.shiftRight_eq_div_pow]
  · rw [if_pos (by omega), if_neg h]
    rfl

theorem shiftLane_arithmetic {w a cnt : Nat} (hw : 0 < w) (ha : a < 2 ^ w) : shiftLane 2 w a cnt =
    Claims.wrap w (if cnt < w then Int.fdiv (Int.bmod a (2 ^ w)) (2 ^ cnt) else if Int.bmod a (2 ^ w) < 0 then -1 else 0) := by
  have hpow : 2 ^ w = 2 * 2 ^ (w - 1) := by rw [← pow_succ', Nat.sub_add_cancel hw]
  have hneg : Int.bmod a (2 ^ w) < 0 ↔ 2 ^ (w - 1) ≤ a := by
    rw [← signedOf_eq hw, signedOf, Nat.mod_eq_of_lt ha]
    split <;> omega
  rw [wrap_eq]
  unfold shiftLane
  by_cases h : cnt < w
  · have hcast : ((2 ^ cnt : Nat) : Int) = 2 ^ cnt := by push_cast; rfl
    rw [if_neg (by omega), if_pos h, ← signedOf_eq hw, Int.fdiv_eq_ediv_of_nonneg _ (by positivity), ← hcast]
    rfl
  · rw [if_pos (by omega), if_neg h, Nat.mod_eq_of_lt ha]
    simp only [decide_true, Bool.true_and, decide_eq_true_eq, hneg]
    split
    · have hones : (-1 : Int) ≡ ((2 ^ w - 1 : Nat) : Int) [ZMOD (2 ^ w : Nat)] := by
        rw [Int.modEq_iff_dvd, Nat.cast_sub (Nat.two_pow_pos w)]
        exact ⟨1, by ring⟩
      rw [wrapInt_congr hones, wrapInt_natCast, Nat.mod_eq_of_lt (Nat.sub_lt (Nat.two_pow_pos w) Nat.one_pos)]
    · rfl

/-! ### Bits of a lane (R138) -/

theorem xor_ones {w b : Nat} (hb : b < 2 ^ w) : b ^^^ (2 ^ w - 1) = 2 ^ w - 1 - b := by
  apply Nat.eq_of_testBit_eq
  intro i
  rw [show 2 ^ w - 1 - b = 2 ^ w - (b + 1) by omega, Nat.testBit_two_pow_sub_succ hb, Nat.testBit_xor, Nat.testBit_two_pow_sub_one]
  by_cases hi : i < w
  · simp [hi]
  · have hout : b.testBit i = false := Nat.testBit_lt_two_pow (hb.trans_le (Nat.pow_le_pow_right Nat.two_pos (by omega)))
    simp [hi, hout]

theorem onesBelow_eq (a n : Nat) : onesBelow a n = (List.range n).countP fun m => a.testBit m := by
  induction n with
  | zero => rfl
  | succ n ih =>
    rw [onesBelow, ih, List.range_succ, List.countP_append, List.countP_singleton, Nat.testBit_eq_decide_div_mod_eq, Nat.shiftRight_eq_div_pow]
    rcases Nat.mod_two_eq_zero_or_one (a / 2 ^ n) with h | h <;> simp [h]

/-- The zeros above the highest 1 of a lane. -/
def leadingZeros (w a : Nat) : Nat := if a = 0 then w else w - 1 - Nat.log2 a

theorem zerosAbove_leadingZeros {w a : Nat} (ha : a < 2 ^ w) : Claims.ZerosAbove w a (leadingZeros w a) := by
  unfold leadingZeros
  by_cases h0 : a = 0
  · rw [if_pos h0, h0]
    exact ⟨le_refl w, fun j _ _ => Nat.zero_testBit j, fun h => absurd h (lt_irrefl w)⟩
  · have hlog : Nat.log2 a < w := (Nat.log2_lt h0).mpr ha
    rw [if_neg h0]
    refine ⟨by omega, fun j hj _ => ?_, fun _ => ?_⟩
    · exact Nat.testBit_lt_two_pow (Nat.lt_log2_self.trans_le (Nat.pow_le_pow_right Nat.two_pos (by omega)))
    · rw [show w - (w - 1 - Nat.log2 a) - 1 = Nat.log2 a by omega]
      exact Nat.testBit_log2 h0

end Sys2Proof.Proofs
end

section
/-! PROOFS. Vector integer words and comparisons (O25). -/

namespace Sys2Proof.Proofs

open Sys2Proof Sys2Proof.Machine Sys2Proof.Claims

/-! ### The integer words -/

theorem exec_viadd (h : Hdr) (f : Fields) (s : State) : exec (.viadd h f) s = execViadd h f s := by
  rfl

theorem exec_visub (h : Hdr) (f : Fields) (s : State) : exec (.visub h f) s = execVisub h f s := by
  rfl

theorem exec_vimul (h : Hdr) (f : Fields) (s : State) : exec (.vimul h f) s = execVimul h f s := by
  rfl

theorem exec_vimulh (h : Hdr) (f : Fields) (s : State) : exec (.vimulh h f) s = execVimulh h f s := by
  rfl

theorem exec_vimad (h : Hdr) (f : Fields) (s : State) : exec (.vimad h f) s = execVimad h f s := by
  rfl

theorem exec_vshl (h : Hdr) (f : Fields) (s : State) : exec (.vshl h f) s = execVshl h f s := by
  rfl

theorem exec_vshr (h : Hdr) (f : Fields) (s : State) : exec (.vshr h f) s = execVshr h f s := by
  rfl

theorem exec_vsra (h : Hdr) (f : Fields) (s : State) : exec (.vsra h f) s = execVsra h f s := by
  rfl

theorem exec_vand (h : Hdr) (f : Fields) (s : State) : exec (.vand h f) s = execVand h f s := by
  rfl

theorem exec_vor (h : Hdr) (f : Fields) (s : State) : exec (.vor h f) s = execVor h f s := by
  rfl

theorem exec_vxor (h : Hdr) (f : Fields) (s : State) : exec (.vxor h f) s = execVxor h f s := by
  rfl

theorem exec_vandn (h : Hdr) (f : Fields) (s : State) : exec (.vandn h f) s = execVandn h f s := by
  rfl

theorem exec_vpopc (h : Hdr) (f : Fields) (s : State) : exec (.vpopc h f) s = execVpopc h f s := by
  rfl

theorem exec_vclz (h : Hdr) (f : Fields) (s : State) : exec (.vclz h f) s = execVclz h f s := by
  rfl

theorem exec_vmin (h : Hdr) (f : Fields) (s : State) : exec (.vmin h f) s = execVmin h f s := by
  rfl

theorem exec_vmax (h : Hdr) (f : Fields) (s : State) : exec (.vmax h f) s = execVmax h f s := by
  rfl

theorem exec_vabs (h : Hdr) (f : Fields) (s : State) : exec (.vabs h f) s = execVabs h f s := by
  rfl

theorem exec_vneg (h : Hdr) (f : Fields) (s : State) : exec (.vneg h f) s = execVneg h f s := by
  rfl

section
variable {h : Hdr} {s : State} {i : Instr} {f : Fields} {d : BitVec 5} {g : Ctx → Nat → Nat} {r : Nat → Nat}

/-- An integer word that writes D lane by lane. -/
theorem intOp_gives (hrun : Runs h s) (hd : f.d = .v d) (hty : f.x.ty < 8) (hexec : exec i s = vecOp i f g s) (hh : i.hdr = h)
    (hpacket : Instr.packet i = false)
    (hg : ∀ j, g ((issued s.cur h s).ctx s.cur) j % 2 ^ width f.x.ty = r j % 2 ^ width f.x.ty) :
    Claims.VecGives i h f d s (width f.x.ty) (512 / width f.x.ty) r :=
  vecOp_gives hexec hh hrun hpacket hd (tyBits_int hty) (laneCount_int hty) (Nat.mul_div_le _ _) (width_ne_six hty) hg

end

theorem vectorIntegerLanes : Claims.VectorIntegerLanes := by
  intro h f d s hrun hd hty hfa hfb ty w a b o c sa sb gives
  have hwidth : tyBits f.ty = w := tyBits_int hty
  have hA : ∀ j, laneSrc ((issued s.cur h s).ctx s.cur) f.a (tyBits f.ty) j = a j := fun j => by rw [hwidth]; exact laneSrc_issued hfa w j
  have hB : ∀ j, laneSrc ((issued s.cur h s).ctx s.cur) f.b (tyBits f.ty) j = b j := fun j => by rw [hwidth]; exact laneSrc_issued hfb w j
  have hC : ∀ j, laneCnt ((issued s.cur h s).ctx s.cur) f.b (tyBits f.ty) j = c j := fun j => by rw [hwidth]; exact laneCnt_issued hfb w j
  have hO : ∀ j, laneGet (((issued s.cur h s).ctx s.cur).vec f.d.num) (tyBits f.ty) j = o j := fun j => by
    rw [hwidth, laneGet_eq, vec_issued, hd]
    rfl
  have ha : ∀ j, a j < 2 ^ w := fun j => laneOf_lt _ _ _
  have hb : ∀ j, b j < 2 ^ w := fun j => laneOf_lt _ _ _
  have hsa : ∀ j, laneInt f.ty (a j) = sa j := fun j => laneInt_eq hty (ha j)
  have hsb : ∀ j, laneInt f.ty (b j) = sb j := fun j => laneInt_eq hty (hb j)
  have word : ∀ {i g r}, exec i s = vecOp i f g s → i.hdr = h → Instr.packet i = false →
      (∀ j, g ((issued s.cur h s).ctx s.cur) j % 2 ^ w = r j % 2 ^ w) → gives i r :=
    fun hexec hh hpacket hg => intOp_gives hrun hd hty hexec hh hpacket hg
  refine ⟨fun hsat => ⟨?add, ?sub⟩, fun hsat => ⟨?addSat, ?subSat⟩, ?mul, ?mulh, ?mad, ?shl, ?shr, ?sra, ?and, ?or, ?xor, ?andn, ?popc, ?clz, ?min,
    ?max, ?abs, ?neg⟩
  case add =>
    refine word (exec_viadd h f s) rfl rfl fun j => ?_
    rw [hA, hB, hsa, hsb, Fields.subBit, hsat, satLane_wraps (ty := f.ty) hty]
    exact (wrapInt_mod _ _).trans add_wraps
  case sub =>
    refine word (exec_visub h f s) rfl rfl fun j => ?_
    rw [hA, hB, hsa, hsb, Fields.subBit, hsat, satLane_wraps (ty := f.ty) hty]
    exact (wrapInt_mod _ _).trans (sub_wraps (hb j))
  case addSat =>
    refine word (exec_viadd h f s) rfl rfl fun j => ?_
    rw [hA, hB, hsa, hsb, Fields.subBit, hsat, satLane_clamps (ty := f.ty) hty]
    rfl
  case subSat =>
    refine word (exec_visub h f s) rfl rfl fun j => ?_
    rw [hA, hB, hsa, hsb, Fields.subBit, hsat, satLane_clamps (ty := f.ty) hty]
    rfl
  case mul => exact word (exec_vimul h f s) rfl rfl fun j => by rw [hA, hB]
  case mulh => exact word (exec_vimulh h f s) rfl rfl fun j => by rw [hA, hB]; exact congrArg (· % 2 ^ w) (mulHigh_wraps hty (ha j) (hb j))
  case mad => exact word (exec_vimad h f s) rfl rfl fun j => by rw [hA, hB, hO]
  case shl => exact word (exec_vshl h f s) rfl rfl fun j => by rw [hA, hC, hwidth]; exact shiftLane_left
  case shr => exact word (exec_vshr h f s) rfl rfl fun j => by rw [hA, hC, hwidth, shiftLane_right (ha j)]
  case sra => exact word (exec_vsra h f s) rfl rfl fun j => by rw [hA, hC, hwidth, shiftLane_arithmetic (width_pos _) (ha j)]
  case and => exact word (exec_vand h f s) rfl rfl fun j => by rw [hA, hB]
  case or => exact word (exec_vor h f s) rfl rfl fun j => by rw [hA, hB]
  case xor => exact word (exec_vxor h f s) rfl rfl fun j => by rw [hA, hB]
  case andn => exact word (exec_vandn h f s) rfl rfl fun j => by rw [hA, hB, hwidth, xor_ones (hb j)]
  case popc => exact word (exec_vpopc h f s) rfl rfl fun j => by rw [hA, hwidth, onesBelow_eq]
  case clz =>
    exact ⟨fun j => leadingZeros w (a j), fun j => zerosAbove_leadingZeros (ha j),
      word (exec_vclz h f s) rfl rfl fun j => by rw [hA, hwidth]; rfl⟩
  case min => exact word (exec_vmin h f s) rfl rfl fun j => by rw [hA, hB]; exact congrArg (· % 2 ^ w) (minMax_min hty (ha j) (hb j))
  case max => exact word (exec_vmax h f s) rfl rfl fun j => by rw [hA, hB]; exact congrArg (· % 2 ^ w) (minMax_max hty (ha j) (hb j))
  case abs => exact word (exec_vabs h f s) rfl rfl fun j => by rw [hA]; exact congrArg (· % 2 ^ w) (signOp_magnitude hty (ha j))
  case neg => exact word (exec_vneg h f s) rfl rfl fun j => by rw [hA]; exact signOp_negates hty

/-! ### Comparisons (R130, R140, R141) -/

theorem exec_vicmp (h : Hdr) (f : Fields) (s : State) : exec (.vicmp h f) s = execVicmp h f s := by
  rfl

theorem exec_vfcmp (h : Hdr) (f : Fields) (s : State) : exec (.vfcmp h f) s = execVfcmp h f s := by
  rfl

/-- The predicate of a comparison: a bit for each of the `n` lanes, zero above (R130). -/
theorem lanePack_bit {n j : Nat} (b : Nat → Bool) (hn : n ≤ 64) :
    (BitVec.ofNat 64 (lanePack 1 ((List.range n).map fun m => if b m then 1 else 0))).getLsbD j = (decide (j < n) && b j) := by
  have hlane := lanePack_lane 1 ((List.range n).map fun m => if b m then 1 else 0) j
  rw [Nat.one_mul, Nat.pow_one] at hlane
  rw [BitVec.getLsbD_ofNat, Nat.testBit_eq_decide_div_mod_eq, hlane]
  by_cases hj : j < n
  · have h64 : j < 64 := by omega
    simp only [hj, h64, decide_true, Bool.true_and, List.getD_eq_getElem?_getD, List.getElem?_map, List.getElem?_range, Option.map_some, Option.getD_some]
    cases b j <;> rfl
  · simp [hj]

section
variable {h : Hdr} {s : State} {i : Instr} {f : Fields} {d : BitVec 3} {n : Nat} {g : Ctx → Nat → Bool} {r : Nat → Prop}

/-- A comparison writes a bit of P[D] for each lane that the mask enables, and leaves every other register (R12, R130, R140). -/
theorem predOp_gives (hexec : exec i s = predOp i f g s) (hh : i.hdr = h) (hrun : Runs h s) (hpacket : Instr.packet i = false) (hd : f.d = .p d)
    (hn : Sys2Proof.laneCount f.x.ty = n) (hfit : n ≤ 64) (hg : ∀ j, g ((issued s.cur h s).ctx s.cur) j = true ↔ r j) :
    Ends i s fun t => Advances h (me s) (t.ctx s.cur) ∧ OthersKept s t ∧ (t.ctx s.cur).v = (me s).v ∧
      (t.ctx s.cur).stack = (me s).stack ∧ (∀ m, m ≠ d.toNat → (t.ctx s.cur).pred m = (me s).pred m) ∧
      if d = 0 then (t.ctx s.cur).p = (me s).p
      else ∀ j, j < 64 → (((t.ctx s.cur).pred d.toNat).getLsbD j = true ↔
        j < n ∧ (if Claims.enabled s f j then r j else ((me s).pred d.toNat).getLsbD j = true)) := by
  have hself := issued_ctx_same s.cur h s
  obtain ⟨c, hc⟩ : ∃ c, c = (issued s.cur h s).ctx s.cur := ⟨_, rfl⟩
  obtain ⟨bits, hbits⟩ : ∃ bits : Word, bits = BitVec.ofNat 64 (lanePack 1 ((List.range n).map fun j =>
      if (if laneOn c f j then g c j else bitAt (c.pred d.toNat) j) then 1 else 0)) := ⟨_, rfl⟩
  obtain ⟨e, he⟩ : ∃ e : Ctx, e = { c.setPred d.toNat bits with vl := true } := ⟨_, rfl⟩
  obtain ⟨v, hv⟩ : ∃ v, v = (issued s.cur h s).modCtx s.cur fun c =>
      { c.setPred f.d.num (BitVec.ofNat 64 (lanePack 1 ((List.range (Sys2Proof.laneCount f.ty)).map fun j =>
        if (if laneOn c f j then g c j else bitAt (c.pred f.d.num) j) then 1 else 0))) with vl := true } := ⟨_, rfl⟩
  have hstep : exec i s = .next (retire s.cur (me s).pc h.sw none v) := by
    rw [hv]
    exact exec_ready hexec hh hrun.1 (.inr hrun.2) (.inl rfl) (.inr hpacket)
  have hafter : (retire s.cur (me s).pc h.sw none v).ctx s.cur = e.retire (ctxNo s.cur != 7) (me s).pc h.sw none := by
    have hcn : Sys2Proof.laneCount f.ty = n := hn
    rw [retire_ctx_same, hv, State.modCtx_ctx_same, he, hbits, hc, hd, hcn]
    rfl
  have hpred : ∀ m, e.pred m = if m = d.toNat ∧ d.toNat ≠ 0 then bits else (me s).pred m := fun m => by
    rw [he]
    refine (Ctx.pred_setPred c d.toNat m bits).trans ?_
    rw [hc, hself]
    rfl
  have hset : ∀ (c : Ctx) m u, c.setPred m u = { c with p := (c.setPred m u).p } := fun c m u => by
    unfold Ctx.setPred
    split <;> rfl
  refine ⟨_, hstep, ?_, ?_, ?_, ?_, fun m hm => ?_, ?_⟩
  · rw [hafter]
    refine advances_retire ?_ ?_ ?_ _ <;> rw [he, hset, hc, hself]
  · rw [hv]
    exact othersKept_retire (h := h) _ _ _ rfl fun y hy => State.modCtx_ctx_ne _ _ _ _ hy
  · rw [hafter, Ctx.retire_eq, he, hset, hc, hself]
  · rw [hafter, Ctx.retire_stack, he, hset, hc, hself]
  · rw [hafter, Ctx.retire_pred, hpred, if_neg fun hq => hm hq.1]
  · split
    · next hzero =>
      rw [hafter, Ctx.retire_p, he, hzero]
      show c.p = (me s).p
      rw [hc, hself]
    · next hnonzero =>
      intro j _
      have hne : d.toNat ≠ 0 := fun h0 => hnonzero (BitVec.eq_of_toNat_eq h0)
      rw [hafter, Ctx.retire_pred, hpred, if_pos ⟨rfl, hne⟩, hbits,
        lanePack_bit (fun m => if laneOn c f m then g c m else bitAt (c.pred d.toNat) m) hfit, hc, laneOn_issued, Bool.and_eq_true, decide_eq_true_iff]
      refine and_congr_right fun _ => ?_
      split
      · exact hg j
      · rw [hself]
        rfl
end

/-- The eight conditions of an integer comparison (R69, R141). -/
theorem intCond_iff {ty a b : Nat} (hty : ty < 8) (ha : a < 2 ^ width ty) (hb : b < 2 ^ width ty) :
    let holds := fun cond => intCond cond (tySigned ty) (tyBits ty) a b = true
    (holds 0 ↔ a = b) ∧ (holds 1 ↔ a ≠ b) ∧ (holds 2 ↔ Claims.laneValue ty a < Claims.laneValue ty b) ∧
      (holds 3 ↔ Claims.laneValue ty a ≤ Claims.laneValue ty b) ∧ (holds 4 ↔ Claims.laneValue ty b < Claims.laneValue ty a) ∧
      (holds 5 ↔ Claims.laneValue ty b ≤ Claims.laneValue ty a) ∧ (holds 6 ↔ a &&& b ≠ 0) ∧ (holds 7 ↔ a &&& b = 0) := by
  have hlt := intCond_lt hty ha hb
  have hinj : Claims.laneValue ty a = Claims.laneValue ty b ↔ a = b := by
    refine ⟨fun he => ?_, fun he => by rw [he]⟩
    have hmod := ((laneValue_modEq ty a).symm.trans (he ▸ laneValue_modEq ty b) :)
    have hnat := (Int.natCast_modEq_iff.mp hmod : a ≡ b [MOD 2 ^ width ty])
    rwa [Nat.ModEq, Nat.mod_eq_of_lt ha, Nat.mod_eq_of_lt hb] at hnat
  simp only [intCond, tyBits_int hty, Nat.mod_eq_of_lt ha, Nat.mod_eq_of_lt hb] at hlt
  simp only [intCond, tyBits_int hty, Nat.mod_eq_of_lt ha, Nat.mod_eq_of_lt hb, hlt]
  refine ⟨beq_iff_eq, bne_iff_ne, decide_eq_true_iff, ?_, ?_, ?_, bne_iff_ne, beq_iff_eq⟩
  · rw [Bool.or_eq_true, decide_eq_true_iff, beq_iff_eq, ← hinj, le_iff_lt_or_eq]
  · rw [Bool.not_eq_true', Bool.or_eq_false_iff, decide_eq_false_iff_not, beq_eq_false_iff_ne, ne_eq, ← hinj]
    omega
  · rw [Bool.not_eq_true', decide_eq_false_iff_not, not_lt]

theorem subBits_low (f : Fields) : f.subBits 0 3 = f.sub.toNat % 8 := by
  rw [Fields.subBits, natBits, Nat.shiftRight_zero]
  rfl

/-! ### Float types (R101, R129) -/

section
variable {ty : Nat} (hlo : 8 ≤ ty) (hhi : ty ≤ 11)
include hlo hhi

theorem tyBits_float : tyBits ty = Claims.floatWidth ty := by
  interval_cases ty <;> rfl

theorem laneCount_float : Sys2Proof.laneCount ty = 512 / Claims.floatWidth ty := by
  interval_cases ty <;> rfl

theorem floatWidth_ne_six : Claims.floatWidth ty ≠ 6 := by
  interval_cases ty <;> decide

theorem laneCount_float_le : 512 / Claims.floatWidth ty ≤ 64 := by
  interval_cases ty <;> decide

theorem tyFloat_float : tyFloat ty = true := by
  interval_cases ty <;> rfl

end

theorem laneCount_int_le {ty : Nat} (hty : ty < 8) : 512 / width ty ≤ 64 := by
  interval_cases ty <;> decide

theorem vectorComparisons : Claims.VectorComparisons := by
  intro h f d s hrun hd hfa hfb ty gives
  refine ⟨?integer, ?float⟩
  case integer =>
    intro hty w a b
    have hwidth : tyBits f.ty = w := tyBits_int hty
    have hA : ∀ j, laneSrc ((issued s.cur h s).ctx s.cur) f.a (tyBits f.ty) j = a j := fun j => by rw [hwidth]; exact laneSrc_issued hfa w j
    have hB : ∀ j, laneSrc ((issued s.cur h s).ctx s.cur) f.b (tyBits f.ty) j = b j := fun j => by rw [hwidth]; exact laneSrc_issued hfb w j
    refine predOp_gives (exec_vicmp h f s) rfl hrun rfl hd (laneCount_int hty) (laneCount_int_le hty) fun j => ?_
    rw [hA, hB, subBits_low]
    obtain ⟨h0, h1, h2, h3, h4, h5, h6, h7⟩ := intCond_iff (ty := f.ty) hty (laneOf_lt (s := s) f.a w j) (laneOf_lt (s := s) f.b w j)
    have hcond : f.sub.toNat % 8 < 8 := Nat.mod_lt _ (by decide)
    generalize f.sub.toNat % 8 = cond at hcond
    interval_cases cond
    · exact h0
    · exact h1
    · exact h2
    · exact h3
    · exact h4
    · exact h5
    · exact h6
    · exact h7
  case float =>
    intro hlo hhi w
    have hwidth : tyBits f.ty = w := tyBits_float hlo hhi
    refine predOp_gives (exec_vfcmp h f s) rfl hrun rfl hd (laneCount_float hlo hhi) (laneCount_float_le hlo hhi) fun j => ?_
    rw [hwidth, laneSrc_issued hfa, laneSrc_issued hfb, subBits_low]
    rfl

/-- Settles O25: integer lanes hold their exact results, wrapped or clamped, and comparisons write a bit for each lane. -/
theorem vectorIntegerLanesAndComparisons : Obligations.VectorIntegerLanesAndComparisons :=
  ⟨vectorIntegerLanes, vectorComparisons⟩

end Sys2Proof.Proofs
end

section
/-! PROOFS. Vector float words, short and long (O24). -/

namespace Sys2Proof.Proofs

open Sys2Proof Sys2Proof.Machine Sys2Proof.Claims

/-! ### The float words -/

theorem exec_vadd (h : Hdr) (f : Fields) (s : State) : exec (.vadd h f) s = execVadd h f s := by
  rfl

theorem exec_vsub (h : Hdr) (f : Fields) (s : State) : exec (.vsub h f) s = execVsub h f s := by
  rfl

theorem exec_vmul (h : Hdr) (f : Fields) (s : State) : exec (.vmul h f) s = execVmul h f s := by
  rfl

theorem exec_vfma (h : Hdr) (f : Fields) (s : State) : exec (.vfma h f) s = execVfma h f s := by
  rfl

theorem exec_vfms (h : Hdr) (f : Fields) (s : State) : exec (.vfms h f) s = execVfms h f s := by
  rfl

theorem exec_vfnma (h : Hdr) (f : Fields) (s : State) : exec (.vfnma h f) s = execVfnma h f s := by
  rfl

theorem exec_vsca (h : Hdr) (f : Fields) (s : State) : exec (.vsca h f) s = execVsca h f s := by
  rfl

theorem exec_vdiv (h : Hdr) (f : Fields) (s : State) : exec (.vdiv h f) s = execVdiv h f s := by
  rfl

theorem exec_vsqrt (h : Hdr) (f : Fields) (s : State) : exec (.vsqrt h f) s = execVsqrt h f s := by
  rfl

theorem exec_vrcp (h : Hdr) (f : Fields) (s : State) : exec (.vrcp h f) s = execVrcp h f s := by
  rfl

theorem exec_vrsq (h : Hdr) (f : Fields) (s : State) : exec (.vrsq h f) s = execVrsq h f s := by
  rfl

theorem exec_vexp2 (h : Hdr) (f : Fields) (s : State) : exec (.vexp2 h f) s = execVexp2 h f s := by
  rfl

theorem exec_vlog2 (h : Hdr) (f : Fields) (s : State) : exec (.vlog2 h f) s = execVlog2 h f s := by
  rfl

theorem vectorFloatLanes : Claims.VectorFloatLanes := by
  intro h f d s hrun hd hlo hhi hfa hfb g w a b o rm gives
  have hwidth : tyBits f.ty = w := tyBits_float hlo hhi
  have hA : ∀ j, laneSrc ((issued s.cur h s).ctx s.cur) f.a (tyBits f.ty) j = a j := fun j => by rw [hwidth]; exact laneSrc_issued hfa w j
  have hB : ∀ j, laneSrc ((issued s.cur h s).ctx s.cur) f.b (tyBits f.ty) j = b j := fun j => by rw [hwidth]; exact laneSrc_issued hfb w j
  have hO : ∀ j, laneGet (((issued s.cur h s).ctx s.cur).vec f.d.num) (tyBits f.ty) j = o j := fun j => by
    rw [hwidth, laneGet_eq, vec_issued, hd]
    rfl
  have hfloat : tyFloat f.ty = true := tyFloat_float hlo hhi
  have word : ∀ {i g r}, exec i s = vecOp i f g s → i.hdr = h → Instr.packet i = false →
      (∀ j, g ((issued s.cur h s).ctx s.cur) j = r j) → gives i r :=
    fun hexec hh hpacket hg => vecOp_gives hexec hh hrun hpacket hd hwidth (laneCount_float hlo hhi) (Nat.mul_div_le _ _)
      (floatWidth_ne_six hlo hhi) fun j => congrArg (· % 2 ^ w) (hg j)
  refine ⟨?add, ?sub, ?mul, ?fma, ?fms, ?fnma, ?min, ?max, ?abs, ?neg, fun _ => ?sca⟩
  case add => exact word (exec_vadd h f s) rfl rfl fun j => by rw [hA, hB]; rfl
  case sub => exact word (exec_vsub h f s) rfl rfl fun j => by rw [hA, hB]; rfl
  case mul => exact word (exec_vmul h f s) rfl rfl fun j => by rw [hA, hB]; rfl
  case fma => exact word (exec_vfma h f s) rfl rfl fun j => by rw [hA, hB, hO]; rfl
  case fms => exact word (exec_vfms h f s) rfl rfl fun j => by rw [hA, hB, hO]; rfl
  case fnma => exact word (exec_vfnma h f s) rfl rfl fun j => by rw [hA, hB, hO]; rfl
  case min => exact word (exec_vmin h f s) rfl rfl fun j => by rw [hA, hB, minMax, if_pos hfloat]; rfl
  case max => exact word (exec_vmax h f s) rfl rfl fun j => by rw [hA, hB, minMax, if_pos hfloat]; rfl
  case abs => exact word (exec_vabs h f s) rfl rfl fun j => by rw [hA, signOp, if_pos hfloat]; rfl
  case neg => exact word (exec_vneg h f s) rfl rfl fun j => by rw [hA, signOp, if_pos hfloat]; rfl
  case sca =>
    refine word (exec_vsca h f s) rfl rfl fun j => ?_
    rw [hA, hO, srcS_issued h s f.b hfb, fld_eq, fld_eq, Nat.pow_zero, Nat.div_one]
    rfl

/-! ### Long float words (R22, R137) -/

/-- One long result for each of a list of lanes. -/
def startLanes (x : Nat) (dst : Nat → LongDst) (val : Nat → LongVal) (l : List Nat) (s : State) : State :=
  l.foldl (fun u j => (startLong x (dst j) (some (val j)) u).2) s

/-- The long results start in the order of the lanes, and nothing else changes but the number of the next one (R22). -/
theorem startLanes_spec (x : Nat) (dst : Nat → LongDst) (val : Nat → LongVal) (l : List Nat) (s : State) :
    startLanes x dst val l s = { s with ctxs := (startLanes x dst val l s).ctxs, nextId := (startLanes x dst val l s).nextId } ∧
    (startLanes x dst val l s).ctx x = { s.ctx x with outstanding := ((startLanes x dst val l s).ctx x).outstanding } ∧
    ((startLanes x dst val l s).ctx x).outstanding.map (fun e => (e.dst, e.val)) =
      (s.ctx x).outstanding.map (fun e => (e.dst, e.val)) ++ l.map fun j => (dst j, some (val j)) := by
  induction l generalizing s with
  | nil => exact ⟨rfl, rfl, (List.append_nil _).symm⟩
  | cons j l ih =>
    have hone := startLong_ctx_same x (dst j) (some (val j)) s
    obtain ⟨hframe, hctx, hout⟩ := ih (startLong x (dst j) (some (val j)) s).2
    refine ⟨hframe, ?_, ?_⟩
    · rw [hone] at hctx
      exact hctx
    · rw [hone, List.map_append] at hout
      refine hout.trans ?_
      rw [List.append_assoc]
      rfl

section
variable {h : Hdr} {s : State} {i : Instr} {f : Fields} {d : BitVec 5} {w n : Nat} {g : Ctx → Nat → Nat} {r : Nat → Nat}

/-- A long word starts one long result for each enabled lane (R22, R137). -/
theorem longVecOp_gives (hexec : exec i s = longVecOp i f g s) (hh : i.hdr = h) (hrun : Runs h s) (hpacket : Instr.packet i = false)
    (hd : f.d = .v d) (hw : tyBits f.x.ty = w) (hn : Sys2Proof.laneCount f.x.ty = n)
    (hg : ∀ j, g ((issued s.cur h s).ctx s.cur) j = r j) :
    Ends i s fun t => Advances h (me s) (t.ctx s.cur) ∧ OnlyNextId s t ∧ (t.ctx s.cur).vl = true ∧ (t.ctx s.cur).v = (me s).v ∧
      (t.ctx s.cur).outstanding.map (fun e => (e.dst, e.val)) = (me s).outstanding.map (fun e => (e.dst, e.val)) ++
        ((List.range n).filter (Claims.enabled s f)).map fun j => (LongDst.v d.toNat (w * j) w, some (LongVal.ok (r j))) := by
  have hself := issued_ctx_same s.cur h s
  obtain ⟨u, hu⟩ : ∃ u, u = startLanes s.cur (fun j => .v d.toNat (w * j) w) (fun j => .ok (r j))
      ((List.range n).filter (Claims.enabled s f)) (issued s.cur h s) := ⟨_, rfl⟩
  obtain ⟨hframe, hctx, hout⟩ := startLanes_spec s.cur (fun j => .v d.toNat (w * j) w) (fun j => .ok (r j))
    ((List.range n).filter (Claims.enabled s f)) (issued s.cur h s)
  rw [← hu] at hframe hctx hout
  obtain ⟨v, hv⟩ : ∃ v, v = u.modCtx s.cur fun c => { c with vl := true } := ⟨_, rfl⟩
  have hlanes : ((List.range n).filter fun j => laneOn ((issued s.cur h s).ctx s.cur) f j) = (List.range n).filter (Claims.enabled s f) :=
    List.filter_congr fun j _ => laneOn_issued f j
  have hstep : exec i s = .next (retire s.cur (me s).pc h.sw none v) := by
    have hcw : tyBits f.ty = w := hw
    have hcn : Sys2Proof.laneCount f.ty = n := hn
    refine (exec_ready hexec hh hrun.1 (.inr hrun.2) (.inl rfl) (.inr hpacket)).trans ?_
    dsimp only
    rw [hcw, hcn, hlanes, hd, hv, hu]
    simp only [hg]
    rfl
  have hvctx : v.ctx s.cur = { u.ctx s.cur with vl := true } := by rw [hv, State.modCtx_ctx_same]
  have hafter : (retire s.cur (me s).pc h.sw none v).ctx s.cur = (v.ctx s.cur).retire (ctxNo s.cur != 7) (me s).pc h.sw none :=
    retire_ctx_same _ _ _ _ _
  refine ⟨_, hstep, ?_, ?_, ?_, ?_, ?_⟩
  · rw [hafter]
    refine advances_retire ?_ ?_ ?_ _ <;> rw [hvctx, hctx, hself]
  · have hkept : v = { issued s.cur h s with ctxs := v.ctxs, nextId := v.nextId } := by
      rw [hv]
      exact congrArg (fun t => t.modCtx s.cur fun c => { c with vl := true }) hframe
    rw [OnlyNextId, retire_frame, hkept, issued_eq]
  · rw [hafter, Ctx.retire_eq, hvctx]
  · rw [hafter, Ctx.retire_eq, hvctx, hctx, hself]
  · rw [hafter, Ctx.retire_outstanding, hvctx]
    refine hout.trans ?_
    rw [hself]

end

theorem vectorLongFloatLanes : Claims.VectorLongFloatLanes := by
  intro h f d s hrun hd hlo hhi hfa hfb g w a b rm gives
  have hwidth : tyBits f.ty = w := tyBits_float hlo hhi
  have hA : ∀ j, laneSrc ((issued s.cur h s).ctx s.cur) f.a (tyBits f.ty) j = a j := fun j => by rw [hwidth]; exact laneSrc_issued hfa w j
  have hB : ∀ j, laneSrc ((issued s.cur h s).ctx s.cur) f.b (tyBits f.ty) j = b j := fun j => by rw [hwidth]; exact laneSrc_issued hfb w j
  have word : ∀ {i g r}, exec i s = longVecOp i f g s → i.hdr = h → Instr.packet i = false →
      (∀ j, g ((issued s.cur h s).ctx s.cur) j = r j) → gives i r :=
    fun hexec hh hpacket hg => longVecOp_gives hexec hh hrun hpacket hd hwidth (laneCount_float hlo hhi) hg
  refine ⟨?div, ?sqrt, ?rcp, ?rsq, ?exp, ?log⟩
  case div => exact word (exec_vdiv h f s) rfl rfl fun j => by rw [hA, hB]; rfl
  case sqrt => exact word (exec_vsqrt h f s) rfl rfl fun j => by rw [hA]; rfl
  case rcp => exact word (exec_vrcp h f s) rfl rfl fun j => by rw [hA]
  case rsq => exact word (exec_vrsq h f s) rfl rfl fun j => by rw [hA]
  case exp => exact word (exec_vexp2 h f s) rfl rfl fun j => by rw [hA]
  case log => exact word (exec_vlog2 h f s) rfl rfl fun j => by rw [hA]

/-- Settles O24: float lanes hold the results of the model's arithmetic, at once or as long results. -/
theorem vectorFloatWords : Obligations.VectorFloatWords :=
  ⟨vectorFloatLanes, vectorLongFloatLanes⟩

end Sys2Proof.Proofs
end

section
/-! PROOFS. Replies, link values, and requests performed at their homes (O33). -/

namespace Sys2Proof.Proofs

open Sys2Proof Sys2Proof.Machine Sys2Proof.Claims

/-! ### Long results (R23, R24, R227) -/

theorem exec_longResultArrival (x i : Nat) (s : State) : exec (.longResultArrival x i) s = execLongResultArrival x i s := by
  rfl

section
variable {x i : Nat} {s : State} {e : LongRes}

theorem longResult_arrives (hdroop : (s.core (coreOf x)).droopAt = none) : exec (.longResultArrival x i) s = .next (landResult x i s) := by
  rw [exec_longResultArrival, execLongResultArrival, hdroop]
  rfl

theorem longResult_held (hdroop : (s.core (coreOf x)).droopAt ≠ none) : exec (.longResultArrival x i) s = .next s := by
  rw [exec_longResultArrival, execLongResultArrival, if_pos (Option.isSome_iff_ne_none.mpr hdroop)]

theorem lanesOf_alone {c : Ctx} (hgroup : e.group = 0) : c.lanesOf e = [e] := if_pos hgroup

/-- A result that failed posts its trap (R24, R155). -/
theorem landResult_fail {p : TrapInfo} (he : (s.ctx x).outstanding[i]? = some e) (hgroup : e.group = 0) (hval : e.val = some (.fail p)) :
    landResult x i s = s.setCtx x { s.ctx x with outstanding := dropAt (s.ctx x).outstanding i, pend := (s.ctx x).pend ++ [p] } := by
  unfold landResult
  simp only [he, lanesOf_alone hgroup, List.any_cons, List.any_nil, hval, firstFail, hgroup, Option.isNone_some, Bool.or_self, Bool.false_eq_true,
    if_false, if_true]

/-- A result for an entry of the register stack is written there (R24). -/
theorem landResult_ok {bits n : Nat} (he : (s.ctx x).outstanding[i]? = some e) (hgroup : e.group = 0) (hval : e.val = some (.ok bits))
    (hdst : e.dst = .w n) :
    landResult x i s = s.setCtx x (Ctx.setEntry { s.ctx x with outstanding := dropAt (s.ctx x).outstanding i } n (BitVec.ofNat 64 bits)) := by
  have halone : ∀ q, e.landsWith q = false := fun q => by
    unfold LongRes.landsWith
    rw [hdst]
  have hnone : (s.ctx x).outstanding.filter (fun q => e.landsWith q) = [] := List.filter_eq_nil_iff.mpr fun q _ => by rw [halone]; decide
  have hall : ∀ l : List LongRes, l.filter (fun q => !(e.landsWith q)) = l := fun l => List.filter_eq_self.mpr fun q _ => by rw [halone]; rfl
  unfold landResult
  simp only [he, lanesOf_alone hgroup, List.any_cons, List.any_nil, hval, firstFail, Option.isNone_some, Bool.or_self, Bool.false_eq_true,
    if_false, hnone, hall, hdst, List.foldl_nil, Ctx.landBits]

end

theorem onlyContext_setCtx (s : State) (x : Nat) (c : Ctx) : Claims.OnlyContext s (s.setCtx x c) x :=
  ⟨fun _ hy => State.setCtx_ctx_ne _ _ _ _ hy, rfl⟩

/-! ### Requests that go first (R160, R345) -/

/-- A request that passes the step's test, and that no earlier one must precede, is performed. -/
theorem performWhere_first {p : Req → Bool} {i : Nat} {r : Req} {s : State} (hr : s.reqs[i]? = some r) (hfirst : reqFirst s i = true)
    (hp : p r = true) : performWhere p i s = performAt i s := by
  unfold performWhere
  simp only [hr, hp, hfirst, Bool.and_self, if_true]

/-- A request that its home has performed leaves the list. -/
theorem performAt_done {i : Nat} {r : Req} {s t : State} (hr : s.reqs[i]? = some r)
    (hdone : performReq r { s with reqs := dropAt s.reqs i } = .ok t) : performAt i s = t := by
  unfold performAt
  simp only [hr, hdone]

/-- A request that its home has not performed stays in its place. -/
theorem performAt_stays {i : Nat} {r q : Req} {s : State} (hr : s.reqs[i]? = some r)
    (hstays : performReq r { s with reqs := dropAt s.reqs i } = .error q) : performAt i s = { s with reqs := s.reqs.set i q } := by
  unfold performAt
  simp only [hr, hstays]

/-! ### Link values (R191) -/

theorem get?_put_same {α : Type} (m : SMap α) (k : Nat) (x : α) : (m.put k x).get? k = some x := by
  have hbelow : ∀ l : SMap α, SMap.get? (m.filter (fun e => e.1 < k) ++ l) k = SMap.get? l k := fun l => by
    induction m with
    | nil => rfl
    | cons e m ih =>
      by_cases he : e.1 < k
      · rw [List.filter_cons_of_pos (by simpa using he)]
        exact (if_neg (Nat.ne_of_lt he)).trans ih
      · rw [List.filter_cons_of_neg (by simpa using he)]
        exact ih
  exact (hbelow _).trans (if_pos rfl)

theorem exec_linkValueArrival (i : Nat) (s : State) : exec (.linkValueArrival i) s = execLinkValueArrival i s := by
  rfl

/-- A link value that reaches a core that is up goes to its register (R191). -/
theorem performReq_link {r : Req} {n k off : Nat} {rel : Bool} {s : State} (hop : r.op = .link n rel) (hhome : r.home = .spad k off)
    (hfence : fencedFrom s (coreDie r.src) (coreDie k) = false) (hlive : (s.core k).killed = false) (hon : (s.core k).offline = false)
    (hdroop : (s.core k).droopAt = none) : performReq r s = linkArrive r k n rel s := by
  unfold performReq
  rw [hhome]
  simp only [hfence, hop, hlive, hon, hdroop, Bool.or_self, Option.isSome_none, Bool.false_eq_true, if_false]

/-! ### Stores at a home port (R160, R162) -/

theorem exec_remoteScratchpadAccess (i : Nat) (s : State) : exec (.remoteScratchpadAccess i) s = execRemoteScratchpadAccess i s := by
  rfl

section
variable {r : Req} {k off : Nat} {s : State}

theorem performReq_absent (hop : r.op = .store) (hhome : r.home = .spad k off)
    (hfence : fencedFrom s (coreDie r.src) (coreDie k) = false) (hlive : (s.core k).killed = false) (hdroop : (s.core k).droopAt = none)
    (hres : resident s k off = false) (hroom : heldAtPort s k < 64) : performReq r s = .error { r with heldAt := true } := by
  unfold performReq
  rw [hhome]
  simp only [hfence, hop, hlive, hdroop, hres, hroom, Option.isSome_none, Bool.false_eq_true, Bool.not_false, if_false, if_true]

/-- What a store of a request writes at its home. -/
def storedAt (r : Req) (k off : Nat) (s : State) : State := spadSet (leaveWord 0 k off s) k off r.size r.val

theorem performReq_store (hop : r.op = .store) (hhome : r.home = .spad k off)
    (hfence : fencedFrom s (coreDie r.src) (coreDie k) = false) (hlive : (s.core k).killed = false) (hdroop : (s.core k).droopAt = none)
    (hres : resident s k off = true) (hbad : spadBad s k off = false ∨ r.size = 8) (hlr : r.lr = none) (hwaits : r.waits = false)
    (hvst : r.vst = none) (hacq : r.acq = 0) : performReq r s = .ok (spadChanged k off (storedAt r k off s)) := by
  have hsound : (spadBad s k off && !(r.op.overwrites r.size)) = false := by
    rcases hbad with h | h
    · rw [h, Bool.false_and]
    · rw [hop, h]
      exact Bool.and_false _
  rw [hop] at hsound
  have heligible : r.eligible s k off = true := by simp only [Req.eligible, hop]
  have hreply : finishReq r (.ok 0) (storedAt r k off s) = storedAt r k off s := by
    unfold finishReq replyReq
    simp only [hacq, hwaits, hlr, hvst, Bool.false_eq_true, if_false, if_true]
  have hperformed : spadPerform r k off s = storedAt r k off s := by
    unfold spadPerform
    simp only [hop]
    exact hreply
  unfold performReq
  rw [hhome]
  simp only [hfence, hlive, hdroop, hres, hsound, hop, Option.isSome_none, Bool.false_eq_true, Bool.not_true, if_false]
  unfold portDo
  rw [if_pos heligible, hperformed, hop]
  rfl

end

/-- A field just put into a word reads back. -/
theorem natBits_setFld {w : Word} {lo len n : Nat} (h : lo + len ≤ 64) : natBits (setFld w lo len n).toNat lo len = n % 2 ^ len := by
  apply Nat.eq_of_testBit_eq
  intro j
  simp only [natBits, Nat.testBit_mod_two_pow, Nat.testBit_shiftRight, BitVec.testBit_toNat, setFld, put, BitVec.getLsbD_or, BitVec.getLsbD_and,
    BitVec.getLsbD_not, BitVec.getLsbD_ofNat, Nat.testBit_shiftLeft, Nat.testBit_two_pow_sub_one]
  by_cases hj : j < len
  · have h64 : lo + j < 64 := by omega
    simp [hj, h64]
  · simp [hj]

theorem leaveWord_reqs (p k off : Nat) (s : State) : (leaveWord p k off s).reqs = s.reqs := by
  unfold leaveWord
  split <;> simp

/-- A store at a port without waiters replaces its bytes of the word, and changes no other word, no context and no byte of memory. -/
theorem storedAt_alone {r : Req} {k off : Nat} {s : State} (hwait : (s.core k).waiters = []) (hfit : off % 8 + r.size ≤ 8) :
    let t := spadChanged k off (storedAt r k off s)
    t.reqs = s.reqs ∧ spadGet t k off r.size = r.val % 2 ^ (8 * r.size) ∧ (∀ y, t.ctx y = s.ctx y) ∧ t.mem = s.mem ∧
      ∀ j, j ≠ off / 8 % 32768 → (t.core k).spad.getD j 0 = (s.core k).spad.getD j 0 := by
  intro t
  obtain ⟨o, ho⟩ := leaveWord_core 0 k off k s
  obtain ⟨u, hu⟩ : ∃ u, u = spadSet (leaveWord 0 k off s) k off r.size r.val := ⟨_, rfl⟩
  have ht : t = markHeld (fun h => match h with | .spad c o => c == k && o / 8 == off / 8 | _ => false) u := by
    rw [hu]
    exact spadWrite_alone (by rw [ho]; exact hwait) _ _ _
  have hspad : (t.core k).spad = (s.core k).spad.putD (off / 8 % 32768) 0
      (setFld ((s.core k).spad.getD (off / 8 % 32768) 0) (8 * (off % 8)) (8 * r.size) r.val) := by
    rw [ht]
    refine (((quiet_stillCore k).comp Core.spad).mark _ _).trans ?_
    show (u.core k).spad = _
    rw [hu, spadSet, State.modCore_core_same, ho]
  refine ⟨?_, ?_, fun y => ?_, ?_, fun j hj => ?_⟩
  · rw [ht]
    show u.reqs = s.reqs
    rw [hu]
    exact leaveWord_reqs _ _ _ _
  · rw [spadGet, spadWord, hspad, SMap.getD_putD, if_pos rfl, natBits_setFld (by omega)]
  · have hctxs : t.ctxs = s.ctxs := by
      rw [ht]
      show u.ctxs = s.ctxs
      rw [hu]
      exact leaveWord_ctxs _ _ _ _
    rw [State.ctx, hctxs]
    rfl
  · rw [ht]
    show u.mem = s.mem
    rw [hu]
    exact leaveWord_mem _ _ _ _
  · rw [hspad, SMap.getD_putD, if_neg hj]

/-! ### Requests at a home slice (R173, R183) -/

theorem exec_atomicAtHome (i : Nat) (s : State) : exec (.atomicAtHome i) s = execAtomicAtHome i s := by
  rfl

theorem exec_waiterRetry (i : Nat) (s : State) : exec (.waiterRetry i) s = execWaiterRetry i s := by
  rfl

/-- Serving a word of which no waiter is registered marks the held threads alone. -/
theorem serveAt_alone {pa : Nat} {u : State} (hwait : (u.die (homeDie pa)).waiters = []) (n : Nat) :
    serveAt none pa n u = markHeld (fun h => h.hit none pa n 8) u := by
  unfold serveAt
  simp only [Option.getD_none, hwait, List.filter_nil, List.isEmpty_nil, if_true]

/-- A write at a slice where no waiter is registered changes no context and no die. -/
theorem homeWrite_alone {s : State} {pa : Nat} (hwait : (s.die (homeDie pa)).waiters = []) (n v : Nat) :
    (homeWrite s pa n v).ctxs = s.ctxs ∧ (homeWrite s pa n v).dies = s.dies := by
  unfold homeWrite serveDev
  rw [serveAt_alone (by exact hwait)]
  exact ⟨rfl, rfl⟩

/-- The request of a long result fills it (R23). -/
theorem replyReq_long {r : Req} {id : Nat} {s : State} (hwaits : r.waits = false) (hlr : r.lr = some id) (hdual : (s.ctx r.x).dual = none)
    (v : LongVal) : replyReq r v s = s.modCtx r.x fun c =>
      { c with outstanding := c.outstanding.map fun e => if e.id = id then { e with val := some v } else e } := by
  have hto : replyTo r.x s = [r.x] := by rw [replyTo, hdual]
  unfold replyReq
  simp only [hwaits, hlr, Bool.false_eq_true, if_false]
  unfold fillLong
  rw [hto]
  rfl

/-- A waiting context keeps the reply with its wait (R35). -/
theorem replyReq_waits {r : Req} {w : Wait} {s : State} (hwaits : r.waits = true) (hdual : (s.ctx r.x).dual = none)
    (hrun : (s.ctx r.x).run = .waiting w) (v : LongVal) : ((replyReq r v s).ctx r.x).run = .waiting { w with reply := some v } := by
  have hto : replyTo r.x s = [r.x] := by rw [replyTo, hdual]
  unfold replyReq
  rw [if_pos hwaits, hto, List.foldl_cons, List.foldl_nil, State.modCtx_ctx_same, hrun]

theorem finishReq_plain {r : Req} (hacq : r.acq = 0) (v : LongVal) (s : State) : finishReq r v s = replyReq r v s := by
  unfold finishReq
  rw [hacq]
  cases v <;> rfl

section
variable {r : Req} {pa old : Nat} {s : State}

theorem performReq_dev (hhome : r.home = .dev pa) (hstale : r.stale = false) : performReq r s = sliceDo r s := by
  unfold performReq
  simp only [hhome, hstale, Bool.false_eq_true, if_false]

/-- An atomic replaces the word at its home slice and answers with the old one (R183). -/
theorem sliceDo_atomic {op : AtomKind} (hop : r.op = .atom op) (hhome : r.home = .dev pa) (hacq : r.acq = 0)
    (hread : homeRead (ownCopies r s) (coreDie r.src) pa r.size = .ok old) :
    sliceDo r s = .ok (replyReq r (.ok (extendTy r.ty old).toNat)
      (homeWrite (ownCopies r s) pa r.size (atomNew op r.ty r.size old r.val r.cmp))) := by
  unfold sliceDo sliceRead sliceWrite
  simp only [hhome, hread, hop, finishReq_plain hacq]

/-- A JOIN whose counter reads 0 at its home slice is answered (R88, R173). -/
theorem sliceDo_join (hop : r.op = .join) (hhome : r.home = .dev pa) (hacq : r.acq = 0)
    (hread : homeRead (ownCopies r s) (coreDie r.src) pa r.size = .ok 0) :
    sliceDo r s = .ok (replyReq r (.ok 0) (ownCopies r s)) := by
  have hholds : r.holds 0 = true := by
    unfold Req.holds
    simp only [hop]
    rfl
  unfold sliceDo sliceRead
  simp only [hhome, hread, hop, hholds, if_true, finishReq_plain hacq]

end

/-! ### Timeouts and stale requests (R174, R437) -/

theorem exec_waitaTimeout (x : Nat) (s : State) : exec (.waitaTimeout x) s = execWaitaTimeout x s := by
  rfl

theorem exec_staleRequestRefusal (i : Nat) (s : State) : exec (.staleRequestRefusal i) s = execStaleRequestRefusal i s := by
  rfl

/-- A cancelled wait leaves no request of it in flight (R35). -/
theorem cancelWait_reqs (x : Nat) (s : State) : ∀ e ∈ (cancelWait x s).reqs, ¬(e.x = x ∧ e.waits = true) := by
  intro e he hmine
  obtain ⟨hx, hwaits⟩ := hmine
  unfold cancelWait at he
  have hkept := (List.mem_filter.mp he).2
  simp [hx, hwaits] at hkept

/-- A WAITA at its timeout has its reply, the word at this moment (R174). -/
theorem waita_times_out {x due : Nat} {w : Wait} {q : Req} {v : LongVal} {s : State} (hrun : (s.ctx x).run = .waiting w) (hkind : w.kind = .waita)
    (hdeadline : w.deadline = some due) (hdue : due ≤ s.pkg.time) (hreply : w.reply = none) (htimed : w.timedOut = false)
    (hdual : (s.ctx x).dual = none) (hreq : waitingReq s x = some q) (hword : wordNow q s = (some v, s)) :
    Ends (.waitaTimeout x) s fun t => (t.ctx x).run = .waiting { w with reply := some v, timedOut := true } ∧ Claims.OnlyContext s t x ∧
      ∀ e ∈ t.reqs, ¬(e.x = x ∧ e.waits = true) := by
  have hwait : (s.ctx x).wait? = some w := by rw [Ctx.wait?, hrun]
  have hto : replyTo x (cancelWait x s) = [x] := by rw [replyTo, cancelWait_ctx, hdual]
  have hnotyet : ¬(w.kind ≠ .waita ∨ s.pkg.time < due ∨ w.reply.isSome = true ∨ w.timedOut = true) := by
    simp only [hkind, hreply, htimed, Option.isSome_none, Bool.false_eq_true, or_false, ne_eq, not_true, false_or, not_lt]
    exact hdue
  refine ⟨_, (exec_waitaTimeout x s).trans (by unfold execWaitaTimeout; simp only [hwait, hreq, hdeadline, hnotyet, hword, hto, if_false]; rfl), ?_,
    ⟨fun y hy => ?_, ?_⟩, ?_⟩
  · rw [List.foldl_cons, List.foldl_nil, State.modCtx_ctx_same, cancelWait_ctx, hrun]
  · rw [List.foldl_cons, List.foldl_nil, State.modCtx_ctx_ne _ _ _ _ hy, cancelWait_ctx]
  · exact cancelWait_mem x s
  · exact cancelWait_reqs x s

/-! ### The clauses of the statement -/

section
variable {i : Nat} {r : Req} {s : State}

/-- R191: the value becomes present, or goes to the holding slot. -/
theorem linkValue_lands {n k off : Nat} {rel : Bool} (hr : s.reqs[i]? = some r) (hfirst : reqFirst s i = true) (hop : r.op = .link n rel)
    (hhome : r.home = .spad k off) (hfence : fencedFrom s (coreDie r.src) (coreDie k) = false) (hlive : (s.core k).killed = false)
    (hon : (s.core k).offline = false) (hdroop : (s.core k).droopAt = none) :
    ((s.core k).links.get? n = none → Ends (.linkValueArrival i) s fun t =>
      t.reqs = dropAt s.reqs i ∧ (t.core k).links.get? n = some (BitVec.ofNat 64 r.val) ∧ (∀ y, t.ctx y = s.ctx y)) ∧
    (∀ v, (s.core k).links.get? n = some v → (s.core k).linkHold.get? n = none → Ends (.linkValueArrival i) s fun t =>
      t.reqs = dropAt s.reqs i ∧ (t.core k).links = (s.core k).links ∧
        (t.core k).linkHold.get? n = some (BitVec.ofNat 64 r.val, rel)) := by
  obtain ⟨u, hu⟩ : ∃ u : State, u = { s with reqs := dropAt s.reqs i } := ⟨_, rfl⟩
  have hcore : u.core k = s.core k := by rw [hu]; rfl
  have hperform : performReq r { s with reqs := dropAt s.reqs i } = linkArrive r k n rel u := by
    rw [hu]
    exact performReq_link hop hhome hfence hlive hon hdroop
  have hlink : r.isLink = true := by rw [Req.isLink, hop]
  have hexec : ∀ t, linkArrive r k n rel u = .ok t → exec (.linkValueArrival i) s = .next t := fun t ht => by
    rw [exec_linkValueArrival, execLinkValueArrival, performWhere_first hr hfirst hlink, performAt_done hr (hperform.trans ht)]
  refine ⟨fun hfree => ?_, fun v hpresent hhold => ?_⟩
  · refine ⟨_, hexec _ (by unfold linkArrive; simp only [hcore, hfree]; rfl), ?_, ?_, fun y => ?_⟩
    · rw [hu]
      rfl
    · rw [State.setCore_core_same]
      exact get?_put_same _ _ _
    · rw [hu]
      rfl
  · refine ⟨_, hexec _ (by unfold linkArrive; simp only [hcore, hpresent, hhold]; rfl), ?_, ?_, ?_⟩
    · rw [hu]
      rfl
    · rw [State.setCore_core_same]
    · rw [State.setCore_core_same]
      exact get?_put_same _ _ _

/-- R160, R162: a store is performed at the home port, or held there at a slot that is not resident. -/
theorem store_reaches_port {k off : Nat} (hr : s.reqs[i]? = some r) (hfirst : reqFirst s i = true) (hhome : r.home = .spad k off)
    (hfence : fencedFrom s (coreDie r.src) (coreDie k) = false) (hlive : (s.core k).killed = false) (hdroop : (s.core k).droopAt = none)
    (hrefused : r.refused = false) (hop : r.op = .store) :
    (resident s k off = true → (spadBad s k off = false ∨ r.size = 8) → r.lr = none → r.waits = false → r.vst = none →
      r.acq = 0 → (s.core k).waiters = [] → off % 8 + r.size ≤ 8 → Ends (.remoteScratchpadAccess i) s fun t =>
        t.reqs = dropAt s.reqs i ∧ spadGet t k off r.size = r.val % 2 ^ (8 * r.size) ∧ (∀ y, t.ctx y = s.ctx y) ∧ t.mem = s.mem ∧
          ∀ j, j ≠ off / 8 % 32768 → (t.core k).spad.getD j 0 = (s.core k).spad.getD j 0) ∧
    (resident s k off = false → heldAtPort { s with reqs := dropAt s.reqs i } k < 64 → Ends (.remoteScratchpadAccess i) s fun t =>
      t.reqs = s.reqs.set i { r with heldAt := true } ∧ ∀ j, (t.core j).spad = (s.core j).spad) := by
  have htest : (r.toPort && !r.refused) = true := by
    rw [Req.toPort, hhome, hop, hrefused]
    rfl
  have hexec : exec (.remoteScratchpadAccess i) s = .next (performAt i s) := by
    rw [exec_remoteScratchpadAccess, execRemoteScratchpadAccess, performWhere_first hr hfirst htest]
  refine ⟨fun hres hbad hlr hwaits hvst hacq hwait hfit => ?_, fun hres hroom => ?_⟩
  · have hstored := performReq_store (s := { s with reqs := dropAt s.reqs i }) hop hhome hfence hlive hdroop hres hbad hlr hwaits hvst hacq
    refine ⟨_, hexec, ?_⟩
    rw [performAt_done hr hstored]
    exact storedAt_alone (s := { s with reqs := dropAt s.reqs i }) hwait hfit
  · refine ⟨_, hexec, ?_⟩
    rw [performAt_stays hr (performReq_absent hop hhome hfence hlive hdroop hres hroom)]
    exact ⟨rfl, fun _ => rfl⟩

/-- A value of an atomic fits its word. -/
theorem atomNew_fits (op : AtomKind) (ty size m v cv : Nat) : atomNew op ty size m v cv % 256 ^ size = atomNew op ty size m v cv := by
  rw [pow_256_eq]
  exact Nat.mod_mod _ _

/-- R183: an atomic replaces the word at its home and answers with the old one. -/
theorem atomic_at_home {op : AtomKind} {pa old id : Nat} (hr : s.reqs[i]? = some r) (hfirst : reqFirst s i = true) (hop : r.op = .atom op)
    (hhome : r.home = .dev pa) (hrefused : r.refused = false) (hstale : r.stale = false) (hlr : r.lr = some id) (hwaits : r.waits = false)
    (hacq : r.acq = 0) {own : State} (hown : own = ownCopies r { s with reqs := dropAt s.reqs i }) (hdual : (own.ctx r.x).dual = none)
    (hread : homeRead own (coreDie r.src) pa r.size = .ok old) (hwait : (own.die (homeDie pa)).waiters = []) :
    Ends (.atomicAtHome i) s fun t => t.reqs = own.reqs ∧
      memRead t.mem pa r.size = atomNew op r.ty r.size old r.val r.cmp ∧
      (∀ a, a < pa ∨ pa + r.size ≤ a → memByte t.mem a = memByte own.mem a) ∧
      (t.ctx r.x).outstanding = (own.ctx r.x).outstanding.map fun e =>
        if e.id = id then { e with val := some (.ok (extendTy r.ty old).toNat) } else e := by
  have htest : (r.isAtom && !r.refused) = true := by
    rw [Req.isAtom, hop, hrefused]
    rfl
  have hperformed := sliceDo_atomic hop hhome hacq (hown ▸ hread)
  rw [← hown, ← performReq_dev hhome hstale] at hperformed
  have hctxs := (homeWrite_alone hwait r.size (atomNew op r.ty r.size old r.val r.cmp)).1
  have hctx : (homeWrite own pa r.size (atomNew op r.ty r.size old r.val r.cmp)).ctx r.x = own.ctx r.x := by
    rw [State.ctx, hctxs]
    rfl
  have hexec : exec (.atomicAtHome i) s = .next (performAt i s) := by
    rw [exec_atomicAtHome, execAtomicAtHome, performWhere_first hr hfirst htest]
  refine ⟨_, hexec, ?_⟩
  rw [performAt_done hr hperformed]
  refine ⟨?_, ?_, fun a ha => ?_, ?_⟩
  · rw [replyReq_frame]
    exact homeWrite_quiet quiet_reqs _ _ _ _
  · rw [replyReq_mem, memRead_homeWrite, atomNew_fits]
  · rw [replyReq_mem, homeWrite_mem, memByte_memWrite_ne _ _ _ _ _ ha]
  · rw [replyReq_long hwaits hlr (hctx ▸ hdual), State.modCtx_ctx_same, hctx]

/-- R173: a JOIN refused before is answered once its counter reads 0. -/
theorem join_retried {pa : Nat} {w : Wait} (hr : s.reqs[i]? = some r) (hfirst : reqFirst s i = true) (hop : r.op = .join)
    (hhome : r.home = .dev pa) (hrefused : r.refused = true) (hstale : r.stale = false) (hwaits : r.waits = true)
    (hacq : r.acq = 0) {own : State} (hown : own = ownCopies r { s with reqs := dropAt s.reqs i }) (hdual : (own.ctx r.x).dual = none)
    (hrun : (own.ctx r.x).run = .waiting w) (hread : homeRead own (coreDie r.src) pa r.size = .ok 0) :
    Ends (.waiterRetry i) s fun t =>
      t.reqs = own.reqs ∧ (t.ctx r.x).run = .waiting { w with reply := some (.ok 0) } ∧ t.mem = own.mem := by
  have hperformed := sliceDo_join hop hhome hacq (hown ▸ hread)
  rw [← hown, ← performReq_dev hhome hstale] at hperformed
  have hexec : exec (.waiterRetry i) s = .next (replyReq r (.ok 0) own) := by
    rw [exec_waiterRetry, execWaiterRetry, performWhere_first hr hfirst (by rw [hrefused, Bool.true_or]), performAt_done hr hperformed]
  refine ⟨_, hexec, ?_, replyReq_waits hwaits hdual hrun _, replyReq_mem _ _ _⟩
  rw [replyReq_frame]

/-- R437: a stale request is translated anew. -/
theorem staleRequest_translated {home : Home} {u : State} (hr : s.reqs[i]? = some r) (hstale : r.stale = true)
    (htranslated : devHome s r.src r.pid r.va.toNat (if r.isAtom then .write else .read) = (.ok home, u)) :
    exec (.staleRequestRefusal i) s = .next { u with reqs := u.reqs.set i { r with home := home, stale := false } } := by
  rw [exec_staleRequestRefusal]
  unfold execStaleRequestRefusal
  simp only [hr, hstale, htranslated, Bool.true_eq_false, if_false]

end

/-- R24: a long result is written or posts its trap. -/
theorem longResult_lands {x i : Nat} {e : LongRes} {s : State} (he : (s.ctx x).outstanding[i]? = some e) (hgroup : e.group = 0)
    (hdroop : (s.core (coreOf x)).droopAt = none) :
    (∀ bits n, e.val = some (.ok bits) → e.dst = .w n → Ends (.longResultArrival x i) s fun t =>
      (t.ctx x).outstanding = dropAt (s.ctx x).outstanding i ∧ (t.ctx x).stack.getD (n % 64) 0 = BitVec.ofNat 64 bits ∧
        (∀ j, j ≠ n % 64 → (t.ctx x).stack.getD j 0 = (s.ctx x).stack.getD j 0) ∧ (t.ctx x).pc = (s.ctx x).pc ∧
        (t.ctx x).run = (s.ctx x).run ∧ Claims.OnlyContext s t x) ∧
    (∀ p, e.val = some (.fail p) → Ends (.longResultArrival x i) s fun t =>
      t.ctx x = { s.ctx x with outstanding := dropAt (s.ctx x).outstanding i, pend := (s.ctx x).pend ++ [p] } ∧ Claims.OnlyContext s t x) := by
  refine ⟨fun bits n hval hdst => ?_, fun p hval => ?_⟩
  · refine ⟨_, longResult_arrives hdroop, ?_⟩
    simp only [landResult_ok he hgroup hval hdst, State.setCtx_ctx_same]
    exact ⟨rfl, (SMap.getD_put _ _ _ _ _).trans (if_pos rfl), fun j hj => (SMap.getD_put _ _ _ _ _).trans (if_neg hj), rfl, rfl,
      onlyContext_setCtx _ _ _⟩
  · refine ⟨_, longResult_arrives hdroop, ?_⟩
    rw [landResult_fail he hgroup hval]
    exact ⟨State.setCtx_ctx_same _ _ _, onlyContext_setCtx _ _ _⟩

/-- Settles O33: each clause is its own lemma above; what is replied touches the contexts alone, and a write at a home whose word has no waiter touches memory alone. -/
theorem requestsArePerformedAtTheirHomes : Obligations.RequestsArePerformedAtTheirHomes := by
  intro x i r s c rest own mine
  refine ⟨fun e he hgroup hdroop => longResult_lands he hgroup hdroop, longResult_held, ?_, ?_, ?_, ?_, ?_, ?_⟩
  · rintro n rel k off ⟨hr, hfirst⟩ hop hhome hfence hlive hon hdroop
    exact linkValue_lands hr hfirst hop hhome hfence hlive hon hdroop
  · rintro k off ⟨hr, hfirst⟩ hhome hfence hlive hdroop hrefused
    exact ⟨fun hres hop => (store_reaches_port hr hfirst hhome hfence hlive hdroop hrefused hop).1 hres,
      fun hres hop => (store_reaches_port hr hfirst hhome hfence hlive hdroop hrefused hop).2 hres⟩
  · rintro op pa old id ⟨hr, hfirst⟩ hop hhome hrefused hstale hlr hwaits hacq hdual hread hwait
    exact atomic_at_home hr hfirst hop hhome hrefused hstale hlr hwaits hacq rfl hdual hread hwait
  · rintro pa w ⟨hr, hfirst⟩ hop hhome hrefused hstale hwaits hacq hdual hrun hread
    exact join_retried hr hfirst hop hhome hrefused hstale hwaits hacq rfl hdual hrun hread
  · intro w q v due hrun hkind hdeadline hdue hreply htimed hgot hdual hreq hword
    exact waita_times_out hrun hkind hdeadline hdue hreply htimed hdual hreq hword
  · exact fun home u hr hstale htranslated => staleRequest_translated hr hstale htranslated

end Sys2Proof.Proofs
end

section
/-! PROOFS. A thread that is held may have a long result filled by the very store of its image (O35). -/

namespace Sys2Proof.Proofs

open Sys2Proof Sys2Proof.Machine Sys2Proof.Claims

/-! ### A core whose contexts all wait, and a registered JOIN that fills a long result

The statement speaks of every state. A JOIN waits for its reply, so no word registers one that fills a long result; a state may hold one all the
same. Its word is the first of the image, and the image's first word is 0: the store answers it. -/

/-- The wait of a JOIN, without a deadline. -/
def joinWait : Wait := ⟨.nop plainHdr offsetInFormatI, .join, 0, 0, none, none, false, [], 0⟩

/-- A context that waits in it. -/
def joiner : Ctx := { Ctx.reset with run := .waiting joinWait }

/-- The JOIN of context 0, registered on a word of its own core's scratchpad. -/
def waitingJoin : Req := ⟨1, 0, 0, 0, .join, .spad 0 0, 8, 0, 1, 0, none, true, 0, false, 0, 0, none, false, false, false, 0⟩

/-- A JOIN for context 0 that fills its long result 5, registered on the first word of the context's image. -/
def owedJoin : Req := { waitingJoin with id := 2, home := .spad 0 0x580, lr := some 5, waits := false }

/-- A record, of which the place in the deque is all that matters. -/
def anyRecord : Queued := ⟨⟨0, 0, 0, 0, 0, 0, 0, 0⟩, 0, false, 0, none, false, none, none, none⟩

/-- All seven user contexts of core 0 wait, work is queued and a pair is spare; context 0, whose image lies in the scratchpad, is owed result 5. -/
def fullCore : State :=
  { State.reset with
    ctxs := (0, { joiner with wsp := 0x30_0000_0000_1000, outstanding := [⟨5, .none, none, 0⟩] }) :: (List.range 6).map fun n => (n + 1, joiner)
    cores := [(0, { Core.reset with waiters := [waitingJoin, owedJoin], deque := [anyRecord], spare := [0] })] }

/-- Nothing is there to be performed before the thread is held. -/
theorem settleThread_fullCore : settleThread 0 fullCore = fullCore := by
  rfl

/-- What the write of the image answers. -/
def imageOfFullCore : Except (AccErr × Word) Unit × State :=
  writeImage 0 (fullCore.ctx 0).pid (fullCore.ctx 0).pc (cancelBoth 0 fullCore)

theorem image_fullCore_written : imageOfFullCore.1 = .ok () := by
  rfl

/-! ### What the hold keeps of the results -/

/-- Does the thread that core 0 has held last keep, under its number, a long result with its value. -/
def keepsAnswered (t : State) : Bool :=
  match (t.core 0).heldList.getLast?.bind HeldThread.key with
  | some n => (t.ctx n).outstanding.any fun r => r.val.isSome
  | none => false

/-- Does a step end in a state that satisfies a test. -/
def endsWith (test : State → Bool) (o : Out) : Bool :=
  match o with
  | .next t => test t
  | _ => false

theorem hold_fullCore_keepsAnswered : endsWith keepsAnswered (exec (.forwardProgressHold 0) fullCore) = true := by
  rfl

theorem keepsAnswered_eq {t : State} {l : List HeldThread} {e : HeldThread} {n : Nat} (hlist : (t.core 0).heldList = l ++ [e])
    (hkey : e.key = some n) : keepsAnswered t = (t.ctx n).outstanding.any fun r => r.val.isSome := by
  unfold keepsAnswered
  rw [hlist, List.getLast?_concat, Option.bind_some, hkey]

/-- Refutes O35: in `fullCore` the hold stores the image of context 0 over the word of a registered JOIN, whose answer fills the context's long
result; the statement has the held thread keep its results as they were. -/
theorem not_threadsHeldImagedAndMigrated : ¬ Obligations.ThreadsHeldImagedAndMigrated := by
  rintro ⟨hclaims, -⟩
  obtain ⟨hhold, -⟩ := hclaims 0 0 fullCore
  have hkept := hhold 0 waitingJoin 0 [] imageOfFullCore.2 (by decide) (by decide) (by decide) (by decide) rfl rfl
  simp only [settleThread_fullCore] at hkept
  obtain ⟨t, ht, -, -, -, l, e, hlist, -, -, hbusy⟩ :=
    hkept (.inr ⟨rfl, by decide⟩) (by decide) (by decide) rfl (Prod.ext image_fullCore_written rfl)
  obtain ⟨-, n, hkey, hsame⟩ := hbusy (by decide)
  have hanswered := hold_fullCore_keepsAnswered
  rw [ht, endsWith, keepsAnswered_eq hlist hkey, hsame] at hanswered
  cases hanswered

end Sys2Proof.Proofs
end

section
/-! PROOFS. The link values that a scalar word takes, and what it leaves when it completes (R14, R22, R62, R190, R191). -/

namespace Sys2Proof.Proofs

open Sys2Proof Sys2Proof.Machine Sys2Proof.Claims

/-! ### Listed values -/

/-- Looking a key up reads the table of present values. -/
theorem get?_eq_getD {α : Type} (m : SMap α) (k : Nat) : m.get? k = SMap.getD (m.map fun e => (e.1, some e.2)) k none := by
  induction m with
  | nil => rfl
  | cons e m ih => rw [SMap.get?, ih]; rfl

theorem getD_eq_get? {α : Type} (m : SMap α) (k : Nat) (d : α) : m.getD k d = (m.get? k).getD d := by
  induction m with
  | nil => rfl
  | cons e m ih =>
    rw [SMap.getD, SMap.get?, ih]
    split <;> rfl

theorem get?_put_ne {α : Type} (m : SMap α) {k j : Nat} (x : α) (h : j ≠ k) : (m.put k x).get? j = m.get? j := by
  have hmap : (m.put k x).map (fun e => (e.1, some e.2)) = SMap.put (m.map fun e => (e.1, some e.2)) k (some x) := by
    simp [SMap.put, List.filter_map, Function.comp_def]
  rw [get?_eq_getD, hmap, SMap.getD_put_ne _ _ _ _ _ h, get?_eq_getD]

theorem get?_erase_ne {α : Type} (m : SMap α) {k j : Nat} (h : j ≠ k) : (m.erase k).get? j = m.get? j := by
  have hmap : (m.erase k).map (fun e => (e.1, some e.2)) = SMap.erase (m.map fun e => (e.1, some e.2)) k := by
    simp [SMap.erase, List.filter_map, Function.comp_def]
  rw [get?_eq_getD, hmap, SMap.getD_erase, if_neg h, get?_eq_getD]

/-! ### What taking links moves -/

/-- Of a core, nothing but its links and the lines of its L1. -/
def OnlyLinksOf (c d : Core) : Prop :=
  d = { c with l1 := d.l1, links := d.links, linkRel := d.linkRel, linkHold := d.linkHold, linkBack := d.linkBack }

/-- Of the device, nothing but the links of the cores and the lines of their caches: an `l` read of a value sent by `.rel` is an acquire (R190). -/
def OnlyLinks (s t : State) : Prop := t = { s with cores := t.cores, dies := t.dies } ∧ ∀ k, OnlyLinksOf (s.core k) (t.core k)

theorem OnlyLinks.refl (s : State) : OnlyLinks s s := ⟨rfl, fun _ => rfl⟩

theorem OnlyLinks.trans {s t u : State} (hst : OnlyLinks s t) (htu : OnlyLinks t u) : OnlyLinks s u := by
  obtain ⟨hs, hcs⟩ := hst
  obtain ⟨ht, hct⟩ := htu
  refine ⟨?_, fun k => ?_⟩
  · rw [ht, hs]
  · rw [OnlyLinksOf, hct k, hcs k]

theorem OnlyLinks.ctx {s t : State} (h : OnlyLinks s t) (y : Nat) : t.ctx y = s.ctx y := by
  rw [h.1]
  rfl

theorem onlyLinks_setCore {s : State} {k : Nat} {c : Core} (hc : OnlyLinksOf (s.core k) c) : OnlyLinks s (s.setCore k c) := by
  refine ⟨rfl, fun j => ?_⟩
  rw [State.setCore_core]
  split
  · next hj => exact hj ▸ hc
  · rfl

theorem onlyLinks_modDie (s : State) (d : Nat) (g : Die → Die) : OnlyLinks s (s.modDie d g) := ⟨rfl, fun _ => rfl⟩

/-- An acquire drops lines of the L1s and of the LLC (R180, R182). -/
theorem acquireLines_onlyLinks (s : State) (k pid sc : Nat) : OnlyLinks s (acquireLines s k pid sc none) := by
  have hl1 : OnlyLinks s ((l1Cores s k).foldl (fun t m => t.modCore m fun c =>
      { c with l1 := c.l1.filterMap fun l => if lineIn none l.vln then l.acquired else some l }) s) :=
    foldl_inv (OnlyLinks s) _ (fun t m ht => ht.trans (onlyLinks_setCore (s := t) (k := m) (by rfl))) _ _ (OnlyLinks.refl s)
  have hllc : ∀ (t : State) (ln : Nat), OnlyLinks s t → OnlyLinks s (llcAcquire (coreDie k) ln t) := fun t ln ht => by
    unfold llcAcquire
    split
    · exact ht
    · exact ht.trans (onlyLinks_modDie _ _ _)
  unfold acquireLines
  dsimp only
  split
  · split
    · exact foldl_inv (OnlyLinks s) _ hllc _ _ hl1
    · exact hl1
  · exact OnlyLinks.refl s

theorem acquireLines_links (s : State) (k pid sc j : Nat) : ((acquireLines s k pid sc none).core j).links = (s.core j).links :=
  acquireLines_quiet ((quiet_stillCore j).comp Core.links) s k pid sc none

theorem nextHeld_onlyLinksOf (c : Core) (n : Nat) : OnlyLinksOf c (c.nextHeld n) ∧ (c.nextHeld n).links = c.links := by
  unfold Core.nextHeld
  split <;> exact ⟨rfl, rfl⟩

/-- A present value is taken with its mark, and the other links keep theirs (R191). -/
theorem takeLink_present {c : Core} {n : Nat} {v : Word} (hv : c.links.get? n = some v) :
    ∃ rel d, takeLink c n = some (v, rel, d) ∧ OnlyLinksOf c d ∧ ∀ m, m ≠ n → d.links.get? m = c.links.get? m := by
  unfold takeLink
  rw [hv]
  dsimp only
  split
  · next hv' hr _ =>
    obtain ⟨honly, hlinks⟩ := nextHeld_onlyLinksOf { c with links := c.links.put n hv', linkRel := c.linkRel.put n hr } n
    refine ⟨_, _, rfl, ?_, fun m hm => ?_⟩
    · rw [OnlyLinksOf, honly]
    · rw [hlinks, get?_put_ne _ _ hm]
  · exact ⟨_, _, rfl, rfl, fun m hm => get?_erase_ne _ hm⟩

/-- A context takes the value of a link that has one and for which no context waits (R14, R190). -/
theorem takeLinkFor_present {x n : Nat} {s : State} {v : Word} (hv : (s.core (coreOf x)).links.get? n = some v)
    (hwait : ∀ e ∈ (s.core (coreOf x)).linkWait, e.1 ≠ n) :
    ∃ u, takeLinkFor x n s = some (v, u) ∧ OnlyLinks s u ∧
      ∀ m, m ≠ n → (u.core (coreOf x)).links.get? m = (s.core (coreOf x)).links.get? m := by
  obtain ⟨rel, d, htake, honly, hother⟩ := takeLink_present hv
  have hnone : (s.core (coreOf x)).linkWait.find? (fun e => e.1 == n) = none :=
    List.find?_eq_none.mpr fun e he hn => hwait e he (beq_iff_eq.mp hn)
  have hset := onlyLinks_setCore honly
  refine ⟨_, by unfold takeLinkFor; simp only [hnone, htake]; rfl, ?_, fun m hm => ?_⟩
  · split
    · exact hset.trans (acquireLines_onlyLinks _ _ _ _)
    · exact hset
  · split
    · rw [acquireLines_links, State.setCore_core_same, hother m hm]
    · rw [State.setCore_core_same, hother m hm]

/-- A word whose links all hold values takes them all (R14). -/
theorem takeLinks_here {x : Nat} {i : Instr} {ls : List Nat} {got : SMap Word} {s : State} (hnodup : ls.Nodup)
    (hgot : ∀ n ∈ ls, got.get? n = none)
    (hhere : ∀ n ∈ ls, (s.core (coreOf x)).links.get? n ≠ none ∧ ∀ e ∈ (s.core (coreOf x)).linkWait, e.1 ≠ n) :
    ∃ vals u, takeLinks x i ls got s = (some vals, u) ∧ OnlyLinks s u ∧ (ls = [] → u = s) ∧
      ∀ m, vals.getD m 0 = if m ∈ ls then (s.core (coreOf x)).links.getD m 0 else got.getD m 0 := by
  induction ls generalizing got s with
  | nil => exact ⟨got, s, rfl, OnlyLinks.refl s, fun _ => rfl, fun m => (if_neg (List.not_mem_nil)).symm⟩
  | cons n rest ih =>
    obtain ⟨hn, hrest⟩ := List.nodup_cons.mp hnodup
    obtain ⟨hpresent, hfree⟩ := hhere n List.mem_cons_self
    obtain ⟨v, hv⟩ := Option.ne_none_iff_exists'.mp hpresent
    obtain ⟨u, htake, hu, hother⟩ := takeLinkFor_present hv hfree
    have hne : ∀ m ∈ rest, m ≠ n := fun m hm he => hn (he ▸ hm)
    have hwait : (u.core (coreOf x)).linkWait = (s.core (coreOf x)).linkWait := by rw [hu.2]
    obtain ⟨vals, w, hall, hw, -, hvals⟩ := ih (got := got.put n v) (s := u) hrest
      (fun m hm => (get?_put_ne _ _ (hne m hm)).trans (hgot m (List.mem_cons_of_mem _ hm)))
      (fun m hm => by
        rw [hother m (hne m hm), hwait]
        exact hhere m (List.mem_cons_of_mem _ hm))
    refine ⟨vals, w, ?_, hu.trans hw, fun h => absurd h (List.cons_ne_nil _ _), fun m => ?_⟩
    · rw [takeLinks, hgot n List.mem_cons_self, htake]
      exact hall
    · rw [hvals m, SMap.getD_put]
      by_cases hm : m = n
      · rw [if_neg (hm ▸ hn), if_pos hm, if_pos (hm ▸ List.mem_cons_self), hm, getD_eq_get?, hv]
        rfl
      · simp only [List.mem_cons, hm, false_or, if_false]
        rw [getD_eq_get?, hother m hm, ← getD_eq_get?]

theorem links_nodup (f : Fields) : f.links.Nodup := by
  unfold Fields.links
  split
  · split
    · exact List.nodup_singleton _
    · next hne => simp [hne]
  · exact List.nodup_singleton _
  · exact List.nodup_singleton _
  · exact List.nodup_nil

theorem mem_links_a {f : Fields} {n : Nat} (h : f.a.link? = some n) : n ∈ f.links := by
  unfold Fields.links
  rw [h]
  cases f.b.link? with
  | none => exact List.mem_singleton_self n
  | some m => dsimp only; split <;> exact List.mem_cons_self

theorem mem_links_b {f : Fields} {n : Nat} (h : f.b.link? = some n) : n ∈ f.links := by
  unfold Fields.links
  rw [h]
  cases f.a.link? with
  | none => exact List.mem_singleton_self n
  | some m =>
    dsimp only
    split
    · next he => exact he ▸ List.mem_singleton_self _
    · exact List.mem_cons_of_mem _ (List.mem_singleton_self n)

/-! ### The sources of a scalar word (R42, R62) -/

section
variable {h : Hdr} {f : Fields} {s : State}

/-- With the values of the links it names, a word reads its sources. -/
theorem srcS_here {vals : SMap Word} {o : Opnd} (hvals : ∀ n ∈ f.links, vals.getD n 0 = (Claims.core s).links.getD n 0)
    (ho : ∀ n, o.link? = some n → n ∈ f.links) : srcS ((issued s.cur h s).ctx s.cur) vals o = source s o := by
  cases o with
  | l n => exact hvals _ (ho _ rfl)
  | w n => exact srcS_issued h s (.w n) rfl
  | p n => exact srcS_issued h s (.p n) rfl
  | _ => rfl

theorem srcZ_here {vals : SMap Word} {o : Opnd} (hvals : ∀ n ∈ f.links, vals.getD n 0 = (Claims.core s).links.getD n 0)
    (ho : ∀ n, o.link? = some n → n ∈ f.links) : srcZ ((issued s.cur h s).ctx s.cur) vals o = count s o := by
  cases o with
  | imm n => rfl
  | _ => exact srcS_here (h := h) hvals ho

/-! ### A scalar word completes -/

/-- A scalar word whose links hold values writes its result after it has taken them (R14, R22). -/
theorem scalarOp_completes {i : Instr} {zext : Bool} {op : Ctx → Word → Word → Word} (hh : i.hdr = h) (hpacket : Instr.packet i = false)
    (hrun : Runs h s) (hlinks : LinksHere f s) :
    ∃ u, OnlyLinks (issued s.cur h s) u ∧ (f.links = [] → u = issued s.cur h s) ∧
      scalarOp i f zext op s = .next (retire s.cur (me s).pc h.sw none (writeResult s.cur f
        (op ((issued s.cur h s).ctx s.cur) (source s f.a) (if zext then count s f.b else source s f.b)) u)) := by
  subst hh
  have hcore := issued_core s.cur i.hdr s (coreOf s.cur)
  have hhere : ∀ n ∈ f.links, ((issued s.cur i.hdr s).core (coreOf s.cur)).links.get? n ≠ none ∧
      ∀ e ∈ ((issued s.cur i.hdr s).core (coreOf s.cur)).linkWait, e.1 ≠ n := by
    rw [hcore]
    exact hlinks
  obtain ⟨vals, u, htake, hu, hnil, hvals⟩ := takeLinks_here (x := s.cur) (i := i) (got := []) (links_nodup f) (fun _ _ => rfl) hhere
  have hlinked : ∀ n ∈ f.links, vals.getD n 0 = (Claims.core s).links.getD n 0 := fun n hn => by rw [hvals, if_pos hn, hcore]
  refine ⟨u, hu, hnil, ?_⟩
  have hstep := issue_ready i false false (fun x _ t => withLinks x i f t fun ls w =>
    .done (writeResult x f (op (w.ctx x) (srcS (w.ctx x) ls f.a) (if zext then srcZ (w.ctx x) ls f.b else srcS (w.ctx x) ls f.b)) w)) s
    hrun.1 (.inl rfl) (.inr hrun.2) (.inr hpacket)
  refine hstep.trans ?_
  unfold withLinks
  simp only [issued_wait hrun.1, htake, hu.ctx]
  rw [srcS_here hlinked fun _ => mem_links_a, srcS_here hlinked fun _ => mem_links_b, srcZ_here hlinked fun _ => mem_links_b]
  rfl

/-! ### What the result leaves of the context -/

theorem writeD_eq (c : Ctx) (d : Opnd) (v : Word) : c.writeD d v = { c with stack := (c.writeD d v).stack, p := (c.writeD d v).p } := by
  unfold Ctx.writeD Ctx.setPred
  split
  · rfl
  · split <;> rfl
  · rfl

/-- A predicate reads as the value written to it, but for `p0` (R9). -/
theorem pred_setPred_same {w : Nat} (c : Ctx) (b : BitVec w) (v : Word) :
    (c.setPred b.toNat v).pred b.toNat = if b = 0 then BitVec.allOnes 64 else v := by
  have hzero : b.toNat = 0 ↔ b = 0 := ⟨fun hb => BitVec.eq_of_toNat_eq (hb.trans BitVec.toNat_zero.symm), fun hb => hb ▸ BitVec.toNat_zero⟩
  rw [Ctx.pred_setPred]
  by_cases hb : b = 0
  · rw [if_neg fun h0 => h0.2 (hzero.mpr hb), if_pos hb, hzero.mpr hb]
    exact (Ctx.pred_zero c).trans (allOf_eq true)
  · rw [if_pos ⟨rfl, fun h0 => hb (hzero.mp h0)⟩, if_neg hb]

/-- D reads as the value written to it (R9, R12). -/
theorem reads_writeD (c : Ctx) (d : Opnd) (v : Word) : Reads (c.writeD d v) d v := by
  cases d with
  | w n => exact Ctx.setW_w_same c _ v
  | p n => exact pred_setPred_same c n v
  | _ => trivial

theorem reads_retire {c : Ctx} {d : Opnd} {v : Word} (hr : Reads c d v) (user : Bool) (pc : Word) (sw : Bool) (target : Option Word) :
    Reads (c.retire user pc sw target) d v := by
  cases d with
  | w n => exact (Ctx.retire_w _ _ _ _ _ _).trans hr
  | p n => exact (Ctx.retire_pred _ _ _ _ _ _).trans hr
  | _ => trivial

/-- Where a word leaves its result: at once, or as one more long result (R22). -/
theorem writeResult_ctx (v : Word) {u : State} (hu : u.ctx s.cur = (issued s.cur h s).ctx s.cur) (hid : u.nextId = s.nextId) :
    (writeResult s.cur f v u).ctx s.cur =
      if f.links = [] then ((issued s.cur h s).ctx s.cur).writeD f.d v
      else { (issued s.cur h s).ctx s.cur with outstanding := (me s).outstanding ++ [⟨s.nextId, (me s).resultDst f.d, some (.ok v.toNat), 0⟩] } := by
  have hself := issued_ctx_same s.cur h s
  split
  · next hnil => rw [writeResult_short _ _ _ _ hnil, State.modCtx_ctx_same, hu]
  · next hlink =>
    have hdst : ((issued s.cur h s).ctx s.cur).resultDst f.d = (me s).resultDst f.d := by rw [hself]; rfl
    have hout : ((issued s.cur h s).ctx s.cur).outstanding = (me s).outstanding := by rw [hself]
    rw [writeResult_long _ _ _ _ hlink, startLong_ctx_same, hu, hid, hdst, hout]

/-- A scalar word gives the value that its function has for its sources. -/
theorem gives_of_scalarOp {i : Instr} {zext : Bool} {op : Ctx → Word → Word → Word} {v : Word} (hexec : exec i s = scalarOp i f zext op s)
    (hh : i.hdr = h) (hpacket : Instr.packet i = false) (hrun : Runs h s) (hlinks : LinksHere f s)
    (hop : op ((issued s.cur h s).ctx s.cur) (source s f.a) (if zext then count s f.b else source s f.b) = v) : Gives i h f s v := by
  obtain ⟨u, hu, -, hstep⟩ := scalarOp_completes (zext := zext) (op := op) hh hpacket hrun hlinks
  rw [hop] at hstep
  have hself := issued_ctx_same s.cur h s
  have hid : u.nextId = s.nextId := by rw [hu.1]; exact issued_nextId _ _ _
  have hctx := writeResult_ctx (f := f) v (hu.ctx s.cur) hid
  refine ⟨_, hexec.trans hstep, ?_, ?_⟩
  · unfold Result
    rw [retire_ctx_same, hctx]
    split
    · refine ⟨reads_retire (reads_writeD _ _ _) _ _ _ _, ?_⟩
      rw [Ctx.retire_outstanding, writeD_eq, hself]
    · rw [Ctx.retire_outstanding]
  · rw [retire_ctx_same, hctx]
    split
    · refine advances_retire ?_ ?_ ?_ _ <;> rw [writeD_eq, hself]
    · refine advances_retire ?_ ?_ ?_ _ <;> dsimp only <;> rw [hself]

end

end Sys2Proof.Proofs
end

section
/-! PROOFS. The frame of the scalar words, moves and addresses, comparisons and predicates (O2, O3, O4). -/

namespace Sys2Proof.Proofs

open Sys2Proof Sys2Proof.Machine Sys2Proof.Claims

/-! ### The scalar words (R62 to R70) -/

theorem exec_add (h : Hdr) (f : Fields) (s : State) : exec (.add h f) s = execAdd h f s := by
  rfl

theorem exec_sub (h : Hdr) (f : Fields) (s : State) : exec (.sub h f) s = execSub h f s := by
  rfl

theorem exec_mul (h : Hdr) (f : Fields) (s : State) : exec (.mul h f) s = execMul h f s := by
  rfl

theorem exec_mulh (h : Hdr) (f : Fields) (s : State) : exec (.mulh h f) s = execMulh h f s := by
  rfl

theorem exec_mulhn (h : Hdr) (f : Fields) (s : State) : exec (.mulhn h f) s = execMulhn h f s := by
  rfl

theorem exec_div (h : Hdr) (f : Fields) (s : State) : exec (.div h f) s = execDiv h f s := by
  rfl

theorem exec_divn (h : Hdr) (f : Fields) (s : State) : exec (.divn h f) s = execDivn h f s := by
  rfl

theorem exec_rem (h : Hdr) (f : Fields) (s : State) : exec (.rem h f) s = execRem h f s := by
  rfl

theorem exec_remn (h : Hdr) (f : Fields) (s : State) : exec (.remn h f) s = execRemn h f s := by
  rfl

theorem exec_and (h : Hdr) (f : Fields) (s : State) : exec (.and h f) s = execAnd h f s := by
  rfl

theorem exec_or (h : Hdr) (f : Fields) (s : State) : exec (.or h f) s = execOr h f s := by
  rfl

theorem exec_xor (h : Hdr) (f : Fields) (s : State) : exec (.xor h f) s = execXor h f s := by
  rfl

theorem exec_andn (h : Hdr) (f : Fields) (s : State) : exec (.andn h f) s = execAndn h f s := by
  rfl

theorem exec_shl (h : Hdr) (f : Fields) (s : State) : exec (.shl h f) s = execShl h f s := by
  rfl

theorem exec_shr (h : Hdr) (f : Fields) (s : State) : exec (.shr h f) s = execShr h f s := by
  rfl

theorem exec_sra (h : Hdr) (f : Fields) (s : State) : exec (.sra h f) s = execSra h f s := by
  rfl

theorem exec_rol (h : Hdr) (f : Fields) (s : State) : exec (.rol h f) s = execRol h f s := by
  rfl

theorem exec_clz (h : Hdr) (f : Fields) (s : State) : exec (.clz h f) s = execClz h f s := by
  rfl

theorem exec_ctz (h : Hdr) (f : Fields) (s : State) : exec (.ctz h f) s = execCtz h f s := by
  rfl

theorem exec_popc (h : Hdr) (f : Fields) (s : State) : exec (.popc h f) s = execPopc h f s := by
  rfl

theorem exec_min (h : Hdr) (f : Fields) (s : State) : exec (.min h f) s = execMin h f s := by
  rfl

theorem exec_max (h : Hdr) (f : Fields) (s : State) : exec (.max h f) s = execMax h f s := by
  rfl

theorem exec_minn (h : Hdr) (f : Fields) (s : State) : exec (.minn h f) s = execMinn h f s := by
  rfl

theorem exec_maxn (h : Hdr) (f : Fields) (s : State) : exec (.maxn h f) s = execMaxn h f s := by
  rfl

theorem exec_sext (h : Hdr) (f : Fields) (s : State) : exec (.sext h f) s = execSext h f s := by
  rfl

theorem exec_zext (h : Hdr) (f : Fields) (s : State) : exec (.zext h f) s = execZext h f s := by
  rfl

theorem exec_bfx (h : Hdr) (f : Fields) (s : State) : exec (.bfx h f) s = execBfx h f s := by
  rfl

theorem exec_bfi (h : Hdr) (f : Fields) (s : State) : exec (.bfi h f) s = execBfi h f s := by
  rfl

theorem exec_movi (h : Hdr) (f : Fields) (s : State) : exec (.movi h f) s = execMovi h f s := by
  rfl

theorem exec_moviHi (h : Hdr) (f : Fields) (s : State) : exec (.moviHi h f) s = execMoviHi h f s := by
  rfl

theorem exec_lea (h : Hdr) (f : Fields) (s : State) : exec (.lea h f) s = execLea h f s := by
  rfl

theorem exec_sel (h : Hdr) (f : Fields) (s : State) : exec (.sel h f) s = execSel h f s := by
  rfl

theorem exec_cmp (h : Hdr) (f : Fields) (s : State) : exec (.cmp h f) s = execCmp h f s := by
  rfl

theorem exec_pand (h : Hdr) (f : Fields) (s : State) : exec (.pand h f) s = execPand h f s := by
  rfl

theorem exec_por (h : Hdr) (f : Fields) (s : State) : exec (.por h f) s = execPor h f s := by
  rfl

theorem exec_pxor (h : Hdr) (f : Fields) (s : State) : exec (.pxor h f) s = execPxor h f s := by
  rfl

theorem exec_pnot (h : Hdr) (f : Fields) (s : State) : exec (.pnot h f) s = execPnot h f s := by
  rfl

theorem exec_pmov (h : Hdr) (f : Fields) (s : State) : exec (.pmov h f) s = execPmov h f s := by
  rfl

/-! ### The frame (R22) -/

/-- Every scalar word writes a function of its sources, and sends no packet (R62, R365). -/
theorem scalarWord_scalarOp {i : Instr} {h : Hdr} {f : Fields} (hword : Claims.scalarWord i = some (h, f)) :
    i.hdr = h ∧ Instr.packet i = false ∧ ∃ zext op, ∀ s, exec i s = scalarOp i f zext op s := by
  unfold Claims.scalarWord at hword
  split at hword <;> cases hword
  all_goals
    refine ⟨rfl, rfl, ?_, ?_, fun s => ?_⟩
    rotate_left 2
    · delta exec
      dsimp only
      rfl

/-- A write to D moves the entry that D names, and no other. -/
theorem writeD_stack (c : Ctx) (d : Opnd) (v : Word) {e : Nat} (he : ∀ n : BitVec 4, d = .w n → e ≠ c.entry n.toNat) :
    (c.writeD d v).stack.getD e 0 = c.stack.getD e 0 := by
  cases d with
  | w n =>
    have hentry : c.entry n.toNat % 64 = c.entry n.toNat := Nat.mod_mod _ _
    exact SMap.getD_put_ne _ _ _ _ _ fun h => he n rfl (h.trans hentry)
  | p n => exact congrArg (fun m : SMap Word => m.getD e 0) (by unfold Ctx.writeD Ctx.setPred; dsimp only; split <;> rfl)
  | _ => rfl

/-- A write to D leaves the other `w` registers. -/
theorem writeD_w (c : Ctx) (d : Opnd) (v : Word) {n : BitVec 4} (hn : d ≠ .w n) : (c.writeD d v).w n.toNat = c.w n.toNat := by
  cases d with
  | w m =>
    refine (Ctx.setW_w c _ _ v m.isLt n.isLt).trans (if_neg fun he => hn ?_)
    rw [BitVec.eq_of_toNat_eq he]
  | p m => exact Ctx.setPred_w _ _ _ _
  | _ => rfl

/-- A write to D leaves the other predicates. -/
theorem writeD_pred (c : Ctx) (d : Opnd) (v : Word) {n : BitVec 3} (hn : d ≠ .p n) : (c.writeD d v).pred n.toNat = c.pred n.toNat := by
  cases d with
  | p m =>
    refine (Ctx.pred_setPred c _ _ v).trans (if_neg fun he => hn ?_)
    rw [BitVec.eq_of_toNat_eq he.1]
  | _ => rfl

section
variable {h : Hdr} {f : Fields} {s u : State}

/-- What a scalar word keeps of its context, with its result written. -/
theorem writeResult_keeps (v : Word) (hu : u.ctx s.cur = (issued s.cur h s).ctx s.cur) (hid : u.nextId = s.nextId) :
    let d := (writeResult s.cur f v u).ctx s.cur
    d = { me s with stack := d.stack, p := d.p, icount := d.icount, held := d.held, outstanding := d.outstanding } ∧
      (∀ e, (∀ n : BitVec 4, e ≠ (me s).entry n.toNat) → d.stack.getD e 0 = (me s).stack.getD e 0) ∧
      (∀ n : BitVec 4, f.d ≠ .w n → d.w n.toNat = (me s).w n.toNat) ∧ ∀ n : BitVec 3, f.d ≠ .p n → d.pred n.toNat = (me s).pred n.toNat := by
  intro d
  have hself := issued_ctx_same s.cur h s
  have hd : d = _ := writeResult_ctx (f := f) v hu hid
  by_cases hnil : f.links = []
  · rw [hd, if_pos hnil]
    refine ⟨?_, fun e he => ?_, fun n hn => ?_, fun n hn => ?_⟩
    · rw [writeD_eq, hself]
    · rw [writeD_stack _ _ _ fun n _ => by rw [hself]; exact he n, hself]
    · rw [writeD_w _ _ _ hn, hself]
      rfl
    · rw [writeD_pred _ _ _ hn, hself]
      rfl
  · rw [hd, if_neg hnil, hself]
    exact ⟨rfl, fun _ _ => rfl, fun _ _ => rfl, fun _ _ => rfl⟩

/-- A result touches its context, and the count of long results. -/
theorem writeResult_frame (v : Word) :
    writeResult s.cur f v u = { u with ctxs := (writeResult s.cur f v u).ctxs, nextId := (writeResult s.cur f v u).nextId } ∧
      ∀ y, y ≠ s.cur → (writeResult s.cur f v u).ctx y = u.ctx y := by
  by_cases hnil : f.links = []
  · rw [writeResult_short _ _ _ _ hnil]
    exact ⟨rfl, fun y hy => State.modCtx_ctx_ne _ _ _ _ hy⟩
  · rw [writeResult_long _ _ _ _ hnil]
    exact ⟨rfl, fun y hy => State.modCtx_ctx_ne _ _ _ _ hy⟩

end

/-- Settles O4: a scalar word takes its links and writes its result; what it keeps follows from what each of these keeps. -/
theorem scalarWordsChangeNothingElse : Obligations.ScalarWordsChangeNothingElse := by
  intro i h f s t hword hrun hlinks hexec x c d
  obtain ⟨hh, hpacket, zext, op, hop⟩ := scalarWord_scalarOp hword
  obtain ⟨u, hu, hnil, hstep⟩ := scalarOp_completes (zext := zext) (op := op) hh hpacket hrun hlinks
  obtain ⟨v, hv⟩ : ∃ v, v = op ((issued s.cur h s).ctx s.cur) (source s f.a) (if zext then count s f.b else source s f.b) := ⟨_, rfl⟩
  rw [← hv] at hstep
  obtain ⟨w, hw⟩ : ∃ w, w = writeResult s.cur f v u := ⟨_, rfl⟩
  have ht : t = retire x c.pc h.sw none w := by
    rw [hw]
    exact Host.Outcome.next.inj (hexec.symm.trans ((hop s).trans hstep))
  have hd : d = (w.ctx x).retire (ctxNo x != 7) c.pc h.sw none := (congrArg (fun q : State => q.ctx x) ht).trans (retire_ctx_same _ _ _ _ _)
  have hid : u.nextId = s.nextId := by rw [hu.1]; exact issued_nextId _ _ _
  obtain ⟨hkeeps, hstack, hws, hps⟩ := writeResult_keeps (f := f) v (hu.ctx x) hid
  obtain ⟨hframe, hothers⟩ := writeResult_frame (f := f) (s := s) (u := u) v
  rw [← hw] at hkeeps hstack hws hps hframe hothers
  have hcore : ∀ k, t.core k = u.core k := fun k => by rw [ht, retire_core, hframe]; rfl
  have hmem : t.mem = s.mem := by rw [ht, retire_mem, hframe, hu.1]; exact issued_mem _ _ _
  refine ⟨fun n hn => ?_, fun e he => ?_, fun n hn => ?_, ?_, fun y hy => ?_, fun a => by rw [hmem], fun k => ?_, fun hno => ⟨?_, fun k => ?_⟩⟩
  · rw [hd, Ctx.retire_w, hws n hn]
  · rw [hd, Ctx.retire_stack, hstack e he]
  · rw [hd, Ctx.retire_pred, hps n hn]
  · rw [hd, Ctx.retire_eq, hkeeps]
  · rw [ht, retire_ctx_ne _ _ _ _ _ _ hy, hothers y hy, hu.ctx]
    exact issued_ctx_ne _ _ _ _ hy
  · rw [hcore, hu.2 k, issued_core]
    exact ⟨rfl, rfl⟩
  · have hshort : w = { issued x h s with ctxs := w.ctxs } := by
      rw [hw, writeResult_short _ _ _ _ hno, hnil hno]
      rfl
    rw [ht, retire_frame, hshort, issued_eq]
  · rw [hcore, hnil hno]
    exact issued_core _ _ _ k

/-! ### Moves, addresses and selection (R66, R67, R68) -/

/-- MOVI.HI replaces the top 24 bits of a word (R66). -/
theorem setFld_top (w : Word) {n : Nat} (hn : n < 2 ^ 24) : setFld w 40 24 (n % 2 ^ 24) = BitVec.ofNat 64 (n * 2 ^ 40 + w.toNat % 2 ^ 40) := by
  have hlow : w &&& ~~~(BitVec.ofNat 64 ((2 ^ 24 - 1) <<< 40)) = BitVec.ofNat 64 (w.toNat % 2 ^ 40) := by
    rw [show ~~~(BitVec.ofNat 64 ((2 ^ 24 - 1) <<< 40)) = BitVec.ofNat 64 (2 ^ 40 - 1) by decide]
    apply BitVec.eq_of_toNat_eq
    rw [BitVec.toNat_and, BitVec.toNat_ofNat, BitVec.toNat_ofNat, Nat.mod_eq_of_lt (by decide : 2 ^ 40 - 1 < 2 ^ 64), Nat.and_two_pow_sub_one_eq_mod]
    omega
  rw [setFld, hlow, put_eq_ofNat, BitVec.or_comm, Nat.mod_mod, Nat.mod_eq_of_lt hn,
    ofNat_or_ofNat 40 (Dvd.intro_left n rfl) (Nat.mod_lt _ (Nat.two_pow_pos 40))]

/-- Settles O2: MOVI, LEA and SEL write what their function gives. -/
theorem moveAndAddressResults : Obligations.MoveAndAddressResults := by
  intro h f s hrun hlinks
  have hself := issued_ctx_same s.cur h s
  refine ⟨fun v hx _ _ => ⟨?movi, fun r hd hv => ?moviHi⟩, fun _ _ => ?lea, ?sel⟩
  case movi =>
    refine gives_of_scalarOp (exec_movi h f s) rfl rfl hrun hlinks ?_
    rw [hx]
    rfl
  case moviHi =>
    refine gives_of_scalarOp (exec_moviHi h f s) rfl rfl hrun hlinks ?_
    rw [hx, hd, hself]
    exact setFld_top _ hv
  case lea =>
    exact gives_of_scalarOp (exec_lea h f s) rfl rfl hrun hlinks ((ea_issued _ _ _ _).trans (ea_eq_addr f s))
  case sel =>
    refine gives_of_scalarOp (exec_sel h f s) rfl rfl hrun hlinks ?_
    rw [hself]
    rfl

/-! ### Comparisons and predicates (R69, R70) -/

section
variable {ty : Nat} (hty : ty < 8)
include hty

theorem lowN_eq_un (a : Word) : (lowN ty a : Int) = un ty a := by
  rw [lowN, tyBits_int hty, un]

theorem lowS_eq_si (a : Word) : lowS ty a = si ty a := by
  rw [lowS, tyBits_int hty, signedOf_eq (width_pos ty), si]

/-- The conditions of R69 on the low N bits of two words. -/
def Compares (ty cond : Nat) (a b : Word) : Prop :=
  let lt : Prop := if ty % 2 = 0 then si ty a < si ty b else un ty a < un ty b
  match cond with
  | 0 => un ty a = un ty b
  | 1 => ¬ un ty a = un ty b
  | 2 => lt
  | 3 => lt ∨ un ty a = un ty b
  | 4 => ¬ lt ∧ ¬ un ty a = un ty b
  | 5 => ¬ lt
  | 6 => un ty (a &&& b) ≠ 0
  | _ => un ty (a &&& b) = 0

/-- The model's comparison is that of the conditions. -/
theorem intCond_iff_compares {cond : Nat} (hcond : cond < 8) (a b : Word) :
    intCond cond (tySigned ty) (tyBits ty) a.toNat b.toNat = true ↔ Compares ty cond a b := by
  have hlow : ∀ c : Word, c.toNat % 2 ^ tyBits ty = lowN ty c := fun _ => rfl
  have hsigned : ∀ c : Word, signedOf (tyBits ty) (lowN ty c) = si ty c := fun c => by
    rw [← lowS_eq_si hty, lowS, lowN, signedOf, signedOf, Nat.mod_mod]
  have heq : lowN ty a = lowN ty b ↔ un ty a = un ty b := by
    rw [← lowN_eq_un hty, ← lowN_eq_un hty, Int.natCast_inj]
  have hless : (if decide (ty % 2 = 0) = true then decide (si ty a < si ty b) else decide (lowN ty a < lowN ty b)) = true ↔
      if ty % 2 = 0 then si ty a < si ty b else un ty a < un ty b := by
    rw [← lowN_eq_un hty, ← lowN_eq_un hty, Int.ofNat_lt]
    simp only [decide_eq_true_eq]
    split <;> exact decide_eq_true_iff
  have hnot : ∀ {c : Bool} {q : Prop}, (c = true ↔ q) → ((!c) = true ↔ ¬ q) := fun {c q} hc => by
    rw [Bool.not_eq_true', ← Bool.not_eq_true, hc]
  have hand : lowN ty a &&& lowN ty b = 0 ↔ un ty (a &&& b) = 0 := by
    rw [← lowN_eq_un hty, Int.natCast_eq_zero, lowN, lowN, lowN, BitVec.toNat_and, Nat.and_mod_two_pow]
  unfold intCond Compares
  simp only [hlow, hsigned, tySigned_int hty]
  generalize (if decide (ty % 2 = 0) = true then decide (si ty a < si ty b) else decide (lowN ty a < lowN ty b)) = less at hless ⊢
  have hatMost := Bool.or_eq_true_iff.trans (or_congr hless (beq_iff_eq.trans heq))
  interval_cases cond
  · exact beq_iff_eq.trans heq
  · exact bne_iff_ne.trans heq.not
  · exact hless
  · exact hatMost
  · exact (hnot hatMost).trans not_or
  · exact hnot hless
  · exact bne_iff_ne.trans hand.not
  · exact beq_iff_eq.trans hand

end

/-- Settles O3: CMP writes all ones where its condition holds and 0 where not, and the predicate words their Boolean function. -/
theorem scalarComparisonsAndPredicates : Obligations.ScalarComparisonsAndPredicates := by
  intro h f s hrun hlinks a b ty
  have gives : ∀ {i : Instr} {op : Ctx → Word → Word → Word} {v : Word}, exec i s = scalarOp i f false op s → i.hdr = h →
      Instr.packet i = false → op ((issued s.cur h s).ctx s.cur) a b = v → Gives i h f s v :=
    fun hexec hh hpacket hop => gives_of_scalarOp hexec hh hpacket hrun hlinks hop
  have hand := gives (exec_pand h f s) rfl rfl rfl
  have hor := gives (exec_por h f s) rfl rfl rfl
  have hxor := gives (exec_pxor h f s) rfl rfl rfl
  refine ⟨fun hty hsub => ?cmp, fun hsub => ?plain, fun hsub => ?inverted, gives (exec_pnot h f s) rfl rfl rfl,
    gives (exec_pmov h f s) rfl rfl rfl⟩
  case cmp =>
    intro lt eq holds
    have hiff : intCond f.sub.toNat (tySigned ty) (tyBits ty) a.toNat b.toNat = true ↔ holds := intCond_iff_compares hty hsub a b
    exact ⟨fun hh => gives (exec_cmp h f s) rfl rfl ((allOf_eq _).trans (if_pos (hiff.mpr hh))),
      fun hh => gives (exec_cmp h f s) rfl rfl ((allOf_eq _).trans (if_neg fun hc => hh (hiff.mp hc)))⟩
  case plain =>
    rw [hsub] at hand hor hxor
    exact ⟨hand, hor, hxor⟩
  case inverted =>
    rw [hsub] at hand hor hxor
    exact ⟨hand, hor, hxor⟩

end Sys2Proof.Proofs
end

section
/-! PROOFS. Scalar results as exact integers modulo 2^N, and the bits of counts, rotations and fields (O1). -/

namespace Sys2Proof.Proofs

open Sys2Proof Sys2Proof.Machine Sys2Proof.Claims

/-! ### Results modulo 2^N (R49, R62) -/

/-- Congruent results fit to the same word. -/
theorem fit_congr {ty : Nat} {r q : Int} (h : r ≡ q [ZMOD (2 ^ width ty : Nat)]) : fit ty r = fit ty q := by
  have hb : Int.bmod r (2 ^ width ty) = Int.bmod q (2 ^ width ty) := by rw [← Int.emod_bmod, h, Int.emod_bmod]
  unfold fit
  rw [hb, h]

theorem un_modEq (ty : Nat) (a : Word) : un ty a ≡ a.toNat [ZMOD (2 ^ width ty : Nat)] := by
  rw [un, Int.natCast_emod]
  exact Int.mod_modEq _ _

theorem si_modEq (ty : Nat) (a : Word) : si ty a ≡ un ty a [ZMOD (2 ^ width ty : Nat)] := Int.bmod_emod.trans (un_modEq ty a).symm

theorem un_nonneg (ty : Nat) (a : Word) : 0 ≤ un ty a := Int.natCast_nonneg _

/-- All ones are −1 (R63). -/
theorem ones_modEq (w : Nat) : (-1 : Int) ≡ 2 ^ w - 1 [ZMOD (2 ^ w : Nat)] := by
  rw [Int.modEq_iff_dvd]
  exact ⟨1, by push_cast; ring⟩

theorem two_pow_cast (w : Nat) : ((2 ^ w : Nat) : Int) = 2 ^ w := by
  push_cast
  rfl

/-- An integer's low 64 bits. -/
theorem ofNat_wrapInt (r : Int) : BitVec.ofNat 64 (wrapInt 64 r) = BitVec.ofInt 64 r := by
  apply BitVec.eq_of_toNat_eq
  rw [BitVec.toNat_ofNat, wrapInt_mod, BitVec.toNat_ofInt]
  rfl

theorem sextW_eq {w : Nat} (hw : 0 < w) (n : Nat) : sextW w n = BitVec.ofInt 64 (Int.bmod n (2 ^ w)) := by
  rw [sextW, ofNat_wrapInt, signedOf_eq hw]

section
variable {ty : Nat} (hty : ty < 8)
include hty

/-- Bits extended by TY are the number that they are (R62). -/
theorem extendTy_eq_fit (n : Nat) : extendTy ty n = fit ty n := by
  rw [extendTy, tySigned_int hty, tyBits_int hty, fit]
  simp only [decide_eq_true_eq]
  refine if_congr Iff.rfl (sextW_eq (width_pos ty) n) ?_
  rw [← Int.natCast_emod, BitVec.ofInt_natCast]

theorem extendTy_wrapInt (r : Int) : extendTy ty (wrapInt (tyBits ty) r) = fit ty r := by
  have hpos : ((2 ^ width ty : Nat) : Int) ≠ 0 := Int.natCast_ne_zero.mpr (Nat.two_pow_pos _).ne'
  rw [extendTy_eq_fit hty, tyBits_int hty, wrapInt, Int.toNat_of_nonneg (Int.emod_nonneg _ hpos)]
  exact fit_congr (Int.mod_modEq _ _)

theorem narrow_eq_fit (r : Int) : narrow ty r = fit ty r := extendTy_wrapInt hty r

/-- A bitwise result needs its low N bits alone (R63). -/
theorem extendTy_eq_fit_un (a : Word) : extendTy ty a.toNat = fit ty (un ty a) :=
  (extendTy_eq_fit hty _).trans (fit_congr (un_modEq ty a).symm)

/-! ### Division (R63) -/

theorem narrow_divRes (a b : Word) :
    narrow ty (divRes ty a b) = fit ty (if si ty b = 0 then 2 ^ width ty - 1 else Int.tdiv (si ty a) (si ty b)) := by
  rw [narrow_eq_fit hty, divRes, lowS_eq_si hty, lowS_eq_si hty]
  split
  · exact fit_congr (ones_modEq _)
  · rfl

theorem narrow_divnRes (a b : Word) :
    narrow ty (divnRes ty a b) = fit ty (if un ty b = 0 then 2 ^ width ty - 1 else Int.fdiv (un ty a) (un ty b)) := by
  rw [narrow_eq_fit hty, divnRes, Int.natCast_div, Int.fdiv_eq_ediv_of_nonneg _ (un_nonneg ty b)]
  simp only [← lowN_eq_un hty, Int.natCast_eq_zero]
  split
  · exact fit_congr (ones_modEq _)
  · rfl

theorem narrow_remRes (a b : Word) :
    narrow ty (remRes ty a b) = fit ty (if si ty b = 0 then un ty a else si ty a - si ty b * Int.tdiv (si ty a) (si ty b)) := by
  rw [narrow_eq_fit hty, remRes, lowS_eq_si hty, lowS_eq_si hty]
  split
  · exact fit_congr (si_modEq ty a)
  · rw [Int.tmod_def]

theorem narrow_remnRes (a b : Word) :
    narrow ty (remnRes ty a b) = fit ty (if un ty b = 0 then un ty a else un ty a - un ty b * Int.fdiv (un ty a) (un ty b)) := by
  rw [narrow_eq_fit hty, remnRes, Int.natCast_mod, Int.fdiv_eq_ediv_of_nonneg _ (un_nonneg ty b), Int.emod_def]
  simp only [← lowN_eq_un hty, Int.natCast_eq_zero]

/-! ### Shifts (R64) -/

theorem extendTy_shlRes (a : Word) (c : Nat) :
    extendTy ty (shlRes (tyBits ty) a.toNat c) = fit ty (if c < width ty then un ty a * 2 ^ c else 0) := by
  rw [extendTy_eq_fit hty, tyBits_int hty, shlRes]
  split
  · rw [Int.natCast_emod]
    refine fit_congr ((Int.mod_modEq _ _).trans ?_)
    push_cast
    exact (un_modEq ty a).symm.mul_right _
  · rfl

theorem extendTy_shrRes (a : Word) (c : Nat) :
    extendTy ty (shrRes (tyBits ty) a.toNat c) = fit ty (if c < width ty then Int.fdiv (un ty a) (2 ^ c) else 0) := by
  rw [extendTy_eq_fit hty, tyBits_int hty, shrRes, Int.fdiv_eq_ediv_of_nonneg _ (by positivity), ← two_pow_cast c, un, ← Int.natCast_div]
  split <;> rfl

theorem extendTy_sraRes (a : Word) (c : Nat) : extendTy ty (sraRes (tyBits ty) a.toNat c) =
    fit ty (if c < width ty then Int.fdiv (si ty a) (2 ^ c) else if si ty a < 0 then -1 else 0) := by
  have hsi : signedOf (tyBits ty) a.toNat = si ty a := lowS_eq_si hty a
  rw [sraRes, hsi, Int.fdiv_eq_ediv_of_nonneg _ (by positivity), ← two_pow_cast c, ← tyBits_int hty]
  split
  · exact extendTy_wrapInt hty _
  · split
    · rw [extendTy_eq_fit hty, Nat.cast_sub (Nat.two_pow_pos _), two_pow_cast, tyBits_int hty]
      exact fit_congr (ones_modEq _).symm
    · exact extendTy_eq_fit hty 0

end

/-- A rotation moves bit `j` to place `(j + c) mod N` (R64). -/
theorem rolRes_testBit {n a c j : Nat} (hj : j < n) : (rolRes n a c).testBit ((j + c) % n) = a.testBit j := by
  obtain ⟨k, hk⟩ : ∃ k, k = c % n := ⟨_, rfl⟩
  have hkn : k < n := hk ▸ Nat.mod_lt _ (by omega)
  have hplace : (j + c) % n = if j + k < n then j + k else j + k - n := by
    rw [Nat.add_mod, ← hk, Nat.mod_eq_of_lt hj]
    split
    · next h => exact Nat.mod_eq_of_lt h
    · next h => rw [Nat.mod_eq_sub_mod (by omega), Nat.mod_eq_of_lt (by omega)]
  have hlow : a % 2 ^ n / 2 ^ (n - k) < 2 ^ k := by
    rw [Nat.div_lt_iff_lt_mul (Nat.two_pow_pos _), ← pow_add, Nat.add_sub_cancel' hkn.le]
    exact Nat.mod_lt _ (Nat.two_pow_pos n)
  rw [rolRes, ← hk, hplace, Nat.mul_comm, Nat.testBit_mod_two_pow, Nat.testBit_two_pow_mul_add _ hlow]
  split
  · next h =>
    rw [if_neg (by omega), Nat.add_sub_cancel, Nat.testBit_mod_two_pow]
    simp [h, hj]
  · next h =>
    rw [if_pos (by omega), Nat.testBit_div_two_pow, Nat.testBit_mod_two_pow]
    have hback : j + k - n + (n - k) = j := by omega
    have hin : j + k - n < n := by omega
    simp [hback, hin, hj]

theorem rolRes_lt (n a c : Nat) : rolRes n a c < 2 ^ n := Nat.mod_lt _ (Nat.two_pow_pos n)

/-! ### Counts (R63) -/

/-- The zeros above are those of the low bits. -/
theorem zerosAbove_mod {n a k : Nat} (h : Claims.ZerosAbove n (a % 2 ^ n) k) : Claims.ZerosAbove n a k := by
  obtain ⟨hle, hzero, hone⟩ := h
  have hbit : ∀ j, j < n → (a % 2 ^ n).testBit j = a.testBit j := fun j hj => by
    rw [Nat.testBit_mod_two_pow, decide_eq_true hj, Bool.true_and]
  exact ⟨hle, fun j hlo hhi => (hbit j hhi).symm.trans (hzero j hlo hhi), fun hk => (hbit _ (by omega)).symm.trans (hone hk)⟩

theorem clzOf_zerosAbove (n a : Nat) : Claims.ZerosAbove n a (clzOf n a) :=
  zerosAbove_mod (zerosAbove_leadingZeros (Nat.mod_lt a (Nat.two_pow_pos n)))

/-- Counted up from bit `i`, the zeros below end at the lowest 1 among `k` bits. -/
theorem ctzFrom_spec (n i k : Nat) :
    i ≤ ctzFrom n i k ∧ ctzFrom n i k ≤ i + k ∧ (∀ j, i ≤ j → j < ctzFrom n i k → n.testBit j = false) ∧
      (ctzFrom n i k < i + k → n.testBit (ctzFrom n i k) = true) := by
  induction k generalizing i with
  | zero => exact ⟨le_refl i, le_refl i, fun j hlo hhi => absurd hhi (not_lt.mpr hlo), fun h => absurd h (lt_irrefl i)⟩
  | succ k ih =>
    rw [ctzFrom]
    split
    · next hbit => exact ⟨le_refl i, by omega, fun j hlo hhi => absurd hhi (not_lt.mpr hlo), fun _ => hbit⟩
    · next hbit =>
      obtain ⟨hlo, hhi, hzero, hone⟩ := ih (i + 1)
      refine ⟨by omega, by omega, fun j hij hj => ?_, fun h => hone (by omega)⟩
      rcases Nat.eq_or_lt_of_le hij with he | hlt
      · exact he ▸ Bool.not_eq_true _ ▸ hbit
      · exact hzero j hlt hj

theorem ctzFrom_zerosBelow (n a : Nat) : Claims.ZerosBelow n a (ctzFrom a 0 n) := by
  obtain ⟨-, hle, hzero, hone⟩ := ctzFrom_spec a 0 n
  rw [Nat.zero_add] at hle hone
  exact ⟨hle, fun j hj => hzero j (Nat.zero_le j) hj, hone⟩

theorem popcOf_eq (a n : Nat) : popcOf a n = (List.range n).countP fun j => a.testBit j := by
  induction n with
  | zero => rfl
  | succ n ih => rw [popcOf, ih, List.range_succ, List.countP_append, List.countP_singleton]

/-! ### Fields (R65) -/

theorem bfxRes_eq {ty : Nat} (a : Word) (pos : Nat) {len : Nat} (hlen : 0 < len) :
    bfxRes ty a pos len = BitVec.ofInt 64 (if ty = 6 then Int.bmod ((a.toNat / 2 ^ pos % 2 ^ len : Nat) : Int) (2 ^ len)
      else ((a.toNat / 2 ^ pos % 2 ^ len : Nat) : Int)) := by
  rw [bfxRes]
  split
  · exact sextW_eq hlen _
  · exact (BitVec.ofInt_natCast _ _).symm

/-- BFI replaces the bits of the field, and leaves the others of D. -/
theorem bfiRes_getLsbD (d a : Word) {pos len j : Nat} (hj : j < 64) :
    (bfiRes d a pos len).getLsbD j = if pos ≤ j ∧ j < pos + len then a.getLsbD (j - pos) else d.getLsbD j := by
  have hmask : (BitVec.ofNat 64 ((2 ^ len - 1) <<< pos)).getLsbD j = decide (pos ≤ j ∧ j < pos + len) := by
    rw [BitVec.getLsbD_ofNat, Nat.testBit_shiftLeft, Nat.testBit_two_pow_sub_one, decide_eq_true hj, Bool.true_and, ← Bool.decide_and]
    exact decide_eq_decide.mpr (by omega)
  rw [bfiRes, BitVec.getLsbD_or, BitVec.getLsbD_and, BitVec.getLsbD_and, BitVec.getLsbD_not, hmask, BitVec.getLsbD_shiftLeft]
  split
  · next h => simp [h, hj]
  · next h => simp [h, hj]

/-! ### The words -/

theorem scalarArithmeticResults : Claims.ScalarArithmeticResults := by
  intro h f s hrun hlinks hty ty a b
  have gives : ∀ {i : Instr} {op : Ctx → Word → Word → Word} {v : Word}, exec i s = scalarOp i f false op s → i.hdr = h →
      Instr.packet i = false → op ((issued s.cur h s).ctx s.cur) a b = v → Gives i h f s v :=
    fun hexec hh hpacket hop => gives_of_scalarOp hexec hh hpacket hrun hlinks hop
  have hun := fun c : Word => lowN_eq_un hty c
  have hsi := fun c : Word => lowS_eq_si hty c
  have hfit := fun r : Int => narrow_eq_fit hty r
  refine ⟨gives (exec_add h f s) rfl rfl ?_, gives (exec_sub h f s) rfl rfl ?_, gives (exec_mul h f s) rfl rfl ?_,
    gives (exec_mulh h f s) rfl rfl ?_, gives (exec_mulhn h f s) rfl rfl ?_, gives (exec_div h f s) rfl rfl (narrow_divRes hty a b),
    gives (exec_divn h f s) rfl rfl (narrow_divnRes hty a b), gives (exec_rem h f s) rfl rfl (narrow_remRes hty a b),
    gives (exec_remn h f s) rfl rfl (narrow_remnRes hty a b), gives (exec_and h f s) rfl rfl (extendTy_eq_fit_un hty _),
    gives (exec_or h f s) rfl rfl (extendTy_eq_fit_un hty _), gives (exec_xor h f s) rfl rfl (extendTy_eq_fit_un hty _),
    gives (exec_andn h f s) rfl rfl (extendTy_eq_fit_un hty _), gives (exec_min h f s) rfl rfl ?_, gives (exec_max h f s) rfl rfl ?_,
    gives (exec_minn h f s) rfl rfl ?_, gives (exec_maxn h f s) rfl rfl ?_, gives (exec_sext h f s) rfl rfl ?_,
    gives (exec_zext h f s) rfl rfl ?_⟩
  · rw [hfit, Nat.cast_add, hun, hun]
  · rw [hfit, hun, hun]
  · rw [hfit, Nat.cast_mul, hun, hun]
  · rw [hfit, hsi, hsi, tyBits_int hty, two_pow_cast, Int.fdiv_eq_ediv_of_nonneg _ (by positivity)]
  · rw [hfit, Int.natCast_div, Nat.cast_mul, hun, hun, tyBits_int hty, two_pow_cast, Int.fdiv_eq_ediv_of_nonneg _ (by positivity)]
  · rw [hfit, hsi, hsi]
  · rw [hfit, hsi, hsi]
  · rw [hfit, Nat.cast_min, hun, hun]
  · rw [hfit, Nat.cast_max, hun, hun]
  · rw [tyBits_int hty]
    exact sextW_eq (width_pos ty) _
  · rw [← hun, BitVec.ofInt_natCast]

theorem shiftCountAndFieldResults : Claims.ShiftCountAndFieldResults := by
  intro h f s hrun hlinks hty ty n a c
  have gives : ∀ {i : Instr} {zext : Bool} {op : Ctx → Word → Word → Word} {v : Word}, exec i s = scalarOp i f zext op s → i.hdr = h →
      Instr.packet i = false → op ((issued s.cur h s).ctx s.cur) a (if zext then count s f.b else source s f.b) = v → Gives i h f s v :=
    fun hexec hh hpacket hop => gives_of_scalarOp hexec hh hpacket hrun hlinks hop
  have hwidth : tyBits f.ty = n := tyBits_int hty
  have hcount := fun m : Nat => extendTy_eq_fit hty m
  refine ⟨gives (exec_shl h f s) rfl rfl (extendTy_shlRes hty a c), gives (exec_shr h f s) rfl rfl (extendTy_shrRes hty a c),
    gives (exec_sra h f s) rfl rfl (extendTy_sraRes hty a c),
    ⟨rolRes (tyBits f.ty) a.toNat c, fun j hj => ?_, ?_, gives (exec_rol h f s) rfl rfl (hcount _)⟩,
    ⟨clzOf (tyBits f.ty) a.toNat, ?_, gives (exec_clz h f s) rfl rfl (hcount _)⟩,
    ⟨ctzFrom a.toNat 0 (tyBits f.ty), ?_, gives (exec_ctz h f s) rfl rfl (hcount _)⟩, gives (exec_popc h f s) rfl rfl ?_,
    ?fields⟩
  · rw [hwidth]
    exact rolRes_testBit hj
  · rw [hwidth]
    exact rolRes_lt _ _ _
  · rw [hwidth]
    exact clzOf_zerosAbove _ _
  · rw [hwidth]
    exact ctzFrom_zerosBelow _ _
  · rw [hcount, popcOf_eq, hwidth]
  case fields =>
    intro _ pos len e
    refine ⟨fun _ => gives (exec_bfx h f s) rfl rfl (bfxRes_eq a pos (Nat.succ_pos _)), fun r hd _ => ?_⟩
    refine ⟨bfiRes ((me s).w r.toNat) a pos len, gives (exec_bfi h f s) rfl rfl ?_, fun j hj => bfiRes_getLsbD _ _ hj⟩
    rw [hd, issued_ctx_same]
    rfl

/-- Settles O1: each scalar word's result is congruent to the exact one modulo 2^N, and the bits of counts, rotations and fields are those of
the rules. -/
theorem scalarArithmeticShiftsAndFields : Obligations.ScalarArithmeticShiftsAndFields :=
  ⟨scalarArithmeticResults, shiftCountAndFieldResults⟩

end Sys2Proof.Proofs
end

section
/-! PROOFS. MFSR and MTSR of another context of the core, by context 7 (O12). -/

namespace Sys2Proof.Proofs

open Sys2Proof Sys2Proof.Machine Sys2Proof.Claims

/-- A word of context 7 that is done retires what its effect left. -/
theorem exec_retires {i : Instr} {h : Hdr} {sup : Bool} {eff : Nat → Ctx → State → Eff} {s w : State} (hexec : exec i s = issue i sup false eff s)
    (hh : i.hdr = h) (hrun : Runs h s) (hsup : ctxNo s.cur = 7) (hpacket : Instr.packet i = false)
    (heff : eff s.cur ((issued s.cur h s).ctx s.cur) (issued s.cur h s) = .done w) : exec i s = .next (retire s.cur (me s).pc h.sw none w) := by
  rw [exec_ready hexec hh hrun.1 (.inr hrun.2) (.inr hsup) (.inr hpacket), heff]
  rfl

/-- The context of the issuing core that `y.tctx` names (R83). -/
def namedContext (s : State) : Nat := 8 * coreOf s.cur + (Claims.core s).tctx

section
variable {h : Hdr} {f : Fields} {s : State}

theorem namedContext_ne (hsup : ctxNo s.cur = 7) (hlt : (Claims.core s).tctx < 7) : namedContext s ≠ s.cur := by
  rw [ctxNo] at hsup
  rw [namedContext, coreOf]
  omega

/-- After the issue `y.tctx` names the same context, and that is reached where it is Stopped or free. -/
theorem yTarget_issued (hne : namedContext s ≠ s.cur) : yTarget (issued s.cur h s) (coreOf s.cur) =
    if (s.ctx (namedContext s)).run = .stopped ∨ (s.ctx (namedContext s)).run = .free then some (namedContext s) else none := by
  have htctx : ((issued s.cur h s).core (coreOf s.cur)).tctx = (Claims.core s).tctx := by rw [issued_core]
  have hrun : ((issued s.cur h s).ctx (namedContext s)).run = (s.ctx (namedContext s)).run := by rw [issued_other hne]
  rw [yTarget, htctx, show ctxKey (coreOf s.cur) (Claims.core s).tctx = namedContext s from rfl, hrun]

/-- A count that is no link reads the same once the word has issued. -/
theorem srcZ_issued {o : Opnd} (ho : o.link? = none) : srcZ ((issued s.cur h s).ctx s.cur) [] o = count s o := by
  cases o with
  | imm n => rfl
  | _ => exact srcS_issued h s _ ho

/-! ### MFSR (R83) -/

/-- MFSR that answers a word, with nothing moved, writes it to D. -/
theorem mfsr_answers {n : BitVec 4} {v : Word} (hrun : Runs h s) (hsup : ctxNo s.cur = 7) (hsub : f.sub ≠ 0)
    (heff : ∃ sup eff, execMfsr h f s = issue (.mfsr h f) sup false eff s ∧
      eff s.cur ((issued s.cur h s).ctx s.cur) (issued s.cur h s) = .done ((issued s.cur h s).modCtx s.cur fun d => d.setW n.toNat v)) :
    Ends (.mfsr h f) s fun t => (t.ctx s.cur).w n.toNat = v := by
  obtain ⟨sup, eff, hexec, heff⟩ := heff
  have hpacket : Instr.packet (.mfsr h f) = false := by rw [packet_mfsr, beq_eq_false_iff_ne.mpr hsub, Bool.false_and]
  refine ⟨_, exec_retires ((exec_mfsr h f s).trans hexec) rfl hrun hsup hpacket heff, ?_⟩
  dsimp only
  rw [retire_ctx_same, Ctx.retire_w, State.modCtx_ctx_same, Ctx.setW_w_same]

/-- MFSR of a context that is neither Stopped nor free gives 0. -/
theorem mfsr_shut {n : BitVec 4} (hrun : Runs h s) (hsup : ctxNo s.cur = 7) (hd : f.d = .w n)
    (hshut : yTarget (issued s.cur h s) (coreOf s.cur) = none) (hsub : (f.sub = 1 ∧ yShared f.a.num = false) ∨ f.sub = 2 ∨ f.sub = 3) :
    Ends (.mfsr h f) s fun t => (t.ctx s.cur).w n.toNat = 0 := by
  refine mfsr_answers hrun hsup ?_ ⟨_, _, rfl, ?_⟩
  · rcases hsub with ⟨hsub, -⟩ | hsub | hsub <;> rw [hsub] <;> decide
  · rcases hsub with ⟨hsub, hown⟩ | hsub | hsub <;> simp [*, Ctx.writeD]

/-- A register that holds one field of a context is not one of a core or a cluster. -/
theorem plainRegister_own {c : Ctx} {n : Nat} {v : Word} (hv : Claims.plainRegister c n = some v) : yShared n = false := by
  unfold Claims.plainRegister at hv
  split at hv <;> cases hv <;> rfl

section
variable {n : BitVec 4} (hrun : Runs h s) (hsup : ctxNo s.cur = 7) (hd : f.d = .w n) (hne : namedContext s ≠ s.cur)
  (hopen : yTarget (issued s.cur h s) (coreOf s.cur) = some (namedContext s))
include hrun hsup hd hne hopen

/-- MFSR.T reads a register of the named context. -/
theorem mfsr_reads_register {b : BitVec 7} {v : Word} (hsub : f.sub = 1) (ha : f.a = .y b)
    (hv : Claims.plainRegister (s.ctx (namedContext s)) b.toNat = some v) : Ends (.mfsr h f) s fun t => (t.ctx s.cur).w n.toNat = v := by
  have hissued : Claims.plainRegister ((issued s.cur h s).ctx (namedContext s)) b.toNat = some v := by
    rw [issued_other hne]
    exact hv
  refine mfsr_answers hrun hsup (by rw [hsub]; decide) ⟨_, _, rfl, ?_⟩
  simp [hsub, ha, hd, hopen, Opnd.num, plainRegister_own hv, yRead_plain true hissued, Ctx.writeD]

/-- MFSR.STK reads an entry of the named context's register stack. -/
theorem mfsr_reads_stack (hsub : f.sub = 2) (hb : f.b.link? = none) : Ends (.mfsr h f) s fun t =>
    (t.ctx s.cur).w n.toNat = (s.ctx (namedContext s)).stack.getD ((count s f.b).toNat % 64) 0 := by
  have hstack : ((issued s.cur h s).ctx (namedContext s)).stack = (s.ctx (namedContext s)).stack := by rw [issued_other hne]
  refine mfsr_answers hrun hsup (by rw [hsub]; decide) ⟨_, _, rfl, ?_⟩
  simp [hsub, hd, hopen, srcZ_issued hb, hstack, Ctx.writeD]

/-- MFSR.PRD reads a predicate of the named context. -/
theorem mfsr_reads_pred {b : BitVec 7} (hsub : f.sub = 3) (hb : f.b = .imm b) : Ends (.mfsr h f) s fun t =>
    (t.ctx s.cur).w n.toNat = (s.ctx (namedContext s)).pred b.toNat := by
  have hpred : ((issued s.cur h s).ctx (namedContext s)).pred b.toNat = (s.ctx (namedContext s)).pred b.toNat := by
    rw [issued_other hne]
    rfl
  refine mfsr_answers hrun hsup (by rw [hsub]; decide) ⟨_, _, rfl, ?_⟩
  simp [hsub, hd, hb, hopen, Opnd.num, hpred, Ctx.writeD]

end

/-! ### MTSR (R83) -/

/-- MTSR that is done leaves every other context as its effect left it. -/
theorem mtsr_done {y : Nat} {w : State} (hrun : Runs h s) (hsup : ctxNo s.cur = 7) (hy : y ≠ s.cur)
    (heff : ∃ sup eff, execMtsr h f s = issue (.mtsr h f) sup false eff s ∧
      eff s.cur ((issued s.cur h s).ctx s.cur) (issued s.cur h s) = .done w) :
    Ends (.mtsr h f) s fun t => t.ctx y = w.ctx y := by
  obtain ⟨sup, eff, hexec, heff⟩ := heff
  exact ⟨_, exec_retires ((exec_mtsr h f s).trans hexec) rfl hrun hsup (packet_mtsr h f) heff, retire_ctx_ne _ _ _ _ _ _ hy⟩

/-- MTSR of a context that is neither Stopped nor free leaves it alone. -/
theorem mtsr_shut (hrun : Runs h s) (hsup : ctxNo s.cur = 7) (hne : namedContext s ≠ s.cur)
    (hshut : yTarget (issued s.cur h s) (coreOf s.cur) = none) (hsub : (f.sub = 1 ∧ yShared f.d.num = false) ∨ f.sub = 2 ∨ f.sub = 3) :
    Ends (.mtsr h f) s fun t => (t.ctx (namedContext s)).epc = (s.ctx (namedContext s)).epc ∧ (t.ctx (namedContext s)).stack = (s.ctx (namedContext s)).stack ∧
      ∀ n, (t.ctx (namedContext s)).pred n = (s.ctx (namedContext s)).pred n := by
  obtain ⟨t, ht, hctx⟩ := mtsr_done (f := f) (w := issued s.cur h s) hrun hsup hne ⟨_, _, rfl, by
    rcases hsub with ⟨hsub, hown⟩ | hsub | hsub <;> simp [*]⟩
  refine ⟨t, ht, ?_⟩
  beta_reduce
  rw [hctx, issued_other hne]
  exact ⟨rfl, rfl, fun _ => rfl⟩

section
variable (hrun : Runs h s) (hsup : ctxNo s.cur = 7) (hne : namedContext s ≠ s.cur)
  (hopen : yTarget (issued s.cur h s) (coreOf s.cur) = some (namedContext s)) (ha : f.a.link? = none)
include hrun hsup hne hopen ha

/-- MTSR.T of register 12 writes `y.epc` of the named context. -/
theorem mtsr_writes_epc (hsub : f.sub = 1) (hd : f.d = .y 12) : Ends (.mtsr h f) s fun t => (t.ctx (namedContext s)).epc = source s f.a := by
  obtain ⟨t, ht, hctx⟩ := mtsr_done (f := f) (w := (issued s.cur h s).modCtx (namedContext s) fun c => c.yPut 12 (source s f.a) .full) hrun hsup hne
    ⟨_, _, rfl, by
      simp only [hsub, hd, hopen, srcS_issued h s f.a ha]
      rfl⟩
  exact ⟨t, ht, congrArg Ctx.epc (hctx.trans (State.modCtx_ctx_same _ _ _))⟩

/-- MTSR.STK writes an entry of the named context's register stack. -/
theorem mtsr_writes_stack (hsub : f.sub = 2) (hb : f.b.link? = none) : Ends (.mtsr h f) s fun t =>
    (t.ctx (namedContext s)).stack.getD ((count s f.b).toNat % 64) 0 = source s f.a := by
  obtain ⟨t, ht, hctx⟩ := mtsr_done (f := f) hrun hsup hne ⟨_, _, rfl, by
    simp only [hsub, hopen, srcS_issued h s f.a ha, srcZ_issued hb]
    rfl⟩
  refine ⟨t, ht, ?_⟩
  beta_reduce
  rw [hctx, State.modCtx_ctx_same, Ctx.setEntry, Nat.mod_mod, SMap.getD_put_same]

/-- MTSR.PRD writes a predicate of the named context. -/
theorem mtsr_writes_pred {b : BitVec 7} (hsub : f.sub = 3) (hb : f.b = .imm b) : Ends (.mtsr h f) s fun t =>
    (t.ctx (namedContext s)).pred b.toNat = if b = 0 then BitVec.allOnes 64 else source s f.a := by
  obtain ⟨t, ht, hctx⟩ := mtsr_done (f := f) hrun hsup hne ⟨_, _, rfl, by
    simp only [hsub, hb, hopen, srcS_issued h s f.a ha]
    rfl⟩
  refine ⟨t, ht, ?_⟩
  beta_reduce
  rw [hctx, State.modCtx_ctx_same]
  exact pred_setPred_same _ _ _

end

end

/-- Settles O12: context 7 reads and writes the context that `y.tctx` names where that is Stopped or free, and reads 0 and leaves it alone where
not. -/
theorem otherContextsThroughMfsrAndMtsr : Obligations.OtherContextsThroughMfsrAndMtsr := by
  intro h f s hrun hsup htctx y open'
  have hne : y ≠ s.cur := namedContext_ne hsup htctx
  by_cases hopen : open'
  · have htarget := (yTarget_issued (h := h) hne).trans (if_pos hopen)
    simp only [if_pos hopen]
    refine ⟨fun n hd => ⟨fun b v hsub ha hv => ?_, fun hsub hb => ?_, fun b hsub hb _ => ?_⟩, fun ha => ⟨fun hsub hd => ?_, fun hsub hb => ?_,
      fun b hsub hb _ => ?_⟩⟩
    · exact mfsr_reads_register hrun hsup hd hne htarget hsub ha hv
    · exact mfsr_reads_stack hrun hsup hd hne htarget hsub hb
    · exact mfsr_reads_pred hrun hsup hd hne htarget hsub hb
    · exact mtsr_writes_epc hrun hsup hne htarget ha hsub hd
    · exact mtsr_writes_stack hrun hsup hne htarget ha hsub hb
    · exact mtsr_writes_pred hrun hsup hne htarget ha hsub hb
  · have htarget := (yTarget_issued (h := h) hne).trans (if_neg hopen)
    simp only [if_neg hopen]
    have hkept := mtsr_shut (f := f) hrun hsup hne htarget
    refine ⟨fun n hd => ⟨fun b v hsub ha hv => ?_, fun hsub _ => ?_, fun b hsub _ _ => ?_⟩, fun ha => ⟨fun hsub hd => ?_, fun hsub _ => ?_,
      fun b hsub _ _ => ?_⟩⟩
    · exact mfsr_shut hrun hsup hd htarget (.inl ⟨hsub, by rw [ha]; exact plainRegister_own hv⟩)
    · exact mfsr_shut hrun hsup hd htarget (.inr (.inl hsub))
    · exact mfsr_shut hrun hsup hd htarget (.inr (.inr hsub))
    · obtain ⟨t, ht, hepc, -, -⟩ := hkept (.inl ⟨hsub, by rw [hd]; rfl⟩)
      exact ⟨t, ht, hepc⟩
    · obtain ⟨t, ht, -, hstack, -⟩ := hkept (.inr (.inl hsub))
      exact ⟨t, ht, congrArg (fun m : SMap Word => m.getD _ 0) hstack⟩
    · obtain ⟨t, ht, -, -, hpred⟩ := hkept (.inr (.inr hsub))
      refine ⟨t, ht, (hpred b.toNat).trans ?_⟩
      split
      · next hb => rw [hb]; exact allOf_eq true
      · rfl

end Sys2Proof.Proofs
end

section
/-! PROOFS. SPAWN and FORK take their offset from formats I and B alike, the statement from format B alone (O14). -/

namespace Sys2Proof.Proofs

open Sys2Proof Sys2Proof.Machine Sys2Proof.Claims

/-- The offset of `offsetInFormatI` in a FORK with an outcome in `p1` and its arguments from `w4` on (R47, R53, R87). -/
def forkInFormatI : Fields := { offsetInFormatI with d := .p 1, b := .w 4 }

theorem exec_fork (h : Hdr) (f : Fields) (s : State) : exec (.fork h f) s = execFork h f s := by
  rfl

/-- A FORK whose target is malformed traps 0x05 (R47, R87). -/
theorem fork_traps_malformed {h : Hdr} {f : Fields} {s : State} (hrun : RunsAlone h s) (huser : ctxNo s.cur ≠ 7)
    (htop : badTop (bTarget (me s).pc f) = true) : Traps (.fork h f) s 0x05 (some (bTarget (me s).pc f)) malformed := by
  have hexec := exec_fork h f s
  rw [execFork] at hexec
  refine traps_of_trap hexec rfl hrun.1.1 (.inr hrun.1.2) huser rfl (by decide) (.inl hrun.2) ?_
  rw [issued_pc]
  exact if_pos htop

/-- A word that traps does not advance. -/
theorem not_advances_of_traps {i : Instr} {h : Hdr} {s : State} {c : Ctx} {n : Nat} {a : Option Word} {v : Word} (hn : Traps i s n a v) :
    ¬ Ends i s fun t => Advances h c (t.ctx s.cur) := by
  rintro ⟨u, hu, -, -, -, -, hrun⟩
  obtain ⟨t, ht, hctx, -⟩ := hn
  cases ht.symm.trans hu
  rw [hctx] at hrun
  split at hrun <;> cases hrun

/-- Refutes O14: FORK with an offset of one word in format I, at 2^54 − 4, traps 0x05 in the model; the statement has it queue a child whose
target is the word itself. -/
theorem not_childrenAreQueuedOrRunInline : ¬ Obligations.ChildrenAreQueuedOrRunInline := by
  intro hchildren
  have htarget : branchTarget atTheTop forkInFormatI = 0x3F_FFFF_FFFF_FFFC := branchTarget_atTheTop
  obtain ⟨hfork, -⟩ := hchildren plainHdr forkInFormatI 1 4 atTheTop ⟨atTheTop_runs, rfl⟩ rfl rfl rfl
    (by rw [htarget]; decide) (by rw [htarget]; decide) rfl
  obtain ⟨t, ht, ⟨hadvances, -⟩, -⟩ := hfork (by decide)
  have htraps : Traps (.fork plainHdr forkInFormatI) atTheTop 0x05 _ _ :=
    fork_traps_malformed ⟨atTheTop_runs, rfl⟩ (by decide) ((congrArg badTop bTarget_atTheTop).trans (by decide))
  exact not_advances_of_traps htraps ⟨t, ht, hadvances⟩

end Sys2Proof.Proofs
end

section
/-! PROOFS. FP32 sums and products are rounded to nearest, ties to even, and pass on their first NaN operand (O23). -/

namespace Sys2Proof.Proofs

open Sys2Proof Sys2Proof.Machine Sys2Proof.Claims

/-! ### Exact values -/

/-- (−1)^neg × m. -/
def signedInt (neg : Bool) (m : Nat) : Int := if neg then -m else m

/-- (−1)^neg × m × 2^e, the value that `Claims.rational` gives a finite code. -/
def signedValue (neg : Bool) (m : Nat) (e : Int) : ℚ := (if neg then -1 else 1) * (m : ℚ) * (2 : ℚ) ^ e

theorem rational_eq_some {v : FV} {p : ℚ} (h : Claims.rational v = some p) : ∃ neg m e, v = .fin neg m e ∧ p = signedValue neg m e := by
  cases v with
  | fin neg m e => exact ⟨neg, m, e, rfl, (Option.some.inj h).symm⟩
  | nan | inf => cases h

theorem two_zpow_split {lo e : Int} (h : lo ≤ e) : (2 : ℚ) ^ e = 2 ^ (e - lo).toNat * 2 ^ lo := by
  rw [← zpow_natCast, ← zpow_add₀ two_ne_zero, Int.toNat_of_nonneg (by omega), sub_add_cancel]

theorem abs_mul_two_zpow (x : ℚ) (e : Int) : |x * 2 ^ e| = |x| * 2 ^ e := by
  rw [abs_mul, abs_of_pos (zpow_pos (two_pos : (0 : ℚ) < 2) e)]

theorem signedValue_eq (neg : Bool) (m : Nat) (e : Int) : signedValue neg m e = signedInt neg m * 2 ^ e := by
  cases neg <;> simp [signedValue, signedInt]

@[simp] theorem signedValue_zero (neg : Bool) (e : Int) : signedValue neg 0 e = 0 := by
  simp [signedValue]

theorem abs_signedInt (neg : Bool) (m : Nat) : |signedInt neg m| = m := by
  cases neg <;> simp [signedInt]

theorem even_signedInt {neg : Bool} {m : Nat} : Even (signedInt neg m) ↔ m % 2 = 0 := by
  cases neg <;> simp [signedInt, Nat.even_iff]

theorem abs_signedValue (neg : Bool) (m : Nat) (e : Int) : |signedValue neg m e| = m * 2 ^ e := by
  rw [signedValue_eq, abs_mul_two_zpow, ← Int.cast_abs, abs_signedInt, Int.cast_natCast]

theorem signedValue_neg_iff {neg : Bool} {m : Nat} {e : Int} (hm : m ≠ 0) : signedValue neg m e < 0 ↔ neg = true := by
  have hpos : 0 < (m : ℚ) * 2 ^ e := by positivity
  cases neg
  · simpa [signedValue] using hpos.le
  · simpa [signedValue] using hpos

/-! ### The nearest multiple of a power of two (R106) -/

/-- `n` × 2^q is a multiple of 2^q nearest to `x`, and of two equally near the even one. -/
def NearestMultiple (n q : Int) (x : ℚ) : Prop :=
  |n * 2 ^ q - x| ≤ 2 ^ q / 2 ∧ (|n * 2 ^ q - x| = 2 ^ q / 2 → Even n)

section
variable {n q : Int} {x : ℚ} (h : NearestMultiple n q x)
include h

theorem NearestMultiple.neg : NearestMultiple (-n) q (-x) := by
  have hdist : |((-n : Int) : ℚ) * 2 ^ q - -x| = |n * 2 ^ q - x| := by
    rw [← abs_neg]
    congr 1
    push_cast
    ring
  simpa only [NearestMultiple, hdist, even_neg] using h

theorem NearestMultiple.le {j : Int} (hj : x ≤ j * 2 ^ q) : n ≤ j := by
  by_contra! hlt
  have hpos : (0 : ℚ) < 2 ^ q := zpow_pos two_pos q
  have hstep : ((j : ℚ) + 1) * 2 ^ q ≤ n * 2 ^ q := mul_le_mul_of_nonneg_right (by exact_mod_cast hlt) hpos.le
  have hnear := (le_abs_self _).trans h.1
  linarith

theorem NearestMultiple.ge {j : Int} (hj : j * 2 ^ q ≤ x) : j ≤ n := by
  have hneg := h.neg.le (j := -j) (by push_cast; linarith)
  omega

/-- No multiple of 2^q lies nearer. -/
theorem NearestMultiple.among_multiples (j : Int) :
    |n * 2 ^ q - x| ≤ |j * 2 ^ q - x| ∧ ((j * 2 ^ q : ℚ) ≠ n * 2 ^ q → |j * 2 ^ q - x| = |n * 2 ^ q - x| → Even n) := by
  by_cases hjn : j = n
  · rw [hjn]
    exact ⟨le_refl _, fun hne => absurd rfl hne⟩
  have hgap : (2 : ℚ) ^ q ≤ |(j : ℚ) * 2 ^ q - n * 2 ^ q| := by
    have hone : (1 : ℚ) ≤ |(j : ℚ) - n| := by exact_mod_cast Int.one_le_abs (sub_ne_zero.mpr hjn)
    rw [← sub_mul, abs_mul_two_zpow]
    exact le_mul_of_one_le_left (zpow_pos two_pos q).le hone
  have htri : |(j : ℚ) * 2 ^ q - n * 2 ^ q| ≤ |j * 2 ^ q - x| + |n * 2 ^ q - x| := by
    rw [abs_sub_comm ((n : ℚ) * 2 ^ q) x]
    exact abs_sub_le _ _ _
  have hnear := h.1
  exact ⟨by linarith, fun _ heq => h.2 (by linarith)⟩

/-- A multiple of 2^q on the same side of 0 as `x`, and no farther from 0, is no nearer to `x`. -/
theorem NearestMultiple.dist_le {c : Int} (hc : (c : ℚ) * 2 ^ q ≤ |x|) : |n * 2 ^ q - x| ≤ |x| - c * 2 ^ q := by
  rcases abs_cases x with ⟨habs, -⟩ | ⟨habs, -⟩
  · refine (h.among_multiples c).1.trans_eq ?_
    rw [abs_sub_comm, abs_of_nonneg (by linarith), habs]
  · refine (h.among_multiples (-c)).1.trans_eq ?_
    rw [Int.cast_neg, neg_mul, abs_of_nonneg (by linarith), habs, sub_eq_add_neg, add_comm, sub_eq_add_neg]

/-- Above the subnormal range, a number of 24 bits whose last place lies below that of `x` is no nearer: it is on the other side of the multiple
2^(q + 23). -/
theorem NearestMultiple.among_codes (hx : q = -149 ∨ 2 ^ 23 * (2 : ℚ) ^ q ≤ |x|) {j k : Int} (hj : |j| < 2 ^ 24) (hk : -149 ≤ k) :
    |n * 2 ^ q - x| ≤ |j * 2 ^ k - x| ∧ ((j * 2 ^ k : ℚ) ≠ n * 2 ^ q → |j * 2 ^ k - x| = |n * 2 ^ q - x| → Even n) := by
  rcases le_or_gt q k with hle | hlt
  · have hmultiple : (j * 2 ^ k : ℚ) = ((j * 2 ^ (k - q).toNat : Int) : ℚ) * 2 ^ q := by
      push_cast
      rw [two_zpow_split hle, mul_assoc]
    rw [hmultiple]
    exact h.among_multiples _
  · have hbig := h.dist_le (c := 2 ^ 23) (by push_cast; exact hx.resolve_left (by omega))
    have hsmall : |(j * 2 ^ k : ℚ)| < 2 ^ 23 * 2 ^ q :=
      calc |(j * 2 ^ k : ℚ)| = |(j : ℚ)| * 2 ^ k := abs_mul_two_zpow _ _
        _ < 2 ^ 24 * 2 ^ k := mul_lt_mul_of_pos_right (by exact_mod_cast hj) (zpow_pos two_pos k)
        _ = 2 ^ 23 * 2 ^ (k + 1) := by rw [zpow_add_one₀ two_ne_zero]; ring
        _ ≤ 2 ^ 23 * 2 ^ q := mul_le_mul_of_nonneg_left (zpow_le_zpow_right₀ one_le_two hlt) (by positivity)
    have hfar := abs_sub_abs_le_abs_sub x (j * 2 ^ k)
    rw [abs_sub_comm] at hfar
    push_cast at hbig
    have hfarther : |n * 2 ^ q - x| < |j * 2 ^ k - x| := by linarith
    exact ⟨hfarther.le, fun _ heq => absurd heq hfarther.ne'⟩

end

theorem nearestMultiple_signed (neg : Bool) {n m : Nat} {e q : Int} (h : NearestMultiple n q (m * 2 ^ e)) :
    NearestMultiple (signedInt neg n) q (signedValue neg m e) := by
  cases neg
  · simpa [signedInt, signedValue] using h
  · simpa [signedInt, signedValue] using h.neg

/-! ### The rounding of a magnitude (R106) -/

/-- The count goes up past a half, and at a half to the even neighbour. -/
theorem roundUp_nearest (neg inexact : Bool) (n : Nat) (cmp : Ordering) : roundUp 0 neg n cmp inexact =
    if cmp = .gt ∨ cmp = .eq ∧ n % 2 = 1 then n + 1 else n := by
  cases cmp <;> simp [roundUp]

/-- A place no higher than the last bit of `m` drops nothing. -/
theorem roundAt_exact (neg : Bool) (m : Nat) {e q : Int} (hq : q ≤ e) : roundAt 0 neg m e false q = m * 2 ^ (e - q).toNat := by
  rw [roundAt, if_pos hq, roundUp_nearest, Nat.shiftLeft_eq]
  simp

/-- A place above the last bit of `m` drops `s` + 1 bits. -/
theorem roundAt_shift (neg : Bool) (m : Nat) {e q : Int} {s : Nat} (hs : q - e = s + 1) : roundAt 0 neg m e false q =
    if 2 ^ s < m % (2 * 2 ^ s) ∨ m % (2 * 2 ^ s) = 2 ^ s ∧ m / (2 * 2 ^ s) % 2 = 1 then m / (2 * 2 ^ s) + 1 else m / (2 * 2 ^ s) := by
  rw [roundAt, if_neg (by omega), hs, show ((s : Int) + 1).toNat = s + 1 from rfl]
  simp only [roundUp_nearest, Nat.shiftRight_eq_div_pow, Nat.add_sub_cancel, Bool.false_eq_true, if_false, pow_succ']
  refine if_congr ?_ rfl rfl
  rcases lt_trichotomy (2 ^ s) (m % (2 * 2 ^ s)) with h | h | h
  · simp [h]
  · simp [← h]
  · simp [h.not_gt, h.ne]

/-- The distance from such a place, in units of the last bit of `m`: at most the half of the place. -/
theorem roundAt_shift_dist (neg : Bool) (m : Nat) {e q : Int} {s : Nat} (hs : q - e = s + 1) :
    |(roundAt 0 neg m e false q * (2 * (2 ^ s : Nat)) - m : Int)| ≤ (2 ^ s : Nat) ∧
    (|(roundAt 0 neg m e false q * (2 * (2 ^ s : Nat)) - m : Int)| = (2 ^ s : Nat) → roundAt 0 neg m e false q % 2 = 0) := by
  rw [roundAt_shift neg m hs]
  have hsplit := Nat.div_add_mod m (2 * 2 ^ s)
  have hrest := Nat.mod_lt m (show 0 < 2 * 2 ^ s by positivity)
  generalize m / (2 * 2 ^ s) = n at *
  generalize m % (2 * 2 ^ s) = rest at *
  generalize 2 ^ s = half at *
  have hm : (m : Int) = 2 * half * n + rest := by exact_mod_cast hsplit.symm
  rw [hm]
  split
  · have hdist : ((n + 1 : Nat) * (2 * half) - (2 * half * n + rest) : Int) = 2 * half - rest := by push_cast; ring
    rw [hdist, abs_of_nonneg (by omega)]
    omega
  · have hdist : (n * (2 * half) - (2 * half * n + rest) : Int) = -rest := by ring
    rw [hdist, abs_neg, abs_of_nonneg (by omega)]
    omega

theorem roundAt_nearest (neg : Bool) (m : Nat) (e q : Int) : NearestMultiple (roundAt 0 neg m e false q) q (m * 2 ^ e) := by
  rcases le_or_gt q e with hle | hlt
  · have hexact : ((roundAt 0 neg m e false q : Int) : ℚ) * 2 ^ q - m * 2 ^ e = 0 := by
      rw [roundAt_exact neg m hle]
      push_cast
      rw [two_zpow_split hle, mul_assoc, sub_self]
    have hpos : (0 : ℚ) < 2 ^ q / 2 := by positivity
    rw [NearestMultiple, hexact, abs_zero]
    exact ⟨hpos.le, fun heq => absurd heq hpos.ne⟩
  · obtain ⟨s, hs⟩ : ∃ s : Nat, q - e = s + 1 := ⟨(q - e - 1).toNat, by omega⟩
    obtain ⟨hnear, htie⟩ := roundAt_shift_dist neg m hs
    have hplace : (2 : ℚ) ^ q = 2 * (2 ^ s : Nat) * 2 ^ e := by
      rw [show q = s + 1 + e by omega, zpow_add₀ two_ne_zero, zpow_add_one₀ two_ne_zero]
      push_cast
      rw [zpow_natCast, mul_comm 2]
    generalize roundAt 0 neg m e false q = n at *
    generalize 2 ^ s = half at *
    have hdist : |((n : Int) : ℚ) * 2 ^ q - m * 2 ^ e| = |(n * (2 * half) - m : Int)| * 2 ^ e := by
      rw [hplace, Int.cast_abs, ← abs_mul_two_zpow]
      push_cast
      congr 1
      ring
    have hhalfPlace : (2 : ℚ) ^ q / 2 = (half : Int) * 2 ^ e := by rw [hplace]; push_cast; ring
    have hpos : (0 : ℚ) < 2 ^ e := zpow_pos two_pos e
    rw [NearestMultiple, hdist, hhalfPlace, mul_le_mul_iff_left₀ hpos, mul_left_inj' hpos.ne', Int.cast_le, Int.cast_inj]
    exact ⟨hnear, fun heq => (Int.even_coe_nat _).mpr (Nat.even_iff.mpr (htie heq))⟩

/-! ### Codes of FP32 (R103, R105) -/

theorem code_fp32 (neg : Bool) (e m : Nat) : fFP32.code neg e m = (if neg then 2 ^ 31 else 0) + e * 2 ^ 23 + m := by
  simp [FFmt.code, fFP32]

theorem code_fp32_mod_two (neg : Bool) (e m : Nat) : fFP32.code neg e m % 2 = m % 2 := by
  rw [code_fp32]
  split <;> omega

theorem read_fp32 (y : Nat) : fFP32.read y =
    if y / 2 ^ 23 % 256 = 255 then
      if y % 2 ^ 23 = 0 then .inf (y / 2 ^ 31 % 2 == 1) else .nan (fFP32.code (y / 2 ^ 31 % 2 == 1) (y / 2 ^ 23 % 256) (y % 2 ^ 23))
    else if y / 2 ^ 23 % 256 = 0 then .fin (y / 2 ^ 31 % 2 == 1) (y % 2 ^ 23) (-149)
    else .fin (y / 2 ^ 31 % 2 == 1) (2 ^ 23 + y % 2 ^ 23) ((y / 2 ^ 23 % 256 : Nat) - 150) := by
  simp [FFmt.read, fFP32, sub_sub]

theorem read_code_fp32 (neg : Bool) {e m : Nat} (he : e < 255) (hm : m < 2 ^ 23) : fFP32.read (fFP32.code neg e m) =
    if e = 0 then .fin neg m (-149) else .fin neg (2 ^ 23 + m) (e - 150) := by
  have hexp : fFP32.code neg e m / 2 ^ 23 % 256 = e := by rw [code_fp32]; split <;> omega
  have hfrac : fFP32.code neg e m % 2 ^ 23 = m := by rw [code_fp32]; split <;> omega
  have hsign : (fFP32.code neg e m / 2 ^ 31 % 2 == 1) = neg := by
    rw [code_fp32, Bool.eq_iff_iff, beq_iff_eq]
    cases neg
    · simp only [Bool.false_eq_true, if_false, iff_false]
      omega
    · simp only [if_true, iff_true]
      omega
  rw [read_fp32, hexp, hfrac, hsign, if_neg he.ne]

/-- A finite value is a number of at most 24 bits, with its last place at 2^−149 or above. -/
theorem finite_fp32 {y : Nat} {z : ℚ} (h : Claims.rational (fFP32.read y) = some z) :
    ∃ j k : Int, z = j * 2 ^ k ∧ |j| < 2 ^ 24 ∧ -149 ≤ k := by
  obtain ⟨neg, m, e, hread, rfl⟩ := rational_eq_some h
  refine ⟨signedInt neg m, e, signedValue_eq neg m e, ?_⟩
  rw [abs_signedInt]
  rw [read_fp32] at hread
  have hfrac := Nat.mod_lt y (Nat.two_pow_pos 23)
  split_ifs at hread
  all_goals
    obtain ⟨-, rfl, rfl⟩ := FV.fin.inj hread
    omega

/-- Counting on from fraction to exponent: `n` places of 2^(k − 149) have the code of exponent field `k` and fraction `n`, carried upwards. -/
theorem rational_code_fp32 (neg : Bool) {k n : Nat} (hnorm : k = 0 ∨ 2 ^ 23 ≤ n) (hn : n ≤ 2 ^ 24) (hfin : k < 253 ∨ k = 253 ∧ n < 2 ^ 24) :
    Claims.rational (fFP32.read (fFP32.code neg k n)) = some (signedValue neg n (k - 149)) := by
  rcases lt_or_ge n (2 ^ 23) with hsub | hge
  · obtain rfl : k = 0 := hnorm.resolve_right (by omega)
    rw [read_code_fp32 neg (by omega) hsub, if_pos rfl]
    rfl
  · rcases hn.lt_or_eq with hlt | rfl
    · have hcode : fFP32.code neg k n = fFP32.code neg (k + 1) (n - 2 ^ 23) := by rw [code_fp32, code_fp32]; omega
      rw [hcode, read_code_fp32 neg (by omega) (by omega), if_neg (by omega), Nat.add_sub_cancel' hge,
        show ((k + 1 : Nat) : Int) - 150 = k - 149 by omega]
      rfl
    · have hcode : fFP32.code neg k (2 ^ 24) = fFP32.code neg (k + 2) 0 := by rw [code_fp32, code_fp32]; omega
      rw [hcode, read_code_fp32 neg (by omega) (by omega), if_neg (by omega), show ((k + 2 : Nat) : Int) - 150 = k - 149 + 1 by omega]
      change some (signedValue _ _ _) = _
      rw [signedValue, signedValue, zpow_add_one₀ two_ne_zero]
      push_cast
      congr 1
      ring

/-! ### Round in FP32 (R106, R107) -/

/-- The last place of m × 2^e in FP32: 23 places below its leading bit, but not below 2^−149. -/
def lastPlace (m : Nat) (e : Int) : Int := max (Nat.log2 m + e - 23) (-149)

theorem lastPlace_ge (m : Nat) (e : Int) : -149 ≤ lastPlace m e := le_max_right _ _

theorem lt_lastPlace (m : Nat) (e : Int) : (m * 2 ^ e : ℚ) < 2 ^ 24 * 2 ^ lastPlace m e :=
  calc (m * 2 ^ e : ℚ) < 2 ^ (Nat.log2 m + 1) * 2 ^ e := mul_lt_mul_of_pos_right (by exact_mod_cast Nat.lt_log2_self) (zpow_pos two_pos e)
    _ = 2 ^ 24 * 2 ^ (Nat.log2 m + e - 23) := by
      rw [← zpow_natCast, ← zpow_natCast, ← zpow_add₀ two_ne_zero, ← zpow_add₀ two_ne_zero]
      congr 1
      omega
    _ ≤ 2 ^ 24 * 2 ^ lastPlace m e := mul_le_mul_of_nonneg_left (zpow_le_zpow_right₀ one_le_two (le_max_left _ _)) (by positivity)

theorem lastPlace_le {m : Nat} (hm : m ≠ 0) (e : Int) : lastPlace m e = -149 ∨ 2 ^ 23 * (2 : ℚ) ^ lastPlace m e ≤ m * 2 ^ e := by
  rcases max_choice (Nat.log2 m + e - 23) (-149) with h | h
  · right
    calc (2 ^ 23 * 2 ^ lastPlace m e : ℚ) = 2 ^ Nat.log2 m * 2 ^ e := by
          rw [lastPlace, h, ← zpow_natCast, ← zpow_natCast, ← zpow_add₀ two_ne_zero, ← zpow_add₀ two_ne_zero]
          congr 1
          omega
      _ ≤ m * 2 ^ e := mul_le_mul_of_nonneg_right (by exact_mod_cast Nat.log2_self_le hm) (zpow_pos two_pos e).le
  · exact .inl h

/-- The magnitude m × 2^e in units of its last place. -/
def places (neg : Bool) (m : Nat) (e : Int) : Nat := roundAt 0 neg m e false (lastPlace m e)

theorem places_nearest (neg : Bool) (m : Nat) (e : Int) : NearestMultiple (places neg m e) (lastPlace m e) (m * 2 ^ e) := roundAt_nearest neg m e _

theorem places_le (neg : Bool) (m : Nat) (e : Int) : places neg m e ≤ 2 ^ 24 := by
  have hle := (places_nearest neg m e).le (j := 2 ^ 24) (by push_cast; exact (lt_lastPlace m e).le)
  exact_mod_cast hle

/-- At the highest place of a finite value, the rounding passes the largest finite value from the middle between that and 2^128. -/
theorem NearestMultiple.top_iff {n : Nat} {v : ℚ} (h : NearestMultiple n 104 v) (hn : n ≤ 2 ^ 24) : n = 2 ^ 24 ↔ 2 ^ 128 - 2 ^ 103 ≤ v := by
  constructor
  · rintro rfl
    have hdist := (le_abs_self _).trans h.1
    norm_num at hdist ⊢
    linarith
  · intro hv
    have hge : 2 ^ 24 - 1 ≤ (n : Int) := h.ge (by norm_num at hv ⊢; linarith)
    by_contra hne
    obtain rfl : n = 2 ^ 24 - 1 := by omega
    have hmiddle : |((2 ^ 24 - 1 : Nat) : Int) * 2 ^ (104 : Int) - v| = (2 : ℚ) ^ (104 : Int) / 2 := by
      refine le_antisymm h.1 (le_trans ?_ (neg_le_abs _))
      norm_num at hv ⊢
      linarith
    exact absurd (h.2 hmiddle) (by decide)

section
variable (neg : Bool) {m : Nat} (hm : m ≠ 0) (e : Int)
include hm

theorem places_ge : lastPlace m e = -149 ∨ 2 ^ 23 ≤ places neg m e := by
  refine (lastPlace_le hm e).imp_right fun h => ?_
  have hge := (places_nearest neg m e).ge (j := 2 ^ 23) (by push_cast; exact h)
  exact_mod_cast hge

/-- The rounded magnitude passes the largest finite value exactly from the middle between that and 2^128. -/
theorem overflow_iff : 105 ≤ lastPlace m e ∨ lastPlace m e = 104 ∧ places neg m e = 2 ^ 24 ↔ (2 ^ 128 - 2 ^ 103 : ℚ) ≤ m * 2 ^ e := by
  have hnear := places_nearest neg m e
  have hle := places_le neg m e
  have hbelow := lt_lastPlace m e
  have habove := lastPlace_le hm e
  generalize (m * 2 ^ e : ℚ) = v at *
  generalize lastPlace m e = q at *
  generalize places neg m e = n at *
  rcases lt_trichotomy q 104 with hlt | rfl | hgt
  · have hpow : (2 : ℚ) ^ q ≤ 2 ^ (103 : Int) := zpow_le_zpow_right₀ one_le_two (by omega)
    have hnot : ¬ (2 ^ 128 - 2 ^ 103 : ℚ) ≤ v := by
      rw [not_le]
      refine hbelow.trans_le ((mul_le_mul_of_nonneg_left hpow (by positivity)).trans ?_)
      norm_num
    exact iff_of_false (by omega) hnot
  · rw [or_iff_right (by omega), and_iff_right rfl]
    exact hnear.top_iff hle
  · have hpow : (2 : ℚ) ^ (105 : Int) ≤ 2 ^ q := zpow_le_zpow_right₀ one_le_two (by omega)
    refine iff_of_true (.inl (by omega)) (le_trans ?_ (habove.resolve_left (by omega)))
    refine le_trans ?_ (mul_le_mul_of_nonneg_left hpow (by positivity))
    norm_num

/-- Round of a magnitude that is not zero, under round to nearest. -/
theorem round_fp32 : fFP32.round 0 neg m e false =
    if 105 ≤ lastPlace m e ∨ lastPlace m e = 104 ∧ places neg m e = 2 ^ 24 then fFP32.code neg 255 0
    else fFP32.code neg (lastPlace m e + 149).toNat (places neg m e) := by
  have hle := places_le neg m e
  have hge := places_ge neg hm e
  have hplace := lastPlace_ge m e
  rw [FFmt.round]
  simp only [show fFP32.mb = 23 from rfl, show fFP32.bias = 127 from rfl, show fFP32.eb = 8 from rfl, show fFP32.flush = false from rfl,
    show fFP32.nan = .ieee from rfl, Nat.cast_ofNat, Int.reduceSub, Bool.false_eq_true, if_false, ← lastPlace.eq_1, ← places.eq_1,
    beq_iff_eq, decide_eq_true_eq]
  generalize lastPlace m e = q at *
  generalize places neg m e = n at *
  have hinf : fFP32.overflow 0 neg = fFP32.code neg 255 0 := rfl
  rcases hle.lt_or_eq with hlt | rfl
  · simp only [if_neg (show ¬ n = 2 ^ (23 + 1) from hlt.ne)]
    rcases lt_or_ge n (2 ^ 23) with hsub | hnormal
    · rw [if_pos hsub, if_neg (by omega), code_fp32, code_fp32]
      omega
    · rw [if_neg (by omega), if_neg (by omega), hinf]
      refine if_congr (by omega) rfl ?_
      rw [code_fp32, code_fp32]
      omega
  · simp only [if_true, and_true]
    rw [if_neg (by omega), if_neg (by omega), hinf]
    refine if_congr (by omega) rfl ?_
    rw [code_fp32, code_fp32]
    omega

end

/-- The value 0 has a code of either sign. -/
theorem rounds_zero (neg : Bool) : Claims.Rounds (fFP32.code neg 0 0) 0 := by
  have hread : Claims.rational (fFP32.read (fFP32.code neg 0 0)) = some (signedValue neg 0 (0 - 149)) :=
    rational_code_fp32 neg (.inl rfl) (by decide) (.inl (by decide))
  refine ⟨fun _ => ⟨0, by rw [hread, signedValue_zero], fun y z _ _ => ⟨by simp, fun _ _ => ?_⟩⟩, fun hbig => ?_⟩
  · rw [code_fp32_mod_two]
  · norm_num at hbig

/-- Round of m × 2^e with its sign, under round to nearest (R106, R107). -/
theorem rounds_round (neg : Bool) {m : Nat} (hm : m ≠ 0) (e : Int) : Claims.Rounds (fFP32.round 0 neg m e false) (signedValue neg m e) := by
  have hoverflow := overflow_iff neg hm e
  rw [Claims.Rounds, abs_signedValue, round_fp32 neg hm]
  constructor
  · intro hsmall
    have hfits : ¬ (105 ≤ lastPlace m e ∨ lastPlace m e = 104 ∧ places neg m e = 2 ^ 24) := fun h => absurd (hoverflow.mp h) hsmall.not_ge
    have hle := places_le neg m e
    have hge := places_ge neg hm e
    have hplace := lastPlace_ge m e
    have hread := rational_code_fp32 neg (k := (lastPlace m e + 149).toNat) (n := places neg m e) (by omega) hle (by omega)
    rw [Int.toNat_of_nonneg (by omega), add_sub_cancel_right, signedValue_eq] at hread
    rw [if_neg hfits]
    refine ⟨_, hread, fun y z _ hz => ?_⟩
    obtain ⟨j, k, rfl, hj, hk⟩ := finite_fp32 hz
    have hnear := nearestMultiple_signed neg (places_nearest neg m e)
    have hbest := hnear.among_codes (by rw [abs_signedValue]; exact lastPlace_le hm e) hj hk
    rwa [even_signedInt, ← code_fp32_mod_two neg (lastPlace m e + 149).toNat] at hbest
  · intro hbig
    rw [if_pos (hoverflow.mpr hbig)]
    simp only [signedValue_neg_iff hm]
    cases neg <;> rfl

theorem rounds_write (neg : Bool) (m : Nat) (e : Int) : Claims.Rounds (fFP32.write 0 (.fin neg m e)) (signedValue neg m e) := by
  by_cases hm : m = 0
  · rw [FFmt.write, if_pos hm, hm, signedValue_zero]
    exact rounds_zero neg
  · rw [FFmt.write, if_neg hm]
    exact rounds_round neg hm e

/-! ### Exact sums and products (R134) -/

theorem signedMag_value (neg : Bool) (m : Nat) {e lo : Int} (hlo : lo ≤ e) : (signedMag neg m e lo : ℚ) * 2 ^ lo = signedValue neg m e := by
  rw [signedValue, two_zpow_split hlo, signedMag, Nat.shiftLeft_eq]
  cases neg <;> simp [mul_assoc]

theorem signedValue_of_int (s e : Int) : signedValue (s < 0) s.natAbs e = s * 2 ^ e := by
  rw [signedValue_eq, signedInt]
  congr 2
  simp only [decide_eq_true_eq]
  split <;> omega

/-- The sum of two finite values is finite and exact. -/
theorem add_fin (rm : Nat) (x y : Bool) (m n : Nat) (e k : Int) : ∃ neg r l, FV.add rm (.fin x m e) (.fin y n k) = some (.fin neg r l) ∧
    signedValue neg r l = signedValue x m e + signedValue y n k := by
  rw [FV.add]
  split_ifs with hboth hm hn
  · exact ⟨_, _, _, rfl, by simp [hboth.1, hboth.2]⟩
  · exact ⟨_, _, _, rfl, by simp [hm]⟩
  · exact ⟨_, _, _, rfl, by simp [hn]⟩
  · rw [← signedMag_value x m (min_le_left e k), ← signedMag_value y n (min_le_right e k), ← add_mul, ← Int.cast_add, ← signedValue_of_int]
    dsimp only
    split_ifs with hs
    · exact ⟨_, _, _, rfl, by simp [hs]⟩
    · exact ⟨_, _, _, rfl, rfl⟩

theorem signedValue_mul (x y : Bool) (m n : Nat) (e k : Int) :
    signedValue (x != y) (m * n) (e + k) = signedValue x m e * signedValue y n k := by
  have hsign : (if (x != y) = true then -1 else 1 : ℚ) = (if x = true then -1 else 1) * (if y = true then -1 else 1) := by
    cases x <;> cases y <;> simp
  rw [signedValue, signedValue, signedValue, hsign, zpow_add₀ two_ne_zero]
  push_cast
  ring

theorem floatSumsAndProductsRoundToNearest : Claims.FloatSumsAndProductsRoundToNearest := by
  intro a b p q _ _ ha hb
  obtain ⟨x, m, e, hreadA, rfl⟩ := rational_eq_some ha
  obtain ⟨y, n, k, hreadB, rfl⟩ := rational_eq_some hb
  rw [fAdd, fMul, hreadA, hreadB]
  constructor
  · obtain ⟨neg, r, l, hsum, hvalue⟩ := add_fin 0 x y m n e k
    change Claims.Rounds (fFP32.finish 0 (FV.add 0 _ _)) _
    rw [hsum, ← hvalue]
    exact rounds_write neg r l
  · rw [← signedValue_mul]
    exact rounds_write _ _ _

/-! ### NaN operands (R109) -/

/-- A NaN code of FP32 (R103). -/
def IsNanCode (n : Nat) : Prop := n / 2 ^ 23 % 256 = 255 ∧ n % 2 ^ 23 ≠ 0

theorem read_of_isNanCode {n : Nat} (hn : n < 2 ^ 32) (hnan : IsNanCode n) : fFP32.read n = .nan n := by
  obtain ⟨hexp, hfrac⟩ := hnan
  rw [read_fp32, if_pos hexp, if_neg hfrac, code_fp32]
  congr 1
  simp only [beq_iff_eq]
  split <;> omega

theorem isNan_of_not_isNanCode {n : Nat} (hnan : ¬ IsNanCode n) : (fFP32.read n).isNan = false := by
  rw [read_fp32]
  split_ifs with hexp hfrac
  · rfl
  · exact absurd ⟨hexp, hfrac⟩ hnan
  · rfl
  · rfl

theorem firstNan_skip {g : FFmt} {v : FV} (l : List FV) (hv : v.isNan = false) : firstNan g (v :: l) = firstNan g l := by
  cases v with
  | nan c => cases hv
  | inf | fin => rfl

theorem quiet_fp32 (n : Nat) : fFP32.quiet n = n ||| 0x40_0000 := by
  simp [FFmt.quiet, FFmt.quietBit, fFP32]

/-- The first NaN operand decides the result of a sum and of a product. -/
theorem fAdd_fMul_of_firstNan {g : FFmt} {a b c : Nat} (rm : Nat) (h : firstNan g [g.read a, g.read b] = some c) :
    fAdd g rm a b = c ∧ fMul g rm a b = c := by
  rw [fAdd, fMul, h]
  exact ⟨rfl, rfl⟩

theorem floatNanOperandsPropagate : Claims.FloatNanOperandsPropagate := by
  intro a b rm ha hb
  refine ⟨fun hnan => fAdd_fMul_of_firstNan rm ?_, fun hnot hnan => fAdd_fMul_of_firstNan rm ?_⟩
  · rw [read_of_isNanCode ha hnan, firstNan, quiet_fp32]
  · rw [firstNan_skip _ (isNan_of_not_isNanCode hnot), read_of_isNanCode hb hnan, firstNan, quiet_fp32]

/-- Settles O23: a rounded magnitude is the nearest multiple of its last place, which no FP32 number comes nearer than, and NaN operands are
looked for before the arithmetic. -/
theorem floatSumsAndProducts : Obligations.FloatSumsAndProducts :=
  ⟨floatSumsAndProductsRoundToNearest, floatNanOperandsPropagate⟩

end Sys2Proof.Proofs
end

section
/-! PROOFS. A word that writes one vector register, and what packing, setting and merging leave of its lanes (R129 to R131, R142 to R147). -/

namespace Sys2Proof.Proofs

open Sys2Proof Sys2Proof.Machine Sys2Proof.Claims

/-! ### The bits of lanes (R129) -/

/-- Lane `j` holds the bits of the register from `w * j` on. -/
theorem lane_testBit (v : VReg) (w j b : Nat) : (Claims.lane v w j).testBit b = (decide (b < w) && v.getLsbD (w * j + b)) := by
  rw [Claims.lane, Nat.testBit_mod_two_pow, Nat.testBit_div_two_pow, BitVec.testBit_toNat, Nat.add_comm b]

theorem lane_or (u v : VReg) (w j : Nat) : Claims.lane (u ||| v) w j = Claims.lane u w j ||| Claims.lane v w j := by
  apply Nat.eq_of_testBit_eq
  intro b
  rw [Nat.testBit_or, lane_testBit, lane_testBit, lane_testBit, BitVec.getLsbD_or, Bool.and_or_distrib_left]

/-- The bits above the lanes of an LNS6 register are in none of its lanes (R129). -/
theorem lane_above (d : VReg) {w j top : Nat} (hj : w * j + w ≤ top) : Claims.lane ((d >>> top) <<< top) w j = 0 := by
  apply Nat.eq_of_testBit_eq
  intro b
  rw [lane_testBit, Nat.zero_testBit, BitVec.getLsbD_shiftLeft]
  by_cases hb : b < w
  · simp [show w * j + b < top by omega]
  · simp [hb]

theorem lane_zero (w j : Nat) : Claims.lane 0 w j = 0 := by
  have hzero : (0 : VReg) = 0#512 := rfl
  rw [hzero, Claims.lane, BitVec.toNat_zero, Nat.zero_div, Nat.zero_mod]

/-- Where a register is merged, the lanes that are on are replaced, and the bits above them are in no lane (R129, R131). -/
theorem lane_laneMerge_all {w n j : Nat} (hfit : w * n ≤ 512) (hlns : w = 6 → n ≤ 64) (hj : j < n) (d : VReg) (on : Nat → Bool) (g : Nat → Nat) :
    Claims.lane (laneMerge d w n on g) w j = if on j then g j % 2 ^ w else Claims.lane d w j := by
  have habove : Claims.lane (if w = 6 && !((List.range n).all on) then (d >>> 384) <<< 384 else 0) w j = 0 := by
    split
    · next h6 =>
      simp only [Bool.and_eq_true, decide_eq_true_eq] at h6
      have hn := hlns h6.1
      rw [h6.1]
      exact lane_above d (by omega)
    · exact lane_zero w j
  rw [laneMerge, lane_or, habove, Nat.or_zero, lane_lanesOf hfit hj]
  split
  · rfl
  · rw [laneGet_eq, Nat.mod_eq_of_lt (lane_lt _ _ _)]

/-- A bit of one lane is a bit of no other. -/
theorem lane_bit_unique {w i j b : Nat} (hb : b < w) : (w * i ≤ w * j + b ∧ w * j + b - w * i < w) ↔ j = i := by
  constructor
  · rintro ⟨hle, hlt⟩
    rcases Nat.lt_trichotomy j i with h | h | h
    · have := Nat.mul_le_mul_left w (Nat.succ_le_of_lt h)
      rw [Nat.mul_succ] at this
      omega
    · exact h
    · have := Nat.mul_le_mul_left w (Nat.succ_le_of_lt h)
      rw [Nat.mul_succ] at this
      omega
  · rintro rfl
    omega

/-- Setting a lane replaces it and leaves the others (R143). -/
theorem lane_laneSet {w i : Nat} (hfit : w * i + w ≤ 512) (v : VReg) (x j : Nat) :
    Claims.lane (laneSet v w i x) w j = if j = i then x % 2 ^ w else Claims.lane v w j := by
  apply Nat.eq_of_testBit_eq
  intro b
  rw [lane_testBit]
  by_cases hb : b < w
  · have hunique := lane_bit_unique (i := i) (j := j) hb
    simp only [laneSet, BitVec.getLsbD_or, BitVec.getLsbD_and, BitVec.getLsbD_not, BitVec.getLsbD_ofNat, Nat.testBit_shiftLeft,
      Nat.testBit_two_pow_sub_one, Nat.testBit_mod_two_pow, hb, decide_true, Bool.true_and]
    by_cases hj : j = i
    · subst hj
      simp [hb, show w * j + b < 512 by omega]
    · have hout : ¬ (w * i ≤ w * j + b ∧ w * j + b - w * i < w) := fun h => hj (hunique.mp h)
      rw [if_neg hj, lane_testBit]
      by_cases hle : w * i ≤ w * j + b
      · have hge : ¬ w * j + b - w * i < w := fun h => hout ⟨hle, h⟩
        by_cases h512 : w * j + b < 512 <;> simp [hb, hge, h512]
        exact BitVec.getLsbD_of_ge v _ (by omega)
      · by_cases h512 : w * j + b < 512 <;> simp [hb, hle, h512]
        exact BitVec.getLsbD_of_ge v _ (by omega)
  · have hbig : ∀ y, y < 2 ^ w → y.testBit b = false := fun y hy =>
      Nat.testBit_lt_two_pow (hy.trans_le (Nat.pow_le_pow_right Nat.two_pos (by omega)))
    rw [decide_eq_false hb, Bool.false_and]
    split
    · exact (hbig _ (Nat.mod_lt _ (Nat.two_pow_pos w))).symm
    · exact (hbig _ (lane_lt _ _ _)).symm

/-! ### A word that leaves one vector register written -/

section
variable {h : Hdr} {s : State} {i : Instr} {f : Fields} {d : BitVec 5} {v : VReg}

theorem pred_issued (n : Nat) : ((issued s.cur h s).ctx s.cur).pred n = (me s).pred n := by
  rw [issued_ctx_same]
  rfl

/-- A lane of a named register. -/
theorem laneGet_issued (n w j : Nat) : laneGet (((issued s.cur h s).ctx s.cur).vec n) w j = Claims.lane ((me s).vec n) w j := by
  rw [laneGet_eq, vec_issued]

/-- A word whose effect writes D once leaves D written and its context otherwise with the next PC. -/
theorem leaves_of_setVec {V : Ctx → VReg} (hexec : exec i s = issue i false false
      (fun x _ t => .done (t.modCtx x fun c => c.setVec f.d.num (V c))) s)
    (hh : i.hdr = h) (hrun : Runs h s) (hpacket : Instr.packet i = false) (hd : f.d = .v d) :
    Leaves i h s (fallThrough ((me s).setVec d.toNat (V ((issued s.cur h s).ctx s.cur))) (me s).pc) := by
  refine leaves_of_done hexec hh hrun (.inl rfl) hpacket rfl rfl (fun y hy => State.modCtx_ctx_ne _ _ _ _ hy) ?_
  have hself := issued_ctx_same s.cur h s
  obtain ⟨u, hu⟩ : ∃ u, u = V ((issued s.cur h s).ctx s.cur) := ⟨_, rfl⟩
  rw [State.modCtx_ctx_same, ← hu, hself, hd]
  rfl

/-- What such a word has done, said of the state that it leaves. -/
theorem ends_of_leaves_setVec (hleaves : Leaves i h s (fallThrough ((me s).setVec d.toNat v) (me s).pc)) :
    Ends i s fun t => Advances h (me s) (t.ctx s.cur) ∧ OthersKept s t ∧ (t.ctx s.cur).vl = true ∧
      (∀ m, (t.ctx s.cur).vec m = if m = d.toNat then v else (me s).vec m) ∧ (t.ctx s.cur).stack = (me s).stack ∧
      (t.ctx s.cur).p = (me s).p := by
  obtain ⟨t, hexec, hself, hothers⟩ := hleaves
  obtain ⟨hpc, hcnt, hbody⟩ := fallThrough_flow (c := me s) (d := (me s).setVec d.toNat v) rfl rfl (me s).pc
  rw [fallThrough_eq] at hself
  refine ⟨t, hexec, ⟨?_, ?_, ?_, ?_, ?_⟩, hothers, ?_, fun m => ?_, ?_, ?_⟩ <;> rw [hself]
  · rfl
  · exact hpc
  · exact hcnt
  · exact hbody
  · rfl
  · rfl
  · exact Ctx.setVec_vec _ _ _ _
  · rfl
  · rfl

/-- A word that leaves D with given lanes, those that its mask leaves out unchanged. -/
theorem vecGives_of_leaves {w n : Nat} {g : Nat → Nat} (hleaves : Leaves i h s (fallThrough ((me s).setVec d.toNat v) (me s).pc))
    (hlanes : ∀ j, j < n → Claims.lane v w j = if Claims.enabled s f j then g j % 2 ^ w else Claims.lane ((me s).vec d.toNat) w j) :
    Claims.VecGives i h f d s w n g := by
  obtain ⟨t, hexec, hadv, hothers, hvl, hvec, hstack, hp⟩ := ends_of_leaves_setVec hleaves
  refine ⟨t, hexec, hadv, hothers, hvl, fun j hj => ?_, fun m hm => ?_, hstack, hp⟩
  · rw [hvec, if_pos rfl, hlanes j hj]
  · rw [hvec, if_neg hm]

/-- Only the lanes of the type count. -/
theorem vecGives_congr {w n : Nat} {g r : Nat → Nat} (hg : ∀ j, j < n → g j = r j) (hgives : Claims.VecGives i h f d s w n g) :
    Claims.VecGives i h f d s w n r := by
  obtain ⟨t, hexec, hadv, hothers, hvl, hlanes, hrest⟩ := hgives
  exact ⟨t, hexec, hadv, hothers, hvl, fun j hj => by rw [hlanes j hj, hg j hj], hrest⟩

end

/-- An instruction without a mask enables every lane (R131). -/
theorem enabled_unmasked {s : State} {f : Fields} (hmask : f.x.mkEn = false) (j : Nat) : Claims.enabled s f j = true := by
  rw [Claims.enabled, hmask]
  rfl

end Sys2Proof.Proofs
end

section
/-! PROOFS. Moves, broadcasts, insertion, extraction and permutations of integer lanes (R142 to R147). -/

namespace Sys2Proof.Proofs

open Sys2Proof Sys2Proof.Machine Sys2Proof.Claims

/-! ### The words of R142 to R147 -/

theorem exec_vmov (h : Hdr) (f : Fields) (s : State) : exec (.vmov h f) s = execVmov h f s := by
  rfl

theorem exec_vmovClr (h : Hdr) (f : Fields) (s : State) : exec (.vmovClr h f) s = execVmovClr h f s := by
  rfl

theorem exec_vbcst (h : Hdr) (f : Fields) (s : State) : exec (.vbcst h f) s = execVbcst h f s := by
  rfl

theorem exec_vins (h : Hdr) (f : Fields) (s : State) : exec (.vins h f) s = execVins h f s := by
  rfl

theorem exec_vext (h : Hdr) (f : Fields) (s : State) : exec (.vext h f) s = execVext h f s := by
  rfl

theorem exec_vperm (h : Hdr) (f : Fields) (s : State) : exec (.vperm h f) s = execVperm h f s := by
  rfl

theorem exec_vshuf (h : Hdr) (f : Fields) (s : State) : exec (.vshuf h f) s = execVshuf h f s := by
  rfl

theorem exec_vcomp (h : Hdr) (f : Fields) (s : State) : exec (.vcomp h f) s = execVcomp h f s := by
  rfl

theorem exec_vexpd (h : Hdr) (f : Fields) (s : State) : exec (.vexpd h f) s = execVexpd h f s := by
  rfl

theorem exec_vsel (h : Hdr) (f : Fields) (s : State) : exec (.vsel h f) s = execVsel h f s := by
  rfl

theorem exec_viota (h : Hdr) (f : Fields) (s : State) : exec (.viota h f) s = execViota h f s := by
  rfl

/-! ### What a lane-wise word reads once it has issued -/

section
variable {h : Hdr} {s : State}

/-- The set bits of a predicate below a lane (R146, R147). -/
theorem onesBelow_issued (n j : Nat) :
    onesBelow (((issued s.cur h s).ctx s.cur).pred n).toNat j = (List.range j).countP fun m => ((me s).pred n).getLsbD m := by
  rw [onesBelow_eq, pred_issued]
  rfl

/-- The lane that VINS and VEXT name (R143). -/
theorem laneIdx_issued {f : Fields} (hty : f.x.ty < 8) (hb : f.b.link? = none) :
    laneIdx ((issued s.cur h s).ctx s.cur) f = (count s f.b).toNat % (512 / width f.x.ty) := by
  rw [laneIdx, srcZ_issued hb, show Sys2Proof.laneCount f.ty = 512 / width f.x.ty from laneCount_int hty]

end

/-- The lanes of an integer type fill the register. -/
theorem width_laneCount {ty : Nat} (hty : ty < 8) : width ty * (512 / width ty) = 512 := by
  interval_cases ty <;> rfl

/-- A lane that the type has fits the register. -/
theorem lane_fits {ty k : Nat} (hty : ty < 8) (hk : k < 512 / width ty) : width ty * k + width ty ≤ 512 := by
  have hle := Nat.mul_le_mul_left (width ty) (Nat.succ_le_of_lt hk)
  rwa [width_laneCount hty, Nat.mul_succ] at hle

theorem laneCount_pos {ty : Nat} (hty : ty < 8) : 0 < 512 / width ty := by
  interval_cases ty <;> decide

theorem even_laneCount {ty : Nat} (hty : ty < 8) : 512 / width ty % 2 = 0 := by
  interval_cases ty <;> rfl

/-! ### Shuffles (R145) -/

/-- A lane of a shuffle, taken at a place of A's lanes followed by B's. -/
theorem shuffled_lane {n p : Nat} (hp : p < 2 * n) (a b : VReg) (w : Nat) :
    Claims.lane (if p < n then a else b) w (p % n) = if p < n then Claims.lane a w p else Claims.lane b w (p - n) := by
  split
  · next hlt => rw [Nat.mod_eq_of_lt hlt]
  · next hge => rw [Nat.mod_eq_sub_mod (by omega), Nat.mod_eq_of_lt (by omega)]

/-- A place among A's lanes. -/
theorem place_in_first {n p : Nat} (hp : p < n) (a b : Nat → Nat) : p < 2 * n ∧ a p = if p < n then a p else b (p - n) :=
  ⟨by omega, (if_pos hp).symm⟩

/-- A place among B's lanes. -/
theorem place_in_second {n p q : Nat} (hp : p = n + q) (hq : q < n) (a b : Nat → Nat) : p < 2 * n ∧ b q = if p < n then a p else b (p - n) := by
  rw [hp, if_neg (by omega), Nat.add_sub_cancel_left]
  exact ⟨by omega, rfl⟩

/-- The rotations of VSHUF. -/
theorem shufflePlace_rotate {sub : Nat} (hsub : 64 ≤ sub) (n i : Nat) : shufflePlace sub n i = i + sub % 64 := by
  unfold shufflePlace
  split
  case h_5 => rfl
  all_goals omega

section
variable {h : Hdr} {f : Fields} {d m m' : BitVec 5} {s : State}

/-- VSHUF takes each lane from its place. -/
theorem vshuf_gives (hrun : Runs h s) (hty : f.x.ty < 8) (hd : f.d = .v d) (ha : f.a = .v m) (hb : f.b = .v m') {r : Nat → Nat}
    (hplace : ∀ j, j < 512 / width f.x.ty → shufflePlace f.sub.toNat (512 / width f.x.ty) j < 2 * (512 / width f.x.ty) ∧
      r j = if shufflePlace f.sub.toNat (512 / width f.x.ty) j < 512 / width f.x.ty
        then Claims.lane ((me s).vec m.toNat) (width f.x.ty) (shufflePlace f.sub.toNat (512 / width f.x.ty) j)
        else Claims.lane ((me s).vec m'.toNat) (width f.x.ty) (shufflePlace f.sub.toNat (512 / width f.x.ty) j - 512 / width f.x.ty)) :
    Claims.VecGives (.vshuf h f) h f d s (width f.x.ty) (512 / width f.x.ty) r := by
  have hn : Sys2Proof.laneCount f.ty = 512 / width f.x.ty := laneCount_int hty
  have hw : tyBits f.ty = width f.x.ty := tyBits_int hty
  refine vecGives_congr (fun j hj => ?_) (intOp_gives hrun hd hty (exec_vshuf h f s) rfl rfl fun j => rfl)
  obtain ⟨hp, hr⟩ := hplace j hj
  rw [hr, ← shuffled_lane hp, hn, hw, laneGet_issued, ha, hb]
  split <;> rfl

/-- The interleavings, the even and the odd lanes, and the rotations (R145). -/
theorem vshuf_lanes (hrun : Runs h s) (hty : f.x.ty < 8) (hd : f.d = .v d) (ha : f.a = .v m) (hb : f.b = .v m') :
    let w := width f.x.ty
    let n := 512 / w
    let a := Claims.lane ((me s).vec m.toNat) w
    let b := Claims.lane ((me s).vec m'.toNat) w
    let gives := Claims.VecGives (.vshuf h f) h f d s w n
    (f.sub = 0 → gives fun j => if j % 2 = 0 then a (j / 2) else b (j / 2)) ∧
    (f.sub = 1 → gives fun j => if j % 2 = 0 then a (n / 2 + j / 2) else b (n / 2 + j / 2)) ∧
    (f.sub = 2 → gives fun j => if 2 * j < n then a (2 * j) else b (2 * j - n)) ∧
    (f.sub = 3 → gives fun j => if 2 * j + 1 < n then a (2 * j + 1) else b (2 * j + 1 - n)) ∧
    (64 ≤ f.sub.toNat → f.sub.toNat % 64 < n → gives fun j =>
      if j + f.sub.toNat % 64 < n then a (j + f.sub.toNat % 64) else b (j + f.sub.toNat % 64 - n)) := by
  intro w n a b gives
  have heven : n % 2 = 0 := even_laneCount hty
  have word : ∀ {r : Nat → Nat} (place : Nat → Nat), (∀ j, shufflePlace f.sub.toNat n j = place j) →
      (∀ j, j < n → place j < 2 * n ∧ r j = if place j < n then a (place j) else b (place j - n)) → gives r := fun place heq hplace =>
    vshuf_gives hrun hty hd ha hb fun j hj => by rw [heq]; exact hplace j hj
  clear_value gives n a b
  refine ⟨fun hsub => ?low, fun hsub => ?high, fun hsub => ?even, fun hsub => ?odd, fun h64 hrot => ?rotate⟩
  case low =>
    refine word (fun j => if j % 2 = 0 then j / 2 else n + j / 2) (fun j => by rw [hsub]; rfl) fun j hj => ?_
    by_cases hj2 : j % 2 = 0
    · simp only [hj2, if_true]
      exact place_in_first (by omega) a b
    · simp only [hj2, if_false]
      exact place_in_second rfl (by omega) a b
  case high =>
    refine word (fun j => if j % 2 = 0 then n / 2 + j / 2 else n + n / 2 + j / 2) (fun j => by rw [hsub]; rfl) fun j hj => ?_
    by_cases hj2 : j % 2 = 0
    · simp only [hj2, if_true]
      exact place_in_first (by omega) a b
    · simp only [hj2, if_false]
      exact place_in_second (by omega) (by omega) a b
  case even => exact word (fun j => 2 * j) (fun j => by rw [hsub]; rfl) fun j hj => ⟨by omega, rfl⟩
  case odd => exact word (fun j => 2 * j + 1) (fun j => by rw [hsub]; rfl) fun j hj => ⟨by omega, rfl⟩
  case rotate => exact word (fun j => j + f.sub.toNat % 64) (fun j => shufflePlace_rotate h64 n j) fun j hj => ⟨by omega, rfl⟩

end

/-! ### Moves of whole registers (R142) -/

/-- VMOV.CLR with nothing outstanding makes every vector register read as zero (R142). -/
theorem vmovClr_clears {h : Hdr} {f : Fields} {s : State} (hrun : Runs h s) (hout : (me s).outstanding = []) (hpend : (me s).pend = [])
    (hdef : (me s).deferred = []) : Ends (.vmovClr h f) s fun t =>
      Advances h (me s) (t.ctx s.cur) ∧ OthersKept s t ∧ (t.ctx s.cur).vl = false ∧ ∀ m, (t.ctx s.cur).vec m = 0 := by
  have hmarker : marker s.cur (.vmovClr h f) false (issued s.cur h s) = none := marker_issued_none hout hpend hdef
  have hleaves : Leaves (.vmovClr h f) h s (fallThrough { me s with v := [], vl := false } (me s).pc) := by
    refine leaves_of_done (exec_vmovClr h f s) rfl hrun (.inl rfl) rfl (by rw [hmarker]) rfl (fun y hy => State.modCtx_ctx_ne _ _ _ _ hy) ?_
    have hself := issued_ctx_same s.cur h s
    rw [State.modCtx_ctx_same, hself]
  obtain ⟨t, hexec, hself, hothers⟩ := hleaves
  obtain ⟨hpc, hcnt, hbody⟩ := fallThrough_flow (c := me s) (d := { me s with v := [], vl := false }) rfl rfl (me s).pc
  rw [fallThrough_eq] at hself
  refine ⟨t, hexec, ⟨?_, ?_, ?_, ?_, ?_⟩, hothers, ?_, fun m => ?_⟩ <;> rw [hself]
  · rfl
  · exact hpc
  · exact hcnt
  · exact hbody
  · rfl
  · rfl
  · rfl

/-! ### Single lanes (R143) -/

section
variable {h : Hdr} {f : Fields} {d m : BitVec 5} {s : State}

/-- VBCST writes the source's lane to every enabled one (R143). -/
theorem vbcst_gives (hrun : Runs h s) (hty : f.x.ty < 8) (hd : f.d = .v d) (ha : f.a.link? = none) :
    Claims.VecGives (.vbcst h f) h f d s (width f.x.ty) (512 / width f.x.ty) (Claims.laneOf s f.a (width f.x.ty)) := by
  have hn : Sys2Proof.laneCount f.ty = 512 / width f.x.ty := laneCount_int hty
  have hw : tyBits f.ty = width f.x.ty := tyBits_int hty
  refine vecGives_of_leaves (leaves_of_setVec (exec_vbcst h f s) rfl hrun rfl hd) fun j hj => ?_
  rw [hn, hw, lane_lanesOf (width_laneCount hty).le hj, laneOn_issued, laneSrc_issued ha, laneGet_issued, hd]
  split
  · rfl
  · exact Nat.mod_eq_of_lt (lane_lt _ _ _)

/-- VINS replaces one lane and no other bit (R143). -/
theorem vins_inserts (hrun : Runs h s) (hty : f.x.ty < 8) (hd : f.d = .v d) (ha : f.a.link? = none) (hb : f.b.link? = none) :
    Ends (.vins h f) s fun t => Advances h (me s) (t.ctx s.cur) ∧ OthersKept s t ∧
      ∀ j, j < 512 / width f.x.ty → Claims.lane ((t.ctx s.cur).vec d.toNat) (width f.x.ty) j =
        if j = (count s f.b).toNat % (512 / width f.x.ty) then (source s f.a).toNat % 2 ^ width f.x.ty
        else Claims.lane ((me s).vec d.toNat) (width f.x.ty) j := by
  have hw : tyBits f.ty = width f.x.ty := tyBits_int hty
  have hk : (count s f.b).toNat % (512 / width f.x.ty) < 512 / width f.x.ty := Nat.mod_lt _ (laneCount_pos hty)
  obtain ⟨t, hexec, hadv, hothers, -, hvec, -⟩ := ends_of_leaves_setVec (leaves_of_setVec (h := h) (exec_vins h f s) rfl hrun rfl hd)
  refine ⟨t, hexec, hadv, hothers, fun j _ => ?_⟩
  rw [hvec, if_pos rfl, hw, laneIdx_issued hty hb, srcS_issued h s f.a ha, vec_issued, hd, lane_laneSet (lane_fits hty hk)]
  rfl

/-- VEXT takes one lane to a `w` register, extended by the type (R143). -/
theorem vext_leaves {r : BitVec 4} (hrun : Runs h s) (hty : f.x.ty < 8) (hd : f.d = .w r) (ha : f.a = .v m) (hb : f.b.link? = none) :
    Leaves (.vext h f) h s (fallThrough ((me s).setW r.toNat (fit f.x.ty
      (Claims.lane ((me s).vec m.toNat) (width f.x.ty) ((count s f.b).toNat % (512 / width f.x.ty))))) (me s).pc) := by
  have hw : tyBits f.ty = width f.x.ty := tyBits_int hty
  refine leaves_of_done (exec_vext h f s) rfl hrun (.inl rfl) rfl rfl rfl (fun y hy => State.modCtx_ctx_ne _ _ _ _ hy) ?_
  have hself := issued_ctx_same s.cur h s
  rw [State.modCtx_ctx_same, laneIdx_issued hty hb, hw, laneGet_issued, show f.ty = f.x.ty from rfl, extendTy_eq_fit hty, ha, hd, hself]
  rfl

/-! ### Selections (R146) -/

/-- VCOMP packs the selected lanes at the bottom (R146). -/
theorem vcomp_gives {p : BitVec 3} (hrun : Runs h s) (hty : f.x.ty < 8) (hd : f.d = .v d) (ha : f.a = .v m) (hb : f.b = .p p)
    (hmask : f.x.mkEn = false) : Claims.VecGives (.vcomp h f) h f d s (width f.x.ty) (512 / width f.x.ty) fun j =>
      (((List.range (512 / width f.x.ty)).filter fun j => ((me s).pred p.toNat).getLsbD j).map
        (Claims.lane ((me s).vec m.toNat) (width f.x.ty))).getD j 0 := by
  have hn : Sys2Proof.laneCount f.ty = 512 / width f.x.ty := laneCount_int hty
  have hw : tyBits f.ty = width f.x.ty := tyBits_int hty
  refine vecGives_of_leaves (leaves_of_setVec (exec_vcomp h f s) rfl hrun rfl hd) fun j hj => ?_
  rw [hn, hw, lane_lanesOf (width_laneCount hty).le hj, enabled_unmasked hmask, if_pos rfl, pred_issued, ha, hb]
  simp only [laneGet_issued]
  rfl

/-- VEXPD spreads consecutive lanes over the selected ones (R146). -/
theorem vexpd_gives {p : BitVec 3} (hrun : Runs h s) (hty : f.x.ty < 8) (hd : f.d = .v d) (ha : f.a = .v m) (hb : f.b = .p p)
    (hmask : f.x.mkEn = false) : Claims.VecGives (.vexpd h f) h f d s (width f.x.ty) (512 / width f.x.ty) fun j =>
      if ((me s).pred p.toNat).getLsbD j
      then Claims.lane ((me s).vec m.toNat) (width f.x.ty) ((List.range j).countP fun m => ((me s).pred p.toNat).getLsbD m)
      else Claims.lane ((me s).vec d.toNat) (width f.x.ty) j := by
  have hn : Sys2Proof.laneCount f.ty = 512 / width f.x.ty := laneCount_int hty
  have hw : tyBits f.ty = width f.x.ty := tyBits_int hty
  refine vecGives_of_leaves (leaves_of_setVec (exec_vexpd h f s) rfl hrun rfl hd) fun j hj => ?_
  rw [hn, hw, lane_laneMerge (width_laneCount hty).le (width_ne_six hty) hj, enabled_unmasked hmask, if_pos rfl, onesBelow_issued, pred_issued,
    laneGet_issued, vec_issued, ha, hb, hd]
  by_cases hsel : ((me s).pred p.toNat).getLsbD j = true
  · rw [if_pos hsel]
    exact if_pos hsel
  · rw [if_neg hsel]
    exact (if_neg hsel).trans (Nat.mod_eq_of_lt (lane_lt _ _ _)).symm

end

theorem vectorMovesAndPermutations : Claims.VectorMovesAndPermutations := by
  intro h f d s hrun hty hfa hfb c ty w n la lb k gives
  have hn : Sys2Proof.laneCount f.ty = n := laneCount_int hty
  have hw : tyBits f.ty = w := tyBits_int hty
  have hA : ∀ j, laneSrc ((issued s.cur h s).ctx s.cur) f.a (tyBits f.ty) j = Claims.laneOf s f.a w j := fun j => by
    rw [hw]; exact laneSrc_issued hfa w j
  have hB : ∀ j, laneSrc ((issued s.cur h s).ctx s.cur) f.b (tyBits f.ty) j = Claims.laneOf s f.b w j := fun j => by
    rw [hw]; exact laneSrc_issued hfb w j
  refine ⟨fun hd => ?_, fun r m hd ha => ?ext, vmovClr_clears hrun⟩
  case ext =>
    have hla : la k = Claims.lane (c.vec m.toNat) w k := by simp only [la, ha]
    rw [hla]
    exact vext_leaves hrun hty hd ha hfb
  have word : ∀ {i g r}, exec i s = vecOp i f g s → i.hdr = h → Instr.packet i = false →
      (∀ j, g ((issued s.cur h s).ctx s.cur) j = r j) → gives i r :=
    fun hexec hh hpacket hg => intOp_gives hrun hd hty hexec hh hpacket fun j => congrArg (· % 2 ^ w) (hg j)
  refine ⟨?mov, vbcst_gives hrun hty hd hfa, fun p hsub => ?sel, fun hsub => ?iota, fun p ha hsub => ?count, fun m ha => ?perm,
    fun m m' ha hb => ?shuf, vins_inserts hrun hty hd hfa hfb, fun m p ha hb hmask => ?selection⟩
  case mov => exact word (exec_vmov h f s) rfl rfl hA
  case sel => exact word (exec_vsel h f s) rfl rfl fun j => by rw [hA, hB, subBits_low, hsub, pred_issued]; rfl
  case iota => exact word (exec_viota h f s) rfl rfl fun j => by rw [Fields.subBit, hsub]; rfl
  case count => exact word (exec_viota h f s) rfl rfl fun j => by rw [Fields.subBit, hsub, if_pos rfl, onesBelow_issued, ha]; rfl
  case perm =>
    refine word (exec_vperm h f s) rfl rfl fun j => ?_
    simp only [la]
    rw [hB, hn, laneGet_issued, hw, ha]
    rfl
  case shuf =>
    have hla : la = Claims.lane (c.vec m.toNat) w := by simp only [la, ha]
    have hlb : lb = Claims.lane (c.vec m'.toNat) w := by simp only [lb, hb]
    rw [hla, hlb]
    exact vshuf_lanes hrun hty hd ha hb
  case selection =>
    have hla : la = Claims.lane (c.vec m.toNat) w := by simp only [la, ha]
    rw [hla]
    exact ⟨vcomp_gives hrun hty hd ha hb hmask, vexpd_gives hrun hty hd ha hb hmask⟩

end Sys2Proof.Proofs
end

section
/-! PROOFS. Reductions by addition, conversions and integer dot products (R148, R150, R151). -/

namespace Sys2Proof.Proofs

open Sys2Proof Sys2Proof.Machine Sys2Proof.Claims

theorem exec_vred (h : Hdr) (f : Fields) (s : State) : exec (.vred h f) s = execVred h f s := by
  rfl

theorem exec_vcvt (h : Hdr) (f : Fields) (s : State) : exec (.vcvt h f) s = execVcvt h f s := by
  rfl

theorem exec_vdot (h : Hdr) (f : Fields) (s : State) : exec (.vdot h f) s = execVdot h f s := by
  rfl

/-! ### The tree of a reduction (R148) -/

theorem treeLevel_length (op : Nat → Nat → Nat) (l : List Nat) : (treeLevel op l).length = (l.length + 1) / 2 := by
  induction l using treeLevel.induct with
  | case1 a b rest ih =>
    rw [treeLevel, List.length_cons, ih, List.length_cons, List.length_cons]
    omega
  | case2 l hl =>
    match l, hl with
    | [], _ => rfl
    | [a], _ => simp [treeLevel]
    | a :: b :: rest, hl => exact absurd rfl (hl a b rest)

/-- A level of additions modulo `q` keeps the sum modulo `q`. -/
theorem treeLevel_sum {q : Nat} {op : Nat → Nat → Nat} (hop : ∀ a b, op a b = (a + b) % q) (l : List Nat) : (treeLevel op l).sum % q = l.sum % q := by
  induction l using treeLevel.induct with
  | case1 a b rest ih =>
    rw [treeLevel, List.sum_cons, List.sum_cons, List.sum_cons, hop, Nat.mod_add_mod, Nat.add_mod, ih, ← Nat.add_mod, Nat.add_assoc]
  | case2 l hl =>
    match l, hl with
    | [], _ => rfl
    | [a], _ => rfl
    | a :: b :: rest, hl => exact absurd rfl (hl a b rest)

/-- The tree of additions gives the sum (R148). -/
theorem treeFold_sum {q : Nat} {op : Nat → Nat → Nat} (hop : ∀ a b, op a b = (a + b) % q) {k : Nat} {l : List Nat} (hl : l.length ≤ 2 ^ k) :
    treeFold op k l % q = l.sum % q := by
  induction k generalizing l with
  | zero =>
    match l, hl with
    | [], _ => rfl
    | [a], _ => rfl
  | succ k ih =>
    rw [treeFold, ih, treeLevel_sum hop]
    rw [treeLevel_length]
    rw [pow_succ] at hl
    omega

/-- The sum of the enabled lanes of a register. -/
def laneSum (s : State) (f : Fields) (m : BitVec 5) : Nat :=
  ((List.range (512 / width f.x.ty)).map fun j => if Claims.enabled s f j then Claims.lane ((me s).vec m.toNat) (width f.x.ty) j else 0).sum

section
variable {h : Hdr} {f : Fields} {d m : BitVec 5} {s : State}

/-- What VRED folds of the context that issues it. -/
def reduced (c : Ctx) (f : Fields) : Nat :=
  treeFold (redOp (f.subBits 0 4) f.ty f.x.rm) (Nat.log2 (Sys2Proof.laneCount f.ty)) ((List.range (Sys2Proof.laneCount f.ty)).map fun i =>
    if laneOn c f i then laneGet (c.vec f.a.num) (tyBits f.ty) i else redIdentity (f.subBits 0 4) f.ty)

theorem laneCount_pow {ty : Nat} (hty : ty < 8) : 512 / width ty ≤ 2 ^ Nat.log2 (512 / width ty) := by
  interval_cases ty <;> decide

/-- By addition it folds the sum of the enabled lanes (R148). -/
theorem reduced_issued (hty : f.x.ty < 8) (hsub : f.sub.toNat % 16 = 0) (ha : f.a = .v m) :
    reduced ((issued s.cur h s).ctx s.cur) f % 2 ^ width f.x.ty = laneSum s f m % 2 ^ width f.x.ty := by
  have hcode : f.subBits 0 4 = 0 := by
    rw [Fields.subBits, natBits, Nat.shiftRight_zero]
    exact hsub
  have hn : Sys2Proof.laneCount f.ty = 512 / width f.x.ty := laneCount_int hty
  have hw : tyBits f.ty = width f.x.ty := tyBits_int hty
  have hop : ∀ a b, redOp 0 f.ty f.x.rm a b = (a + b) % 2 ^ width f.x.ty := fun a b => by rw [redOp, hw]
  rw [reduced, hcode, hn, treeFold_sum hop (by rw [List.length_map, List.length_range]; exact laneCount_pow hty), hw, laneSum, ha]
  simp only [laneOn_issued, laneGet_issued]
  rfl

theorem vred_to_w {r : BitVec 4} (hrun : Runs h s) (ha : f.a = .v m) (hty : f.x.ty < 8) (hsub : f.sub.toNat % 16 = 0) (hd : f.d = .w r) :
    Leaves (.vred h f) h s (fallThrough ((me s).setW r.toNat (fit f.x.ty (laneSum s f m))) (me s).pc) := by
  have hvalue : extendTy f.ty (reduced ((issued s.cur h s).ctx s.cur) f) = fit f.x.ty (laneSum s f m) :=
    (extendTy_eq_fit hty _).trans (fit_congr (Int.natCast_modEq_iff.mpr (reduced_issued hty hsub ha)))
  refine leaves_of_done (v := (issued s.cur h s).modCtx s.cur fun c => c.writeD f.d (extendTy f.ty (reduced c f))) (exec_vred h f s) rfl hrun
    (.inl rfl) rfl ?_ rfl (fun y hy => State.modCtx_ctx_ne _ _ _ _ hy) ?_
  · dsimp only
    rw [hd]
    rfl
  · have hself := issued_ctx_same s.cur h s
    rw [State.modCtx_ctx_same, hvalue, hd, hself]
    rfl

theorem vred_to_v (hrun : Runs h s) (ha : f.a = .v m) (hty : f.x.ty < 8) (hsub : f.sub.toNat % 16 = 0) (hd : f.d = .v d) :
    Ends (.vred h f) s fun t => Advances h (me s) (t.ctx s.cur) ∧ OthersKept s t ∧
      ((t.ctx s.cur).vec d.toNat).toNat = laneSum s f m % 2 ^ width f.x.ty := by
  have hw : tyBits f.ty = width f.x.ty := tyBits_int hty
  have hexec : exec (.vred h f) s = issue (.vred h f) false false (fun x _ t => .done (t.modCtx x fun c =>
      c.setVec f.d.num (BitVec.ofNat 512 (reduced c f % 2 ^ tyBits f.ty)))) s := by
    rw [exec_vred, execVred, hd]
    rfl
  obtain ⟨t, hstep, hadv, hothers, -, hvec, -⟩ := ends_of_leaves_setVec (leaves_of_setVec hexec rfl hrun rfl hd)
  refine ⟨t, hstep, hadv, hothers, ?_⟩
  have hfit : width f.x.ty ≤ 512 := by interval_cases f.x.ty <;> decide
  have hlt := (Nat.mod_lt (laneSum s f m) (Nat.two_pow_pos (width f.x.ty))).trans_le (Nat.pow_le_pow_right Nat.two_pos hfit)
  rw [hvec, if_pos rfl, hw, reduced_issued hty hsub ha, BitVec.toNat_ofNat, Nat.mod_eq_of_lt hlt]

end

/-! ### Dot products (R151) -/

theorem foldl_add_eq_sum {α : Type} (g : α → Int) (l : List α) (a : Int) : l.foldl (fun acc e => acc + g e) a = a + (l.map g).sum := by
  induction l generalizing a with
  | nil => exact (add_zero a).symm
  | cons e l ih => rw [List.foldl_cons, ih, List.map_cons, List.sum_cons, add_assoc]

/-- A lane of an integer dot product is the exact sum, wrapped (R151). -/
theorem dotLane_int {ty : Nat} (hty : ty < 8) (rm d : Nat) (a b : Nat → Nat) (l : List Nat) (ha : ∀ j, a j < 2 ^ width ty)
    (hb : ∀ j, b j < 2 ^ width ty) : dotLane ty rm d (l.map fun j => (a j, b j)) =
      Claims.wrap 32 ((d : Int) + (l.map fun j => Claims.laneValue ty (a j) * Claims.laneValue ty (b j)).sum) := by
  have hsum : (l.map fun j => (a j, b j)).foldl (fun acc e => acc + laneInt ty e.1 * laneInt ty e.2) (signedOf 32 d) =
      signedOf 32 d + (l.map fun j => Claims.laneValue ty (a j) * Claims.laneValue ty (b j)).sum := by
    rw [foldl_add_eq_sum fun e : Nat × Nat => laneInt ty e.1 * laneInt ty e.2, List.map_map]
    congr 3
    funext j
    exact congrArg₂ (· * ·) (laneInt_eq hty (ha j)) (laneInt_eq hty (hb j))
  have hacc : signedOf 32 d ≡ d [ZMOD (2 ^ 32 : Nat)] := by
    rw [signedOf_eq (by decide)]
    exact Int.bmod_emod
  rw [dotLane, tyFloat_int hty, if_neg (by decide), hsum, wrap_eq]
  exact wrapInt_congr (hacc.add_right _)

theorem vdot_gives {h : Hdr} {f : Fields} {d m : BitVec 5} {s : State} (hrun : Runs h s) (ha : f.a = .v m) (hb : f.b.link? = none)
    (hty : f.x.ty < 4) (hd : f.d = .v d) :
    Claims.VecGives (.vdot h f) h f d s 32 16 fun i => Claims.wrap 32 ((Claims.lane ((me s).vec d.toNat) 32 i : Int) +
      ((List.range (32 / width f.x.ty)).map fun j =>
        Claims.laneValue f.x.ty (Claims.lane ((me s).vec m.toNat) (width f.x.ty) (32 / width f.x.ty * i + j)) *
        Claims.laneValue f.x.ty (Claims.laneOf s f.b 32 i / 2 ^ (width f.x.ty * j) % 2 ^ width f.x.ty)).sum) := by
  have hty8 : f.x.ty < 8 := by omega
  have hw : tyBits f.ty = width f.x.ty := tyBits_int hty8
  refine vecGives_of_leaves (leaves_of_setVec (exec_vdot h f s) rfl hrun rfl hd) fun j hj => ?_
  dsimp only
  rw [lane_lanesOf (by decide) hj, laneOn_issued, hw, ha, hd]
  simp only [laneGet_issued, laneSrc_issued hb, natBits, Nat.shiftRight_eq_div_pow]
  split
  · exact congrArg (· % 2 ^ 32) (dotLane_int hty8 _ _ (fun j' => Claims.lane ((me s).vec m.toNat) (width f.x.ty) (32 / width f.x.ty * j + j')) _ _
      (fun _ => lane_lt _ _ _) (fun _ => Nat.mod_lt _ (Nat.two_pow_pos _)))
  · exact Nat.mod_eq_of_lt (lane_lt _ _ _)

/-! ### Conversions (R149, R150) -/

theorem cvt_fits : ∀ c, c < 32 → cvtBits c * cvtLanes c ≤ 512 ∧ (cvtBits c = 6 → cvtLanes c ≤ 64) := by
  decide

/-- Setting the lanes of a part, those of them that are on (R150). -/
theorem lane_setPart {w first l : Nat} (hfit : w * (first + l) ≤ 512) (d : VReg) (on : Nat → Bool) (g : Nat → Nat) (q : Nat) :
    Claims.lane ((List.range l).foldl (fun v i => if on i then laneSet v w (first + i) (g i) else v) d) w q =
      if (first ≤ q ∧ q < first + l) ∧ on (q - first) = true then g (q - first) % 2 ^ w else Claims.lane d w q := by
  induction l with
  | zero => rw [if_neg (by omega)]; rfl
  | succ l ih =>
    have hmul : w * (first + (l + 1)) = w * (first + l) + w := by ring
    rw [List.range_succ, List.foldl_append, List.foldl_cons, List.foldl_nil]
    have hrest : q ≠ first + l → ((first ≤ q ∧ q < first + l) ∧ on (q - first) = true ↔ (first ≤ q ∧ q < first + (l + 1)) ∧ on (q - first) = true) :=
      fun hne => and_congr_left fun _ => by omega
    by_cases hq : q = first + l
    · subst hq
      rw [Nat.add_sub_cancel_left] at ih ⊢
      split
      · next hon => rw [lane_laneSet (by omega), if_pos rfl, if_pos ⟨by omega, hon⟩]
      · next hon => rw [ih (by omega), if_neg fun hc => hon hc.2, if_neg fun hc => hon hc.2]
    · split
      · rw [lane_laneSet (by omega), if_neg hq, ih (by omega)]
        exact if_congr (hrest hq) rfl rfl
      · rw [ih (by omega)]
        exact if_congr (hrest hq) rfl rfl

/-- The register that VCVT leaves: the whole of D where the destination has no more elements than the source, else the part at `first`. -/
def converted (d : VReg) (w nd l first : Nat) (on : Nat → Bool) (g : Nat → Nat) : VReg :=
  if nd = l then laneMerge d w nd on g
  else (List.range l).foldl (fun v i => if on i then laneSet v w (first + i) (g i) else v) d

theorem lane_converted {w nd l first j : Nat} (hfit : w * nd ≤ 512) (hlns : w = 6 → nd ≤ 64) (hpart : first + l ≤ nd) (hj : j < l) (d : VReg)
    (on : Nat → Bool) (g : Nat → Nat) :
    Claims.lane (converted d w nd l first on g) w (first + j) = if on j then g j % 2 ^ w else Claims.lane d w (first + j) := by
  unfold converted
  split
  · next hall =>
    have hfirst : first = 0 := by omega
    rw [hfirst, Nat.zero_add]
    exact lane_laneMerge_all hfit hlns (by omega) d on g
  · rw [lane_setPart ((Nat.mul_le_mul_left w hpart).trans hfit), Nat.add_sub_cancel_left]
    exact if_congr (and_iff_right ⟨by omega, by omega⟩) rfl rfl

/-- The counter of the free values is no part of a context. -/
theorem modCtx_ctx_freeCtr (s : State) (x : Nat) (g : Ctx → Ctx) (n : Nat) : ({ s.modCtx x g with freeCtr := n } : State).ctx x = g (s.ctx x) :=
  State.modCtx_ctx_same s x g

section
variable {h : Hdr} {f : Fields} {d m : BitVec 5} {s : State} {p : BitVec 7}

theorem vcvt_converts {v : Nat → Nat} (hrun : Runs h s) (ha : f.a = .v m) (hd : f.d = .v d) (hb : f.b = .imm p) :
    let src := f.sub.toNat % 32
    let dst := f.sub.toNat / 32
    let ns := cvtLanes src
    let nd := cvtLanes dst
    let l := min ns nd
    p.toNat * l + l ≤ max ns nd →
    (∀ j, j < l → convert src dst f.x.rm (Claims.lane ((me s).vec m.toNat) (cvtBits src) (if nd < ns then p.toNat * l + j else j)) = some (v j)) →
    Ends (.vcvt h f) s fun t => Advances h (me s) (t.ctx s.cur) ∧
      (∀ j, j < l → Claims.lane ((t.ctx s.cur).vec d.toNat) (cvtBits dst) ((if ns < nd then p.toNat * l else 0) + j) =
        if Claims.enabled s f j then v j % 2 ^ cvtBits dst
        else Claims.lane ((me s).vec d.toNat) (cvtBits dst) ((if ns < nd then p.toNat * l else 0) + j)) ∧
      (∀ n, n ≠ d.toNat → (t.ctx s.cur).vec n = (me s).vec n) ∧ t.mem = s.mem := by
  intro src dst ns nd l hpart hconvert
  have hself := issued_ctx_same s.cur h s
  have hsrc : f.subBits 0 5 = src := by rw [Fields.subBits, natBits, Nat.shiftRight_zero]; rfl
  have hdst : f.subBits 5 5 = dst := by
    have := f.sub.isLt
    rw [Fields.subBits, natBits, Nat.shiftRight_eq_div_pow]
    omega
  have hp : (srcZ ((issued s.cur h s).ctx s.cur) [] f.b).toNat = p.toNat := by
    rw [hb]
    exact BitVec.toNat_setWidth_of_le (by decide)
  obtain ⟨g, hg⟩ : ∃ g : Nat → Nat, g = fun i =>
      (convert src dst f.x.rm (laneGet (((issued s.cur h s).ctx s.cur).vec m.toNat) (cvtBits src) (if nd < ns then p.toNat * l + i else i))).getD
        (Config.freeWord ((issued s.cur h s).freeCtr + i)).toNat := ⟨_, rfl⟩
  have hvalue : ∀ j, j < l → g j = v j := fun j hj => by
    rw [hg]
    dsimp only
    rw [laneGet_issued, hconvert j hj]
    rfl
  obtain ⟨e, he⟩ : ∃ e, e = ((issued s.cur h s).ctx s.cur).setVec d.toNat (converted (((issued s.cur h s).ctx s.cur).vec d.toNat) (cvtBits dst) nd l
      (if ns < nd then p.toNat * l else 0) (laneOn ((issued s.cur h s).ctx s.cur) f) g) := ⟨_, rfl⟩
  obtain ⟨w, hexec, hctx, hmem⟩ : ∃ w, exec (.vcvt h f) s = .next (retire s.cur (me s).pc h.sw none w) ∧ w.ctx s.cur = e ∧ w.mem = s.mem := by
    refine ⟨_, exec_ready (exec_vcvt h f s) rfl hrun.1 (.inr hrun.2) (.inl rfl) (.inr rfl), ?_, issued_mem _ _ _⟩
    refine (modCtx_ctx_freeCtr _ _ _ _).trans ?_
    rw [he, hg]
    simp only [hsrc, hdst, hp, ha, hd]
    rfl
  have hafter : (retire s.cur (me s).pc h.sw none w).ctx s.cur = e.retire (ctxNo s.cur != 7) (me s).pc h.sw none := by
    rw [retire_ctx_same, hctx]
  obtain ⟨hfit, hlns⟩ := cvt_fits dst (by have := f.sub.isLt; omega)
  refine ⟨_, hexec, ?_, fun j hj => ?_, fun n hn => ?_, (retire_mem _ _ _ _ _).trans hmem⟩ <;> rw [hafter]
  · refine advances_retire ?_ ?_ ?_ _ <;> rw [he, hself] <;> rfl
  · have hroom : (if ns < nd then p.toNat * l else 0) + l ≤ nd := by
      split <;> omega
    rw [Ctx.retire_vec, he, Ctx.setVec_same, lane_converted hfit hlns hroom hj, laneOn_issued, hvalue j hj, vec_issued]
  · rw [Ctx.retire_vec, he, Ctx.setVec_vec, if_neg hn, vec_issued]

end

theorem vectorReductionsConversionsAndDotProducts : Claims.VectorReductionsConversionsAndDotProducts := by
  intro h f m s hrun ha hb c ty w la on
  refine ⟨fun r hty hsub hd => vred_to_w hrun ha hty hsub hd, fun d hty hsub hd => vred_to_v hrun ha hty hsub hd,
    fun d hty hd => vdot_gives hrun ha hb hty hd, fun d p v hd hp _ => vcvt_converts hrun ha hd hp⟩

/-- Settles O26: each word writes the lanes that its rule gives, from the register that it reads once it has issued. -/
theorem vectorMovesReductionsAndConversions : Obligations.VectorMovesReductionsAndConversions :=
  ⟨vectorMovesAndPermutations, vectorReductionsConversionsAndDotProducts⟩

end Sys2Proof.Proofs
end

section
/-! PROOFS. The addresses of vector elements, the start of a vector access, and vector accesses to device memory (R153 to R155). -/

namespace Sys2Proof.Proofs

open Sys2Proof Sys2Proof.Machine Sys2Proof.Claims

/-! ### Addresses of elements (R153, R154) -/

/-- An element has the bytes of its type; those of LNS6 are bytes. -/
theorem vecElems_size (ty : Nat) : (vecElems ty).1 = tyBytes ty := by
  unfold vecElems
  split
  · next hlns => rw [hlns]; rfl
  · rfl

theorem vecForm_eq (f : Fields) : f.subBits 3 3 = f.sub.toNat / 8 % 8 := by
  rw [Fields.subBits, natBits, Nat.shiftRight_eq_div_pow]
  rfl

theorem elemAddr_unit {c : Ctx} {f : Fields} (hform : f.sub.toNat / 8 % 8 = 0) (i : Nat) :
    elemAddr c f i = c.ea f + BitVec.ofNat 64 (i * tyBytes f.x.ty) := by
  unfold elemAddr
  rw [vecForm_eq, hform, vecElems_size]
  rfl

/-- A shift of a word multiplies it. -/
theorem shiftLeft_ofInt (r : Int) (n : Nat) : BitVec.ofInt 64 r <<< n = BitVec.ofInt 64 (r * 2 ^ n) := by
  have hpow : (2 : Int) ^ n = ((2 ^ n : Nat) : Int) := by push_cast; rfl
  rw [BitVec.shiftLeft_eq_mul_twoPow, BitVec.ofInt_mul, hpow, BitVec.ofInt_natCast]
  congr 1
  apply BitVec.eq_of_toNat_eq
  rw [BitVec.toNat_twoPow, BitVec.toNat_ofNat]

theorem elemOn_iff (c : Ctx) (f : Fields) (i : Nat) :
    elemOn c f i = true ↔ f.sub.getLsbD 9 = false ∨ (c.pred (f.sub.toNat / 64 % 8)).getLsbD i = true := by
  have hmask : f.subBits 6 3 = f.sub.toNat / 64 % 8 := by
    rw [Fields.subBits, natBits, Nat.shiftRight_eq_div_pow]
    rfl
  rw [elemOn, hmask, Bool.or_eq_true, Bool.not_eq_true']
  rfl

theorem vectorElementAddresses : Claims.VectorElementAddresses := by
  intro f n m k o ty sc cp ord i s ha hx c base sh
  have hsh : f.subBits 0 3 = sh := subBits_low f
  have hty : f.x.ty = ty.toNat := by rw [hx]; rfl
  have hofs : f.x.ofs = o.signExtend 64 := by rw [hx]; rfl
  refine ⟨fun _ hform => ?unit, fun hb hform => ?plain, fun hb hform => ?strided, fun hb hform => ?indexed, elemOn_iff c f i⟩
  case unit => rw [elemAddr_unit hform, ea_eq_addr, hty]
  case plain =>
    have hea : c.ea f = base := by
      simp only [Ctx.ea, ha, hb, hofs, base]
      exact congrArg (· + o.signExtend 64) (BitVec.add_zero _)
    rw [elemAddr_unit hform, hea, hty]
  case strided =>
    have hstride : BitVec.ofNat 64 i * (c.w m.toNat <<< sh) = BitVec.ofNat 64 (i * ((c.w m.toNat).toNat * 2 ^ sh)) := by
      apply BitVec.eq_of_toNat_eq
      simp [BitVec.toNat_mul, BitVec.toNat_shiftLeft, Nat.shiftLeft_eq]
    unfold elemAddr
    rw [vecForm_eq, hform, hsh, hofs, ha, hb, ← hstride]
    rfl
  case indexed =>
    unfold elemAddr
    rw [vecForm_eq, hform, hsh, hofs, ha, hb, ← shiftLeft_ofInt, sextW_eq (by decide), laneGet_eq]
    rfl

/-! ### The start of a vector access (R36, R155, R167, R180) -/

/-- An element whose access starts: aligned, and in device memory or at a resident slot of the own scratchpad. -/
def ElementStarts (s : State) (x : Nat) (b : Nat) (a : Word) : Prop :=
  a.toNat % b = 0 ∧ ((∃ va, resolve (coreOf x) a = .dev va) ∨
    ∃ off, resolve (coreOf x) a = .spad (coreOf x) off ∧ resident s (coreOf x) off = true)

/-- Elements that start raise no trap. -/
theorem vecTrap_none {s : State} {x b : Nat} {as : List Word} (pc : Word) (h : ∀ a ∈ as, ElementStarts s x b a) : vecTrap s x pc b as = none := by
  unfold vecTrap
  dsimp only
  split
  case h_1 a hbad =>
    have hspace := List.find?_some hbad
    obtain ⟨-, ⟨va, hdev⟩ | ⟨off, hown, -⟩⟩ := h a (List.mem_of_find?_eq_some hbad)
    · rw [hdev] at hspace
      cases hspace
    · rw [hown] at hspace
      cases hspace
  split
  case h_1 a hodd =>
    have halign := List.find?_some hodd
    simp [(h a (List.mem_of_find?_eq_some hodd)).1] at halign
  split
  case h_1 a habsent =>
    have hslot := List.find?_some habsent
    obtain ⟨-, ⟨va, hdev⟩ | ⟨off, hown, hres⟩⟩ := h a (List.mem_of_find?_eq_some habsent)
    · simp [hdev] at hslot
    · simp [hown, hres] at hslot
  rfl

/-- A vector access whose elements all start, of a thread with no request under way, goes on to its effect. -/
theorem vecAccess_starts {x : Nat} {i : Instr} {f : Fields} {s : State} (eff : List (Nat × Word) → State → Eff)
    (h : ∀ e ∈ vecAddrs (s.ctx x) f, ElementStarts s x (tyBytes f.x.ty) e.2) (hreqs : ∀ r ∈ s.reqs, r.x ≠ x) :
    vecAccess x i f s eff = eff (vecAddrs (s.ctx x) f) s := by
  have htrap : vecTrap s x (s.ctx x).pc (vecElems f.ty).1 ((vecAddrs (s.ctx x) f).map (·.2)) = none := by
    rw [vecElems_size]
    refine vecTrap_none _ fun a ha => ?_
    obtain ⟨e, he, rfl⟩ := List.mem_map.mp ha
    exact h e he
  have hflush : ∀ l : List (Nat × Word), l.foldl (fun t e => flushOwn x e.2 t) s = s := fun l => by
    induction l with
    | nil => rfl
    | cons e l ih => rw [List.foldl_cons, flushOwn_none hreqs, ih]
  unfold vecAccess
  simp only [htrap, hflush, acquirePending_none hreqs, Bool.false_eq_true, if_false]
  split
  · next t hmigrates =>
    obtain ⟨e, he, -⟩ := Option.bind_eq_some_iff.mp hmigrates
    have hfar := List.find?_some he
    obtain ⟨-, ⟨va, hdev⟩ | ⟨off, hown, -⟩⟩ := h e (List.mem_of_find?_eq_some he)
    · simp [hdev] at hfar
    · simp [hown] at hfar
  · rfl

theorem exec_vld (h : Hdr) (f : Fields) (s : State) : exec (.vld h f) s = execVld h f s := by
  rfl

theorem exec_vst (h : Hdr) (f : Fields) (s : State) : exec (.vst h f) s = execVst h f s := by
  rfl

/-- The accesses of a vector load, with the long result of the bits above the lanes under LNS6. -/
def vecLoads (x : Nat) (f : Fields) (es : List (Nat × Word)) (u : State) : State :=
  let w := es.foldl (fun w e => vecLoadOne x f (u.nextId + 1) e w) { u with nextId := u.nextId + 2 }
  if f.x.ty = 14 then inGroup x (u.nextId + 1) w.nextId (startLong x (.v f.d.num 384 128) (some (.ok 0)) w).2 else w

/-- The accesses of a vector store. -/
def vecStores (x : Nat) (f : Fields) (es : List (Nat × Word)) (u : State) : State :=
  es.foldl (fun w e => vecStoreOne x f u.nextId e w) u.fresh.2

section
variable {h : Hdr} {f : Fields} {s : State}

theorem vecAddrs_issued (f : Fields) : vecAddrs ((issued s.cur h s).ctx s.cur) f = vecAddrs (me s) f := by
  rw [issued_ctx_same]
  rfl

theorem elementStarts_issued {b : Nat} {a : Word} (hstarts : ElementStarts s s.cur b a) : ElementStarts (issued s.cur h s) s.cur b a := by
  obtain ⟨halign, hdev | ⟨off, hspace, hres⟩⟩ := hstarts
  · exact ⟨halign, .inl hdev⟩
  · exact ⟨halign, .inr ⟨off, hspace, (resident_issued _ _ _ _ _).trans hres⟩⟩

/-- A vector load whose elements all start makes its accesses. -/
theorem exec_vld_starts (hrun : RunsAlone h s) (hreqs : ∀ r ∈ s.reqs, r.x ≠ s.cur)
    (hstarts : ∀ e ∈ vecAddrs (me s) f, ElementStarts s s.cur (tyBytes f.x.ty) e.2) :
    exec (.vld h f) s = .next (retire s.cur (me s).pc h.sw none
      (if (vecAddrs (me s) f).isEmpty then (vecLoads s.cur f (vecAddrs (me s) f) (issued s.cur h s)).modCtx s.cur fun c => { c with vl := true }
       else vecLoads s.cur f (vecAddrs (me s) f) (issued s.cur h s))) := by
  refine exec_settles (e := .done _) (exec_vld h f s) rfl hrun (.inl rfl) ((vecAccess_starts _ ?_ ?_).trans ?_)
  · rw [vecAddrs_issued]
    exact fun e he => elementStarts_issued (hstarts e he)
  · rw [issued_reqs]
    exact hreqs
  · rw [vecAddrs_issued]
    rfl

/-- A vector store whose elements all start makes its accesses. -/
theorem exec_vst_starts (hrun : RunsAlone h s) (hreqs : ∀ r ∈ s.reqs, r.x ≠ s.cur)
    (hstarts : ∀ e ∈ vecAddrs (me s) f, ElementStarts s s.cur (tyBytes f.x.ty) e.2) :
    exec (.vst h f) s = .next (retire s.cur (me s).pc h.sw none
      (vstSettle s.cur s.nextId (vecStores s.cur f (vecAddrs (me s) f) (issued s.cur h s)))) := by
  refine exec_settles (e := .done _) (exec_vst h f s) rfl hrun (.inl rfl) ((vecAccess_starts _ ?_ ?_).trans ?_)
  · rw [vecAddrs_issued]
    exact fun e he => elementStarts_issued (hstarts e he)
  · rw [issued_reqs]
    exact hreqs
  · rw [vecAddrs_issued, issued_nextId]
    unfold vecStores
    rw [issued_nextId]

end

/-! ### What the accesses of elements keep of a context (R24, R35, R345) -/

theorem inOrder_steady {α : Type} {p : State → α} (hp : Steady p) (k pid cp va : Nat) (acc : Acc) (s : State) : p (inOrder k pid cp va acc s) = p s := by
  unfold inOrder sentBefore
  split
  · exact flushReqs_steady hp _ _
  · rfl

theorem startLong_stillCtx (x y : Nat) (dst : LongDst) (v : Option LongVal) (s : State) :
    stillCtx ((startLong x dst v s).2.ctx y) = stillCtx (s.ctx y) :=
  modCtx_keeps stillCtx s.fresh.2 x (fun c => { c with outstanding := c.outstanding ++ [⟨s.nextId, dst, v, 0⟩] }) (fun _ => rfl) y

theorem inGroup_stillCtx (x y group id : Nat) (s : State) : stillCtx ((inGroup x group id s).ctx y) = stillCtx (s.ctx y) :=
  modCtx_keeps stillCtx s x (fun d => { d with outstanding := d.outstanding.map fun r => if r.id = id then { r with group := group } else r })
    (fun _ => rfl) y

/-- An element of a load changes no register: its value is a long result (R24). -/
theorem vecLoadOne_stillCtx (x y : Nat) (f : Fields) (group : Nat) (e : Nat × Word) (s : State) :
    stillCtx ((vecLoadOne x f group e s).ctx y) = stillCtx (s.ctx y) := by
  have hp := steady_stillCtx y
  unfold vecLoadOne
  dsimp only
  split
  · exact (launchReq_steady hp _ _).trans ((inGroup_stillCtx _ _ _ _ _).trans (startLong_stillCtx _ _ _ _ _))
  · next va _ =>
    have hload := (devLoad_quiet hp.toQuiet (inOrder (coreOf x) (s.ctx x).pid (policyOf (s.ctx x) f) va .read s) (coreOf x) (s.ctx x).pid
      (policyOf (s.ctx x) f) va (vecElems f.ty).1).trans (inOrder_steady hp _ _ _ _ _ _)
    split <;>
    · next hd =>
      rw [hd] at hload
      rw [inGroup_stillCtx, startLong_stillCtx]
      exact hload
  · rfl

theorem vecLoads_stillCtx (x y : Nat) (f : Fields) (es : List (Nat × Word)) (u : State) : stillCtx ((vecLoads x f es u).ctx y) = stillCtx (u.ctx y) := by
  have hfold := foldl_keeps (fun t => stillCtx (t.ctx y)) (fun w e => vecLoadOne x f (u.nextId + 1) e w)
    (fun w e => vecLoadOne_stillCtx x y f _ e w) es { u with nextId := u.nextId + 2 }
  unfold vecLoads
  dsimp only
  split
  · rw [inGroup_stillCtx, startLong_stillCtx]
    exact hfold
  · exact hfold

/-- An element of a store leaves the count of instructions and the loop registers of every context. -/
theorem vecStoreOne_loopState (x y : Nat) (f : Fields) (group : Nat) (e : Nat × Word) (s : State) :
    loopState ((vecStoreOne x f group e s).ctx y) = loopState (s.ctx y) := by
  have hp := (steady_stillCtx y).comp loopState
  have hfail : ∀ (t : TrapInfo) (u : State), loopState ((vstFail x group e.1 t u).ctx y) = loopState (u.ctx y) := fun t u =>
    (congrArg loopState (vstFail_stillCtx x group e.1 y t u) :)
  unfold vecStoreOne
  dsimp only
  split
  · next k off _ =>
    split
    · have hstore := portStore_steady hp s 0 (coreDie k) k off (vecElems f.ty).1 (laneGet ((s.ctx x).vec f.d.num) (8 * (vecElems f.ty).1) e.1)
      split
      · next hd => rw [hd] at hstore; exact hstore
      · next hd => rw [hd] at hstore; exact (hfail _ _).trans hstore
    · exact sendReq_steady hp _ _
  · next va _ =>
    have hstore := (devStore_quiet hp.toQuiet (inOrder (coreOf x) (s.ctx x).pid (policyOf (s.ctx x) f) va .write s) (coreOf x) (some x) (s.ctx x).pid
      (policyOf (s.ctx x) f) va (vecElems f.ty).1 (laneGet ((s.ctx x).vec f.d.num) (8 * (vecElems f.ty).1) e.1)).trans (inOrder_steady hp _ _ _ _ _ _)
    split
    · next hd => rw [hd] at hstore; exact hstore
    · next hd =>
      rw [hd] at hstore
      refine Eq.trans ?_ hstore
      apply modCtx_keeps loopState
      intro c
      rfl
    · next hd => rw [hd] at hstore; exact (hfail _ _).trans hstore
  · rfl

theorem vecStores_loopState (x y : Nat) (f : Fields) (es : List (Nat × Word)) (u : State) : loopState ((vecStores x f es u).ctx y) = loopState (u.ctx y) :=
  foldl_keeps (fun t => loopState (t.ctx y)) (fun w e => vecStoreOne x f u.nextId e w) (fun w e => vecStoreOne_loopState x y f _ e w) es u.fresh.2

/-- The flow goes on past a word whose accesses have kept the loop registers (R75). -/
theorem retired_pc {h : Hdr} {s w : State} (hw : loopState (w.ctx s.cur) = loopState ((issued s.cur h s).ctx s.cur)) :
    ((retire s.cur (me s).pc h.sw none w).ctx s.cur).pc = (fallThrough (me s) (me s).pc).pc := by
  rw [issued_ctx_same] at hw
  obtain ⟨-, hcnt, hbody⟩ : _ ∧ _ ∧ _ := by simpa only [loopState, Prod.mk.injEq] using hw
  rw [retire_ctx_same, Ctx.retire_pc_none]
  exact (fallThrough_flow hcnt hbody _).1

/-! ### Device memory (R153, R155, R165) -/

/-- Aligned device-memory elements start. -/
theorem elementStarts_device {s : State} {x b : Nat} {a : Word} (hdev : a.toNat < 2 ^ 53) (halign : a.toNat % b = 0) : ElementStarts s x b a :=
  ⟨halign, .inl ⟨_, (dataAddressSpaces (coreOf x) a).2.1 hdev⟩⟩

theorem vectorAccessesToDeviceMemory : Claims.VectorAccessesToDeviceMemory := by
  intro h f d s hrun hd hreqs c u es hne hdev
  have hstarts : ∀ e ∈ vecAddrs (me s) f, ElementStarts s s.cur (tyBytes f.x.ty) e.2 := fun e he =>
    elementStarts_device (hdev e he).1 (hdev e he).2
  have hempty : (vecAddrs (me s) f).isEmpty = false := List.isEmpty_eq_false_iff.mpr hne
  refine ⟨?load, ?store⟩
  case load =>
    intro r0 r
    have hr : vecLoads s.cur f (vecAddrs (me s) f) (issued s.cur h s) = r := by
      unfold vecLoads
      simp only [r, r0, u, es, c, issued_nextId, hd]
      rfl
    have hexec := exec_vld_starts hrun hreqs hstarts
    rw [hempty, if_neg (by decide), hr] at hexec
    refine ⟨_, hexec, rfl, rfl, ?_, retired_pc ?_⟩
    · rw [retire_ctx_same, Ctx.retire_outstanding]
    · rw [← hr]
      exact (congrArg loopState (vecLoads_stillCtx s.cur s.cur f _ _) :)
  case store =>
    intro r
    have hr : vecStores s.cur f (vecAddrs (me s) f) (issued s.cur h s) = r := by
      unfold vecStores
      rw [issued_nextId]
    have hexec := exec_vst_starts hrun hreqs hstarts
    rw [hr] at hexec
    have hsettled := vstSettle_stillCtx s.cur s.nextId s.cur r
    refine ⟨_, hexec, ?_, ?_, ?_, retired_pc ?_⟩
    · rw [retire_mem, vstSettle_frame]
    · show (vstSettle s.cur s.nextId r).dies = r.dies
      rw [vstSettle_frame]
    · rw [retire_ctx_same, Ctx.retire_eq]
      exact (congrArg Ctx.deferred hsettled :)
    · rw [← hr] at hsettled ⊢
      exact (congrArg loopState hsettled :).trans (vecStores_loopState s.cur s.cur f _ _)

end Sys2Proof.Proofs
end

section
/-! PROOFS. Vector loads of the own scratchpad (R24, R153, R155, R254). -/

namespace Sys2Proof.Proofs

open Sys2Proof Sys2Proof.Machine Sys2Proof.Claims

/-! ### What path T may read of a word (R254) -/

/-- Nothing keeps an access of the core's own thread from the word at an offset (R160, R162). -/
def PortOpen (s : State) (k off : Nat) : Prop :=
  (s.core k).killed = false ∧ (s.core k).droopAt = none ∧ resident s k off = true ∧ spadBad s k off = false

/-- A value that path T may read of the word at an offset: the word as it stands, or as an entry has it that path T may still read. -/
def Readable (s : State) (k off : Nat) (m : Word) : Prop :=
  m = (s.core k).spad.getD (off / 8 % 32768) 0 ∨
    ∃ e ∈ (s.core k).older, e.word = off / 8 % 32768 ∧ e.readers.testBit 0 = true ∧ m = e.old

/-- Of core `k`, only what its paths may still read has changed, and path T may read nothing that it might not before. -/
def ReadFrom (s t : State) (k : Nat) : Prop :=
  (∃ o, t.core k = { s.core k with older := o }) ∧
    ∀ e ∈ (t.core k).older, e.readers.testBit 0 = true → ∃ q ∈ (s.core k).older, q.word = e.word ∧ q.readers.testBit 0 = true ∧ q.old = e.old

section
variable {s t u : State} {k off : Nat}

theorem ReadFrom.of_cores (h : t.cores = s.cores) : ReadFrom s t k := by
  have hcore : t.core k = s.core k := by rw [State.core, h]; rfl
  exact ⟨⟨(s.core k).older, hcore⟩, fun e he hbit => ⟨e, hcore ▸ he, rfl, hbit, rfl⟩⟩

theorem ReadFrom.trans (hst : ReadFrom s t k) (htu : ReadFrom t u k) : ReadFrom s u k := by
  obtain ⟨⟨o, hcore⟩, holder⟩ := hst
  obtain ⟨⟨o', hcore'⟩, holder'⟩ := htu
  refine ⟨⟨o', by rw [hcore', hcore]⟩, fun e he hbit => ?_⟩
  obtain ⟨q, hq, hword, hqbit, hold⟩ := holder' e he hbit
  obtain ⟨q', hq', hword', hqbit', hold'⟩ := holder q hq hqbit
  exact ⟨q', hq', hword'.trans hword, hqbit', hold'.trans hold⟩

theorem ReadFrom.spad (h : ReadFrom s t k) : (t.core k).spad = (s.core k).spad := by
  obtain ⟨⟨o, hcore⟩, -⟩ := h
  rw [hcore]

theorem ReadFrom.portOpen (h : ReadFrom s t k) (hopen : PortOpen s k off) : PortOpen t k off := by
  obtain ⟨⟨o, hcore⟩, -⟩ := h
  unfold PortOpen resident residOf spadBad
  rw [hcore]
  exact hopen

theorem ReadFrom.readable {m : Word} (h : ReadFrom s t k) (hm : Readable t k off m) : Readable s k off m := by
  obtain hm | ⟨e, he, hword, hbit, rfl⟩ := hm
  · exact .inl (by rw [hm, h.spad])
  · obtain ⟨q, hq, hqword, hqbit, hqold⟩ := h.2 e he hbit
    exact .inr ⟨q, hq, hqword.trans hword, hqbit, hqold.symm⟩

/-- Meeting a word takes readers from entries, and gives none (R254). -/
theorem meetWord_readFrom (m : Nat) : ReadFrom s (meetWord m k off s) k := by
  refine ⟨meetWord_core m k off k s, fun e he hbit => ?_⟩
  unfold meetWord at he
  split at he
  · exact ⟨e, he, rfl, hbit, rfl⟩
  · rw [State.modCore_core_same] at he
    obtain ⟨q, hq, hqe⟩ := List.mem_filterMap.mp he
    split at hqe
    · obtain ⟨rfl, -⟩ := OldWord.without_some hqe
      refine ⟨q, hq, rfl, ?_, rfl⟩
      simp only [Nat.testBit_xor, Nat.testBit_and] at hbit
      cases hr : q.readers.testBit 0
      · rw [hr] at hbit
        exact hbit
      · rfl
    · cases hqe
      exact ⟨e, hq, rfl, hbit, rfl⟩

theorem pathGet_readFrom (p n : Nat) : ReadFrom s (pathGet s p k off n).2 k := by
  unfold pathGet
  split
  · exact .of_cores rfl
  · split
    · exact .of_cores rfl
    · exact (ReadFrom.of_cores rfl).trans (meetWord_readFrom (s := s.free.2) _)

/-- What path T reads is of a value that it may read. -/
theorem pathGet_readable (n : Nat) :
    ∃ m, Readable s k off m ∧ (pathGet s 0 k off n).1 = m.toNat / 2 ^ (8 * (off % 8)) % 2 ^ (8 * n) := by
  have hbits : ∀ m : Word, natBits m.toNat (8 * (off % 8)) (8 * n) = m.toNat / 2 ^ (8 * (off % 8)) % 2 ^ (8 * n) := fun m => by
    rw [natBits, Nat.shiftRight_eq_div_pow]
  obtain hget | ⟨e, he, hword, hbit, hget⟩ := pathGet_value s 0 k off n
  · exact ⟨_, .inl rfl, hget.trans (hbits _)⟩
  · exact ⟨_, .inr ⟨e, he, hword, hbit, rfl⟩, hget.trans (hbits _)⟩

theorem pathGet_frame (p n : Nat) : (pathGet s p k off n).2 = { s with cores := (pathGet s p k off n).2.cores, freeCtr := (pathGet s p k off n).2.freeCtr } := by
  unfold pathGet
  split
  · rfl
  · split
    · rfl
    · obtain h | ⟨o, h⟩ := meetWord_frame (2 ^ p) k off s.free.2 <;> rw [h] <;> rfl

/-- A plain load at an open port answers what path T reads (R160, R254). -/
theorem performReq_load {r : Req} (hop : r.op = .load) (hhome : r.home = .spad k off)
    (hfence : fencedFrom s (coreDie r.src) (coreDie k) = false) (hopen : PortOpen s k off) (hacq : r.acq = 0) :
    performReq r s = .ok (replyReq r (.ok (extendTy r.ty (pathGet s 0 k off r.size).1).toNat) (pathGet s 0 k off r.size).2) := by
  obtain ⟨hlive, hdroop, hres, hbad⟩ := hopen
  have heligible : r.eligible s k off = true := by simp only [Req.eligible, hop]
  unfold performReq
  rw [hhome]
  simp only [hfence, hop, hlive, hdroop, hres, hbad, Bool.false_eq_true, if_false, Option.isSome_none, Bool.not_true, Bool.false_and]
  unfold portDo
  rw [if_pos heligible]
  simp only [spadPerform, hop, hacq, if_true, finishReq_plain hacq, ReqOp.changes, Bool.false_eq_true, if_false]

end

/-! ### One element of a load -/

/-- Where element `i` of a load goes: its lane of D, or under LNS6 its byte (R24). -/
def elemDst (f : Fields) (i : Nat) : LongDst :=
  if f.x.ty = 14 then .v6 f.d.num (8 * i) else .v f.d.num (8 * tyBytes f.x.ty * i) (8 * tyBytes f.x.ty)

/-- A long result with the number `id` has its value, and its group. -/
def answered (group id : Nat) (v : LongVal) (r : LongRes) : LongRes := if r.id = id then { r with group := group, val := some v } else r

/-- The context holds a long result for a destination with its value, under a number that has been given out. -/
def Holds (s : State) (x : Nat) (dst : LongDst) (v : LongVal) : Prop :=
  ∃ r ∈ (s.ctx x).outstanding, r.id < s.nextId ∧ r.dst = dst ∧ r.val = some v

theorem tyBytes_le (ty : Nat) : tyBytes ty ≤ 8 := by
  unfold tyBytes
  split <;> decide

/-- The bytes of an element are its word's. -/
theorem extendTy_bytes {n b : Nat} (hb : b ≤ 8) (hn : n < 2 ^ (8 * b)) : (extendTy 7 n).toNat = n := by
  have hlt : n < 2 ^ 64 := hn.trans_le (Nat.pow_le_pow_right Nat.two_pos (by omega))
  have hwide : extendTy 7 n = BitVec.ofNat 64 (n % 2 ^ 64) := rfl
  rw [hwide, BitVec.toNat_ofNat, Nat.mod_mod, Nat.mod_eq_of_lt hlt]

/-- The request of an element's load of an own word, for the long result that starts next. -/
def elemLoad (x : Nat) (f : Fields) (off : Nat) (a : Word) (s : State) : Req :=
  { mkReq x (s.ctx x) .load (.spad (coreOf x) off) (tyBytes f.x.ty) 7 0 a with lr := some s.nextId }

section
variable {x off : Nat} {f : Fields} {e : Nat × Word} {s : State}

/-- An element of an open own word is loaded at once: one more long result with what path T reads (R153, R254). -/
theorem vecLoadOne_own (group : Nat) (hdual : (s.ctx x).dual = none) (hspace : resolve (coreOf x) e.2 = .spad (coreOf x) off)
    (hopen : PortOpen s (coreOf x) off) :
    ∃ m, Readable s (coreOf x) off m ∧
      let v := LongVal.ok (m.toNat / 2 ^ (8 * (off % 8)) % 2 ^ (8 * tyBytes f.x.ty))
      let t := vecLoadOne x f group e s
      (t.ctx x).outstanding = (s.ctx x).outstanding.map (answered group s.nextId v) ++ [⟨s.nextId, elemDst f e.1, some v, group⟩] ∧
        t.nextId = s.nextId + 1 ∧ t.mem = s.mem ∧ ReadFrom s t (coreOf x) := by
  obtain ⟨u, hu⟩ : ∃ u, u = inGroup x group s.nextId (startLong x (elemDst f e.1) none s).2 := ⟨_, rfl⟩
  have hone : vecLoadOne x f group e s = launchReq (elemLoad x f off e.2 s) u := by
    unfold vecLoadOne
    simp only [hspace, vecElems_size]
    rw [hu]
    rfl
  have huctx : u.ctx x = { s.ctx x with outstanding := ((s.ctx x).outstanding ++ [(⟨s.nextId, elemDst f e.1, none, 0⟩ : LongRes)]).map fun q : LongRes =>
      if q.id = s.nextId then { q with group := group } else q } := by
    rw [hu, inGroup, State.modCtx_ctx_same, startLong_ctx_same]
  have hucores : u.cores = s.cores := by rw [hu]; rfl
  have hread : ReadFrom s u (coreOf x) := .of_cores hucores
  obtain ⟨m, hm, hget⟩ := pathGet_readable (s := u) (k := coreOf x) (off := off) (tyBytes f.x.ty)
  obtain ⟨w, hw⟩ : ∃ w, w = (pathGet u 0 (coreOf x) off (tyBytes f.x.ty)).2 := ⟨_, rfl⟩
  have hwframe : w = { u with cores := w.cores, freeCtr := w.freeCtr } := by rw [hw]; exact pathGet_frame _ _
  have hwctx : w.ctx x = u.ctx x := by rw [hwframe]; rfl
  have hperform : performReq (elemLoad x f off e.2 s) u =
      .ok (replyReq (elemLoad x f off e.2 s) (.ok (m.toNat / 2 ^ (8 * (off % 8)) % 2 ^ (8 * tyBytes f.x.ty))) w) := by
    refine (performReq_load (r := elemLoad x f off e.2 s) rfl rfl (fencedFrom_self _ _) (hread.portOpen hopen) rfl).trans ?_
    have hbytes : extendTy 7 (pathGet u 0 (coreOf x) off (tyBytes f.x.ty)).1 = _ := congrArg (extendTy 7) hget
    show Except.ok (replyReq _ (.ok (extendTy 7 (pathGet u 0 (coreOf x) off (tyBytes f.x.ty)).1).toNat) _) = _
    rw [hbytes, extendTy_bytes (tyBytes_le _) (Nat.mod_lt _ (Nat.two_pow_pos _)), hw]
    rfl
  have hlaunch : launchReq (elemLoad x f off e.2 s) u =
      replyReq (elemLoad x f off e.2 s) (.ok (m.toNat / 2 ^ (8 * (off % 8)) % 2 ^ (8 * tyBytes f.x.ty))) w := by
    have hat : (elemLoad x f off e.2 s).atCore (elemLoad x f off e.2 s).src = true := beq_self_eq_true _
    rw [launchReq, if_pos hat, startReq, hperform]
  have hreply := replyReq_long (r := elemLoad x f off e.2 s) (id := s.nextId) (s := w) rfl rfl
    ((congrArg Ctx.dual (hwctx.trans huctx)).trans hdual) (.ok (m.toNat / 2 ^ (8 * (off % 8)) % 2 ^ (8 * tyBytes f.x.ty)))
  refine ⟨m, hread.readable hm, ?_, ?_, ?_, ?_⟩ <;> rw [hone, hlaunch, hreply]
  · rw [show (elemLoad x f off e.2 s).x = x from rfl, State.modCtx_ctx_same, hwctx, huctx]
    simp only [List.map_append, List.map_map, List.map_cons, List.map_nil, if_true]
    congr 1
    apply List.map_congr_left
    intro q _
    by_cases hq : q.id = s.nextId <;> simp [answered, hq]
  · show w.nextId = s.nextId + 1
    rw [hwframe, hu]
    rfl
  · show w.mem = s.mem
    rw [hwframe, hu]
    rfl
  · exact hread.trans ((hw ▸ pathGet_readFrom 0 _ : ReadFrom u w (coreOf x)).trans (.of_cores rfl))

end

/-! ### All elements of a load -/

/-- An element of an access of the own scratchpad: aligned, with its word open. -/
def OwnElement (s : State) (x b off : Nat) (a : Word) : Prop :=
  resolve (coreOf x) a = .spad (coreOf x) off ∧ a.toNat % b = 0 ∧ PortOpen s (coreOf x) off

theorem ownElement_of_ownWord {s : State} {h : Hdr} {b off : Nat} {a : Word} (hown : OwnWord s a b off) :
    OwnElement (issued s.cur h s) s.cur b off a ∧ ElementStarts s s.cur b a := by
  obtain ⟨⟨hspace, halign, hres, hlive, hdroop, -⟩, hbad⟩ := hown
  refine ⟨⟨hspace, halign, ?_, ?_, (resident_issued _ _ _ _ _).trans hres, ?_⟩, halign, .inr ⟨off, hspace, hres⟩⟩
  · rw [issued_core]
    exact hlive
  · rw [issued_core]
    exact hdroop
  · rw [spadBad, issued_core]
    exact hbad

theorem vecLoads_own {x : Nat} {f : Fields} {off : Nat → Nat} (group : Nat) {es : List (Nat × Word)} {s : State} (hdual : (s.ctx x).dual = none)
    (hown : ∀ e ∈ es, OwnElement s x (tyBytes f.x.ty) (off e.1) e.2) :
    let t := es.foldl (fun w e => vecLoadOne x f group e w) s
    (t.ctx x).outstanding.length = (s.ctx x).outstanding.length + es.length ∧ t.mem = s.mem ∧ ReadFrom s t (coreOf x) ∧
      (∀ dst v, Holds s x dst v → Holds t x dst v) ∧
      ∀ e ∈ es, ∃ m, Readable s (coreOf x) (off e.1) m ∧
        Holds t x (elemDst f e.1) (.ok (m.toNat / 2 ^ (8 * (off e.1 % 8)) % 2 ^ (8 * tyBytes f.x.ty))) := by
  induction es generalizing s with
  | nil => exact ⟨rfl, rfl, .of_cores rfl, fun _ _ h => h, fun e he => absurd he List.not_mem_nil⟩
  | cons e es ih =>
    obtain ⟨hspace, -, hopen⟩ := hown e List.mem_cons_self
    obtain ⟨m, hm, hout, hnext, hmem, hread⟩ := vecLoadOne_own (f := f) group hdual hspace hopen
    have hdual' : ((vecLoadOne x f group e s).ctx x).dual = none :=
      (congrArg Ctx.dual (vecLoadOne_stillCtx x x f group e s)).trans hdual
    obtain ⟨hlength, hmem', hread', hkeeps, hloaded⟩ := ih hdual' fun e' he' => by
      obtain ⟨hspace', halign', hopen'⟩ := hown e' (List.mem_cons_of_mem e he')
      exact ⟨hspace', halign', hread.portOpen hopen'⟩
    refine ⟨?_, hmem'.trans hmem, hread.trans hread', fun dst v hv => hkeeps dst v ?_, fun e' he' => ?_⟩
    · rw [List.foldl_cons, hlength, hout, List.length_append, List.length_map, List.length_singleton, List.length_cons]
      omega
    · obtain ⟨r, hr, hid, hdst, hval⟩ := hv
      refine ⟨r, ?_, by omega, hdst, hval⟩
      rw [hout]
      exact List.mem_append_left _ (List.mem_map.mpr ⟨r, hr, if_neg (by omega)⟩)
    · obtain rfl | he' := List.mem_cons.mp he'
      · refine ⟨m, hm, hkeeps _ _ ⟨⟨s.nextId, elemDst f e'.1, some _, group⟩, ?_, ?_, rfl, rfl⟩⟩
        · rw [hout]
          exact List.mem_append_right _ (List.mem_singleton.mpr rfl)
        · rw [hnext]
          exact Nat.lt_succ_self _
      · obtain ⟨m', hm', hholds⟩ := hloaded e' he'
        exact ⟨m', hread.readable hm', hholds⟩

end Sys2Proof.Proofs
end

section
/-! PROOFS. Vector stores to the own scratchpad, and the end of both accesses (R153, R155, R160, R254). -/

namespace Sys2Proof.Proofs

open Sys2Proof Sys2Proof.Machine Sys2Proof.Claims

/-! ### Elements within words (R153, R156, R159) -/

theorem tyBytes_cases (ty : Nat) : tyBytes ty = 1 ∨ tyBytes ty = 2 ∨ tyBytes ty = 4 ∨ tyBytes ty = 8 := by
  unfold tyBytes
  split <;> decide

/-- An aligned element lies within one word. -/
theorem aligned_fits {ty off : Nat} (halign : off % tyBytes ty = 0) : off % 8 + tyBytes ty ≤ 8 := by
  obtain hb | hb | hb | hb := tyBytes_cases ty <;> rw [hb] at halign ⊢ <;> omega

/-- Two aligned elements of one word share no bit. -/
theorem aligned_apart {ty off off' : Nat} (halign : off % tyBytes ty = 0) (halign' : off' % tyBytes ty = 0) (hword : off' / 8 = off / 8) (hne : off' ≠ off) :
    8 * (off % 8) + 8 * tyBytes ty ≤ 8 * (off' % 8) ∨ 8 * (off' % 8) + 8 * tyBytes ty ≤ 8 * (off % 8) := by
  obtain hb | hb | hb | hb := tyBytes_cases ty <;> rw [hb] at halign halign' ⊢ <;> omega

/-- An aligned address of a scratchpad names an aligned offset below its size. -/
theorem off_aligned {k c off ty : Nat} {a : Word} (hspace : resolve k a = .spad c off) (halign : a.toNat % tyBytes ty = 0) :
    off % tyBytes ty = 0 ∧ off / 8 % 32768 = off / 8 := by
  have hoff := off_of_resolve hspace
  refine ⟨?_, by omega⟩
  obtain hb | hb | hb | hb := tyBytes_cases ty <;> rw [hb] at halign ⊢ <;> omega

/-- Putting a field leaves the bits that it does not cover. -/
theorem natBits_setFld_apart {w : Word} {lo len n lo' len' : Nat} (h : lo + len ≤ lo' ∨ lo' + len' ≤ lo) :
    natBits (setFld w lo len n).toNat lo' len' = natBits w.toNat lo' len' := by
  apply Nat.eq_of_testBit_eq
  intro j
  simp only [natBits, Nat.testBit_mod_two_pow, Nat.testBit_shiftRight, BitVec.testBit_toNat, setFld, put, BitVec.getLsbD_or, BitVec.getLsbD_and,
    BitVec.getLsbD_not, BitVec.getLsbD_ofNat, Nat.testBit_shiftLeft, Nat.testBit_two_pow_sub_one]
  by_cases hj : j < len'
  · by_cases h64 : lo' + j < 64
    · have hout : ¬ (lo ≤ lo' + j ∧ lo' + j - lo < len) := by omega
      by_cases hle : lo ≤ lo' + j
      · simp [hj, h64, hle, show ¬ lo' + j - lo < len from fun hlt => hout ⟨hle, hlt⟩]
      · simp [hj, h64, hle]
    · simp [hj, h64, BitVec.getLsbD_of_ge w (lo' + j) (by omega)]
  · simp [hj]

/-! ### A store at a port without waiters -/

theorem steady_cur : Steady State.cur where
  toQuiet := quiet_stillRest.comp State.cur
  port _ _ _ _ := rfl
  inFlight _ _ := rfl

/-- What a store at the port of core `k` keeps: the port is as open as before and has no waiter, and no context and no byte of memory has changed. -/
structure PortKept (s t : State) (k : Nat) : Prop where
  opens : ∀ off, PortOpen s k off → PortOpen t k off
  waiters : (t.core k).waiters = []
  ctx : ∀ y, t.ctx y = s.ctx y
  mem : t.mem = s.mem
  cur : t.cur = s.cur

theorem PortKept.trans {s t u : State} {k : Nat} (hst : PortKept s t k) (htu : PortKept t u k) : PortKept s u k where
  opens off h := htu.opens off (hst.opens off h)
  waiters := htu.waiters
  ctx y := (htu.ctx y).trans (hst.ctx y)
  mem := htu.mem.trans hst.mem
  cur := htu.cur.trans hst.cur

section
variable {r : Req} {k off : Nat} {s : State}

/-- What of the core such a store leaves, and how it changes the rest that an access at the port looks at. -/
theorem storedAt_core (hwait : (s.core k).waiters = []) :
    let i := off / 8 % 32768
    let c := (spadChanged k off (storedAt r k off s)).core k
    (c.killed = (s.core k).killed ∧ c.droopAt = (s.core k).droopAt ∧ c.waiters = (s.core k).waiters) ∧
      c.spad = (s.core k).spad.putD i 0 (setFld ((s.core k).spad.getD i 0) (8 * (off % 8)) (8 * r.size) r.val) ∧
      c.resid = (s.core k).resid.put (slotOf off) { ((s.core k).resid.getD (slotOf off) Resid.reset) with dt := true } ∧
      c.badSpad = if r.size = 8 then (s.core k).badSpad.filter (· ≠ i) else (s.core k).badSpad := by
  obtain ⟨o, ho⟩ := leaveWord_core 0 k off k s
  obtain ⟨hit, hmarked⟩ : ∃ hit, spadChanged k off (storedAt r k off s) = markHeld hit (spadSet (leaveWord 0 k off s) k off r.size r.val) :=
    ⟨_, spadWrite_alone (by rw [ho]; exact hwait) _ _ _⟩
  have hcore := (quiet_stillCore k).mark hit (spadSet (leaveWord 0 k off s) k off r.size r.val)
  rw [← hmarked, spadSet, State.modCore_core_same, ho] at hcore
  generalize (spadChanged k off (storedAt r k off s)).core k = c at hcore ⊢
  exact ⟨⟨(congrArg Core.killed hcore :), (congrArg Core.droopAt hcore :), (congrArg Core.waiters hcore :)⟩, (congrArg Core.spad hcore :),
    (congrArg Core.resid hcore :), (congrArg Core.badSpad hcore :)⟩

theorem storedAt_portOpen {off' : Nat} (hwait : (s.core k).waiters = []) (hopen : PortOpen s k off') :
    PortOpen (spadChanged k off (storedAt r k off s)) k off' := by
  obtain ⟨⟨hlive', hdroop', -⟩, -, hresid, hlist⟩ := storedAt_core (r := r) (off := off) hwait
  obtain ⟨hlive, hdroop, hres, hbad⟩ := hopen
  refine ⟨hlive'.trans hlive, hdroop'.trans hdroop, ?_, ?_⟩
  · rw [resident, residOf] at hres ⊢
    rw [hresid, SMap.getD_put]
    split
    · next hslot => rwa [hslot] at hres
    · exact hres
  · rw [spadBad, List.contains_eq_mem, decide_eq_false_iff_not] at hbad ⊢
    rw [hlist]
    split
    · exact fun hmem => hbad (List.mem_of_mem_filter hmem)
    · exact hbad

theorem storedAt_portKept (hwait : (s.core k).waiters = []) (hfit : off % 8 + r.size ≤ 8) : PortKept s (spadChanged k off (storedAt r k off s)) k := by
  obtain ⟨-, -, hctx, hmem, -⟩ := storedAt_alone (r := r) hwait hfit
  obtain ⟨⟨-, -, hwait'⟩, -⟩ := storedAt_core (r := r) (off := off) hwait
  exact ⟨fun off' => storedAt_portOpen hwait, hwait'.trans hwait, hctx, hmem,
    (spadChanged_steady steady_cur _ _ _).trans ((spadSet_steady steady_cur _ _ _ _ _).trans (leaveWord_steady steady_cur _ _ _ _))⟩

/-- A store leaves the aligned elements of its size beside its own. -/
theorem storedAt_apart {ty off' : Nat} (hwait : (s.core k).waiters = []) (hsize : r.size = tyBytes ty) (halign : off % tyBytes ty = 0)
    (halign' : off' % tyBytes ty = 0) (hword : off / 8 % 32768 = off / 8) (hword' : off' / 8 % 32768 = off' / 8) (hne : off' ≠ off) :
    spadGet (spadChanged k off (storedAt r k off s)) k off' (tyBytes ty) = spadGet s k off' (tyBytes ty) := by
  obtain ⟨-, hspad, -⟩ := storedAt_core (r := r) (off := off) hwait
  rw [spadGet, spadWord, hspad, SMap.getD_putD, hword, hword']
  split
  · next hsame =>
    rw [hsize, natBits_setFld_apart (aligned_apart halign halign' hsame hne), spadGet, spadWord, hword', hsame]
  · rw [spadGet, spadWord, hword']

end

/-! ### The elements of a store -/

/-- What an element's store asks for. -/
def elemStore (x : Nat) (f : Fields) (off : Nat) (e : Nat × Word) (s : State) : Req :=
  mkReq x (s.ctx x) .store (.spad (coreOf x) off) (tyBytes f.x.ty) 7 (laneGet ((s.ctx x).vec f.d.num) (8 * tyBytes f.x.ty) e.1) e.2

/-- An element of an open own word is stored at once (R153, R155). -/
theorem vecStoreOne_own {x off : Nat} {f : Fields} {e : Nat × Word} {s : State} (group : Nat)
    (hown : OwnElement s x (tyBytes f.x.ty) off e.2) :
    vecStoreOne x f group e s = spadChanged (coreOf x) off (storedAt (elemStore x f off e s) (coreOf x) off s) := by
  obtain ⟨hspace, -, hlive, hdroop, hres, hbad⟩ := hown
  unfold vecStoreOne portStore
  simp only [hspace, if_true, vecElems_size, show f.ty = f.x.ty from rfl, portErr_none hlive hdroop hres hbad]
  rfl

/-- The elements of a store, each written where it lies, and nothing else (R153, R155). -/
theorem vecStores_own {x : Nat} {f : Fields} {off : Nat → Nat} (group : Nat) {es : List (Nat × Word)} {s : State}
    (hwait : (s.core (coreOf x)).waiters = []) (hown : ∀ e ∈ es, OwnElement s x (tyBytes f.x.ty) (off e.1) e.2)
    (happart : es.Pairwise fun p q => off p.1 ≠ off q.1) :
    let t := es.foldl (fun w e => vecStoreOne x f group e w) s
    PortKept s t (coreOf x) ∧
      (∀ o, o % tyBytes f.x.ty = 0 → o / 8 % 32768 = o / 8 → (∀ e ∈ es, off e.1 ≠ o) →
        spadGet t (coreOf x) o (tyBytes f.x.ty) = spadGet s (coreOf x) o (tyBytes f.x.ty)) ∧
      (∀ e ∈ es, spadGet t (coreOf x) (off e.1) (tyBytes f.x.ty) = Claims.lane ((s.ctx x).vec f.d.num) (8 * tyBytes f.x.ty) e.1) ∧
      ∀ j, (∀ e ∈ es, off e.1 / 8 ≠ j) → (t.core (coreOf x)).spad.getD j 0 = (s.core (coreOf x)).spad.getD j 0 := by
  induction es generalizing s with
  | nil => exact ⟨⟨fun _ h => h, hwait, fun _ => rfl, rfl, rfl⟩, fun _ _ _ _ => rfl, fun e he => absurd he List.not_mem_nil, fun _ _ => rfl⟩
  | cons e es ih =>
    obtain ⟨hfirst, happart⟩ := List.pairwise_cons.mp happart
    have howne := hown e List.mem_cons_self
    obtain ⟨halign, hword⟩ := off_aligned howne.1 howne.2.1
    have hfit := aligned_fits halign
    have hone := vecStoreOne_own group howne
    obtain ⟨-, hstored, -, -, hothers⟩ := storedAt_alone (r := elemStore x f (off e.1) e s) hwait hfit
    have hkept := storedAt_portKept (r := elemStore x f (off e.1) e s) hwait hfit
    have hbeside := fun o ho ho' => storedAt_apart (r := elemStore x f (off e.1) e s) (ty := f.x.ty) (off' := o) hwait rfl halign ho hword ho'
    rw [← hone] at hstored hothers hkept hbeside
    obtain ⟨hkept', hbeside', hstored', hothers'⟩ := ih hkept.waiters (fun e' he' => by
      obtain ⟨hspace, halign', hopen⟩ := hown e' (List.mem_cons_of_mem e he')
      exact ⟨hspace, halign', hkept.opens _ hopen⟩) happart
    refine ⟨hkept.trans hkept', fun o ho ho' hne => ?_, fun e' he' => ?_, fun j hj => ?_⟩
    · obtain ⟨hne, hrest⟩ := List.forall_mem_cons.mp hne
      exact (hbeside' o ho ho' hrest).trans (hbeside o ho ho' (Ne.symm hne))
    · obtain rfl | he' := List.mem_cons.mp he'
      · rw [List.foldl_cons, hbeside' _ halign hword fun q hq => (hfirst q hq).symm]
        exact hstored.trans ((congrArg (· % 2 ^ (8 * tyBytes f.x.ty)) (laneGet_eq _ _ _)).trans (Nat.mod_eq_of_lt (lane_lt _ _ _)))
      · rw [List.foldl_cons, hstored' e' he', hkept.ctx]
    · obtain ⟨hne, hrest⟩ := List.forall_mem_cons.mp hj
      exact (hothers' j hrest).trans (hothers j (by omega))

/-! ### The accesses as a whole -/

/-- The accesses of a load: a long result for each element, with a value that path T may read, and under LNS6 one for the bits above the lanes. -/
theorem vecLoads_gives {x : Nat} {f : Fields} {off : Nat → Nat} {es : List (Nat × Word)} {u : State} (hdual : (u.ctx x).dual = none)
    (hown : ∀ e ∈ es, OwnElement u x (tyBytes f.x.ty) (off e.1) e.2) :
    let t := vecLoads x f es u
    (t.ctx x).outstanding.length = (u.ctx x).outstanding.length + es.length + (if f.x.ty = 14 then 1 else 0) ∧ t.mem = u.mem ∧
      (t.core (coreOf x)).spad = (u.core (coreOf x)).spad ∧
      ∀ e ∈ es, ∃ r ∈ (t.ctx x).outstanding, r.dst = elemDst f e.1 ∧
        ∃ m, Readable u (coreOf x) (off e.1) m ∧ r.val = some (.ok (m.toNat / 2 ^ (8 * (off e.1 % 8)) % 2 ^ (8 * tyBytes f.x.ty))) := by
  obtain ⟨hlength, hmem, hread, -, hloaded⟩ := vecLoads_own (s := { u with nextId := u.nextId + 2 }) (u.nextId + 1) hdual hown
  unfold vecLoads
  dsimp only
  split
  · refine ⟨?_, hmem, hread.spad, fun e he => ?_⟩
    · rw [inGroup, State.modCtx_ctx_same, startLong_ctx_same, List.length_map, List.length_append, hlength]
      rfl
    · obtain ⟨m, hm, r, hr, -, hdst, hval⟩ := hloaded e he
      obtain ⟨id, hid⟩ : ∃ id, id = (es.foldl (fun w e => vecLoadOne x f (u.nextId + 1) e w) { u with nextId := u.nextId + 2 }).nextId := ⟨_, rfl⟩
      refine ⟨if r.id = id then { r with group := u.nextId + 1 } else r, ?_, ?_, m, hm, ?_⟩
      · rw [inGroup, State.modCtx_ctx_same, startLong_ctx_same, hid]
        exact List.mem_map_of_mem (List.mem_append_left _ hr)
      · rw [apply_ite LongRes.dst, ite_self, hdst]
      · rw [apply_ite LongRes.val, ite_self, hval]
  · refine ⟨hlength, hmem, hread.spad, fun e he => ?_⟩
    obtain ⟨m, hm, r, hr, -, hdst, hval⟩ := hloaded e he
    exact ⟨r, hr, hdst, m, hm, hval⟩

/-- The enabled elements come each once. -/
theorem vecAddrs_pairwise {c : Ctx} {f : Fields} {off : Nat → Nat}
    (hoff : ∀ p ∈ vecAddrs c f, ∀ q ∈ vecAddrs c f, p.1 ≠ q.1 → off p.1 ≠ off q.1) : (vecAddrs c f).Pairwise fun p q => off p.1 ≠ off q.1 := by
  have hrising : (vecAddrs c f).Pairwise fun p q => p.1 ≠ q.1 :=
    List.pairwise_map.mpr (List.nodup_range.filter _)
  exact hrising.imp_of_mem fun hp hq => hoff _ hp _ hq

section
variable {h : Hdr} {f : Fields} {d : BitVec 5} {off : Nat → Nat} {s : State}

/-- What path T may read of an own word once the access has issued, it sees (R254). -/
theorem seen_of_readable {o : Nat} {m : Word} (hword : o / 8 % 32768 = o / 8) (hm : Readable (issued s.cur h s) (coreOf s.cur) o m) : Seen s o m := by
  rw [Readable, issued_core, hword] at hm
  exact hm

theorem vld_own (hrun : RunsAlone h s) (hd : f.d = .v d) (hreqs : ∀ r ∈ s.reqs, r.x ≠ s.cur)
    (hown : ∀ e ∈ vecAddrs (me s) f, OwnWord s e.2 (tyBytes f.x.ty) (off e.1)) :
    Ends (.vld h f) s fun t => (t.ctx s.cur).pc = (fallThrough (me s) (me s).pc).pc ∧ (t.ctx s.cur).v = (me s).v ∧
      (t.core (coreOf s.cur)).spad = (Claims.core s).spad ∧ (∀ a, memByte t.mem a = memByte s.mem a) ∧
      (t.ctx s.cur).outstanding.length = (me s).outstanding.length + (vecAddrs (me s) f).length + (if f.x.ty = 14 then 1 else 0) ∧
      ∀ e ∈ vecAddrs (me s) f, ∃ r ∈ (t.ctx s.cur).outstanding,
        r.dst = (if f.x.ty = 14 then .v6 d.toNat (8 * e.1) else .v d.toNat (8 * tyBytes f.x.ty * e.1) (8 * tyBytes f.x.ty)) ∧
        ∃ m, Seen s (off e.1) m ∧ r.val = some (.ok (m.toNat / 2 ^ (8 * (off e.1 % 8)) % 2 ^ (8 * tyBytes f.x.ty))) := by
  have hself := issued_ctx_same s.cur h s
  obtain ⟨w, hw⟩ : ∃ w, w = vecLoads s.cur f (vecAddrs (me s) f) (issued s.cur h s) := ⟨_, rfl⟩
  have hdual : ((issued s.cur h s).ctx s.cur).dual = none := (congrArg Ctx.dual hself).trans hrun.2
  obtain ⟨hlength, hmem, hspad, hloaded⟩ := vecLoads_gives hdual fun e he => (ownElement_of_ownWord (h := h) (hown e he)).1
  have hstill := vecLoads_stillCtx s.cur s.cur f (vecAddrs (me s) f) (issued s.cur h s)
  rw [← hw] at hlength hmem hspad hloaded hstill
  obtain ⟨v, hexec, hout, hvec, hloop, hcores, hmemv⟩ : ∃ v, exec (.vld h f) s = .next (retire s.cur (me s).pc h.sw none v) ∧
      (v.ctx s.cur).outstanding = (w.ctx s.cur).outstanding ∧ (v.ctx s.cur).v = (w.ctx s.cur).v ∧
      loopState (v.ctx s.cur) = loopState (w.ctx s.cur) ∧ v.cores = w.cores ∧ v.mem = w.mem := by
    refine ⟨_, exec_vld_starts hrun hreqs fun e he => (ownElement_of_ownWord (h := h) (hown e he)).2, ?_⟩
    rw [← hw]
    split
    · rw [State.modCtx_ctx_same]
      exact ⟨rfl, rfl, rfl, rfl, rfl⟩
    · exact ⟨rfl, rfl, rfl, rfl, rfl⟩
  have houtput : ((retire s.cur (me s).pc h.sw none v).ctx s.cur).outstanding = (w.ctx s.cur).outstanding := by
    rw [retire_ctx_same, Ctx.retire_outstanding, hout]
  refine ⟨_, hexec, retired_pc (hloop.trans (congrArg loopState hstill :)), ?_, ?_, fun a => ?_, ?_, fun e he => ?_⟩
  · rw [retire_ctx_same, Ctx.retire_eq]
    exact hvec.trans ((congrArg Ctx.v hstill :).trans (congrArg Ctx.v hself :))
  · rw [retire_core, State.core, hcores]
    exact hspad.trans (issued_core_spad _ _ _ _)
  · rw [retire_mem, hmemv, hmem, issued_mem]
  · rw [houtput, hlength, hself]
  · obtain ⟨r, hr, hdst, m, hm, hval⟩ := hloaded e he
    obtain ⟨⟨hspace, halign, -⟩, -⟩ := hown e he
    refine ⟨r, by rwa [houtput], ?_, m, seen_of_readable (off_aligned hspace halign).2 hm, hval⟩
    rw [hdst, elemDst, hd]
    rfl

theorem vst_own (hrun : RunsAlone h s) (hd : f.d = .v d) (hreqs : ∀ r ∈ s.reqs, r.x ≠ s.cur)
    (hown : ∀ e ∈ vecAddrs (me s) f, OwnWord s e.2 (tyBytes f.x.ty) (off e.1)) (hwait : (Claims.core s).waiters = [])
    (hoff : ∀ p ∈ vecAddrs (me s) f, ∀ q ∈ vecAddrs (me s) f, p.1 ≠ q.1 → off p.1 ≠ off q.1) :
    Ends (.vst h f) s fun t => Advances h (me s) (t.ctx s.cur) ∧ (t.ctx s.cur).v = (me s).v ∧
      (∀ e ∈ vecAddrs (me s) f,
        Claims.ownBytes t (off e.1) (tyBytes f.x.ty) = Claims.lane ((me s).vec d.toNat) (8 * tyBytes f.x.ty) e.1) ∧
      (∀ j, (∀ e ∈ vecAddrs (me s) f, off e.1 / 8 ≠ j) → (t.core (coreOf s.cur)).spad.getD j 0 = (Claims.core s).spad.getD j 0) ∧
      (∀ a, memByte t.mem a = memByte s.mem a) := by
  have hself := issued_ctx_same s.cur h s
  have hwait' : ((issued s.cur h s).core (coreOf s.cur)).waiters = [] := by rw [issued_core]; exact hwait
  obtain ⟨w, hw⟩ : ∃ w, w = vecStores s.cur f (vecAddrs (me s) f) (issued s.cur h s) := ⟨_, rfl⟩
  obtain ⟨hkept, -, hstored, hothers⟩ := vecStores_own (s := (issued s.cur h s).fresh.2) (issued s.cur h s).nextId hwait'
    (fun e he => (ownElement_of_ownWord (h := h) (hown e he)).1) (vecAddrs_pairwise hoff)
  have hwfold : w = (vecAddrs (me s) f).foldl (fun t e => vecStoreOne s.cur f (issued s.cur h s).nextId e t) (issued s.cur h s).fresh.2 := hw
  rw [← hwfold] at hkept hstored hothers
  obtain ⟨v, hv⟩ : ∃ v, v = vstSettle s.cur s.nextId w := ⟨_, rfl⟩
  have hframe : v = { w with ctxs := v.ctxs } := by rw [hv]; exact vstSettle_frame _ _ _
  have hstill : stillCtx (v.ctx s.cur) = stillCtx ((issued s.cur h s).ctx s.cur) := by
    rw [hv, vstSettle_stillCtx, hkept.ctx]
    rfl
  have hexec := exec_vst_starts hrun hreqs fun e he => (ownElement_of_ownWord (h := h) (hown e he)).2
  rw [← hw, ← hv] at hexec
  have hcore : (retire s.cur (me s).pc h.sw none v).core (coreOf s.cur) = w.core (coreOf s.cur) := by
    rw [retire_core, hframe]
    rfl
  have hcur : (retire s.cur (me s).pc h.sw none v).cur = s.cur := by
    show v.cur = s.cur
    rw [hframe]
    exact hkept.cur.trans (issued_cur _ _ _)
  rw [hself] at hstill
  refine ⟨_, hexec, ?_, ?_, fun e he => ?_, fun j hj => ?_, fun a => ?_⟩
  · rw [retire_ctx_same]
    exact advances_retire (d := v.ctx s.cur) (congrArg Ctx.icount hstill :) (congrArg Ctx.loopcnt hstill :) (congrArg Ctx.lbody hstill :) _
  · rw [retire_ctx_same, Ctx.retire_eq]
    exact (congrArg Ctx.v hstill :)
  · obtain ⟨⟨hspace, halign, -⟩, -⟩ := hown e he
    have hgot := hstored e he
    rw [spadGet, spadWord, (off_aligned hspace halign).2, natBits, Nat.shiftRight_eq_div_pow, hd] at hgot
    rw [Claims.ownBytes, ownSpad, Claims.core, hcur, hcore]
    refine hgot.trans ?_
    exact congrArg (fun r => Claims.lane r _ _) (vec_issued _)
  · rw [hcore]
    exact (hothers j hj).trans (congrArg (·.getD j 0) (issued_core_spad _ _ _ _))
  · have hmem : v.mem = s.mem := by
      rw [hframe]
      exact hkept.mem.trans (issued_mem _ _ _)
    rw [retire_mem, hmem]

end

theorem vectorLoadsAndStores : Claims.VectorLoadsAndStores := by
  intro h f d off s hrun hd hreqs c b es hown
  exact ⟨vld_own hrun hd hreqs hown, fun hwait hoff => vst_own hrun hd hreqs hown hwait hoff⟩

/-- Settles O27: element by element, at the addresses of the enabled elements, each load one long result and each store its bytes. -/
theorem vectorAccesses : Obligations.VectorAccesses :=
  ⟨vectorElementAddresses, vectorLoadsAndStores, vectorAccessesToDeviceMemory⟩

end Sys2Proof.Proofs
end

section
/-! PROOFS. The write-back of a dirty line may answer a waiter registered on a word of it, for an element of a VST of the executing thread, whose
trap is then pending (O17, O21). -/

namespace Sys2Proof.Proofs

open Sys2Proof Sys2Proof.Machine Sys2Proof.Claims

/-! ### A registered JOIN that stands for an element of a VST

The statements speak of every state. A JOIN is no element of a VST, so no word registers one that is; a state may hold one all the same. Its word
is 0: any write-back that touches it answers it, and no element of the VST is then under way. -/

/-- A JOIN for an element of VST 0 of context 0, registered on the first word of device memory. -/
def vstJoin : Req := ⟨1, 0, 0, 0, .join, .dev 0, 8, 7, 0, 0, none, false, 0, false, 0, 0, some (0, 0), false, false, false, 0⟩

/-- The trap that an element of the VST has met. -/
def vstTrap : TrapInfo := ⟨0x05, none, 0, none, 0⟩

/-- A Ready context with that VST, and with W1 at the start of its core's scratchpad. -/
def vstThread : Ctx := { Ctx.reset with run := .ready, vstFails := [(0, (0, vstTrap))] }.setW 1 0x30_0000_0000_0000

/-- How many traps are pending in context 0 after a step. -/
def trapsPending (o : Out) : Option Nat :=
  match o with
  | .next t => some (t.ctx 0).pend.length
  | _ => none

/-! ### UNBIND over a descriptor in a dirty copy (R178, R351) -/

/-- Die 0 holds a copy of line 0, with one dirty byte, in which the descriptor of PID 0 lies. -/
def dirtyDescriptor : State :=
  { State.reset with
    ctxs := [(0, vstThread)]
    dies := [(0, { Die.reset with waiters := [vstJoin], llc := [(0, ⟨0, 1, false, false⟩)] })] }

/-- No operand but W0. -/
def onlyW0 : Fields := ⟨.w 0, .none, .none, 0, .none⟩

/-- What the read of the descriptor answers. -/
def descriptorRead : Except Nat (Nat × Nat) × State :=
  readDesc (issued dirtyDescriptor.cur plainHdr dirtyDescriptor) (coreDie (coreOf dirtyDescriptor.cur)) (me dirtyDescriptor).pid

/-- The descriptor is not valid. -/
theorem descriptorRead_fails : ∃ e v, descriptorRead = (.error e, v) := by
  have hinvalid : descriptorRead.1.isOk = false := by decide +kernel
  rcases hread : descriptorRead with ⟨e | r, v⟩
  · exact ⟨e, v, rfl⟩
  · rw [hread] at hinvalid
    cases hinvalid

theorem unbind_dirtyDescriptor_posts : trapsPending (exec (.unbind plainHdr onlyW0) dirtyDescriptor) = some 2 := by
  decide +kernel

/-- Refutes O21: in `dirtyDescriptor` the read of the descriptor writes the die's dirty copy back, which makes the trap of the VST pending before the
trap of the UNBIND; the statement has the UNBIND's alone. -/
theorem not_bindingsAddAndRemoveEntries : ¬ Obligations.BindingsAddAndRemoveEntries := by
  intro hclaims
  obtain ⟨-, hfails, -⟩ := hclaims plainHdr onlyW0 0 dirtyDescriptor (by decide) rfl (by decide)
  obtain ⟨e, v, hread⟩ := descriptorRead_fails
  obtain ⟨-, t, ht, hpend⟩ := hfails e v (by decide) (by decide) (by decide) hread
  have hposts := unbind_dirtyDescriptor_posts
  rw [ht, trapsPending, show t.ctx 0 = t.ctx dirtyDescriptor.cur from rfl, hpend] at hposts
  cases hposts

/-! ### AADD.rel over a dirty line of its object (R181, R183) -/

/-- Core 0 holds the line of its scratchpad's first word as one of device memory, with one dirty byte; a leaf of die 0 has it at line 0. -/
def dirtyObject : State :=
  { State.reset with
    ctxs := [(0, vstThread)]
    cores := [(0, { Core.reset with
      resid := [(0, { Resid.reset with v := true })]
      l1 := [⟨0, 2 ^ 46, 0, 1, false, false, none, [], false⟩] })]
    dies := [(0, { Die.reset with waiters := [vstJoin], tlb := [⟨0, 0, false, 0, 2 ^ 40, 1, 0⟩] })] }

/-- AADD.rel of W0 to the word at W1, at the scope of the die. -/
def addRelease : Fields := ⟨.w 0, .w 1, .none, 8, .m 6 3 0 false 0⟩

theorem dirtyObject_ownWord : OwnWord dirtyObject (addr dirtyObject addRelease) 8 0 := by
  decide +kernel

theorem aadd_dirtyObject_posts : trapsPending (exec (.aadd plainHdr addRelease) dirtyObject) = some 1 := by
  decide +kernel

/-- Refutes O17: in `dirtyObject` the release of AADD.rel writes the line back, which makes the trap of the VST pending in the executing context; the
statement has nothing there change but its PC, its counts, its run state and its long results. -/
theorem not_ownScratchpadAtomics : ¬ Obligations.OwnScratchpadAtomics := by
  intro hclaims
  obtain ⟨t, ht, -, hkept, -⟩ := hclaims (.aadd plainHdr addRelease) plainHdr addRelease 0 0 0 dirtyObject (by decide) (by decide)
    (.inl rfl) (by decide) (by decide) dirtyObject_ownWord rfl (by decide +kernel)
  have hpend : (t.ctx dirtyObject.cur).pend = (me dirtyObject).pend := by rw [hkept (.inr fun _ hr => nomatch hr)]
  have hposts := aadd_dirtyObject_posts
  rw [ht, trapsPending, show t.ctx 0 = t.ctx dirtyObject.cur from rfl, hpend] at hposts
  cases hposts

end Sys2Proof.Proofs
end

section
/-! PROOFS. The parcel engine: what a command leaves when it is done, and that writes for a unit keep every slot as resident as it was (O40). -/

namespace Sys2Proof.Proofs

open Sys2Proof Sys2Proof.Machine Sys2Proof.Claims

/-! ### Writes for a unit: what is not kept where they write

Besides what is steady, residency itself is kept, since a write of a word marks its slot as written and no more. -/

/-- What is kept by an access, in the state that its answer comes with. -/
theorem keeps_of_answer {α β : Type} {p : State → α} {a : β × State} {b : β} {s t : State} (ha : a = (b, t)) (hkeeps : p a.2 = p s) :
    p t = p s := by
  rwa [ha] at hkeeps

/-- Is a slot of a core resident. -/
def slotResident (k slot : Nat) (s : State) : Bool := (residOf s k slot).v

theorem quiet_slotResident (k slot : Nat) : Quiet (slotResident k slot) :=
  (quiet_stillCore k).comp fun c => (c.resid.getD slot Resid.reset).v

theorem slotResident_modCore (k slot j : Nat) (g : Core → Core) (s : State)
    (hg : ∀ c, ((g c).resid.getD slot Resid.reset).v = (c.resid.getD slot Resid.reset).v) :
    slotResident k slot (s.modCore j g) = slotResident k slot s :=
  modCore_keeps (fun c => (c.resid.getD slot Resid.reset).v) s j g hg k

/-- Marking a slot as written keeps what is resident. -/
theorem getD_put_written (m : SMap Resid) (i slot : Nat) :
    ((m.put i { m.getD i Resid.reset with dt := true }).getD slot Resid.reset).v = (m.getD slot Resid.reset).v := by
  rw [SMap.getD_put]
  split
  · next h => rw [h]
  · rfl

section
variable (k slot : Nat)

theorem spadSet_slotResident (s : State) (c off n v : Nat) : slotResident k slot (spadSet s c off n v) = slotResident k slot s :=
  slotResident_modCore k slot c _ s fun _ => getD_put_written _ _ _

theorem spadSetTag_slotResident (s : State) (c off : Nat) (b : Bool) : slotResident k slot (spadSetTag s c off b) = slotResident k slot s :=
  slotResident_modCore k slot c _ s fun _ => getD_put_written _ _ _

theorem meetWord_slotResident (m c off : Nat) (s : State) : slotResident k slot (meetWord m c off s) = slotResident k slot s := by
  unfold meetWord
  split
  · rfl
  · exact slotResident_modCore k slot c _ s fun _ => rfl

theorem leaveWord_slotResident (p c off : Nat) (s : State) : slotResident k slot (leaveWord p c off s) = slotResident k slot s := by
  unfold leaveWord
  split
  · exact meetWord_slotResident k slot _ _ _ _
  · refine (slotResident_modCore k slot c _ (meetWord (2 ^ p) c off s) ?_).trans (meetWord_slotResident k slot _ _ _ _)
    exact fun _ => rfl

theorem pathGet_slotResident (s : State) (p c off n : Nat) : slotResident k slot (pathGet s p c off n).2 = slotResident k slot s := by
  unfold pathGet
  split
  · rfl
  · split
    · rfl
    · exact meetWord_slotResident k slot _ _ _ _

theorem spadPerform_slotResident (r : Req) (c off : Nat) (s : State) : slotResident k slot (spadPerform r c off s) = slotResident k slot s := by
  have hfinish : ∀ (v : LongVal) (t : State), slotResident k slot (finishReq r v t) = slotResident k slot t :=
    fun v t => finishReq_quiet (quiet_slotResident k slot) r v t
  unfold spadPerform
  dsimp only
  split
  case h_1 =>
    split
    · rw [hfinish, pathGet_slotResident]
    · rw [hfinish, meetWord_slotResident]
  case h_12 => rfl
  all_goals simp only [hfinish, spadSet_slotResident, spadSetTag_slotResident, leaveWord_slotResident, meetWord_slotResident]

theorem spadServe_slotResident (c off n : Nat) (s : State) : slotResident k slot (spadServe c off n s) = slotResident k slot s := by
  induction n generalizing s with
  | zero => rfl
  | succ n ih =>
    unfold spadServe
    split
    · rfl
    · rw [ih, spadPerform_slotResident]
      exact slotResident_modCore k slot c _ s fun _ => rfl

theorem spadChanged_slotResident (c off : Nat) (s : State) : slotResident k slot (spadChanged c off s) = slotResident k slot s :=
  (spadServe_slotResident k slot _ _ _ _).trans ((quiet_slotResident k slot).mark _ _)

theorem portStore_slotResident (s : State) (p d c off n v : Nat) : slotResident k slot (portStore s p d c off n v).2 = slotResident k slot s := by
  unfold portStore
  split
  · rfl
  · exact (spadChanged_slotResident k slot _ _ _).trans
      ((spadSet_slotResident k slot _ _ _ _ _).trans (leaveWord_slotResident k slot _ _ _ _))

theorem pathStore_slotResident (s : State) (p d c pid : Nat) (a : Word) (n v : Nat) :
    slotResident k slot (pathStore s p d c pid a n v).2 = slotResident k slot s := by
  have hq := quiet_slotResident k slot
  unfold pathStore
  split
  · rfl
  · exact portStore_slotResident k slot _ _ _ _ _ _ _
  · have htranslate := translate_quiet hq s d pid
    split
    · next he => exact keeps_of_answer he (htranslate _ _)
    · next g s1 he =>
      have hwrite := (streamWrite_quiet hq s1 d g.pa g.priv n v).trans (keeps_of_answer he (htranslate _ _))
      split <;> (next hw => exact keeps_of_answer hw hwrite)

theorem pathPutGroups_slotResident (s : State) (p d c pid : Nat) (a : Word) (gs : List (List Word)) :
    slotResident k slot (pathPutGroups s p d c pid a gs).2 = slotResident k slot s := by
  induction gs generalizing s a with
  | nil => rfl
  | cons g gs ih =>
    unfold pathPutGroups
    have hstore := pathStore_slotResident k slot s p d c pid a (8 * g.length) (wordsNat g)
    split
    · next he => exact keeps_of_answer he hstore
    · next he => exact (ih _ _).trans (keeps_of_answer he hstore)

theorem unitPutWords_slotResident (s : State) (d c pid : Nat) (a : Word) (ws : List Word) :
    slotResident k slot (unitPutWords s d c pid a ws).2 = slotResident k slot s := pathPutGroups_slotResident k slot _ _ _ _ _ _ _

theorem poisonBack_slotResident (m n : Nat) (back : Word) (s : State) : slotResident k slot (poisonBack m n back s) = slotResident k slot s := by
  apply foldl_keeps (slotResident k slot)
  intro t i
  unfold poisonAt
  split
  · have htranslate := translate_quiet (quiet_slotResident k slot) t (coreDie m) (corePid t m)
    split
    · next g s1 he => exact (keeps_of_answer he (htranslate _ _) : slotResident k slot s1 = _)
    · next he => exact keeps_of_answer he (htranslate _ _)
  · exact slotResident_modCore k slot _ _ _ fun _ => rfl
  · rfl

end

/-! ### A command that is done (R240) -/

/-- What the end of a parcel command leaves of a core. -/
def parcelView (c : Core) : SMap Word × List Nat × SMap Resid × Word × Word := (c.spad, c.badSpad, c.resid, c.pent0, c.pent1)

theorem supPush_parcelView (k typ data : Nat) (s : State) (j : Nat) : parcelView ((supPush k typ data s).core j) = parcelView (s.core j) :=
  modCore_keeps parcelView s k _ (fun c => by dsimp only; split <;> rfl) j

theorem supPush_failure (k typ data : Nat) (s : State) (j : Nat) :
    (((supPush k typ data s).core j).pErr, ((supPush k typ data s).core j).pCode) = ((s.core j).pErr, (s.core j).pCode) :=
  modCore_keeps (fun c => (c.pErr, c.pCode)) s k _ (fun c => by dsimp only; split <;> rfl) j

section
variable (q : Nat) (p : PceCmd) (code : Nat) (s : State)

theorem pceDone_cluster : (pceDone q p code s).cluster q = { s.cluster q with pce := (s.cluster q).pce.drop 1 } := by
  have hpush : ∀ k typ data (t : State), (supPush k typ data t).cluster q = t.cluster q := fun _ _ _ _ => rfl
  unfold pceDone
  dsimp only
  split_ifs <;> simp only [hpush, State.modCore_cluster, State.modCluster_cluster_same]

theorem pceDone_mem : (pceDone q p code s).mem = s.mem := by
  unfold pceDone
  dsimp only
  split_ifs <;> rfl

theorem pceDone_poison : (pceDone q p code s).poison = s.poison := by
  unfold pceDone
  dsimp only
  split_ifs <;> rfl

theorem pceDone_core (j : Nat) : parcelView ((pceDone q p code s).core j) = parcelView (s.core j) := by
  have hfailed : ∀ t : State, parcelView ((t.modCore p.core fun c => { c with pErr := true, pCode := code }).core j) = parcelView (t.core j) :=
    fun t => modCore_keeps parcelView t p.core (fun c => { c with pErr := true, pCode := code }) (fun _ => rfl) j
  unfold pceDone
  dsimp only
  split_ifs <;> simp only [supPush_parcelView, hfailed, State.modCluster_core]

theorem pceDone_spad (j : Nat) : ((pceDone q p code s).core j).spad = (s.core j).spad :=
  congrArg (fun v => v.1) (pceDone_core q p code s j)

theorem pceDone_badSpad (j : Nat) : ((pceDone q p code s).core j).badSpad = (s.core j).badSpad :=
  congrArg (fun v => v.2.1) (pceDone_core q p code s j)

theorem pceDone_residOf (j slot : Nat) : residOf (pceDone q p code s) j slot = residOf s j slot :=
  congrArg (fun v => v.2.2.1.getD slot Resid.reset) (pceDone_core q p code s j)

theorem pceDone_pent (j : Nat) : ((pceDone q p code s).core j).pent0 = (s.core j).pent0 ∧ ((pceDone q p code s).core j).pent1 = (s.core j).pent1 :=
  Prod.ext_iff.1 (congrArg (fun v => v.2.2.2) (pceDone_core q p code s j))

/-- A failure is told with its code. -/
theorem pceDone_failure (hcode : code ≠ 0) : ((pceDone q p code s).core p.core).pErr = true ∧ ((pceDone q p code s).core p.core).pCode = code := by
  have htold : (((pceDone q p code s).core p.core).pErr, ((pceDone q p code s).core p.core).pCode) = (true, code) := by
    unfold pceDone
    dsimp only
    rw [if_neg hcode]
    split_ifs <;> simp only [supPush_failure, State.modCore_core_same]
  exact Prod.ext_iff.1 htold

/-- The issuing core has the command's item, and of its queue nothing else has changed; a failed fill may queue the postmaster's with it. -/
theorem pceDone_wakes {s0 : State} (htgt : p.tgt < 8) (hslot : p.slot < 32) (hfill : p.op ≠ 3 ∨ code = 0)
    (hq : (s.core p.core).supq = (s0.core p.core).supq) (hkept : (s.core p.core).supqKept = (s0.core p.core).supqKept) :
    Wakes s0 (pceDone q p code s) p.core 6 (0x8000 + 32 * p.tgt + p.slot) := by
  have hdata : 0x8000 ||| (p.tgt * 32 + p.slot) = 0x8000 + 32 * p.tgt + p.slot := by
    rw [show (0x8000 : Nat) = 2 ^ 15 * 1 from rfl, ← Nat.two_pow_add_eq_or_of_lt (by omega)]
    omega
  have hnone : ¬(p.op = 3 ∧ code ≠ 0) := by
    rintro ⟨hop, hcode⟩
    exact hfill.elim (· hop) hcode
  unfold pceDone
  dsimp only
  rw [if_neg hnone, hdata]
  refine wakes_supPush (by omega) ?_ ?_
  all_goals split_ifs <;> simp only [State.modCore_core_same, State.modCluster_core, hq, hkept]

end

/-- A command that is done in a state whose queues are those before it. -/
theorem pceEnds_pceDone {q : Nat} {p : PceCmd} {rest : List PceCmd} {code : Nat} {s u : State} (hhead : (u.cluster q).pce = p :: rest)
    (htgt : p.tgt < 8) (hslot : p.slot < 32) (hfill : p.op ≠ 3 ∨ code = 0) (hq : (u.core p.core).supq = (s.core p.core).supq)
    (hkept : (u.core p.core).supqKept = (s.core p.core).supqKept) : Claims.PceEnds s (pceDone q p code u) q p rest code :=
  ⟨by rw [pceDone_cluster, hhead]; rfl, pceDone_wakes q p code u htgt hslot hfill hq hkept, pceDone_failure q p code u⟩

end Sys2Proof.Proofs
end

section
/-! PROOFS. The commands of the parcel engine (O40). -/

namespace Sys2Proof.Proofs

open Sys2Proof Sys2Proof.Machine Sys2Proof.Claims

/-! ### A slot that is filled (R163) -/

theorem getD_foldl_putD {α : Type} [DecidableEq α] (m : SMap α) (base : Nat) (f : Nat → α) (d : α) (n j : Nat) :
    ((List.range n).foldl (fun m i => m.putD (base + i) d (f i)) m).getD j d =
      if base ≤ j ∧ j < base + n then f (j - base) else m.getD j d := by
  induction n with
  | zero => rw [if_neg (by omega)]; rfl
  | succ n ih =>
    rw [List.range_succ, List.foldl_append, List.foldl_cons, List.foldl_nil, SMap.getD_putD, ih]
    by_cases h : j = base + n
    · rw [if_pos h, if_pos (by omega), h, Nat.add_sub_cancel_left]
    · rw [if_neg h]
      exact if_congr (by omega) rfl rfl

/-- The words and the tags are filled alike. -/
theorem foldl_prod {α β γ : Type} (f : α → γ → α) (g : β → γ → β) (l : List γ) (a : α) (b : β) :
    l.foldl (fun (acc : α × β) i => (f acc.1 i, g acc.2 i)) (a, b) = (l.foldl f a, l.foldl g b) := by
  induction l generalizing a b with
  | nil => rfl
  | cons i l ih => exact ih _ _

theorem fillSlot_word (slot : Nat) (ws ts : List Word) (c : Core) {j : Nat} (hj : j < 1024) :
    (fillSlot slot ws ts c).spad.getD (1024 * slot + j) 0 = ws.getD j 0 := by
  have hsplit := foldl_prod (fun m i => SMap.putD m (1024 * slot + i) 0 (ws.getD i 0))
    (fun m i => SMap.putD m (1024 * slot + i) false (bitAt (ts.getD (i / 64) 0) (i % 64))) (List.range 1024) c.spad c.tags
  unfold fillSlot
  dsimp only at hsplit ⊢
  rw [hsplit, getD_foldl_putD, if_pos (by omega), Nat.add_sub_cancel_left]

theorem fillSlot_badSpad (slot : Nat) (ws ts : List Word) (c : Core) {j : Nat} (hj : j < 1024) :
    1024 * slot + j ∉ (fillSlot slot ws ts c).badSpad := by
  intro h
  obtain ⟨-, hne⟩ := List.mem_filter.1 h
  have hslot : (1024 * slot + j) / 1024 = slot := by omega
  simp only [hslot, bne_self_eq_false, Bool.false_eq_true] at hne

theorem fillSlot_resident (slot : Nat) (ws ts : List Word) (c : Core) : ((fillSlot slot ws ts c).resid.getD slot Resid.reset).v = true := by
  unfold fillSlot
  dsimp only
  rw [SMap.getD_put_same]

/-- The scratchpad of a core is none of what an access of device memory may change of it. -/
theorem slots_of_stillCore {c d : Core} (h : stillCore c = stillCore d) : c.spad = d.spad ∧ c.badSpad = d.badSpad ∧ c.resid = d.resid := by
  simp only [stillCore, Core.mk.injEq] at h
  obtain ⟨hspad, -, hbad, -, -, hresid, -⟩ := h
  exact ⟨hspad, hbad, hresid⟩

/-! ### The head of the queue (R240) -/

section
variable {q : Nat} {s : State} {p : PceCmd} {rest : List PceCmd}

theorem pceHead_nil (hnil : (s.cluster q).pce = []) (op : Nat) (run : PceCmd → Nat → State → State) : pceHead q op s run = s := by
  unfold pceHead
  rw [hnil]

section
variable (hhead : (s.cluster q).pce = p :: rest)
include hhead

theorem pceHead_run (hop : 1 ≤ p.op ∧ p.op ≤ 4) (hpermitted : pcePermitted s q p = true) (run : PceCmd → Nat → State → State) :
    pceHead q p.op s run = run p (clusterCore q p.tgt) s := by
  unfold pceHead
  rw [hhead]
  dsimp only
  rw [if_neg (by omega), hpermitted, if_neg Bool.noConfusion, if_pos rfl]

theorem pceHead_undefined (hop : p.op = 0 ∨ 5 ≤ p.op) (op : Nat) (run : PceCmd → Nat → State → State) :
    pceHead q op s run = pceDone q p 6 s := by
  unfold pceHead
  rw [hhead]
  dsimp only
  rw [if_pos hop]

theorem pceHead_refused (hop : 1 ≤ p.op ∧ p.op ≤ 4) (hpermitted : pcePermitted s q p = false) (op : Nat) (run : PceCmd → Nat → State → State) :
    pceHead q op s run = pceDone q p 5 s := by
  unfold pceHead
  rw [hhead]
  dsimp only
  rw [if_neg (by omega), if_pos hpermitted]

end

/-- Every step of the parcel engine acts by its head of the queue. -/
theorem exec_parcel {i : Instr} (hi : i ∈ ([.pceReadEntry q, .pceWriteEntry q, .pceFill q, .pceEvict q] : List Instr)) :
    ∃ op run, exec i s = .next (pceHead q op s run) := by
  simp only [List.mem_cons, List.not_mem_nil, or_false] at hi
  rcases hi with rfl | rfl | rfl | rfl <;> exact ⟨_, _, rfl⟩

end

/-! ### The four commands -/

section
variable {q : Nat} {s : State} {p : PceCmd} {rest : List PceCmd} (hhead : (s.cluster q).pce = p :: rest)
  (htgt : p.tgt < 8) (hslot : p.slot < 32) (hpermitted : pcePermitted s q p = true)
include hhead hpermitted

include htgt hslot in
/-- R240: the read of an entry. -/
theorem pceReadEntry_ends (hop : p.op = 1) : Ends (.pceReadEntry q) s fun t => Claims.PceEnds s t q p rest 0 ∧ t.mem = s.mem ∧
    (t.core p.core).pent0 = (residOf s (clusterCore q p.tgt) p.slot).word0 ∧
    (t.core p.core).pent1 = (residOf s (clusterCore q p.tgt) p.slot).taga ∧
    residOf t (clusterCore q p.tgt) p.slot = residOf s (clusterCore q p.tgt) p.slot := by
  let r := residOf s (clusterCore q p.tgt) p.slot
  let u := s.modCore p.core fun c => { c with pent0 := r.word0, pent1 := r.taga }
  have hexec : exec (.pceReadEntry q) s = .next (pceDone q p 0 u) :=
    congrArg Host.Outcome.next (hop ▸ pceHead_run hhead (by omega) hpermitted _)
  have hpent := pceDone_pent q p 0 u p.core
  refine ⟨_, hexec, pceEnds_pceDone hhead htgt hslot (.inr rfl) ?_ ?_, pceDone_mem q p 0 u, ?_, ?_, ?_⟩
  · rw [State.modCore_core_same]
  · rw [State.modCore_core_same]
  · rw [hpent.1, State.modCore_core_same]
  · rw [hpent.2, State.modCore_core_same]
  · rw [pceDone_residOf]
    refine modCore_keeps (fun c => c.resid.getD p.slot Resid.reset) s p.core _ ?_ _
    exact fun _ => rfl

include htgt hslot in
/-- R240: the write of an entry's fields. -/
theorem pceWriteEntry_ends (hop : p.op = 2) : Ends (.pceWriteEntry q) s fun t => Claims.PceEnds s t q p rest 0 ∧ t.mem = s.mem ∧
    residOf t (clusterCore q p.tgt) p.slot =
      ⟨(residOf s (clusterCore q p.tgt) p.slot).v, (s.core p.core).pent0.getLsbD 62, (s.core p.core).pent0.getLsbD 61,
        (residOf s (clusterCore q p.tgt) p.slot).bsy, (s.core p.core).pent0 &&& 0x3F_FFFF_FFFF_E000,
        (s.core p.core).pent1 &&& 0x3F_FFFF_FFFF_FF80⟩ := by
  let r : Resid := { residOf s (clusterCore q p.tgt) p.slot with
    dt := bitAt (s.core p.core).pent0 62, pn := bitAt (s.core p.core).pent0 61
    back := put (fld (s.core p.core).pent0 13 41) 13 41, taga := put (fld (s.core p.core).pent1 7 47) 7 47 }
  let u := s.modCore (clusterCore q p.tgt) fun c => { c with resid := c.resid.put p.slot r }
  have hexec : exec (.pceWriteEntry q) s = .next (pceDone q p 0 u) :=
    congrArg Host.Outcome.next (hop ▸ pceHead_run hhead (by omega) hpermitted _)
  refine ⟨_, hexec, pceEnds_pceDone hhead htgt hslot (.inr rfl) ?_ ?_, pceDone_mem q p 0 u, ?_⟩
  · refine modCore_keeps Core.supq s (clusterCore q p.tgt) _ ?_ _
    exact fun _ => rfl
  · refine modCore_keeps Core.supqKept s (clusterCore q p.tgt) _ ?_ _
    exact fun _ => rfl
  · rw [pceDone_residOf, residOf, State.modCore_core_same, SMap.getD_put_same]
    show r = _
    simp only [r, put_fld]
    rfl

/-- R240: a fill of a slot that is resident fails with code 3. -/
theorem pceFill_refused (hop : p.op = 3) (hresident : (residOf s (clusterCore q p.tgt) p.slot).v = true) :
    Ends (.pceFill q) s fun t => (t.cluster q).pce = rest ∧ (t.core p.core).pErr = true ∧ (t.core p.core).pCode = 3 ∧ t.mem = s.mem ∧
      (t.core (clusterCore q p.tgt)).spad = (s.core (clusterCore q p.tgt)).spad := by
  have hexec : exec (.pceFill q) s = .next (pceDone q p 3 s) := by
    refine congrArg Host.Outcome.next ((hop ▸ pceHead_run hhead (by omega) hpermitted _).trans ?_)
    dsimp only
    rw [hresident, Bool.true_or, if_pos rfl]
  obtain ⟨herr, hcode⟩ := pceDone_failure q p 3 s (by decide)
  refine ⟨_, hexec, ?_, herr, hcode, pceDone_mem q p 3 s, pceDone_spad q p 3 s _⟩
  rw [pceDone_cluster, hhead]
  rfl

/-- R163, R240: a fill whose words and tags are read makes the slot resident with those words. -/
theorem pceFill_fills (hop : p.op = 3) {ws ts : List Word} {u v : State} (hv : (residOf s (clusterCore q p.tgt) p.slot).v = false)
    (hbusy : (residOf s (clusterCore q p.tgt) p.slot).bsy = false)
    (hwords : unitWords s (coreDie (clusterCore q p.tgt)) (clusterCore q p.tgt) (corePid s (clusterCore q p.tgt))
      (residOf s (clusterCore q p.tgt) p.slot).back 1024 = (.ok ws, u))
    (htags : unitWords u (coreDie (clusterCore q p.tgt)) (clusterCore q p.tgt) (corePid u (clusterCore q p.tgt))
      (residOf s (clusterCore q p.tgt) p.slot).taga 16 = (.ok ts, v))
    (hheld : ∀ e ∈ v.reqs, e.heldFor (clusterCore q p.tgt) p.slot = false) :
    Ends (.pceFill q) s fun t => (t.cluster q).pce.length = (v.cluster q).pce.length - 1 ∧
      (residOf t (clusterCore q p.tgt) p.slot).v = true ∧ t.mem = v.mem ∧
      ∀ j, j < 1024 → (t.core (clusterCore q p.tgt)).spad.getD (1024 * p.slot + j) 0 = ws.getD j 0 ∧
        1024 * p.slot + j ∉ (t.core (clusterCore q p.tgt)).badSpad := by
  let m := clusterCore q p.tgt
  let w := v.modCore m (fillSlot p.slot ws ts)
  let hit : Home → Bool := fun h => match h with
    | .spad c o => c == m && slotOf o == p.slot && fillChanges (v.core m) (w.core m) o
    | _ => false
  have hflush : flushReqs (fun e => e.heldFor m p.slot) (markHeld hit w) = markHeld hit w := by
    refine flushReqs_none fun r hr => ?_
    rw [quiet_reqs.mark] at hr
    exact hheld r hr
  have hexec : exec (.pceFill q) s = .next (pceDone q p 0 (markHeld hit w)) := by
    refine congrArg Host.Outcome.next ((hop ▸ pceHead_run hhead (by omega) hpermitted _).trans ?_)
    dsimp only
    rw [hv, hbusy, Bool.or_false, if_neg Bool.noConfusion, hwords]
    dsimp only
    rw [htags]
    exact congrArg (pceDone q p 0) hflush
  have hfilled : stillCore ((markHeld hit w).core m) = stillCore (fillSlot p.slot ws ts (v.core m)) :=
    ((quiet_stillCore m).mark hit w).trans (congrArg stillCore (State.modCore_core_same _ _ _))
  obtain ⟨hspad, hbad, hresid⟩ := slots_of_stillCore hfilled
  refine ⟨_, hexec, ?_, ?_, pceDone_mem q p 0 _, fun j hj => ⟨?_, ?_⟩⟩
  · rw [pceDone_cluster]
    exact List.length_drop
  · rw [pceDone_residOf, residOf, hresid]
    exact fillSlot_resident _ _ _ _
  · rw [pceDone_spad, hspad]
    exact fillSlot_word _ _ _ _ hj
  · rw [pceDone_badSpad, hbad]
    exact fillSlot_badSpad _ _ _ _ hj

include htgt hslot in
/-- R240: the eviction of a slot that is not resident, or is pinned, fails with code 4. -/
theorem pceEvict_refused (hop : p.op = 4)
    (hnot : (residOf s (clusterCore q p.tgt) p.slot).v = false ∨ (residOf s (clusterCore q p.tgt) p.slot).pn = true) :
    Ends (.pceEvict q) s fun t => Claims.PceEnds s t q p rest 4 ∧ t.mem = s.mem ∧
      residOf t (clusterCore q p.tgt) p.slot = residOf s (clusterCore q p.tgt) p.slot := by
  have hexec : exec (.pceEvict q) s = .next (pceDone q p 4 s) := by
    refine congrArg Host.Outcome.next ((hop ▸ pceHead_run hhead (by omega) hpermitted _).trans ?_)
    dsimp only
    rw [if_pos]
    rcases hnot with h | h <;> simp only [h, Bool.not_false, Bool.true_or, Bool.or_true]
  exact ⟨_, hexec, pceEnds_pceDone hhead htgt hslot (.inl (by omega)) rfl rfl, pceDone_mem q p 4 s, pceDone_residOf q p 4 s _ _⟩

end

/-- The words of a slot. -/
def slotWords (s : State) (m slot : Nat) : List Word := (List.range 1024).map fun j => (s.core m).spad.getD (1024 * slot + j) 0

/-- The tags of a slot, 64 to a word. -/
def slotTags (s : State) (m slot : Nat) : List Word :=
  (List.range 16).map fun j => BitVec.ofNat 64
    ((List.range 64).foldl (fun n i => if (s.core m).tags.getD (1024 * slot + 64 * j + i) false then n + 2 ^ i else n) 0)

/-- A slot that is resident no more. -/
def evicted (s : State) (m slot : Nat) : State :=
  s.modCore m fun c => { c with resid := c.resid.put slot { residOf s m slot with v := false } }

theorem evicted_slotResident (s : State) (m slot : Nat) : slotResident m slot (evicted s m slot) = false := by
  rw [slotResident, residOf, evicted, State.modCore_core_same, SMap.getD_put_same]

/-- R163, R240: an eviction whose writes are made leaves the slot not resident. -/
theorem pceEvict_evicts {q : Nat} {s : State} {p : PceCmd} {rest : List PceCmd} (hhead : (s.cluster q).pce = p :: rest)
    (hpermitted : pcePermitted s q p = true) (hop : p.op = 4) {m : Nat} (hm : m = clusterCore q p.tgt) {r : Resid} (hr : r = residOf s m p.slot)
    {w u : State} (hv : r.v = true) (hpn : r.pn = false) (hwaited : slotWaited s m p.slot = false)
    (hwords : (if r.dt then unitPutWords (evicted s m p.slot) (coreDie m) m (corePid (evicted s m p.slot) m) r.back (slotWords s m p.slot)
      else (.ok (), evicted s m p.slot)) = (.ok (), w))
    (htags : unitPutWords (if r.dt then poisonBack m p.slot r.back w else w) (coreDie m) m
      (corePid (if r.dt then poisonBack m p.slot r.back w else w) m) r.taga (slotTags s m p.slot) = (.ok (), u)) :
    Ends (.pceEvict q) s fun t => t.mem = u.mem ∧ t.poison = u.poison ∧ (t.cluster q).pce = (u.cluster q).pce.drop 1 ∧
      (residOf t m p.slot).v = false ∧ (t.core m).spad = (u.core m).spad := by
  have hexec : exec (.pceEvict q) s = .next (pceDone q p 0 u) := by
    refine congrArg Host.Outcome.next ((hop ▸ pceHead_run hhead (by omega) hpermitted _).trans ?_)
    have hgo : (!r.v || r.pn || slotWaited s m p.slot) = false := by rw [hv, hpn, hwaited]; rfl
    subst hm hr
    unfold evicted slotWords at hwords
    unfold slotTags at htags
    dsimp only
    rw [hgo, if_neg Bool.noConfusion, hwords]
    dsimp only
    rw [htags]
  have haway : slotResident m p.slot (if r.dt then poisonBack m p.slot r.back w else w) = false := by
    have hw : slotResident m p.slot w = slotResident m p.slot (evicted s m p.slot) := by
      split at hwords
      · exact keeps_of_answer hwords (unitPutWords_slotResident _ _ _ _ _ _ _ _)
      · cases hwords
        rfl
    rw [evicted_slotResident] at hw
    split
    · rw [poisonBack_slotResident, hw]
    · exact hw
  have hgone : (residOf u m p.slot).v = false := (keeps_of_answer htags (unitPutWords_slotResident m p.slot _ _ _ _ _ _)).trans haway
  refine ⟨_, hexec, pceDone_mem q p 0 u, pceDone_poison q p 0 u, ?_, ?_, pceDone_spad q p 0 u m⟩
  · rw [pceDone_cluster]
  · rw [pceDone_residOf]
    exact hgone

theorem parcelCommands : Claims.ParcelCommands := by
  intro q s
  refine ⟨fun hnil => ⟨?_, ?_, ?_, ?_⟩, fun p rest hhead htgt hslot => ⟨fun hpermitted => ⟨fun hop => ?_, fun hop => ?_, fun hop => ⟨fun hv => ?_, ?_⟩,
    fun hop => ⟨fun hnot => ?_, ?_⟩⟩, fun i hi => ⟨fun hop => ?_, fun hlo hhi hrefused => ?_⟩⟩⟩
  · exact congrArg Host.Outcome.next (pceHead_nil hnil _ _)
  · exact congrArg Host.Outcome.next (pceHead_nil hnil _ _)
  · exact congrArg Host.Outcome.next (pceHead_nil hnil _ _)
  · exact congrArg Host.Outcome.next (pceHead_nil hnil _ _)
  · exact pceReadEntry_ends hhead htgt hslot hpermitted hop
  · exact pceWriteEntry_ends hhead htgt hslot hpermitted hop
  · exact pceFill_refused hhead hpermitted hop hv
  · exact fun ws ts u v hv hbusy hwords htags hheld => pceFill_fills hhead hpermitted hop hv hbusy hwords htags hheld
  · exact pceEvict_refused hhead htgt hslot hpermitted hop hnot
  · exact fun w u hv hpn hwaited hwords htags => pceEvict_evicts hhead hpermitted hop rfl rfl hv hpn hwaited hwords htags
  · obtain ⟨op, run, hexec⟩ := exec_parcel (s := s) hi
    rw [pceHead_undefined hhead hop] at hexec
    obtain ⟨herr, hcode⟩ := pceDone_failure q p 6 s (by decide)
    refine ⟨_, hexec, ?_, herr, hcode⟩
    rw [pceDone_cluster, hhead]
    rfl
  · obtain ⟨op, run, hexec⟩ := exec_parcel (s := s) hi
    rw [pceHead_refused hhead ⟨hlo, hhi⟩ hrefused] at hexec
    obtain ⟨herr, hcode⟩ := pceDone_failure q p 5 s (by decide)
    refine ⟨_, hexec, ?_, herr, hcode⟩
    rw [pceDone_cluster, hhead]
    rfl

end Sys2Proof.Proofs
end

section
/-! PROOFS. Copy-engine transfers, barrier messages and timeouts of a cluster (O40). -/

namespace Sys2Proof.Proofs

open Sys2Proof Sys2Proof.Machine Sys2Proof.Claims

/-! ### A context and its copy (R365) -/

/-- A thread that is no copy answers for itself. -/
theorem replyTo_single {x : Nat} {s : State} (hdual : (s.ctx x).dual = none) : replyTo x s = [x] := by
  rw [replyTo, hdual]

theorem modBoth_single {x : Nat} {s : State} (hdual : (s.ctx x).dual = none) (g : Ctx → Ctx) : s.modBoth x g = s.modCtx x g := by
  rw [State.modBoth, replyTo_single hdual]
  rfl

theorem fillLong_single {x : Nat} {s : State} (hdual : (s.ctx x).dual = none) (id : Nat) (v : LongVal) :
    fillLong x id v s = s.modCtx x fun c =>
      { c with outstanding := c.outstanding.map fun r => if r.id = id then { r with val := some v } else r } := by
  rw [fillLong, replyTo_single hdual]
  rfl

theorem postTrap_single {x : Nat} {s : State} (hdual : (s.ctx x).dual = none) (t : TrapInfo) :
    postTrap x t s = s.modCtx x fun c => { c with pend := c.pend ++ [t] } := by
  rw [postTrap, replyTo_single hdual]
  rfl

theorem modBoth_keeps {α : Type} (p : Ctx → α) (x : Nat) (g : Ctx → Ctx) (hg : ∀ c, p (g c) = p c) (s : State) (y : Nat) :
    p ((s.modBoth x g).ctx y) = p (s.ctx y) :=
  foldl_keeps (fun t => p (t.ctx y)) _ (fun t z => modCtx_keeps p t z g hg y) _ _

theorem fillLong_clusters (x id : Nat) (v : LongVal) (s : State) : (fillLong x id v s).clusters = s.clusters := by
  unfold fillLong
  apply foldl_keeps State.clusters
  intro _ _
  rfl

/-! ### The start of a transfer (R245) -/

section
variable {α : Type} {p : State → α} (hp : Steady p)
include hp

theorem pathLoad_steady (s : State) (q d k pid : Nat) (a : Word) (n : Nat) : p (pathLoad s q d k pid a n).2 = p s := by
  unfold pathLoad
  split
  · rfl
  · exact portLoad_steady hp _ _ _ _ _ _
  · have htranslate := translate_quiet hp.toQuiet s d pid
    split
    · next he => exact keeps_of_answer he (htranslate _ _)
    · next g s1 he =>
      have hread := (streamRead_quiet hp.toQuiet s1 d g.pa g.priv n).trans (keeps_of_answer he (htranslate _ _))
      split <;> (next hr => exact keeps_of_answer hr hread)

theorem pathWords_steady (s : State) (q d k pid : Nat) (a : Word) (n : Nat) : p (pathWords s q d k pid a n).2 = p s := by
  induction n generalizing s a with
  | zero => rfl
  | succ n ih =>
    unfold pathWords
    have hload := pathLoad_steady hp s q d k pid a 8
    split
    · next he => exact keeps_of_answer he hload
    · next v s1 he =>
      have hrest := (ih s1 (a + 8)).trans (keeps_of_answer he hload)
      split <;> (next hr => exact keeps_of_answer hr hrest)

theorem readLayout_steady (e : Xfer) (s : State) : p (readLayout e s).2 = p s := by
  unfold readLayout
  split
  · rfl
  · have hwords := pathWords_steady hp s 1 (coreDie e.core) e.core e.pid e.lay 8
    split
    · next he => exact keeps_of_answer he hwords
    · next he =>
      split
      · exact keeps_of_answer he hwords
      · rfl

end

theorem steady_clusters : Steady State.clusters where
  toQuiet := quiet_stillRest.comp State.clusters
  port _ _ _ _ := rfl
  inFlight _ _ := rfl

/-- A transfer's registers are not changed by the read of its layout record. -/
theorem readLayout_registers (e : Xfer) (s : State) : (readLayout e s).1 = { e with lrec := (readLayout e s).1.lrec } := by
  unfold readLayout
  split
  · rfl
  · split
    · rfl
    · split <;> rfl

/-- The transfer that the registers of a context describe, under a number. -/
def openXfer (x : Nat) (s : State) (id : Nat) : Xfer :=
  let k := coreOf x
  let c := s.ctx x
  { id := id, x := x, core := k, pid := c.pid, batch := c.xnext, src := globalOf k c.xsrc, dst := globalOf k c.xdst, lay := globalOf k c.xlay,
    box := c.xbox, ext := c.xext, opt := c.xopt, cw := globalOf k c.xcw, cv := c.xcv, pri := c.pri, notice := none, moved := false, stat := 0,
    lrec := none }

/-- The number that a transfer takes which starts now. -/
def nextXferId (x : Nat) (s : State) : Nat := freeXferId ((s.cluster (clusterOf (coreOf x))).xfers.map fun t => t.id) (fld s.free.1 0 6)

theorem startXfer_full {x : Nat} {s : State} (hfull : 64 ≤ (s.cluster (clusterOf (coreOf x))).xfers.length) :
    startXfer x s = (put 1 56 7, s) := by
  unfold startXfer
  dsimp only
  rw [if_pos hfull]

theorem startXfer_starts {x : Nat} {s : State} (hroom : (s.cluster (clusterOf (coreOf x))).xfers.length < 64) :
    startXfer x s = (flag true 63 ||| put (s.ctx x).xnext 8 16 ||| put (nextXferId x s) 0 6,
      ((readLayout (openXfer x s (nextXferId x s)) s.free.2).2.modCluster (clusterOf (coreOf x)) fun cl =>
        { cl with xfers := cl.xfers ++ [(readLayout (openXfer x s (nextXferId x s)) s.free.2).1] }).modCtx x fun d =>
          { d with xopen := d.xopen + 1 }) := by
  unfold startXfer
  dsimp only
  rw [if_neg (by omega)]
  rfl

/-- The word that `y.xgo` reads as: the transfer has started, with its batch and its number. -/
theorem startWord_eq {batch : Nat} (hbatch : batch < 2 ^ 16) (id : Nat) :
    (flag true 63 ||| put batch 8 16 ||| put id 0 6).toNat = 2 ^ 63 + 2 ^ 8 * batch + id % 64 := by
  have hid := Nat.mod_lt id (by decide : 64 > 0)
  rw [flag_eq_ofNat, put_eq_ofNat, put_eq_ofNat, Nat.mod_eq_of_lt hbatch]
  rw [if_pos rfl, Nat.pow_zero, Nat.mul_one, ofNat_or_ofNat 63 (by decide) (by omega), ofNat_or_ofNat 8 (by omega) (by omega),
    BitVec.toNat_ofNat]
  omega

theorem exec_bteStart (x : Nat) (n : BitVec 4) (s : State) :
    exec (.bteStart x n) s = .next ((startXfer x s).2.modCtx x fun c => c.setW n.toNat (startXfer x s).1) := by
  rfl

/-- R245, R251: a read of `y.xgo` starts a transfer of the open batch. -/
theorem bteStart_starts {x : Nat} (n : BitVec 4) {s : State} (hroom : (s.cluster (clusterOf (coreOf x))).xfers.length < 64)
    (hbatch : (s.ctx x).xnext < 2 ^ 16) :
    Ends (.bteStart x n) s fun t : State =>
      (∃ e : Xfer, (t.cluster (clusterOf (coreOf x))).xfers = (s.cluster (clusterOf (coreOf x))).xfers ++ [e] ∧ e.x = x ∧ e.batch = (s.ctx x).xnext ∧
        e.src = globalOf (coreOf x) (s.ctx x).xsrc ∧ e.dst = globalOf (coreOf x) (s.ctx x).xdst ∧ e.box = (s.ctx x).xbox ∧
        e.ext = (s.ctx x).xext ∧ e.opt = (s.ctx x).xopt ∧ e.cv = (s.ctx x).xcv ∧ e.pid = (s.ctx x).pid ∧ e.moved = false) ∧
      ((t.ctx x).w n.toNat).toNat / 2 ^ 63 = 1 ∧ ((t.ctx x).w n.toNat).toNat / 2 ^ 8 % 2 ^ 16 = (s.ctx x).xnext ∧
      (t.ctx x).xopen = (s.ctx x).xopen + 1 := by
  have hid := Nat.mod_lt (nextXferId x s) (by decide : 64 > 0)
  let e := openXfer x s (nextXferId x s)
  have hclusters : (readLayout e s.free.2).2.clusters = s.clusters := readLayout_steady steady_clusters e s.free.2
  have hopen : ((readLayout e s.free.2).2.ctx x).xopen = (s.ctx x).xopen :=
    readLayout_steady ((steady_stillCtx x).comp Ctx.xopen) e s.free.2
  refine ⟨_, exec_bteStart x n s, ?_⟩
  rw [startXfer_starts hroom]
  refine ⟨⟨(readLayout e s.free.2).1, ?_, ?_⟩, ?_, ?_, ?_⟩
  · rw [State.modCtx_cluster, State.modCtx_cluster, State.modCluster_cluster_same, State.cluster, hclusters]
    rfl
  · rw [readLayout_registers]
    exact ⟨rfl, rfl, rfl, rfl, rfl, rfl, rfl, rfl, rfl, rfl⟩
  · rw [State.modCtx_ctx_same, Ctx.setW_w_same, startWord_eq hbatch]
    omega
  · rw [State.modCtx_ctx_same, Ctx.setW_w_same, startWord_eq hbatch]
    omega
  · rw [State.modCtx_ctx_same, State.modCtx_ctx_same]
    exact congrArg (· + 1) hopen

/-- R245: with 64 transfers in flight none starts. -/
theorem bteStart_full {x : Nat} (n : BitVec 4) {s : State} (hfull : 64 ≤ (s.cluster (clusterOf (coreOf x))).xfers.length) :
    Ends (.bteStart x n) s fun t => t.clusters = s.clusters ∧ (t.ctx x).w n.toNat = 0x0100_0000_0000_0000 ∧ (t.ctx x).xopen = (s.ctx x).xopen := by
  refine ⟨_, exec_bteStart x n s, ?_⟩
  rw [startXfer_full hfull]
  refine ⟨rfl, ?_, ?_⟩
  · rw [State.modCtx_ctx_same, Ctx.setW_w_same]
    rfl
  · rw [State.modCtx_ctx_same]
    rfl

/-! ### The end of a transfer (R246 to R251) -/

/-- The transfer that has moved its payload, and whose notice is posted, ends as its completion word is written. -/
theorem exec_bteTransferComplete {q i : Nat} {e : Xfer} {st st2 : Nat} {s s1 t : State} (he : (s.cluster q).xfers[i]? = some e)
    (hrun : (if e.moved then (some (e.stat, e.notice), s) else runXfer e s) = (some (st, none), s1))
    (hwrite : xferWrite { e with moved := true, stat := st, notice := none } s1 = some (st2, t)) (hx : e.x ≠ nobody)
    (hdual : (t.ctx e.x).dual = none) :
    exec (.bteTransferComplete q i) s = .next ((t.modCluster q fun c => { c with xfers := dropAt c.xfers i }).modCtx e.x fun c =>
      c.xferDone { e with moved := true, stat := st2, notice := none }) := by
  show execBteTransferComplete q i s = _
  unfold execBteTransferComplete
  simp only [he, hrun, hwrite, if_neg hx]
  exact congrArg Host.Outcome.next (modBoth_single (s := t.modCluster q fun c => { c with xfers := dropAt c.xfers i }) hdual _)

section
variable {q i : Nat} {e : Xfer} {s : State} (he : (s.cluster q).xfers[i]? = some e) (hx : e.x ≠ nobody) (hdual : (s.ctx e.x).dual = none)
include he hx hdual

/-- R248, R251: a transfer without a completion word ends. -/
theorem transfer_ends (hmoved : e.moved = true) (hnotice : e.notice = none) (hword : e.opt.getLsbD 5 = false) :
    Ends (.bteTransferComplete q i) s fun t => (t.cluster q).xfers = dropAt (s.cluster q).xfers i ∧ t.mem = s.mem ∧
      t.ctx e.x = (s.ctx e.x).xferDone e := by
  have hrun : (if e.moved then (some (e.stat, e.notice), s) else runXfer e s) = (some (e.stat, none), s) := by
    rw [if_pos hmoved, hnotice]
  have hwrite : xferWrite { e with moved := true, stat := e.stat, notice := none } s = some (e.stat, s) := by
    unfold xferWrite
    rw [if_pos (by simp only [bitAt, hword, Bool.not_false, Bool.true_or])]
  have hsame : { e with moved := true, stat := e.stat, notice := none } = e := by
    rw [← hmoved, ← hnotice]
  refine ⟨_, exec_bteTransferComplete he hrun hwrite hx hdual, ?_, rfl, ?_⟩
  · rw [State.modCtx_cluster, State.modCluster_cluster_same]
  · rw [State.modCtx_ctx_same, hsame, State.modCluster_ctx]

/-- R249: a linear copy of length zero has status 6. -/
theorem transfer_of_length_zero (hmoved : e.moved = false) (hmode : e.opt.toNat % 4 = 0) (hword : e.opt.getLsbD 5 = false)
    (hlen : e.ext.toNat % 2 ^ 32 = 0) (herr : (s.ctx e.x).xerr = false) :
    Ends (.bteTransferComplete q i) s fun t => (t.cluster q).xfers = dropAt (s.cluster q).xfers i ∧ t.mem = s.mem ∧
      (t.ctx e.x).xerr = true ∧ (t.ctx e.x).xstatCode = 6 ∧ (t.ctx e.x).xfid = e.id := by
  have hbit : bitAt e.opt 5 = false := hword
  have hmode0 : fld e.opt 0 2 = 0 := by rw [fld_eq, Nat.pow_zero, Nat.div_one]; exact hmode
  have hlen0 : fld e.ext 0 32 = 0 := by rw [fld_eq, Nat.pow_zero, Nat.div_one]; exact hlen
  have hrun : (if e.moved then (some (e.stat, e.notice), s) else runXfer e s) = (some (6, none), s) := by
    rw [hmoved, if_neg Bool.noConfusion]
    unfold runXfer
    simp only [xcwBad, hbit, hmode0, hlen0, Bool.false_and, Bool.false_eq_true, if_false, if_true]
    rfl
  have hwrite : xferWrite { e with moved := true, stat := 6, notice := none } s = some (6, s) := by
    unfold xferWrite
    rw [if_pos (by simp only [hbit, Bool.not_false, Bool.true_or])]
  refine ⟨_, exec_bteTransferComplete he hrun hwrite hx hdual, ?_, rfl, ?_⟩
  · rw [State.modCtx_cluster, State.modCluster_cluster_same]
  · rw [State.modCtx_ctx_same, State.modCluster_ctx]
    unfold Ctx.xferDone
    simp only [herr, ne_eq, OfNat.ofNat_ne_zero, not_false_eq_true, and_self, if_true]
    split <;> exact ⟨rfl, rfl, rfl⟩

/-- R248: a transfer with a completion word in a scratchpad writes it whole, and nothing beside it. -/
theorem transfer_writes_word {m off : Nat} (hmoved : e.moved = true) (hnotice : e.notice = none) (hword : e.opt.getLsbD 5 = true)
    (hfull : e.opt.getLsbD 6 = false) (hstat : e.stat = 0) (haddr : resolve e.core e.cw = .spad m off) (haligned : off % 8 = 0)
    (hfence : fencedFrom s (coreDie e.core) (coreDie m) = false) (hkilled : (s.core m).killed = false) (hdroop : (s.core m).droopAt = none)
    (hresident : resident s m off = true) (hwait : (s.core m).waiters = []) :
    Ends (.bteTransferComplete q i) s fun t => (t.cluster q).xfers = dropAt (s.cluster q).xfers i ∧ t.mem = s.mem ∧
      (t.core m).spad.getD (off / 8) 0 = e.cv ∧ ∀ j, j ≠ off / 8 → (t.core m).spad.getD j 0 = (s.core m).spad.getD j 0 := by
  have hoff : off / 8 % 32768 = off / 8 := by
    have := off_of_resolve haddr
    omega
  let u := leaveWord noPath m off s
  obtain ⟨t, ht⟩ : ∃ t, t = spadWrite u m off 8 e.cv.toNat := ⟨_, rfl⟩
  have hrun : (if e.moved then (some (e.stat, e.notice), s) else runXfer e s) = (some (0, none), s) := by
    rw [if_pos hmoved, hnotice, hstat]
  have hport : portErr s (coreDie e.core) m off true = none := by
    unfold portErr
    simp only [hfence, hkilled, hdroop, hresident, Option.isSome_none, Bool.not_true, Bool.and_false, Bool.false_eq_true, if_false]
  have hwrite : xferWrite { e with moved := true, stat := 0, notice := none } s = some (0, t) := by
    have hbit5 : bitAt e.opt 5 = true := hword
    have hbit6 : bitAt e.opt 6 = false := hfull
    unfold xferWrite
    simp only [hbit5, hbit6, haddr, hport, Bool.not_true, Bool.false_or, Bool.false_eq_true, if_false, if_true]
    rw [ht]
    rfl
  obtain ⟨o, hleft⟩ := leaveWord_core noPath m off m s
  have hu : (u.core m).waiters = [] := by rw [hleft]; exact hwait
  have hspad : (t.core m).spad = (s.core m).spad.putD (off / 8) 0 e.cv := by
    rw [ht, spadWrite_alone hu]
    refine (((quiet_stillCore m).comp Core.spad).mark _ _).trans ?_
    show ((spadSet u m off 8 e.cv.toNat).core m).spad = _
    rw [spadSet, State.modCore_core_same]
    dsimp only
    rw [hleft, hoff, haligned, setFld_whole, BitVec.ofNat_toNat, BitVec.setWidth_eq]
  have hkeeps : ∀ {α : Type} {p : State → α}, Steady p → p t = p s := fun hp => by
    rw [ht, spadWrite_steady hp, leaveWord_steady hp]
  have hdual' : (t.ctx e.x).dual = none := (hkeeps ((steady_stillCtx e.x).comp Ctx.dual)).trans hdual
  have hclusters : t.clusters = s.clusters := hkeeps steady_clusters
  have hmem : t.mem = s.mem := by
    rw [ht, spadWrite_alone hu, markHeld_mem]
    exact leaveWord_mem _ _ _ _
  refine ⟨_, exec_bteTransferComplete he hrun hwrite hx hdual', ?_, hmem, ?_, fun j hj => ?_⟩
  · rw [State.modCtx_cluster, State.modCluster_cluster_same, State.cluster, hclusters]
    rfl
  · rw [State.modCtx_core, State.modCluster_core, hspad, SMap.getD_putD, if_pos rfl]
  · rw [State.modCtx_core, State.modCluster_core, hspad, SMap.getD_putD, if_neg hj]

end

end Sys2Proof.Proofs
end

section
/-! PROOFS. Barrier messages and timeouts of a cluster, and its services together (O40). -/

namespace Sys2Proof.Proofs

open Sys2Proof Sys2Proof.Machine Sys2Proof.Claims

/-! ### Barriers (R257, R259) -/

theorem wakeBarrier_keeps {α : Type} {p : State → α} (hp : ∀ (t : State) (x : Nat) (g : Ctx → Ctx), p (t.modCtx x g) = p t) (q n : Nat)
    (fail : Option Nat) (s : State) : p (wakeBarrier q n fail s) = p s := by
  unfold wakeBarrier
  apply foldl_keeps p
  intro t x
  split
  · rfl
  · exact foldl_keeps p _ (fun u y => hp u y _) _ _

theorem wakeBarrier_outstanding (q n : Nat) (fail : Option Nat) (s : State) (y : Nat) :
    ((wakeBarrier q n fail s).ctx y).outstanding = (s.ctx y).outstanding := by
  unfold wakeBarrier
  apply foldl_keeps fun t => (t.ctx y).outstanding
  intro t x
  split
  · rfl
  · refine modBoth_keeps Ctx.outstanding x _ (fun c => ?_) t y
    split
    · split
      · split
        · rfl
        · split <;> rfl
      · rfl
    · rfl

/-- One message alone reaches the barrier in the cycle. -/
theorem cycleMsgs_one (m : BarMsg) (rest : List BarMsg) : cycleMsgs m.bar 1 [] (m :: rest) = [m] := by
  simp only [cycleMsgs, ne_eq, not_true, if_false, List.contains_nil, Bool.false_eq_true]

/-- A cluster whose first message has left. -/
def messageTaken (q : Nat) (rest : List BarMsg) (s : State) : State := s.modCluster q fun c => { c with barMsgs := rest }

section
variable {q : Nat} {m : BarMsg} {rest : List BarMsg} {s : State}

theorem messageTaken_cluster : (messageTaken q rest s).cluster q = { s.cluster q with barMsgs := rest } := State.modCluster_cluster_same _ _ _

theorem barrierUpdate_one (hmsgs : (s.cluster q).barMsgs = m :: rest) :
    exec (.barrierUpdate q m.bar 1) s = .next (if m.init.isSome then barInit q m (messageTaken q rest s) else barArrive q m (messageTaken q rest s)) := by
  have htaken : (s.modCluster q fun c => { c with barMsgs := [m].foldl (fun l m => l.erase m) c.barMsgs }) = messageTaken q rest s := by
    simp only [State.modCluster, messageTaken, hmsgs, List.foldl_cons, List.foldl_nil, List.erase_cons_head]
  show execBarrierUpdate q m.bar 1 s = _
  unfold execBarrierUpdate
  rw [hmsgs, cycleMsgs_one]
  dsimp only
  rw [htaken]
  cases hinit : m.init with
  | none => simp [hinit, insertMsg]
  | some a => simp [hinit]

/-- R257: BARI sets the barrier anew, in the phase that it is in. -/
theorem barrierUpdate_init (hmsgs : (s.cluster q).barMsgs = m :: rest) {cnt sc : Nat} (hinit : m.init = some (cnt, sc)) :
    Ends (.barrierUpdate q m.bar 1) s fun t => (t.cluster q).barMsgs = rest ∧
      (t.cluster q).bars.getD m.bar Barrier.reset = ⟨cnt, 0, 0, ((s.cluster q).bars.getD m.bar Barrier.reset).ph, sc⟩ ∧ t.mem = s.mem := by
  refine ⟨_, barrierUpdate_one hmsgs, ?_⟩
  rw [if_pos (by rw [hinit]; rfl), barInit, hinit]
  dsimp only
  rw [State.modCluster_cluster_same, messageTaken_cluster]
  exact ⟨rfl, SMap.getD_put_same _ _ _ _, rfl⟩

/-- A barrier after an arrival: the last one completes the phase (R259). -/
def arrived (o : Barrier) (drop : Bool) : Barrier :=
  if o.arr + 1 = o.cnt then ⟨o.cnt - (o.drp + if drop then 1 else 0), 0, 0, (o.ph + 1) % 65536, o.bs⟩
  else ⟨o.cnt, o.arr + 1, o.drp + if drop then 1 else 0, o.ph, o.bs⟩

/-- The answer to an arrival's token (R258). -/
def tokenAnswered (m : BarMsg) (ph : Nat) (s : State) : State :=
  match m.lr with
  | some id => fillLong m.x id (.ok ph) s
  | none => s

theorem tokenAnswered_mem (m : BarMsg) (ph : Nat) (s : State) : (tokenAnswered m ph s).mem = s.mem := by
  unfold tokenAnswered
  split
  · exact fillLong_mem _ _ _ _
  · rfl

theorem tokenAnswered_cluster (m : BarMsg) (ph : Nat) (s : State) (r : Nat) : (tokenAnswered m ph s).cluster r = s.cluster r := by
  unfold tokenAnswered
  split
  · rw [State.cluster, fillLong_clusters]
    rfl
  · rfl

theorem barArrive_serves (hdark : (m.remote && clusterDark s q) = false) (hcnt : (barOf s q m.bar).cnt ≠ 0) :
    barArrive q m s = wakeBarrier q m.bar none ((tokenAnswered m (barOf s q m.bar).ph s).modCluster q fun c =>
      { c with bars := c.bars.put m.bar (arrived (barOf s q m.bar) m.drop) }) := by
  unfold barArrive
  dsimp only
  rw [if_neg (by rw [hdark]; exact Bool.noConfusion), if_neg hcnt]
  unfold tokenAnswered arrived
  split_ifs <;> rfl

/-- Whether a cluster's cores are all offline is not said by its messages. -/
theorem notDark_messageTaken (h : m.remote = false ∨ clusterDark s q = false) :
    (m.remote && clusterDark (messageTaken q rest s) q) = false := by
  have hsame : clusterDark (messageTaken q rest s) q = clusterDark s q := rfl
  rw [hsame]
  rcases h with h | h <;> simp only [h, Bool.false_and, Bool.and_false]

/-- R259: an arrival counts, and the last one completes the phase; its token is the phase it arrived in. -/
theorem barrierUpdate_arrives (hmsgs : (s.cluster q).barMsgs = m :: rest) (hinit : m.init = none)
    (hdark : m.remote = false ∨ clusterDark s q = false) (hcnt : ((s.cluster q).bars.getD m.bar Barrier.reset).cnt ≠ 0) :
    Ends (.barrierUpdate q m.bar 1) s fun t => (t.cluster q).barMsgs = rest ∧ t.mem = s.mem ∧
      (t.cluster q).bars.getD m.bar Barrier.reset = arrived ((s.cluster q).bars.getD m.bar Barrier.reset) m.drop ∧
      ∀ id, m.lr = some id → (s.ctx m.x).dual = none → (t.ctx m.x).outstanding = (s.ctx m.x).outstanding.map fun e =>
        if e.id = id then { e with val := some (.ok ((s.cluster q).bars.getD m.bar Barrier.reset).ph) } else e := by
  have hbar : barOf (messageTaken q rest s) q m.bar = (s.cluster q).bars.getD m.bar Barrier.reset := by
    rw [barOf, messageTaken_cluster]
  have hserved := barArrive_serves (notDark_messageTaken (rest := rest) hdark) (hbar.symm ▸ hcnt)
  refine ⟨_, barrierUpdate_one hmsgs, ?_⟩
  rw [if_neg (by rw [hinit]; exact Bool.noConfusion), hserved, hbar]
  have hcluster := wakeBarrier_keeps (p := fun t : State => t.cluster q) (fun _ _ _ => rfl) q m.bar none
    ((tokenAnswered m ((s.cluster q).bars.getD m.bar Barrier.reset).ph (messageTaken q rest s)).modCluster q fun c =>
      { c with bars := c.bars.put m.bar (arrived ((s.cluster q).bars.getD m.bar Barrier.reset) m.drop) })
  rw [State.modCluster_cluster_same, tokenAnswered_cluster, messageTaken_cluster] at hcluster
  refine ⟨?_, ?_, ?_, fun id hid hdual => ?_⟩
  · rw [hcluster]
  · exact (wakeBarrier_keeps (p := State.mem) (fun _ _ _ => rfl) _ _ _ _).trans (tokenAnswered_mem _ _ _)
  · rw [hcluster]
    exact SMap.getD_put_same _ _ _ _
  · have hsingle : ((messageTaken q rest s).ctx m.x).dual = none := hdual
    rw [wakeBarrier_outstanding, State.modCluster_ctx, tokenAnswered, hid]
    dsimp only
    rw [fillLong_single hsingle, State.modCtx_ctx_same]
    rfl

/-- R258: an arrival without a token at a barrier with no count posts trap 0x0D with code 1. -/
theorem barrierUpdate_uninitialised (hmsgs : (s.cluster q).barMsgs = m :: rest) (hinit : m.init = none)
    (hdark : m.remote = false ∨ clusterDark s q = false) (hcnt : ((s.cluster q).bars.getD m.bar Barrier.reset).cnt = 0) (hlr : m.lr = none)
    (hdual : (s.ctx m.x).dual = none) :
    Ends (.barrierUpdate q m.bar 1) s fun t => (t.cluster q).barMsgs = rest ∧
      ∃ e, (t.ctx m.x).pend = (s.ctx m.x).pend ++ [e] ∧ e.cause = 0x0D ∧ e.finfo = 1 := by
  have hsingle : ((messageTaken q rest s).ctx m.x).dual = none := hdual
  have hbar : barOf (messageTaken q rest s) q m.bar = (s.cluster q).bars.getD m.bar Barrier.reset := by
    rw [barOf, messageTaken_cluster]
  have hposts : barArrive q m (messageTaken q rest s) = postTrap m.x (barTrap m.pc 1) (messageTaken q rest s) := by
    unfold barArrive
    dsimp only
    rw [if_neg (by rw [notDark_messageTaken hdark]; exact Bool.noConfusion), hbar, if_pos hcnt, hlr]
  refine ⟨_, barrierUpdate_one hmsgs, ?_⟩
  rw [if_neg (by rw [hinit]; exact Bool.noConfusion), hposts, postTrap_single hsingle]
  dsimp only
  rw [State.modCtx_cluster, State.modCtx_ctx_same, messageTaken_cluster]
  exact ⟨rfl, _, rfl, rfl, rfl⟩

end

/-! ### Timeouts (R260, R383, R415) -/

/-- A step that makes the timeout of a wait of a kind happen, and nothing else. -/
theorem timesOut_of_exec {i : Instr} {x : Nat} {kind : WaitKind} {s : State} (hexec : exec i s = .next (timeOut x kind s)) :
    Claims.TimesOut i x kind s := by
  intro w due hrun hkind hreply hdeadline
  refine ⟨fun hdue => ⟨_, hexec, ?_, onlyContext_setCtx s x _⟩, fun hearly => ⟨_, hexec, ?_, onlyContext_setCtx s x _⟩⟩
  · rw [timeOut, State.modCtx_ctx_same, hrun]
    simp only [hdeadline, hkind, hreply, hdue, and_self, if_true]
  · have hnot : ¬(w.kind = kind ∧ w.reply = none ∧ due ≤ s.pkg.time) := fun ⟨_, _, h⟩ => by omega
    rw [timeOut, State.modCtx_ctx_same, hrun]
    simp only [hdeadline, if_neg hnot]

/-! ### The statement -/

theorem transfersBarriersAndTimeouts : Claims.TransfersBarriersAndTimeouts := by
  intro x q b i n s
  refine ⟨fun hroom hbatch => bteStart_starts n hroom hbatch, fun hfull => bteStart_full n hfull, fun e he hmoved hnotice hx hdual => ⟨?_, ?_⟩,
    fun e he hmoved hmode hword hlen hx hdual herr => transfer_of_length_zero he hx hdual hmoved hmode hword hlen herr,
    fun m rest hmsgs hbar => ⟨?_, ?_, ?_⟩, timesOut_of_exec rfl, timesOut_of_exec rfl, timesOut_of_exec rfl⟩
  · exact fun hword => transfer_ends he hx hdual hmoved hnotice hword
  · exact fun m off hword hfull hstat haddr haligned hfence hkilled hdroop hresident hwait =>
      transfer_writes_word he hx hdual hmoved hnotice hword hfull hstat haddr haligned hfence hkilled hdroop hresident hwait
  · exact fun cnt sc hinit => hbar ▸ barrierUpdate_init hmsgs hinit
  · exact fun hinit hdark hcnt => hbar ▸ barrierUpdate_arrives hmsgs hinit hdark (hbar ▸ hcnt)
  · exact fun hinit hdark hcnt hlr hdual => hbar ▸ barrierUpdate_uninitialised hmsgs hinit hdark (hbar ▸ hcnt) hlr hdual

/-- Settles O40: each step of the parcel engine, the copy engine and the barriers is taken apart by its branches; a write for a unit keeps every slot as
resident as it was. -/
theorem clusterServices : Obligations.ClusterServices := ⟨parcelCommands, transfersBarriersAndTimeouts⟩

end Sys2Proof.Proofs
end

section
/-! PROOFS. Loads, stores and atomics of device memory (O19). -/

namespace Sys2Proof.Proofs

open Sys2Proof Sys2Proof.Machine Sys2Proof.Claims

/-! ### The value of a load (R170) -/

/-- The bytes of a load, extended by their type, are what the statement has loaded. -/
theorem extendTy_loaded {ty : Nat} (h14 : ty ≠ 14) (v : Nat) : (extendTy ty v).toNat = Claims.loaded ty (v % 2 ^ (8 * tyBytes ty)) := by
  have hbits : tyBits ty = 8 * tyBytes ty := if_neg h14
  have hbytes : 0 < tyBytes ty ∧ tyBytes ty ≤ 8 := by
    unfold tyBytes
    split <;> decide
  unfold extendTy Claims.loaded
  rw [hbits]
  by_cases hsigned : ty = 0 ∨ ty = 2 ∨ ty = 4 ∨ ty = 6
  · have hs : tySigned ty = true := by
      rcases hsigned with h | h | h | h <;> subst h <;> rfl
    rw [hs, if_pos rfl, if_pos hsigned, sextW_eq (by omega), Int.natCast_mod, Int.emod_bmod]
  · have hs : tySigned ty = false := by
      simpa only [tySigned, Bool.or_eq_false_iff, decide_eq_false_iff_not, not_or, and_assoc] using hsigned
    have hlt : v % 2 ^ (8 * tyBytes ty) < 2 ^ 64 :=
      (Nat.mod_lt _ (Nat.two_pow_pos _)).trans_le (Nat.pow_le_pow_right (by decide) (by omega))
    rw [hs, if_neg Bool.noConfusion, if_neg hsigned, BitVec.toNat_ofNat, Nat.mod_eq_of_lt hlt]

/-- A thread that is no copy accesses memory by the policy that its word names (R365). -/
theorem policyOf_single {c : Ctx} (hdual : c.dual = none) (f : Fields) : policyOf c f = f.x.cp := by
  rw [policyOf, Ctx.normal, hdual]
  by_cases h : f.x.cp = 0
  · rw [if_pos h, h]
    rfl
  · rw [if_neg h]

/-! ### Words that are done (R23, R75) -/

section
variable {h : Hdr} {s w : State}

/-- A word whose effect has kept the count and the loop registers of its thread. -/
theorem advances_retired (hw : loopState (w.ctx s.cur) = loopState ((issued s.cur h s).ctx s.cur)) :
    Advances h (me s) ((retire s.cur (me s).pc h.sw none w).ctx s.cur) := by
  rw [issued_ctx_same] at hw
  obtain ⟨hcount, hcnt, hbody⟩ : _ ∧ _ ∧ _ := by simpa only [loopState, Prod.mk.injEq] using hw
  rw [retire_ctx_same]
  exact advances_retire hcount hcnt hbody _

theorem loopState_of_still (hw : stillCtx (w.ctx s.cur) = stillCtx ((issued s.cur h s).ctx s.cur)) :
    loopState (w.ctx s.cur) = loopState ((issued s.cur h s).ctx s.cur) := (congrArg loopState hw :)

/-- A word retires with the registers as its accesses have left them. -/
theorem retired_registers (hw : stillCtx (w.ctx s.cur) = stillCtx ((issued s.cur h s).ctx s.cur)) :
    ((retire s.cur (me s).pc h.sw none w).ctx s.cur).stack = (me s).stack ∧
      ((retire s.cur (me s).pc h.sw none w).ctx s.cur).p = (me s).p ∧
      ((retire s.cur (me s).pc h.sw none w).ctx s.cur).deferred = (me s).deferred := by
  have hstack : (w.ctx s.cur).stack = ((issued s.cur h s).ctx s.cur).stack := congrArg (fun c => c.stack) hw
  have hp : (w.ctx s.cur).p = ((issued s.cur h s).ctx s.cur).p := congrArg (fun c => c.p) hw
  have hdeferred : (w.ctx s.cur).deferred = ((issued s.cur h s).ctx s.cur).deferred := congrArg (fun c => c.deferred) hw
  rw [issued_ctx_same] at hstack hp hdeferred
  rw [retire_ctx_same, Ctx.retire_eq]
  exact ⟨hstack, hp, hdeferred⟩

/-- The last long result of a word that has started one when it was done. -/
theorem retired_getLast (dst : LongDst) (v : Option LongVal) :
    ((retire s.cur (me s).pc h.sw none (startLong s.cur dst v w).2).ctx s.cur).outstanding.getLast? = some ⟨w.nextId, dst, v, 0⟩ := by
  rw [retire_ctx_same, Ctx.retire_outstanding, startLong_ctx_same, List.getLast?_concat]

end

/-! ### The accesses (R165, R169) -/

theorem exec_ld (h : Hdr) (f : Fields) (s : State) : exec (.ld h f) s = execLd h f s := by
  rfl

theorem exec_st (h : Hdr) (f : Fields) (s : State) : exec (.st h f) s = execSt h f s := by
  rfl

theorem exec_aadd (h : Hdr) (f : Fields) (s : State) : exec (.aadd h f) s = execAadd h f s := by
  rfl

section
variable {h : Hdr} {f : Fields} {s : State} (hrun : RunsAlone h s) (hreqs : ∀ r ∈ s.reqs, r.x ≠ s.cur)
  (hdev : (addr s f).toNat < 2 ^ 53) (halign : (addr s f).toNat % tyBytes f.x.ty = 0)

/-- The access of device memory that a word makes starts from its issue. -/
theorem access_issued (hreqs : ∀ r ∈ s.reqs, r.x ≠ s.cur) (hdev : (addr s f).toNat < 2 ^ 53) {n : Nat} (halign : (addr s f).toNat % n = 0)
    (i : Instr) (mig : Bool) (spad : Nat → Nat → State → Eff) (dev : Nat → State → Eff) :
    access s.cur i (((issued s.cur h s).ctx s.cur).ea f) n mig (issued s.cur h s) spad dev = dev (addr s f).toNat (issued s.cur h s) := by
  rw [ea_issued, ea_eq_addr]
  exact access_device (accessSpace_device hdev halign) (by rw [issued_reqs]; exact hreqs)

/-- What a device load of a thread answers. -/
def loadAnswer (f : Fields) (s u : State) : Except AccErr Nat × State :=
  devLoad (inOrder (coreOf s.cur) (me s).pid f.x.cp (addr s f).toNat .read u) (coreOf s.cur) (me s).pid f.x.cp (addr s f).toNat (tyBytes f.x.ty)

/-- The long result of a load, by the answer. -/
def loadResult (f : Fields) (s : State) (v : Except AccErr Nat) : LongVal :=
  match v with
  | .ok v => .ok (extendTy f.x.ty v).toNat
  | .error e => .fail (e.trap (me s).pc (addr s f))

include hrun hreqs hdev halign in
/-- A load of device memory starts a long result with its answer. -/
theorem exec_ld_device {v : Except AccErr Nat} {u1 : State} (hload : loadAnswer f s (issued s.cur h s) = (v, u1)) :
    exec (.ld h f) s = .next (retire s.cur (me s).pc h.sw none (startLong s.cur ((me s).longDst f.d) (some (loadResult f s v)) u1).2) := by
  have hself := issued_ctx_same s.cur h s
  have hdst : ((issued s.cur h s).ctx s.cur).longDst f.d = (me s).longDst f.d := by rw [hself]; rfl
  have hpolicy : policyOf ((issued s.cur h s).ctx s.cur) f = f.x.cp := policyOf_single (by rw [hself]; exact hrun.2) f
  refine exec_settles (e := .done _) (exec_ld h f s) rfl hrun (.inl rfl) ((access_issued hreqs hdev halign _ _ _ _).trans ?_)
  rw [hpolicy, hdst, issued_pc, ea_issued, ea_eq_addr, show ((issued s.cur h s).ctx s.cur).pid = (me s).pid by rw [hself]]
  unfold loadAnswer at hload
  rw [show Fields.ty f = f.x.ty from rfl, hload]
  cases v <;> rfl

include hrun hreqs hdev halign in
/-- A store to device memory. -/
theorem exec_st_device :
    exec (.st h f) s = .next (retire s.cur (me s).pc h.sw none (devStoreFor s.cur f.x.cp (addr s f) (tyBytes f.x.ty)
      (((me s).dVal f.d).toNat % 2 ^ (8 * tyBytes f.x.ty)) (issued s.cur h s).nextId (issued s.cur h s).fresh.2)) := by
  have hself := issued_ctx_same s.cur h s
  have hpolicy : policyOf ((issued s.cur h s).ctx s.cur) f = f.x.cp := policyOf_single (by rw [hself]; exact hrun.2) f
  have hval : ((issued s.cur h s).ctx s.cur).dVal f.d = (me s).dVal f.d := by rw [hself]; rfl
  refine exec_settles (e := .done _) (exec_st h f s) rfl hrun (.inl rfl) ((access_issued hreqs hdev halign _ _ _ _).trans ?_)
  rw [hpolicy, hval, ea_issued, ea_eq_addr]
  rfl

/-- What a device store of a thread answers. -/
def storeAnswer (f : Fields) (s u : State) (v : Nat) : Except AccErr Unit × State :=
  devStore (inOrder (coreOf s.cur) (me s).pid f.x.cp (addr s f).toNat .write u.fresh.2) (coreOf s.cur) (some s.cur) (me s).pid f.x.cp
    (addr s f).toNat (tyBytes f.x.ty) v

theorem devStoreFor_issued (v : Nat) :
    devStoreFor s.cur f.x.cp (addr s f) (tyBytes f.x.ty) v (issued s.cur h s).nextId (issued s.cur h s).fresh.2 =
      match storeAnswer f s (issued s.cur h s) v with
      | (.ok _, u1) => u1
      | (.error (.xlate e), u1) =>
        deferStore s.cur (me s).pc (addr s f) (BitVec.ofNat 64 e) (tyBytes f.x.ty) v f.x.cp none (issued s.cur h s).nextId 0 u1
      | (.error e, u1) => postTrap s.cur (e.trap (me s).pc (addr s f)) u1 := by
  have hself : ((issued s.cur h s).fresh.2).ctx s.cur = { me s with icount := (me s).icount + 1, held := ((issued s.cur h s).ctx s.cur).held } :=
    issued_ctx_same s.cur h s
  unfold devStoreFor storeAnswer
  rw [hself] <;> rfl

/-- A store's answer comes with the registers as they were. -/
theorem storeAnswer_still {v : Nat} {r : Except AccErr Unit} {u1 : State} (hstore : storeAnswer f s (issued s.cur h s) v = (r, u1)) :
    stillCtx (u1.ctx s.cur) = stillCtx ((issued s.cur h s).ctx s.cur) := by
  have hp := steady_stillCtx s.cur
  have hkeeps : stillCtx ((storeAnswer f s (issued s.cur h s) v).2.ctx s.cur) = stillCtx ((issued s.cur h s).fresh.2.ctx s.cur) :=
    (devStore_quiet hp.toQuiet _ _ _ _ _ _ _ _).trans (inOrder_steady hp _ _ _ _ _ _)
  rw [hstore] at hkeeps
  exact hkeeps

/-- So does a load's. -/
theorem loadAnswer_still {r : Except AccErr Nat} {u1 : State} (hload : loadAnswer f s (issued s.cur h s) = (r, u1)) :
    stillCtx (u1.ctx s.cur) = stillCtx ((issued s.cur h s).ctx s.cur) := by
  have hp := steady_stillCtx s.cur
  have hkeeps : stillCtx ((loadAnswer f s (issued s.cur h s)).2.ctx s.cur) = stillCtx ((issued s.cur h s).ctx s.cur) :=
    (devLoad_quiet hp.toQuiet _ _ _ _ _ _).trans (inOrder_steady hp _ _ _ _ _ _)
  rw [hload] at hkeeps
  exact hkeeps

/-! ### Loads (R170) -/

include hrun hreqs hdev halign in
theorem ld_ends {n : BitVec 4} (hd : f.d = .w n) {v : Except AccErr Nat} {u1 : State} (hload : loadAnswer f s (issued s.cur h s) = (v, u1)) :
    Ends (.ld h f) s fun t : State => Advances h (me s) (t.ctx s.cur) ∧ t.mem = u1.mem ∧ t.dies = u1.dies ∧
      (t.ctx s.cur).outstanding.getLast? = some ⟨u1.nextId, .w ((8 * (me s).wf + n.toNat) % 64), some (loadResult f s v), 0⟩ := by
  have hdst : (me s).longDst f.d = .w ((8 * (me s).wf + n.toNat) % 64) := by rw [hd]; rfl
  refine ⟨_, exec_ld_device hrun hreqs hdev halign hload, advances_retired (loopState_of_still ?_), rfl, rfl, ?_⟩
  · rw [startLong_stillCtx]
    exact loadAnswer_still hload
  · rw [retired_getLast, hdst]

/-! ### Stores (R35, R170) -/

include hrun hreqs hdev halign in
/-- A store that its caches and homes take. -/
theorem st_ends {u1 : State}
    (hstore : storeAnswer f s (issued s.cur h s) (((me s).dVal f.d).toNat % 2 ^ (8 * tyBytes f.x.ty)) = (.ok (), u1)) :
    Ends (.st h f) s fun t : State => (t.ctx s.cur).pc = (fallThrough (me s) (me s).pc).pc ∧ t.mem = u1.mem ∧ t.dies = u1.dies ∧
      (t.ctx s.cur).stack = (me s).stack ∧ (t.ctx s.cur).deferred = (me s).deferred := by
  have hexec := exec_st_device hrun hreqs hdev halign
  rw [devStoreFor_issued, hstore] at hexec
  have hstill := storeAnswer_still hstore
  obtain ⟨hstack, -, hdeferred⟩ := retired_registers hstill
  exact ⟨_, hexec, retired_pc (loopState_of_still hstill), rfl, rfl, hstack, hdeferred⟩

include hrun hreqs hdev halign in
/-- A store whose translation fails is kept for the next marker. -/
theorem st_defers {e : Nat} {u1 : State}
    (hstore : storeAnswer f s (issued s.cur h s) (((me s).dVal f.d).toNat % 2 ^ (8 * tyBytes f.x.ty)) = (.error (.xlate e), u1)) :
    Ends (.st h f) s fun t : State => (t.ctx s.cur).pc = (fallThrough (me s) (me s).pc).pc ∧ t.mem = u1.mem ∧
      ∃ q, (t.ctx s.cur).deferred = (me s).deferred ++ [q] ∧ q.fpc = (me s).pc ∧ q.faddr = addr s f ∧ q.finfo = BitVec.ofNat 64 e ∧
        q.taken = false := by
  have hexec := exec_st_device hrun hreqs hdev halign
  rw [devStoreFor_issued, hstore] at hexec
  dsimp only at hexec
  have hstill := storeAnswer_still hstore
  have hdeferred : (u1.ctx s.cur).deferred = ((issued s.cur h s).ctx s.cur).deferred := congrArg (fun c => c.deferred) hstill
  rw [issued_ctx_same] at hdeferred
  refine ⟨_, hexec, retired_pc ?_, rfl, ?_⟩
  · refine Eq.trans ?_ (loopState_of_still hstill)
    rw [deferStore, State.modCtx_ctx_same]
    rfl
  · rw [retire_ctx_same, Ctx.retire_eq, deferStore, State.modCtx_ctx_same]
    exact ⟨_, congrArg (· ++ [_]) hdeferred, rfl, rfl, rfl, rfl⟩

/-! ### Atomics (R183) -/

/-- The request of an atomic without a release to a home, of a thread whose registers are `c`. -/
def atomicReq (x : Nat) (c : Ctx) (f : Fields) (op : AtomKind) (v cmp : Word) (home : Home) : Req :=
  { mkReq x c (.atom op) home (tyBytes f.ty) f.ty v.toNat (c.ea f) with
    cmp := cmp.toNat, acq := if f.subBit 4 then f.x.sc else 0, ord := f.x.ord }

/-- The state in which the request of an atomic is under way; it has a long result but for the `.nr` form. -/
def atomicSent (x : Nat) (c : Ctx) (f : Fields) (r : Req) (u : State) : State :=
  if f.subBit 5 then launchReq r u else longReq x (c.longDst f.d) r u

/-- A request to device memory, or to a copy of it, travels. -/
theorem launchReq_travels {r : Req} (hhome : ∀ k off, r.home ≠ .spad k off) (u : State) : launchReq r u = sendReq r u := by
  unfold launchReq
  rw [if_neg]
  unfold Req.atCore
  split
  · next k off he => exact absurd he (hhome k off)
  · exact Bool.noConfusion
  · exact Bool.noConfusion

theorem devHome_noSpad {k pid va : Nat} {acc : Acc} {u u1 : State} {home : Home} (hhome : devHome u k pid va acc = (.ok home, u1)) (m off : Nat) :
    home ≠ .spad m off := by
  unfold devHome at hhome
  split at hhome
  · cases hhome
  · split at hhome <;>
    · cases hhome
      exact fun h => nomatch h

/-- What an atomic in flight is, and what it has left. -/
theorem atomicSent_eq (x : Nat) (c : Ctx) (f : Fields) {r : Req} (hhome : ∀ k off, r.home ≠ .spad k off) (u : State) :
    stillCtx ((atomicSent x c f r u).ctx x) = stillCtx (u.ctx x) ∧ (atomicSent x c f r u).mem = u.mem ∧
      ∃ lr, (atomicSent x c f r u).reqs = u.reqs ++ [{ r with lr := lr }] := by
  unfold atomicSent
  split
  · rw [launchReq_travels hhome]
    exact ⟨rfl, rfl, r.lr, rfl⟩
  · unfold longReq
    dsimp only
    rw [launchReq_travels (by exact hhome)]
    exact ⟨startLong_stillCtx _ _ _ _ _, rfl, _, rfl⟩

include hrun hreqs hdev halign in
/-- An atomic without a release to device memory is sent to its home. -/
theorem exec_aadd_device (hrel : f.sub.getLsbD 3 = false) {home : Home} {u1 : State}
    (hhome : devHome (issued s.cur h s) (coreOf s.cur) (me s).pid (addr s f).toNat .write = (.ok home, u1)) :
    exec (.aadd h f) s = .next (retire s.cur (me s).pc h.sw none
      (atomicSent s.cur ((issued s.cur h s).ctx s.cur) f
        (atomicReq s.cur ((issued s.cur h s).ctx s.cur) f .add (((issued s.cur h s).ctx s.cur).dVal f.d) 0 home)
        (noteWrote (some s.cur) (lineOf (addr s f).toNat) u1))) := by
  have hbit : f.subBit 3 = false := hrel
  have hpid : ((issued s.cur h s).ctx s.cur).pid = (me s).pid := by rw [issued_ctx_same]
  refine exec_settles (e := .done _) (exec_aadd h f s) rfl hrun (.inl rfl) ?_
  unfold atomicEff
  refine (access_issued hreqs hdev halign _ _ _ _).trans ?_
  simp only [hbit, hpid, Bool.false_eq_true, if_false, hhome]
  rfl

include hrun hreqs hdev halign in
theorem aadd_ends {n : BitVec 4} (hd : f.d = .w n) (hrel : f.sub.getLsbD 3 = false) {home : Home} {u1 : State}
    (hhome : devHome (issued s.cur h s) (coreOf s.cur) (me s).pid (addr s f).toNat .write = (.ok home, u1)) :
    Ends (.aadd h f) s fun t : State => Advances h (me s) (t.ctx s.cur) ∧ t.mem = u1.mem ∧ t.reqs.length = s.reqs.length + 1 ∧
      ∃ r ∈ t.reqs, r.op = .atom .add ∧ r.home = home ∧ r.x = s.cur ∧ r.size = tyBytes f.x.ty ∧ r.val = ((me s).w n.toNat).toNat := by
  let c := (issued s.cur h s).ctx s.cur
  let w := noteWrote (some s.cur) (lineOf (addr s f).toNat) u1
  let r := atomicReq s.cur c f .add (c.dVal f.d) 0 home
  obtain ⟨hstill, hmem, lr, hsent⟩ := atomicSent_eq s.cur c f (r := r) (devHome_noSpad hhome) w
  have hkeeps : ∀ {α : Type} {p : State → α}, Quiet p → p w = p (issued s.cur h s) := fun hp =>
    (noteWrote_quiet hp _ _ _).trans (keeps_of_answer hhome (devHome_quiet hp _ _ _ _ _))
  have hval : c.dVal f.d = (me s).w n.toNat := by
    show ((issued s.cur h s).ctx s.cur).dVal f.d = _
    rw [hd, issued_ctx_same]
    rfl
  rw [hkeeps quiet_reqs, issued_reqs] at hsent
  refine ⟨_, exec_aadd_device hrun hreqs hdev halign hrel hhome, advances_retired (loopState_of_still (hstill.trans (hkeeps (quiet_stillCtx s.cur)))),
    hmem, ?_, { r with lr := lr }, ?_, rfl, rfl, rfl, rfl, congrArg BitVec.toNat hval⟩
  · exact (congrArg List.length hsent).trans List.length_append
  · exact hsent ▸ List.mem_append_right _ (List.mem_singleton.2 rfl)

end

/-- Settles O19: each word is the model's own access of its space, made from the state of its issue; the accesses keep the registers of the thread. -/
theorem deviceMemoryAccesses : Obligations.DeviceMemoryAccesses := by
  intro h f n s hrun hd hty h14 hreqs c k a b u ul us dst hdev halign
  have hval : (me s).dVal f.d = (me s).w n.toNat := by rw [hd]; rfl
  refine ⟨fun v u1 hload => ?_, fun e u1 hload => ?_, fun u1 hstore => ?_, fun e u1 hstore => ?_, fun i u1 hstore => ?_,
    fun home u1 _ _ hrel hhome => aadd_ends hrun hreqs hdev halign hd hrel hhome⟩
  · rw [← extendTy_loaded h14]
    exact ld_ends hrun hreqs hdev halign hd hload
  · obtain ⟨t, ht, hadv, hmem, -, hlast⟩ := ld_ends hrun hreqs hdev halign hd hload
    exact ⟨t, ht, hadv, hmem, hlast⟩
  · exact st_ends hrun hreqs hdev halign (hval ▸ hstore)
  · exact st_defers hrun hreqs hdev halign (hval ▸ hstore)
  · obtain ⟨t, ht, hpc, hmem, -, hstack, -⟩ := st_ends (f := { f with d := .imm i }) hrun hreqs hdev halign hstore
    exact ⟨t, ht, hpc, hmem, hstack⟩

end Sys2Proof.Proofs
end

section
/-! PROOFS. What the write-backs of a release and the drops of an acquire leave in the caches and in memory (O20). -/

namespace Sys2Proof.Proofs

open Sys2Proof Sys2Proof.Machine Sys2Proof.Claims

/-! ### Clearing a cache name by name

Each step of a release clears one name: what it leaves is as it should be, or was there before under another name. -/

theorem foldl_clears {ι κ ν : Type} (items : State → List ι) (name : ι → ν) (key : κ → ν) (good : ι → Prop) (g : State → κ → State)
    (hg : ∀ t a e, e ∈ items (g t a) → good e ∨ (e ∈ items t ∧ name e ≠ key a)) (L : List κ) (s : State) {e : ι}
    (he : e ∈ items (L.foldl g s)) : good e ∨ (e ∈ items s ∧ ∀ a ∈ L, name e ≠ key a) := by
  induction L generalizing s with
  | nil => exact .inr ⟨he, fun _ h => absurd h List.not_mem_nil⟩
  | cons a L ih =>
    obtain h | ⟨hmem, hother⟩ := ih (g s a) he
    · exact .inl h
    · obtain h | ⟨hmem, hne⟩ := hg s a e hmem
      · exact .inl h
      · exact .inr ⟨hmem, List.forall_mem_cons.2 ⟨hne, hother⟩⟩

/-! ### The L1 (R164, R180 to R182) -/

/-- The lines of an L1. -/
def l1Lines (m : Nat) (s : State) : List L1Line := (s.core m).l1

theorem l1Lines_congr {s t : State} (h : l1View t = l1View s) (m : Nat) : l1Lines m t = l1Lines m s :=
  congrFun (congrArg (fun v => v.2.1) h) m

/-- The name of a line. -/
def lineName (l : L1Line) : Nat × Nat := (l.pid, l.vln)

theorem name_beq (l : L1Line) (pid vln : Nat) : (l.pid == pid && l.vln == vln) = decide (lineName l = (pid, vln)) := by
  simp only [lineName, Prod.mk.injEq, Bool.decide_and, beq_eq_decide]

theorem mem_l1Remove {s : State} {m j pid vln : Nat} {l : L1Line} (hl : l ∈ l1Lines j (l1Remove s m pid vln)) :
    l ∈ l1Lines j s ∧ (j = m → lineName l ≠ (pid, vln)) := by
  rw [l1Lines, l1Remove, State.modCore_core] at hl
  split at hl
  · next h =>
    obtain ⟨hmem, hname⟩ := List.mem_filter.1 hl
    rw [name_beq, Bool.not_eq_true', decide_eq_false_iff_not] at hname
    exact ⟨h ▸ hmem, fun _ => hname⟩
  · next h => exact ⟨hl, fun hj => absurd hj h⟩

theorem mem_l1Put {s : State} {m j : Nat} {l e : L1Line} (hl : l ∈ l1Lines j (l1Put s m e)) :
    l = e ∨ l ∈ l1Lines j s ∧ (j = m → lineName l ≠ lineName e) := by
  rw [l1Lines, l1Put, State.modCore_core] at hl
  split at hl
  · next h =>
    obtain hmem | hnew := List.mem_append.1 hl
    · obtain ⟨hmem, hname⟩ := List.mem_filter.1 hmem
      rw [name_beq, Bool.not_eq_true', decide_eq_false_iff_not] at hname
      exact .inr ⟨h ▸ hmem, fun _ => hname⟩
    · exact .inl (List.mem_singleton.1 hnew)
  · next h => exact .inr ⟨hl, fun hj => absurd hj h⟩

/-- Cleaning a line leaves it clean, or not at all, and every other line as it was. -/
theorem mem_l1Clean {s : State} {m j pid vln : Nat} {l : L1Line} (hl : l ∈ l1Lines j (l1Clean s m pid vln)) :
    l.dirty = 0 ∨ l ∈ l1Lines j s ∧ (j = m → lineName l ≠ (pid, vln)) := by
  have hback : ∀ e, l1Lines j (l1WriteBack s m e) = l1Lines j s := fun e => l1Lines_congr (l1WriteBack_l1View s m e) j
  unfold l1Clean at hl
  split at hl
  · next hnone =>
    refine .inr ⟨hl, fun hj hname => ?_⟩
    rw [l1Find, List.find?_eq_none] at hnone
    have hnot := hnone l (hj ▸ hl)
    rw [name_beq, decide_eq_true_eq] at hnot
    exact hnot hname
  · next e hfound =>
    have hname : lineName e = (pid, vln) := Prod.ext_iff.2 (l1Find_name hfound)
    split at hl
    · obtain ⟨hmem, hne⟩ := mem_l1Remove hl
      exact .inr ⟨hback e ▸ hmem, hne⟩
    · obtain h | ⟨hmem, hne⟩ := mem_l1Put hl
      · exact .inl (by rw [h])
      · exact .inr ⟨hback e ▸ hmem, fun hj => hname ▸ hne hj⟩

/-- The write-backs of a core's L1. -/
def l1CleanAll (t : State) (m : Nat) : State :=
  ((t.core m).l1.filter fun l => lineIn none l.vln).foldl (fun u l => l1Clean u m l.pid l.vln) t

theorem l1CleanAll_clean (t : State) (m : Nat) : ∀ l ∈ l1Lines m (l1CleanAll t m), l.dirty = 0 := by
  intro l hl
  obtain h | ⟨hmem, hother⟩ := foldl_clears (l1Lines m) lineName lineName (fun l => l.dirty = 0) (fun u l => l1Clean u m l.pid l.vln)
    (fun u a e he => (mem_l1Clean he).imp_right fun ⟨hmem, hne⟩ => ⟨hmem, hne rfl⟩) _ t hl
  · exact h
  · exact absurd rfl (hother l (List.mem_filter.2 ⟨hmem, rfl⟩))

theorem l1CleanAll_keeps_clean (t : State) (m j : Nat) (h : ∀ l ∈ l1Lines j t, l.dirty = 0) : ∀ l ∈ l1Lines j (l1CleanAll t m), l.dirty = 0 :=
  foldl_inv (fun u => ∀ l ∈ l1Lines j u, l.dirty = 0) _
    (fun _ _ hu l hl => (mem_l1Clean hl).elim id fun hmem => hu l hmem.1) _ t h

/-- The drops of an acquire in a core's L1. -/
def l1DropAll (t : State) (m : Nat) : State :=
  t.modCore m fun c => { c with l1 := c.l1.filterMap fun l => if lineIn none l.vln then l.acquired else some l }

/-- What an acquire leaves of a line. -/
def StaleDirty (l : L1Line) : Prop := l.dirty ≠ 0 ∧ l.stale = true

theorem staleDirty_of_acquired {l e : L1Line} (h : e.acquired = some l) : StaleDirty l := by
  unfold L1Line.acquired at h
  split at h
  · cases h
  · next hdirty =>
    cases h
    exact ⟨hdirty, rfl⟩

theorem l1DropAll_stale (t : State) (m : Nat) : ∀ l ∈ l1Lines m (l1DropAll t m), StaleDirty l := by
  intro l hl
  rw [l1Lines, l1DropAll, State.modCore_core_same] at hl
  obtain ⟨e, -, he⟩ := List.mem_filterMap.1 hl
  exact staleDirty_of_acquired he

theorem l1DropAll_keeps_stale (t : State) (m j : Nat) (h : ∀ l ∈ l1Lines j t, StaleDirty l) : ∀ l ∈ l1Lines j (l1DropAll t m), StaleDirty l := by
  by_cases hj : j = m
  · rw [hj]
    exact l1DropAll_stale t m
  · rw [l1Lines, l1DropAll, State.modCore_core_ne _ _ _ _ hj]
    exact h

/-- A property that each member of a list gives to itself, and that every other member's step keeps, holds of all of them after the list. -/
theorem foldl_each {P : Nat → State → Prop} {g : State → Nat → State} (hown : ∀ t m, P m (g t m)) (hkeep : ∀ t m j, P j t → P j (g t m))
    (L : List Nat) (s : State) {j : Nat} (hj : j ∈ L) : P j (L.foldl g s) := by
  induction L generalizing s with
  | nil => exact absurd hj List.not_mem_nil
  | cons m L ih =>
    obtain h | h := List.mem_cons.1 hj
    · subst h
      exact foldl_inv (P j) g (fun t m ht => hkeep t m j ht) L _ (hown s j)
    · exact ih _ h

/-! ### The copies of a die (R165, R348) -/

/-- The copies that a die holds. -/
def llcCopies (d : Nat) (s : State) : List (Nat × LlcLine) := (s.die d).llc

theorem mem_erase_llc {m : SMap LlcLine} {ln : Nat} {e : Nat × LlcLine} (he : e ∈ m.erase ln) : e ∈ m ∧ e.1 ≠ ln := by
  simp only [SMap.erase, List.mem_append, List.mem_filter, decide_eq_true_eq] at he
  obtain ⟨h, hlt⟩ | ⟨h, hlt⟩ := he
  · exact ⟨h, by omega⟩
  · exact ⟨h, by omega⟩

theorem mem_put_llc {m : SMap LlcLine} {ln : Nat} {l : LlcLine} {e : Nat × LlcLine} (he : e ∈ m.put ln l) : e = (ln, l) ∨ e ∈ m ∧ e.1 ≠ ln := by
  simp only [SMap.put, List.mem_append, List.mem_cons, List.mem_filter, decide_eq_true_eq] at he
  obtain ⟨h, hlt⟩ | h | ⟨h, hlt⟩ := he
  · exact .inr ⟨h, by omega⟩
  · exact .inl h
  · exact .inr ⟨h, by omega⟩

theorem name_of_get?_none {m : SMap LlcLine} {ln : Nat} (h : m.get? ln = none) {e : Nat × LlcLine} (he : e ∈ m) : e.1 ≠ ln := by
  induction m with
  | nil => exact absurd he List.not_mem_nil
  | cons a m ih =>
    unfold SMap.get? at h
    split at h
    · cases h
    · next hne =>
      obtain rfl | hmem := List.mem_cons.1 he
      · exact fun heq => hne heq
      · exact ih h hmem

theorem modDie_llcCopies (d j : Nat) (g : Die → Die) (hg : ∀ x, (g x).llc = x.llc) (s : State) : llcCopies j (s.modDie d g) = llcCopies j s := by
  rw [llcCopies, State.modDie_die]
  split
  · next h => rw [hg, h]; rfl
  · rfl

theorem serveAt_llcCopies (j : Nat) (e : Option Nat) (pa n : Nat) (s : State) : llcCopies j (serveAt e pa n s) = llcCopies j s := by
  have hmark : ∀ hit t, llcCopies j (markHeld hit t) = llcCopies j t := fun _ _ => rfl
  unfold serveAt
  dsimp only
  rw [hmark]
  split
  · rfl
  · refine (foldl_keeps (llcCopies j) _ (fun t r => by rw [replyReq_frame]; rfl) _ _).trans ?_
    apply modDie_llcCopies
    exact fun _ => rfl

theorem serveMask_llcCopies (j : Nat) (e : Option Nat) (ln : Nat) (mask : BitVec 128) (s : State) :
    llcCopies j (serveMask e ln mask s) = llcCopies j s := by
  apply foldl_keeps (llcCopies j)
  intro t i
  split
  · rfl
  · exact serveAt_llcCopies _ _ _ _ _

theorem homeMerge_llcCopies (j : Nat) (s : State) (ln : Nat) (bits : LineBits) (mask : BitVec 128) :
    llcCopies j (homeMerge s ln bits mask) = llcCopies j s := serveMask_llcCopies _ _ _ _ _

/-- A copy that is dropped leaves the others as they are. -/
theorem mem_llcDrop {s : State} {d ln : Nat} {e : Nat × LlcLine} (he : e ∈ llcCopies d (llcDrop s d ln)) : e ∈ llcCopies d s ∧ e.1 ≠ ln := by
  have herase : ∀ {u : State}, llcCopies d u = SMap.erase (llcCopies d s) ln → e ∈ llcCopies d u → e ∈ llcCopies d s ∧ e.1 ≠ ln :=
    fun hu h => mem_erase_llc (hu ▸ h)
  have hs1 : llcCopies d (s.modDie d fun dd => { dd with llc := dd.llc.erase ln }) = SMap.erase (llcCopies d s) ln := by
    rw [llcCopies, State.modDie_die_same]
    rfl
  unfold llcDrop at he
  split at he
  · next hnone => exact ⟨he, name_of_get?_none hnone he⟩
  · dsimp only at he
    split at he
    · exact herase hs1 he
    · split at he
      · exact herase ((homeMerge_llcCopies _ _ _ _ _).trans hs1) he
      · exact herase ((homeMerge_llcCopies _ _ _ _ _).trans hs1) he

/-- Cleaning a copy leaves it clean, or not at all, and every other copy as it was. -/
theorem mem_llcClean {s : State} {d ln : Nat} {e : Nat × LlcLine} (he : e ∈ llcCopies d (llcClean s d ln)) :
    e.2.dirty = 0 ∨ e ∈ llcCopies d s ∧ e.1 ≠ ln := by
  unfold llcClean at he
  split at he
  · next hnone => exact .inr ⟨he, name_of_get?_none hnone he⟩
  · split at he
    · exact .inr (mem_llcDrop he)
    · rw [llcCopies, State.modDie_die_same] at he
      obtain h | ⟨hmem, hne⟩ := mem_put_llc he
      · exact .inl (by rw [h])
      · exact .inr ⟨(mem_llcDrop hmem).1, hne⟩

/-- An acquire leaves of a copy its dirty bytes, or nothing, and every other copy as it was. -/
theorem mem_llcAcquire {s : State} {d ln : Nat} {e : Nat × LlcLine} (he : e ∈ llcCopies d (llcAcquire d ln s)) :
    (e.2.dirty ≠ 0 ∧ e.2.stale = true) ∨ e ∈ llcCopies d s ∧ e.1 ≠ ln := by
  unfold llcAcquire at he
  split at he
  · next hnone => exact .inr ⟨he, name_of_get?_none hnone he⟩
  · next l _ =>
    rw [llcCopies, State.modDie_die_same] at he
    dsimp only at he
    split at he
    · next l1 hacquired =>
      obtain h | h := mem_put_llc he
      · refine .inl ?_
        unfold LlcLine.acquired at hacquired
        split at hacquired
        · cases hacquired
        · next hdirty =>
          cases hacquired
          rw [h]
          exact ⟨hdirty, rfl⟩
      · exact .inr h
    · exact .inr (mem_erase_llc he)

theorem llcClean_l1Lines (s : State) (d ln m : Nat) : l1Lines m (llcClean s d ln) = l1Lines m s := by
  have hdrop := l1Lines_congr (llcDrop_l1View s d ln) m
  unfold llcClean
  split
  · rfl
  · split
    · exact hdrop
    · exact hdrop

theorem llcAcquire_cores (d ln : Nat) (s : State) : (llcAcquire d ln s).cores = s.cores := by
  unfold llcAcquire
  split <;> rfl

theorem llcAcquire_mem (d ln : Nat) (s : State) : (llcAcquire d ln s).mem = s.mem := by
  unfold llcAcquire
  split <;> rfl

/-! ### Releases and acquires of every address (R181, R182) -/

section
variable {s : State} {k pid sc : Nat}

theorem releaseLines_atL1 (hpoint : (scopeAtDie (s.cluster (clusterOf k)).fused sc || scopeAtHome sc) = false) (ranges : Option (List (Nat × Nat))) :
    releaseLines s k pid sc ranges = s := by
  unfold releaseLines
  dsimp only
  rw [hpoint, if_neg Bool.noConfusion]

theorem acquireLines_atL1 (hpoint : (scopeAtDie (s.cluster (clusterOf k)).fused sc || scopeAtHome sc) = false) (ranges : Option (List (Nat × Nat))) :
    acquireLines s k pid sc ranges = s := by
  unfold acquireLines
  dsimp only
  rw [hpoint, if_neg Bool.noConfusion]

theorem releaseLines_all (hpoint : (scopeAtDie (s.cluster (clusterOf k)).fused sc || scopeAtHome sc) = true) :
    releaseLines s k pid sc none =
      if scopeAtHome sc then (llcLines ((l1Cores s k).foldl l1CleanAll s) (coreDie k)).foldl (fun t ln => llcClean t (coreDie k) ln)
        ((l1Cores s k).foldl l1CleanAll s)
      else (l1Cores s k).foldl l1CleanAll s := by
  unfold releaseLines
  dsimp only
  rw [hpoint, if_pos rfl]
  rfl

theorem acquireLines_all (hpoint : (scopeAtDie (s.cluster (clusterOf k)).fused sc || scopeAtHome sc) = true) :
    acquireLines s k pid sc none =
      if scopeAtHome sc then (llcLines ((l1Cores s k).foldl l1DropAll s) (coreDie k)).foldl (fun t ln => llcAcquire (coreDie k) ln t)
        ((l1Cores s k).foldl l1DropAll s)
      else (l1Cores s k).foldl l1DropAll s := by
  unfold acquireLines
  dsimp only
  rw [hpoint, if_pos rfl]
  rfl

/-- Beyond the L1, a release leaves no dirty byte in an L1 that the core's accesses go through. -/
theorem releaseLines_l1_clean (hpoint : (scopeAtDie (s.cluster (clusterOf k)).fused sc || scopeAtHome sc) = true) {m : Nat} (hm : m ∈ l1Cores s k) :
    ∀ l ∈ l1Lines m (releaseLines s k pid sc none), l.dirty = 0 := by
  have hclean : ∀ l ∈ l1Lines m ((l1Cores s k).foldl l1CleanAll s), l.dirty = 0 :=
    foldl_each (P := fun m t => ∀ l ∈ l1Lines m t, l.dirty = 0) l1CleanAll_clean l1CleanAll_keeps_clean _ s hm
  rw [releaseLines_all hpoint]
  split
  · rwa [foldl_keeps (l1Lines m) _ fun t ln => llcClean_l1Lines t (coreDie k) ln m]
  · exact hclean

/-- Beyond the L1, an acquire leaves only dirty bytes there. -/
theorem acquireLines_l1_stale (hpoint : (scopeAtDie (s.cluster (clusterOf k)).fused sc || scopeAtHome sc) = true) {m : Nat} (hm : m ∈ l1Cores s k) :
    ∀ l ∈ l1Lines m (acquireLines s k pid sc none), StaleDirty l := by
  have hstale : ∀ l ∈ l1Lines m ((l1Cores s k).foldl l1DropAll s), StaleDirty l :=
    foldl_each (P := fun m t => ∀ l ∈ l1Lines m t, StaleDirty l) l1DropAll_stale l1DropAll_keeps_stale _ s hm
  have hkeep : ∀ (t : State) (ln : Nat), l1Lines m (llcAcquire (coreDie k) ln t) = l1Lines m t := fun t ln => by
    rw [l1Lines, State.core, llcAcquire_cores]
    rfl
  rw [acquireLines_all hpoint]
  split
  · rwa [foldl_keeps (l1Lines m) _ hkeep]
  · exact hstale

/-- Beyond the die, a release leaves no dirty byte in the die's copies. -/
theorem releaseLines_llc_clean (hsc : 4 ≤ sc) : ∀ e ∈ llcCopies (coreDie k) (releaseLines s k pid sc none), e.2.dirty = 0 := by
  have hhome : scopeAtHome sc = true := decide_eq_true hsc
  intro e he
  rw [releaseLines_all (by rw [hhome, Bool.or_true]), if_pos hhome] at he
  obtain h | ⟨hmem, hother⟩ := foldl_clears (llcCopies (coreDie k)) Prod.fst id (fun e => e.2.dirty = 0) (fun t ln => llcClean t (coreDie k) ln)
    (fun _ _ _ h => mem_llcClean h) _ _ he
  · exact h
  · exact absurd rfl (hother e.1 (List.mem_map.2 ⟨e, hmem, rfl⟩))

/-- Beyond the die, an acquire leaves only dirty bytes there. -/
theorem acquireLines_llc_stale (hsc : 4 ≤ sc) :
    ∀ e ∈ llcCopies (coreDie k) (acquireLines s k pid sc none), e.2.dirty ≠ 0 ∧ e.2.stale = true := by
  have hhome : scopeAtHome sc = true := decide_eq_true hsc
  intro e he
  rw [acquireLines_all (by rw [hhome, Bool.or_true]), if_pos hhome] at he
  obtain h | ⟨hmem, hother⟩ := foldl_clears (llcCopies (coreDie k)) Prod.fst id (fun e => e.2.dirty ≠ 0 ∧ e.2.stale = true)
    (fun t ln => llcAcquire (coreDie k) ln t) (fun _ _ _ h => mem_llcAcquire h) _ _ he
  · exact h
  · exact absurd rfl (hother e.1 (List.mem_map.2 ⟨e, hmem, rfl⟩))

/-- An acquire writes nothing. -/
theorem acquireLines_mem : (acquireLines s k pid sc none).mem = s.mem := by
  by_cases hpoint : (scopeAtDie (s.cluster (clusterOf k)).fused sc || scopeAtHome sc) = true
  · have hl1 : ((l1Cores s k).foldl l1DropAll s).mem = s.mem := foldl_keeps State.mem l1DropAll (fun _ _ => rfl) _ _
    rw [acquireLines_all hpoint]
    split
    · rw [foldl_keeps State.mem _ (fun t ln => llcAcquire_mem (coreDie k) ln t), hl1]
    · exact hl1
  · rw [acquireLines_atL1 (Bool.eq_false_iff.2 hpoint)]

end

/-! ### The bytes that a write-back puts into memory (R164, R348) -/

theorem memByte_writeMasked (m : List Host.Cell) (base : Nat) (bits : LineBits) (mask : BitVec 128) (n i : Nat) :
    memByte (writeMasked m base bits mask n) (base + i) =
      if i < n ∧ mask.getLsbD i = true then bits.extractLsb' (8 * i) 8 else memByte m (base + i) := by
  induction n generalizing m with
  | zero => rw [if_neg (by omega)]; rfl
  | succ n ih =>
    rw [writeMasked, ih]
    by_cases hi : i = n
    · subst hi
      rw [if_neg (by omega)]
      by_cases hbit : mask.getLsbD i = true
      · rw [if_pos hbit, memByte_memPut_same, if_pos ⟨by omega, hbit⟩]
      · rw [if_neg hbit, if_neg (fun h => hbit h.2)]
    · have hkeep : memByte (if mask.getLsbD n then memPut m (base + n) (bits.extractLsb' (8 * n) 8) else m) (base + i) = memByte m (base + i) := by
        split
        · rw [memByte_memPut, if_neg (by omega)]
        · rfl
      rw [hkeep]
      exact if_congr (and_congr_left fun _ => by omega) rfl rfl

/-- What a write of a line under a mask leaves of its bytes. -/
theorem memByte_homeMerge (s : State) (ln : Nat) (bits : LineBits) (mask : BitVec 128) {i : Nat} (hi : i < 128) :
    memByte (homeMerge s ln bits mask).mem (128 * ln + i) =
      if mask.getLsbD i then bits.extractLsb' (8 * i) 8 else memByte s.mem (128 * ln + i) := by
  rw [homeMerge_mem, memByte_writeMasked]
  exact if_congr (and_iff_right hi) rfl rfl

/-- The write-back of a dirty line of an L1 to a home on its own die. -/
theorem l1WriteBack_home {s s1 : State} {k : Nat} {l : L1Line} {p : Page} (hdirty : l.dirty ≠ 0)
    (htranslate : translate s (coreDie k) l.pid (128 * l.vln) .read = (.ok p, s1)) (hpoison : l.poison = false)
    (hhome : homeDie (128 * (p.pa / 128)) = coreDie k) : l1WriteBack s k l = homeMerge s1 (p.pa / 128) l.bits l.dirty := by
  unfold l1WriteBack
  rw [if_neg hdirty, htranslate]
  dsimp only
  rw [hpoison, if_neg Bool.noConfusion]
  unfold dieMerge lineOf
  rw [if_pos hhome]

theorem llcDrop_mem {s : State} {d ln : Nat} {l : LlcLine} (hcopy : (s.die d).llc.get? ln = some l)
    (hfence : fencedFrom s d (homeDie (128 * ln)) = false) : ∃ u, (llcDrop s d ln).mem = (homeMerge u ln l.bits l.dirty).mem ∧ u.mem = s.mem := by
  refine ⟨s.modDie d fun dd => { dd with llc := dd.llc.erase ln }, ?_, rfl⟩
  have hfence' : fencedFrom (s.modDie d fun dd => { dd with llc := dd.llc.erase ln }) d (homeDie (128 * ln)) = false := by
    rw [fencedFrom, State.modDie_die_same]
    exact hfence
  unfold llcDrop llcCopy
  rw [hcopy]
  dsimp only
  rw [hfence, if_neg Bool.noConfusion]
  split <;> rfl

/-- Cleaning a die's copy writes what dropping it writes. -/
theorem llcClean_mem {s : State} {d ln : Nat} : (llcClean s d ln).mem = (llcDrop s d ln).mem := by
  unfold llcClean
  split
  · next h =>
    unfold llcDrop
    rw [h]
  · split <;> rfl

theorem releasesAndAcquires : Claims.ReleasesAndAcquires := by
  intro s k pid sc fused d r a atL1
  have hpoint : ¬atL1 → (scopeAtDie (s.cluster (clusterOf k)).fused sc || scopeAtHome sc) = true := by
    intro hnot
    have hlow : ¬sc ≤ 1 := fun h => hnot (.inl h)
    obtain rfl | rfl | h : sc = 2 ∨ sc = 3 ∨ 4 ≤ sc := by omega
    · have hf : (s.cluster (clusterOf k)).fused = false := Bool.eq_false_iff.2 fun hf => hnot (.inr ⟨rfl, hf⟩)
      simp only [scopeAtDie, hf, decide_true, Bool.not_false, Bool.and_self, Bool.true_or]
    · simp only [scopeAtDie, decide_true, Bool.or_true, Bool.true_or]
    · rw [scopeAtHome, decide_eq_true h, Bool.or_true]
  refine ⟨fun hat => ?_, fun hnot m hm => ⟨releaseLines_l1_clean (hpoint hnot) hm, acquireLines_l1_stale (hpoint hnot) hm⟩,
    fun hsc => ⟨releaseLines_llc_clean hsc, acquireLines_llc_stale hsc⟩, acquireLines_mem, fun l p s1 hdirty htranslate hpoison hhome i hi => ?_,
    fun ln l hcopy hfence i hi => ?_⟩
  · have hat' : (scopeAtDie (s.cluster (clusterOf k)).fused sc || scopeAtHome sc) = false := by
      rcases hat with h | ⟨rfl, hf⟩
      · simp only [scopeAtDie, scopeAtHome, decide_eq_false (show ¬sc = 2 by omega), decide_eq_false (show ¬sc = 3 by omega),
          decide_eq_false (show ¬4 ≤ sc by omega), Bool.false_and, Bool.or_self]
      · simp only [fused] at hf
        simp only [scopeAtDie, scopeAtHome, hf]
        decide
    exact ⟨releaseLines_atL1 hat' _, acquireLines_atL1 hat' _⟩
  · rw [l1WriteBack_home hdirty htranslate hpoison hhome, memByte_homeMerge _ _ _ _ hi]
  · obtain ⟨u, hmem, hu⟩ := llcDrop_mem hcopy hfence
    rw [llcClean_mem, hmem, memByte_homeMerge _ _ _ _ hi, hu]

end Sys2Proof.Proofs
end

section
/-! PROOFS. Fences, prefetches, the words that write lines back or drop them, and values sent to neighbours (O20). -/

namespace Sys2Proof.Proofs

open Sys2Proof Sys2Proof.Machine Sys2Proof.Claims

/-! ### What a release performs of the requests in flight (R345)

It performs what the core has sent to the slices that it writes back to; no scratchpad is at a slice. -/

/-- Is a home outside the scratchpads. -/
def Home.outside (h : Home) : Bool :=
  match h with
  | .spad _ _ => false
  | _ => true

theorem outside_of_sameSlice {a b : Home} (h : a.sameSlice b = true) : Home.outside a = true ∧ Home.outside b = true := by
  unfold Home.sameSlice at h
  split at h
  · exact ⟨rfl, rfl⟩
  · exact ⟨rfl, rfl⟩
  · exact ⟨rfl, rfl⟩
  · exact ⟨rfl, rfl⟩
  · cases h

theorem sameWay_outside {r q : Req} (h : q.sameWay r = true) (hr : Home.outside q.home = true) : Home.outside r.home = true := by
  unfold Req.sameWay at h
  obtain ⟨-, hway⟩ := Bool.and_eq_true_iff.1 h
  split at hway
  · next hq =>
    rw [hq] at hr
    cases hr
  · exact (outside_of_sameSlice hway).1

/-- A request that is due for one at a slice is at a slice itself. -/
theorem outside_of_due {p : Req → Bool} (hp : ∀ r, p r = true → Home.outside r.home = true) {s : State} {i : Nat} (hdue : reqDue p s i = true) :
    ∃ r, s.reqs[i]? = some r ∧ Home.outside r.home = true := by
  unfold reqDue at hdue
  split at hdue
  · cases hdue
  · next r hr =>
    obtain ⟨q, -, hq⟩ := List.any_eq_true.1 hdue
    obtain ⟨hpq, hsame | hafter⟩ := (Bool.and_eq_true_iff.1 hq).imp_right (fun h => Bool.or_eq_true_iff.1 h)
    · exact ⟨r, hr, by rw [← beq_iff_eq.1 hsame]; exact hp q hpq⟩
    · unfold Req.after at hafter
      exact ⟨r, hr, sameWay_outside (Bool.and_eq_true_iff.1 hafter).1 (hp q hpq)⟩

section
variable {α : Type} {p : State → α} (hp : Quiet p) (hflight : ∀ (s : State) (rs : List Req), p { s with reqs := rs } = p s)
include hp hflight

theorem performAt_outside {s : State} {i : Nat} {r : Req} (hr : s.reqs[i]? = some r) (hhome : Home.outside r.home = true) :
    p (performAt i s) = p s := by
  have hslice : performReq r { s with reqs := dropAt s.reqs i } = if r.stale then .error r else sliceDo r { s with reqs := dropAt s.reqs i } := by
    unfold performReq
    split
    · rfl
    · rfl
    · next h =>
      rw [h] at hhome
      cases hhome
  unfold performAt
  rw [hr]
  dsimp only
  rw [hslice]
  split
  · next t hdone =>
    split at hdone
    · cases hdone
    · exact (sliceDo_quiet hp hdone).trans (hflight s _)
  · exact hflight s _

theorem flushReqs_outside {q : Req → Bool} (hq : ∀ r, q r = true → Home.outside r.home = true) (s : State) : p (flushReqs q s) = p s := by
  have hfrom : ∀ n i t, p (flushFrom q n i t) = p t := by
    intro n
    induction n with
    | zero => exact fun _ _ => rfl
    | succ n ih =>
      intro i t
      unfold flushFrom
      dsimp only
      rw [ih]
      split
      · next hgo =>
        obtain ⟨r, hr, hhome⟩ := outside_of_due hq (Bool.and_eq_true_iff.1 hgo).1
        exact performAt_outside hp hflight hr hhome
      · rfl
  exact hfrom _ _ _

theorem releaseVia_outside (s : State) (k pid sc : Nat) (ranges : Option (List (Nat × Nat))) : p (releaseVia s k pid sc ranges) = p s := by
  refine (releaseLines_quiet hp _ _ _ _ _).trans (flushReqs_outside hp hflight (fun r hr => ?_) s)
  obtain ⟨-, hslice⟩ := Bool.and_eq_true_iff.1 hr
  obtain ⟨h, -, hsame⟩ := List.any_eq_true.1 hslice
  exact (outside_of_sameSlice hsame).1

end

/-! ### Words without an effect (R188) -/

/-- A word that does nothing leaves its thread past it (R38, R75). -/
theorem leaves_of_idle {i : Instr} {h : Hdr} {s : State} {eff : Nat → Ctx → State → Eff} (hexec : exec i s = issue i false false eff s)
    (hh : i.hdr = h) (hrun : RunsAlone h s) (heff : eff s.cur ((issued s.cur h s).ctx s.cur) (issued s.cur h s) = .done (issued s.cur h s)) :
    Leaves i h s (fallThrough (me s) (me s).pc) := by
  refine ⟨retire s.cur (me s).pc h.sw none (issued s.cur h s), exec_settles hexec hh hrun (.inl rfl) heff, ?_,
    othersKept_retire _ _ _ rfl fun _ _ => rfl⟩
  rw [retire_ctx_same, issued_ctx_same, retire_eq_settled]
  rfl

theorem exec_pref (h : Hdr) (f : Fields) (s : State) : exec (.pref h f) s = execPref h f s := by
  rfl

theorem exec_cflush (h : Hdr) (f : Fields) (s : State) : exec (.cflush h f) s = execCflush h f s := by
  rfl

theorem exec_cinv (h : Hdr) (f : Fields) (s : State) : exec (.cinv h f) s = execCinv h f s := by
  rfl

theorem exec_fence (h : Hdr) (f : Fields) (s : State) : exec (.fence h f) s = execFence h f s := by
  rfl

theorem exec_nsend (h : Hdr) (f : Fields) (s : State) : exec (.nsend h f) s = execNsend h f s := by
  rfl

section
variable {h : Hdr} {f : Fields} {s : State}

theorem pref_leaves (hrun : RunsAlone h s) : Leaves (.pref h f) h s (fallThrough (me s) (me s).pc) :=
  leaves_of_idle (exec_pref h f s) rfl hrun rfl

/-- CFLUSH and CINV without `.all` act by the space of their address (R189). -/
theorem cacheEff_issued (hsub : f.sub.toNat < 8) (drop : Bool) :
    cacheEff s.cur f drop (issued s.cur h s) =
      match resolve (coreOf s.cur) (addr s f) with
      | .bad => .trap (malformedTrap (me s).pc (addr s f)) (issued s.cur h s)
      | .spad _ _ => .done (issued s.cur h s)
      | .dev va =>
        match flushLine (coreOf s.cur) (me s).pid (lineOf va) f.x.sc drop
          (flushReqs (fun r => r.x == s.cur && lineOf r.va.toNat == lineOf va) (issued s.cur h s)) with
        | .ok s1 => .done s1
        | .error e => .done (postTrap s.cur ⟨0x05, none, (me s).pc, some (addr s f), BitVec.ofNat 64 e⟩ (issued s.cur h s)) := by
  have hall : f.subBit 3 = false := by
    rw [Fields.subBit, BitVec.getLsbD, Nat.testBit_eq_decide_div_mod_eq]
    exact decide_eq_false (by omega)
  have hpid : ((issued s.cur h s).ctx s.cur).pid = (me s).pid := by rw [issued_ctx_same]
  unfold cacheEff
  dsimp only
  rw [hall, if_neg Bool.noConfusion, ea_issued, ea_eq_addr, hpid, issued_pc] <;> rfl

/-- CFLUSH and CINV of a scratchpad address do nothing (R189). -/
theorem cacheWords_leave (hrun : RunsAlone h s) {m off : Nat} (hspace : resolve (coreOf s.cur) (addr s f) = .spad m off) (hsub : f.sub.toNat < 8) :
    Leaves (.cflush h f) h s (fallThrough (me s) (me s).pc) ∧ Leaves (.cinv h f) h s (fallThrough (me s) (me s).pc) := by
  have heff : ∀ drop, cacheEff s.cur f drop (issued s.cur h s) = .done (issued s.cur h s) := fun drop => by
    rw [cacheEff_issued hsub, hspace]
  exact ⟨leaves_of_idle (exec_cflush h f s) rfl hrun (heff false), leaves_of_idle (exec_cinv h f s) rfl hrun (heff true)⟩

/-! ### FENCE (R25, R182) -/

/-- The write-backs of a fence. -/
def fenceReleased (h : Hdr) (f : Fields) (s : State) : State :=
  if f.sub.getLsbD 3 then releaseVia (issued s.cur h s) (coreOf s.cur) (me s).pid f.x.sc none else issued s.cur h s

/-- The drops of a fence after them. -/
def fenced (h : Hdr) (f : Fields) (s : State) : State :=
  if f.sub.getLsbD 4 then acquireLines (fenceReleased h f s) (coreOf s.cur) (me s).pid f.x.sc none else fenceReleased h f s

theorem fenced_steady {α : Type} {p : State → α} (hp : Steady p) : p (fenced h f s) = p (issued s.cur h s) := by
  have hreleased : p (fenceReleased h f s) = p (issued s.cur h s) := by
    unfold fenceReleased
    split
    · exact releaseVia_steady hp _ _ _ _ _
    · rfl
  unfold fenced
  split
  · exact (acquireLines_quiet hp.toQuiet _ _ _ _ _).trans hreleased
  · exact hreleased

theorem fenced_spad (j : Nat) : ((fenced h f s).core j).spad = (s.core j).spad := by
  have hp : Quiet fun t : State => (t.core j).spad := (quiet_stillCore j).comp Core.spad
  have hreleased : ((fenceReleased h f s).core j).spad = ((issued s.cur h s).core j).spad := by
    unfold fenceReleased
    split
    · exact releaseVia_outside hp (fun _ _ => rfl) _ _ _ _ _
    · rfl
  have hfenced : ((fenced h f s).core j).spad = ((fenceReleased h f s).core j).spad := by
    unfold fenced
    split
    · exact acquireLines_quiet hp _ _ _ _ _
    · rfl
  rw [hfenced, hreleased, issued_core]

/-- At thread or core scope a fence has no write-back and no drop. -/
theorem fenced_atL1 (hsc : f.x.sc ≤ 1) : fenced h f s = issued s.cur h s := by
  have hpoint : ∀ fused, (scopeAtDie fused f.x.sc || scopeAtHome f.x.sc) = false := fun fused => by
    simp only [scopeAtDie, scopeAtHome, decide_eq_false (show ¬f.x.sc = 2 by omega), decide_eq_false (show ¬f.x.sc = 3 by omega),
      decide_eq_false (show ¬4 ≤ f.x.sc by omega), Bool.false_and, Bool.or_self]
  have hrelease : ∀ t : State, releaseVia t (coreOf s.cur) (me s).pid f.x.sc none = t := fun t => by
    unfold releaseVia
    dsimp only
    rw [hpoint, if_neg Bool.noConfusion, flushReqs_none (fun r _ => by rw [List.any_nil, Bool.and_false])]
    exact releaseLines_atL1 (hpoint _) _
  unfold fenced fenceReleased
  rw [hrelease, ite_self, acquireLines_atL1 (hpoint _), ite_self]

section
variable (hrun : RunsAlone h s) (hreqs : ∀ r ∈ s.reqs, r.x ≠ s.cur) (hout : (me s).outstanding = []) (hpend : (me s).pend = [])
  (hdeferred : (me s).deferred = [])
include hrun hreqs hout hpend hdeferred

/-- A fence whose marker is over goes on. -/
theorem exec_fence_goes : exec (.fence h f) s = .next (retire s.cur (me s).pc h.sw none (fenced h f s)) := by
  have hself := issued_ctx_same s.cur h s
  have hreqs' : ∀ r ∈ (issued s.cur h s).reqs, r.x ≠ s.cur := by rw [issued_reqs]; exact hreqs
  have hmarker : marker s.cur (.fence h f) (f.subBit 3) (issued s.cur h s) = none := by
    refine marker_none (by rw [hself]; exact hout) (by rw [hself]; exact hpend) (by rw [hself]; exact hdeferred) fun _ => ?_
    rw [List.any_eq_false]
    exact fun r hr => by simp only [beq_iff_eq, hreqs' r hr, not_false_eq_true]
  have hflush : flushReqs (fun r => r.x == s.cur && r.acq != 0) (issued s.cur h s) = issued s.cur h s :=
    flushReqs_none fun r hr => by simp only [beq_eq_false_iff_ne.2 (hreqs' r hr), Bool.false_and]
  have hpid : ((issued s.cur h s).ctx s.cur).pid = (me s).pid := by rw [hself]
  refine exec_settles (e := .done _) (exec_fence h f s) rfl hrun (.inl rfl) ?_
  simp only [hmarker, hflush, acquirePending_none hreqs', Bool.and_false, Bool.false_eq_true, if_false, hpid]
  rfl

/-- R182: what a fence leaves. -/
theorem fence_ends : Ends (.fence h f) s fun t : State => (t.ctx s.cur).pc = (fallThrough (me s) (me s).pc).pc ∧
    (t.ctx s.cur).stack = (me s).stack ∧ (t.ctx s.cur).p = (me s).p ∧ (∀ j, (t.core j).spad = (s.core j).spad) ∧
    (t.mem = (fenced h f s).mem ∧ t.dies = (fenced h f s).dies ∧ t.cores = (fenced h f s).cores) ∧
    (f.sub.getLsbD 4 = true → f.x.sc = 3 → (s.cluster (clusterOf (coreOf s.cur))).fused = false →
      ∀ l ∈ (t.core (coreOf s.cur)).l1, l.dirty ≠ 0) := by
  have hstill : stillCtx ((fenced h f s).ctx s.cur) = stillCtx ((issued s.cur h s).ctx s.cur) := fenced_steady (steady_stillCtx s.cur)
  obtain ⟨hstack, hp, -⟩ := retired_registers hstill
  refine ⟨_, exec_fence_goes hrun hreqs hout hpend hdeferred, retired_pc (loopState_of_still hstill), hstack, hp, fenced_spad, ⟨rfl, rfl, rfl⟩,
    fun hacquire hsc hfused l hl => ?_⟩
  have hclusters : (fenceReleased h f s).clusters = (issued s.cur h s).clusters := by
    unfold fenceReleased
    split
    · exact releaseVia_steady steady_clusters _ _ _ _ _
    · rfl
  have hunfused : ((fenceReleased h f s).cluster (clusterOf (coreOf s.cur))).fused = false := by
    rw [State.cluster, hclusters, issued_clusters]
    exact hfused
  have hmine : coreOf s.cur ∈ l1Cores (fenceReleased h f s) (coreOf s.cur) := by
    unfold l1Cores
    rw [hunfused]
    exact List.mem_singleton.2 rfl
  have hl' : l ∈ l1Lines (coreOf s.cur) (acquireLines (fenceReleased h f s) (coreOf s.cur) (me s).pid f.x.sc none) := by
    have hfenced : fenced h f s = acquireLines (fenceReleased h f s) (coreOf s.cur) (me s).pid f.x.sc none := if_pos hacquire
    rw [← hfenced]
    exact hl
  refine (acquireLines_l1_stale ?_ hmine l hl').1
  rw [hsc]
  simp only [scopeAtDie, decide_true, Bool.or_true, Bool.true_or]

theorem fence_leaves (hsc : f.x.sc ≤ 1) : Leaves (.fence h f) h s (fallThrough (me s) (me s).pc) := by
  refine ⟨_, exec_fence_goes hrun hreqs hout hpend hdeferred, ?_, ?_⟩
  · rw [fenced_atL1 hsc, retire_ctx_same, issued_ctx_same, retire_eq_settled]
    rfl
  · rw [fenced_atL1 hsc]
    exact othersKept_retire _ _ _ rfl fun _ _ => rfl

end

/-! ### NSEND (R190) -/

/-- The value that goes to a neighbour. -/
def sentReq (h : Hdr) (f : Fields) (s : State) (n : BitVec 3) (m : Nat) : Req :=
  mkReq s.cur ((issued s.cur h s).ctx s.cur) (.link n.toNat false) (.spad m (2 ^ 18 + 8 * n.toNat)) 8 7 (source s f.a).toNat 0

section
variable (hrun : RunsAlone h s) {n : BitVec 3} (hd : f.d = .l n) (hlink : f.a.link? = none) (hrel : f.sub.getLsbD 2 = false)
include hrun hrel

include hd hlink in
theorem nsend_sends {m : Nat} (hto : (neighbours (coreOf s.cur)).getD (f.sub.toNat % 4) none = some m) (honline : (s.core m).offline = false)
    (halive : (s.core m).killed = false) :
    Ends (.nsend h f) s fun t : State => Advances h (me s) (t.ctx s.cur) ∧ RegistersKept s t ∧ t.mem = s.mem ∧
      ∃ r : Req, t.reqs = s.reqs ++ [r] ∧ r.op = .link n.toNat false ∧ r.x = s.cur ∧ r.val = (source s f.a).toNat ∧ r.atCore m = true := by
  have hself := issued_ctx_same s.cur h s
  have hbit : f.subBit 2 = false := hrel
  have hdir : f.subBits 0 2 = f.sub.toNat % 4 := by rw [Fields.subBits, natBits, Nat.shiftRight_zero]; rfl
  have hcore : ((issued s.cur h s).core m).offline = false ∧ ((issued s.cur h s).core m).killed = false := by
    rw [issued_core]
    exact ⟨honline, halive⟩
  have hval : srcS ((issued s.cur h s).ctx s.cur) [] f.a = source s f.a := by
    rw [hself]
    cases ha : f.a with
    | l v =>
      rw [ha] at hlink
      cases hlink
    | _ => rfl
  have hnum : f.d.num = n.toNat := by rw [hd]; rfl
  have hexec : exec (.nsend h f) s = .next (retire s.cur (me s).pc h.sw none (sendReq (sentReq h f s n m) (issued s.cur h s))) := by
    refine exec_settles (e := .done _) (exec_nsend h f s) rfl hrun (.inl rfl) ?_
    simp only [hbit, Bool.false_eq_true, if_false, hdir, hto, hcore.1, hcore.2, Bool.or_self, hval, hnum]
    rfl
  refine ⟨_, hexec, advances_retired rfl, ?_, issued_mem _ _ _, sentReq h f s n m, ?_, rfl, rfl, rfl, beq_self_eq_true m⟩
  · unfold RegistersKept
    have hctx : ((sendReq (sentReq h f s n m) (issued s.cur h s)).ctx s.cur) = (issued s.cur h s).ctx s.cur := rfl
    rw [retire_ctx_same, hctx, hself, Ctx.retire_eq]
  · exact congrArg (· ++ [sentReq h f s n m]) (issued_reqs _ _ _)

/-- Where there is no neighbour, the error response is a trap of the thread. -/
theorem nsend_posts (hnone : (neighbours (coreOf s.cur)).getD (f.sub.toNat % 4) none = none) :
    Ends (.nsend h f) s fun t : State => (t.ctx s.cur).pc = (fallThrough (me s) (me s).pc).pc ∧
      ∃ p : TrapInfo, (t.ctx s.cur).pend = (me s).pend ++ [p] ∧ p.cause = 0x0C ∧ p.finfo = 1 ∧ p.fpc = (me s).pc := by
  have hself := issued_ctx_same s.cur h s
  have hbit : f.subBit 2 = false := hrel
  have hdir : f.subBits 0 2 = f.sub.toNat % 4 := by rw [Fields.subBits, natBits, Nat.shiftRight_zero]; rfl
  have hdual : ((issued s.cur h s).ctx s.cur).dual = none := by rw [hself]; exact hrun.2
  have hexec : exec (.nsend h f) s = .next (retire s.cur (me s).pc h.sw none (postTrap s.cur ⟨0x0C, none, (me s).pc, none, 1⟩ (issued s.cur h s))) := by
    refine exec_settles (e := .done _) (exec_nsend h f s) rfl hrun (.inl rfl) ?_
    simp only [hbit, Bool.false_eq_true, if_false, hdir, hnone, issued_pc]
  rw [postTrap_single hdual] at hexec
  refine ⟨_, hexec, retired_pc ?_, ⟨0x0C, none, (me s).pc, none, 1⟩, ?_, rfl, rfl, rfl⟩
  · rw [State.modCtx_ctx_same]
    rfl
  · rw [retire_ctx_same, State.modCtx_ctx_same, hself, Ctx.retire_eq]

end

theorem orderingWordsComplete : Claims.OrderingWordsComplete := by
  intro h f s hrun hreqs c k
  refine ⟨pref_leaves hrun, fun m off hspace hsub => cacheWords_leave hrun hspace hsub, fun hout hpend hdeferred => ⟨?_, ?_⟩,
    fun n hd hlink hrel => ⟨?_, ?_⟩⟩
  · exact fence_ends hrun hreqs hout hpend hdeferred
  · exact fence_leaves hrun hreqs hout hpend hdeferred
  · exact fun m hto honline halive => nsend_sends hrun hd hlink hrel hto honline halive
  · exact fun hnone => nsend_posts hrun hrel hnone

end

/-! ### CFLUSH and CINV of device addresses (R189) -/

theorem flushLine_quiet {α : Type} {p : State → α} (hp : Quiet p) {k pid vln sc : Nat} {drop : Bool} {s u : State}
    (hflush : flushLine k pid vln sc drop s = .ok u) : p u = p s := by
  unfold flushLine at hflush
  split at hflush
  · cases hflush
  · next g s0 he =>
    have hs0 := keeps_of_answer he (translate_quiet hp s (coreDie k) pid (128 * vln) .read)
    have hl1 : p ((l1Cores s0 k).foldl (fun t m => if drop then l1Flush t m pid vln else l1Clean t m pid vln) s0) = p s := by
      refine (foldl_keeps p _ (fun t m => ?_) _ _).trans hs0
      split
      · exact l1Flush_quiet hp _ _ _ _
      · exact l1Clean_quiet hp _ _ _ _
    dsimp only at hflush
    generalize (l1Cores s0 k).foldl (fun t m => if drop then l1Flush t m pid vln else l1Clean t m pid vln) s0 = w at hflush hl1
    split at hflush
    · cases hflush
      split
      · split
        · exact (llcDrop_quiet hp _ _ _).trans hl1
        · exact (llcClean_quiet hp _ _ _).trans hl1
      · exact hl1
    · cases hflush
      exact hs0

/-- An L1 that has dropped a line has none of its name. -/
theorem l1Flush_gone (s : State) (m pid vln : Nat) : ∀ l ∈ l1Lines m (l1Flush s m pid vln), ¬(l.pid = pid ∧ l.vln = vln) := by
  intro l hl hname
  have hnot := List.find?_eq_none.1 (l1Find_l1Flush s m pid vln) l hl
  exact hnot (by simp only [hname, beq_self_eq_true, Bool.and_self])

/-- Beyond the L1, the drop of a line leaves none of its name in an unfused core's L1. -/
theorem flushLine_drops {k pid vln sc : Nat} {s u : State} (hsc : 2 ≤ sc) (hfused : (s.cluster (clusterOf k)).fused = false)
    (hflush : flushLine k pid vln sc true s = .ok u) : ∀ l ∈ l1Lines k u, ¬(l.pid = pid ∧ l.vln = vln) := by
  unfold flushLine at hflush
  split at hflush
  · cases hflush
  · next g s0 he =>
    have hclusters : s0.clusters = s.clusters := keeps_of_answer he (translate_quiet steady_clusters.toQuiet s (coreDie k) pid (128 * vln) .read)
    have hunfused : (s0.cluster (clusterOf k)).fused = false := by
      rw [State.cluster, hclusters]
      exact hfused
    have hcores : l1Cores s0 k = [k] := by rw [l1Cores, hunfused, if_neg Bool.noConfusion]
    have hpoint : (scopeAtDie false sc || scopeAtHome sc) = true := by
      obtain rfl | rfl | h : sc = 2 ∨ sc = 3 ∨ 4 ≤ sc := by omega
      · rfl
      · rfl
      · rw [scopeAtHome, decide_eq_true h, Bool.or_true]
    dsimp only at hflush
    rw [hunfused, hpoint, if_pos rfl, hcores] at hflush
    cases hflush
    have hgone := l1Flush_gone s0 k pid vln
    split
    · rw [if_pos rfl, l1Lines_congr (llcDrop_l1View _ _ _)]
      exact hgone
    · exact hgone

section
variable {h : Hdr} {f : Fields} {s u1 : State} (hrun : RunsAlone h s) (hreqs : ∀ r ∈ s.reqs, r.x ≠ s.cur) (hsub : f.sub.toNat < 8)
  (hdev : (addr s f).toNat < 2 ^ 53)
include hreqs hsub hdev

/-- The effect of a cache word whose line is written back. -/
theorem cacheEff_device {drop : Bool} (hflush : flushLine (coreOf s.cur) (me s).pid ((addr s f).toNat / 128) f.x.sc drop (issued s.cur h s) = .ok u1) :
    cacheEff s.cur f drop (issued s.cur h s) = .done u1 := by
  have hnone : flushReqs (fun r => r.x == s.cur && lineOf r.va.toNat == lineOf (addr s f).toNat) (issued s.cur h s) = issued s.cur h s := by
    refine flushReqs_none fun r hr => ?_
    rw [issued_reqs] at hr
    simp only [beq_eq_false_iff_ne.2 (hreqs r hr), Bool.false_and]
  rw [cacheEff_issued hsub, (dataAddressSpaces (coreOf s.cur) (addr s f)).2.1 hdev]
  dsimp only
  rw [hnone, lineOf, hflush]

include hrun

theorem cflush_ends (hflush : flushLine (coreOf s.cur) (me s).pid ((addr s f).toNat / 128) f.x.sc false (issued s.cur h s) = .ok u1) :
    Ends (.cflush h f) s fun t : State => t.mem = u1.mem ∧ t.dies = u1.dies ∧ t.cores = u1.cores ∧
      (t.ctx s.cur).pc = (fallThrough (me s) (me s).pc).pc :=
  ⟨retire s.cur (me s).pc h.sw none u1, exec_settles (exec_cflush h f s) rfl hrun (.inl rfl) (cacheEff_device hreqs hsub hdev hflush), rfl, rfl, rfl,
    retired_pc (loopState_of_still (flushLine_quiet (quiet_stillCtx s.cur) hflush))⟩

theorem cinv_ends (hflush : flushLine (coreOf s.cur) (me s).pid ((addr s f).toNat / 128) f.x.sc true (issued s.cur h s) = .ok u1) :
    Ends (.cinv h f) s fun t : State => t.mem = u1.mem ∧ t.dies = u1.dies ∧ t.cores = u1.cores ∧
      (t.ctx s.cur).pc = (fallThrough (me s) (me s).pc).pc ∧
      (2 ≤ f.x.sc → (s.cluster (clusterOf (coreOf s.cur))).fused = false →
        ∀ l ∈ (t.core (coreOf s.cur)).l1, ¬(l.pid = (me s).pid ∧ l.vln = (addr s f).toNat / 128)) := by
  refine ⟨retire s.cur (me s).pc h.sw none u1, exec_settles (exec_cinv h f s) rfl hrun (.inl rfl) (cacheEff_device hreqs hsub hdev hflush), rfl, rfl, rfl,
    retired_pc (loopState_of_still (flushLine_quiet (quiet_stillCtx s.cur) hflush)), fun hsc hfused => ?_⟩
  refine flushLine_drops (u := u1) hsc ?_ hflush
  rw [State.cluster, issued_clusters]
  exact hfused

end

theorem cacheLineWords : Claims.CacheLineWords := by
  intro h f u1 s hrun hreqs hsub hdev c k vln
  exact ⟨fun hflush => cflush_ends hrun hreqs hsub hdev hflush, fun hflush => cinv_ends hrun hreqs hsub hdev hflush⟩

/-- Settles O20: a release performs only what is at slices, so that no scratchpad changes; line by line and copy by copy, it leaves each clean, and an
acquire its dirty bytes. -/
theorem orderingAndCacheWords : Obligations.OrderingAndCacheWords := ⟨orderingWordsComplete, releasesAndAcquires, cacheLineWords⟩

end Sys2Proof.Proofs
end

section
/-! PROOFS. Upkeep of links (R346, R431, R473, R474): the banks of the error records, fatal errors, and the replays of a link. -/

namespace Sys2Proof.Proofs

open Sys2Proof Sys2Proof.Machine Sys2Proof.Claims

/-! ### The banks of the error records (R359, R361) -/

theorem flag_eq_mul (b : Bool) (lo : Nat) : flag b lo = BitVec.ofNat 64 (b.toNat * 2 ^ lo) := by
  cases b <;> simp [flag, Nat.shiftLeft_eq]

/-- Word 0 of a record as a number: V, OVF, the rank, the flags and the type, each in its place. -/
theorem status_toNat (e : ErrRec) (ovf : Bool) : ∃ flags, flags < 16 ∧
    (e.status ovf).toNat = 2 ^ 63 + ovf.toNat * 2 ^ 62 + e.rank % 4 * 2 ^ 60 + flags * 2 ^ 56 + e.typ % 256 * 2 ^ 48 := by
  have hr : e.rank % 4 < 4 := Nat.mod_lt _ (by decide)
  have ht : e.typ % 256 < 256 := Nat.mod_lt _ (by decide)
  have hovf := ovf.toNat_le
  have hpois := e.pois.toNat_le
  have hownu := e.ownu.toNat_le
  have hav := e.av.toNat_le
  have hak := e.ak.toNat_le
  refine ⟨8 * e.pois.toNat + 4 * e.ownu.toNat + 2 * e.av.toNat + e.ak.toNat, by omega, ?_⟩
  simp only [ErrRec.status, flag_eq_mul, put_eq_ofNat, Bool.toNat_true, Nat.reducePow, Nat.one_mul]
  rw [ofNat_or_ofNat 63 (by decide) (by omega), ofNat_or_ofNat 62 (by omega) (by omega), ofNat_or_ofNat 60 (by omega) (by omega),
    ofNat_or_ofNat 59 (by omega) (by omega), ofNat_or_ofNat 58 (by omega) (by omega), ofNat_or_ofNat 57 (by omega) (by omega),
    ofNat_or_ofNat 56 (by omega) (by omega), BitVec.toNat_ofNat, Nat.mod_eq_of_lt (by omega)]
  omega

/-- A record's word 0 has V, the rank and the type of the record. -/
theorem status_fields (e : ErrRec) (ovf : Bool) (hrank : e.rank < 4) (htyp : e.typ < 256) :
    (e.status ovf).toNat / 2 ^ 63 = 1 ∧ (e.status ovf).toNat / 2 ^ 60 % 4 = e.rank ∧ (e.status ovf).toNat / 2 ^ 48 % 256 = e.typ := by
  obtain ⟨flags, hflags, h⟩ := status_toNat e ovf
  have hovf := ovf.toNat_le
  omega

/-- A record's word 0 has OVF where it is set. -/
theorem status_ovf (e : ErrRec) (ovf : Bool) : (e.status ovf).getLsbD 62 = ovf := by
  obtain ⟨flags, hflags, h⟩ := status_toNat e ovf
  have hbit : (e.status ovf).toNat / 2 ^ 62 % 2 = ovf.toNat := by
    have hovf := ovf.toNat_le
    omega
  refine (bitAt_eq (e.status ovf) 62).trans ?_
  rw [hbit]
  cases ovf <;> rfl

/-- A free bank loads a record. -/
theorem apply_free {q : Bank} (hfree : q.w0.getLsbD 63 = false) (e : ErrRec) (now : Nat) :
    (q.apply e now).w0 = e.status false ∧ (q.apply e now).w1 = e.addr ∧ (q.apply e now).w2 = e.syn ∧ (q.apply e now).w3 = e.src ∧
      (q.apply e now).w5 = e.detail ∧ (q.apply e now).w4 = BitVec.ofNat 64 now := by
  have hv : (!bitAt q.w0 63) = true := by rw [bitAt, hfree]; rfl
  unfold Bank.apply
  rw [if_pos hv]
  exact ⟨rfl, rfl, rfl, rfl, rfl, rfl⟩

/-- A bank whose word 0 is that of a record holds it. -/
theorem holds_of_status {t : State} {d b : Nat} {e : ErrRec} {ovf : Bool} (h : ((t.die d).banks.getD b Bank.reset).w0 = e.status ovf)
    (hrank : e.rank < 4) (htyp : e.typ < 256) : Claims.BankHolds t d b e.rank e.typ := by
  unfold Claims.BankHolds
  dsimp only
  rw [h]
  exact status_fields e ovf hrank htyp

theorem machineCheck_dies (d b : Nat) (e : ErrRec) (s : State) : (machineCheck d b e s).dies = s.dies := by
  unfold machineCheck; split <;> rfl

theorem machineCheck_die (d b : Nat) (e : ErrRec) (s : State) (j : Nat) : (machineCheck d b e s).die j = s.die j := by
  rw [State.die, machineCheck_dies, State.die]

theorem machineCheck_poison (d b : Nat) (e : ErrRec) (s : State) : (machineCheck d b e s).poison = s.poison := by
  unfold machineCheck; split <;> rfl

/-- A machine check leaves the package but for its vectors and the courier's interrupts. -/
theorem machineCheck_pkg {α : Type} {p : Package → α} (hp : ∀ (k : Package) a b c, p { k with courierIrqs := a, msixSent := b, msixPend := c } = p k)
    (d b : Nat) (e : ErrRec) (s : State) : p (machineCheck d b e s).pkg = p s.pkg := by
  unfold machineCheck sendVector
  split
  · dsimp only [State.modPkg, supPush, State.modCore, State.setCore]
    split
    · exact hp _ _ _ s.pkg.msixPend
    · split
      · exact hp _ _ s.pkg.msixSent s.pkg.msixPend
      · exact hp _ _ s.pkg.msixSent _
  · rfl

/-- A record that is no uncorrected one checks no machine. -/
theorem machineCheck_of_rank (d b : Nat) (e : ErrRec) (s : State) (h : e.rank ≠ 3) : machineCheck d b e s = s := if_neg h

/-- A record of an edge unit is a record of its rank and type, with free values. -/
theorem postEdge_eq (d b rank typ : Nat) (pois ownu : Bool) (addr : Option Nat) (unit idx : Nat) (s : State) :
    ∃ (e : ErrRec) (n : Nat), e.rank = rank ∧ e.typ = typ ∧ postEdge d b rank typ pois ownu addr unit idx s = postError d b e { s with freeCtr := n } :=
  ⟨_, _, rfl, rfl, rfl⟩

section
variable (d b rank typ : Nat) (pois ownu : Bool) (addr : Option Nat) (unit idx : Nat) (s : State)

/-- A record of an edge unit changes nothing of a die but its banks. -/
theorem postEdge_die {α : Type} {p : Die → α} (hp : ∀ (c : Die) q, p { c with banks := q } = p c) (j : Nat) :
    p ((postEdge d b rank typ pois ownu addr unit idx s).die j) = p (s.die j) := by
  obtain ⟨e, n, -, -, h⟩ := postEdge_eq d b rank typ pois ownu addr unit idx s
  rw [h, postError, machineCheck_die, State.modDie_die]
  split
  case isTrue hj => exact hj ▸ hp _ _
  case isFalse => rfl

theorem postEdge_mem : (postEdge d b rank typ pois ownu addr unit idx s).mem = s.mem := by
  obtain ⟨e, n, -, -, h⟩ := postEdge_eq d b rank typ pois ownu addr unit idx s
  rw [h, postError_mem]

theorem postEdge_poison : (postEdge d b rank typ pois ownu addr unit idx s).poison = s.poison := by
  obtain ⟨e, n, -, -, h⟩ := postEdge_eq d b rank typ pois ownu addr unit idx s
  rw [h, postError, machineCheck_poison, State.modDie_poison]

theorem postEdge_pkg {α : Type} {p : Package → α} (hp : ∀ (k : Package) a b c, p { k with courierIrqs := a, msixSent := b, msixPend := c } = p k) :
    p (postEdge d b rank typ pois ownu addr unit idx s).pkg = p s.pkg := by
  obtain ⟨e, n, -, -, h⟩ := postEdge_eq d b rank typ pois ownu addr unit idx s
  rw [h, postError, machineCheck_pkg hp, State.modDie_pkg]

theorem postEdge_pkg_corrected (h1 : rank ≠ 3) : (postEdge d b rank typ pois ownu addr unit idx s).pkg = s.pkg := by
  obtain ⟨e, n, hrank, -, h⟩ := postEdge_eq d b rank typ pois ownu addr unit idx s
  rw [h, postError, machineCheck_of_rank _ _ _ _ (hrank ▸ h1), State.modDie_pkg]

/-- A record of an edge unit stands in a bank that was free. -/
theorem postEdge_holds (hrank : rank < 4) (htyp : typ < 256) (hfree : Claims.BankFree s d b) :
    Claims.BankHolds (postEdge d b rank typ pois ownu addr unit idx s) d b rank typ := by
  obtain ⟨e, n, rfl, rfl, h⟩ := postEdge_eq d b rank typ pois ownu addr unit idx s
  refine holds_of_status (e := e) (ovf := false) ?_ hrank htyp
  rw [h, postError, machineCheck_die, State.modDie_die_same]
  dsimp only
  rw [SMap.getD_put_same]
  exact (apply_free hfree e s.pkg.time).1

end

/-! ### Fatal errors (R438, R450, R472) -/

/-- A fatal error asks for a dump and for a reset of its dies. -/
theorem fatalError_fatal {s t : State} (mask : Nat) (hdumps : t.pkg.dumps = s.pkg.dumps) (hresets : t.pkg.resets = s.pkg.resets)
    (htime : t.pkg.time = s.pkg.time) : Claims.Fatal s (fatalError mask t) mask :=
  ⟨⟨_, congrArg (· ++ _) hdumps, rfl, rfl, htime⟩, ⟨_, congrArg (· ++ _) hresets, rfl, rfl⟩⟩

theorem fatalError_modulesOff (mask : Nat) (s : State) : (fatalError mask s).pkg.modulesOff = s.pkg.modulesOff := by
  rw [fatalError, askReset, State.modPkg_pkg, askDump, State.modPkg_pkg]

/-! ### UCIe modules (R431) -/

/-- The state with a module off. -/
def moduleOff (m : Nat) (s : State) : State :=
  s.modPkg fun p => if p.modulesOff.contains m then p else { p with modulesOff := p.modulesOff ++ [m] }

theorem disableModule_eq (m : Nat) (s : State) : disableModule m s =
    if [0, 1, 2, 3].all fun i => (moduleOff m s).pkg.modulesOff.contains i then fatalError 3 (moduleOff m s) else moduleOff m s := rfl

theorem moduleOff_fresh {m : Nat} {s : State} (h : m ∉ s.pkg.modulesOff) :
    moduleOff m s = s.modPkg fun p => { p with modulesOff := p.modulesOff ++ [m] } := by
  rw [moduleOff, State.modPkg, if_neg fun hmem => h (List.contains_iff_mem.1 hmem)]
  rfl

theorem moduleOff_again {m : Nat} {s : State} (h : m ∈ s.pkg.modulesOff) : moduleOff m s = s := by
  rw [moduleOff, State.modPkg, if_pos (List.contains_iff_mem.2 h)]

/-- The modules that are off are those that were, and the one that is disabled. -/
theorem mem_moduleOff {m j : Nat} {s : State} : j ∈ (moduleOff m s).pkg.modulesOff ↔ j ∈ s.pkg.modulesOff ∨ j = m := by
  by_cases h : m ∈ s.pkg.modulesOff
  · rw [moduleOff_again h]
    exact ⟨.inl, fun hj => hj.elim id fun hjm => hjm ▸ h⟩
  · rw [moduleOff_fresh h, State.modPkg_pkg, List.mem_append, List.mem_singleton]

/-- A disabled module leaves the rest of the package as it was. -/
theorem moduleOff_pkg {α : Type} {p : Package → α} (hp : ∀ (k : Package) l, p { k with modulesOff := l } = p k) (m : Nat) (s : State) :
    p (moduleOff m s).pkg = p s.pkg := by
  by_cases h : m ∈ s.pkg.modulesOff
  · rw [moduleOff_again h]
  · rw [moduleOff_fresh h, State.modPkg_pkg, hp]

/-- A module that is disabled while another is up. -/
theorem disableModule_up {s : State} {m j : Nat} (hj : j < 4) (hjm : j ≠ m) (hup : j ∉ s.pkg.modulesOff) : disableModule m s = moduleOff m s := by
  rw [disableModule_eq, if_neg]
  intro hall
  have hmem := List.all_eq_true.1 hall j (by simp; omega)
  exact (mem_moduleOff.1 (List.contains_iff_mem.1 hmem)).elim hup hjm

/-- The module that is disabled as the last takes both dies down. -/
theorem disableModule_last {s : State} {m : Nat} (hoff : ∀ j, j < 4 → j ≠ m → j ∈ s.pkg.modulesOff) :
    disableModule m s = fatalError 3 (moduleOff m s) := by
  rw [disableModule_eq, if_pos]
  refine List.all_eq_true.2 fun j hj => List.contains_iff_mem.2 (mem_moduleOff.2 ?_)
  by_cases hjm : j = m
  · exact .inr hjm
  · exact .inl (hoff j (by simp at hj; omega) hjm)

/-- A disabled module is one of those that are off. -/
theorem disableModule_off (s : State) (m : Nat) : m ∈ (disableModule m s).pkg.modulesOff := by
  rw [disableModule_eq]
  split
  · rw [fatalError_modulesOff]
    exact mem_moduleOff.2 (.inr rfl)
  · exact mem_moduleOff.2 (.inr rfl)

end Sys2Proof.Proofs
end

section
/-! PROOFS. Replays of links complete (R346, R431, R473, R474; O39). -/

namespace Sys2Proof.Proofs

open Sys2Proof Sys2Proof.Machine Sys2Proof.Claims

section
variable (d : Nat) (s : State)

/-- The state after a flit that was replayed, with its count of failures. -/
def afterFlit (link n : Nat) : State :=
  (linkError d 1 0x09 12 link s).modDie d fun dd => { dd with flitFails := dd.flitFails.putD link 0 n }

theorem flitReplay_below {link n : Nat} {ok : Bool} (hn : n = if ok then 0 else (s.die d).flitFails.getD link 0 + 1) (h16 : n ≠ 16) :
    exec (.flitReplay d link ok) s = .next (afterFlit d s link n) := by
  subst hn
  exact congrArg Host.Outcome.next (if_neg h16)

theorem afterFlit_count (link n : Nat) : ((afterFlit d s link n).die d).flitFails.getD link 0 = n := by
  rw [afterFlit, State.modDie_die_same, SMap.getD_putD, if_pos rfl]

theorem afterFlit_pkg (link n : Nat) : (afterFlit d s link n).pkg = s.pkg := postEdge_pkg_corrected _ _ _ _ _ _ _ _ _ _ (by decide)

theorem flitReplay_passes (link : Nat) : Ends (.flitReplay d link true) s fun t : State => (t.die d).flitFails.getD link 0 = 0 ∧ t.pkg = s.pkg ∧
    t.mem = s.mem ∧ (Claims.BankFree s d 15 → Claims.BankHolds t d 15 1 0x09) := by
  refine ⟨_, flitReplay_below d s (n := 0) rfl (by decide), afterFlit_count d s link 0, afterFlit_pkg d s link 0,
    postEdge_mem _ _ _ _ _ _ _ _ _ _, fun hfree => ?_⟩
  have h := postEdge_holds d 15 1 0x09 false false none 12 link s (by decide) (by decide) hfree
  unfold Claims.BankHolds at h ⊢
  rw [afterFlit, State.modDie_die_same]
  exact h

theorem flitReplay_fails {link : Nat} (h : (s.die d).flitFails.getD link 0 < 15) : Ends (.flitReplay d link false) s fun t : State =>
    (t.die d).flitFails.getD link 0 = (s.die d).flitFails.getD link 0 + 1 ∧ t.pkg = s.pkg :=
  ⟨_, flitReplay_below d s (n := (s.die d).flitFails.getD link 0 + 1) rfl (by omega), afterFlit_count d s link _, afterFlit_pkg d s link _⟩

/-- The 16th failure in a row is fatal for the die. -/
theorem flitReplay_fatal {link : Nat} (h : (s.die d).flitFails.getD link 0 = 15) :
    Ends (.flitReplay d link false) s fun t : State => Claims.Fatal s t (2 ^ d) := by
  have hexec : exec (.flitReplay d link false) s = .next (fatalError (2 ^ d) (linkError d 3 0x09 12 link
      (afterFlit d s link ((s.die d).flitFails.getD link 0 + 1)))) :=
    congrArg Host.Outcome.next (if_pos (congrArg (· + 1) h))
  have hpkg := afterFlit_pkg d s link ((s.die d).flitFails.getD link 0 + 1)
  refine ⟨_, hexec, fatalError_fatal _ ?_ ?_ ?_⟩
  · exact (postEdge_pkg (p := Package.dumps) _ _ _ _ _ _ _ _ _ _ fun _ _ _ _ => rfl).trans (congrArg Package.dumps hpkg)
  · exact (postEdge_pkg (p := Package.resets) _ _ _ _ _ _ _ _ _ _ fun _ _ _ _ => rfl).trans (congrArg Package.resets hpkg)
  · exact (postEdge_pkg (p := Package.time) _ _ _ _ _ _ _ _ _ _ fun _ _ _ _ => rfl).trans (congrArg Package.time hpkg)

/-- The state after a flit of a UCIe module that was replayed, with its count of failures. -/
def afterUcie (m n : Nat) : State := (linkError d 1 0x0A 13 m s).modPkg fun p => { p with replayFails := p.replayFails.putD (4 * d + m) 0 n }

theorem ucieReplay_passes {m : Nat} (hm : m < 4) : Ends (.ucieReplay d m 0) s fun t : State => t.pkg.replayFails.getD (4 * d + m) 0 = 0 ∧
    t.pkg.modulesOff = s.pkg.modulesOff ∧ (Claims.BankFree s d 15 → Claims.BankHolds t d 15 1 0x0A) := by
  have hexec : exec (.ucieReplay d m 0) s = .next (afterUcie d s m 0) := if_neg (by omega)
  refine ⟨_, hexec, ?_, postEdge_pkg (p := Package.modulesOff) _ _ _ _ _ _ _ _ _ _ fun _ _ _ _ => rfl,
    fun hfree => postEdge_holds d 15 1 0x0A false false none 13 m s (by decide) (by decide) hfree⟩
  rw [afterUcie, State.modPkg_pkg, SMap.getD_putD, if_pos rfl]

/-- The 16th failure in a row disables the module. -/
theorem ucieReplay_disables {m : Nat} (hm : m < 4) (h : s.pkg.replayFails.getD (4 * d + m) 0 = 15) :
    Ends (.ucieReplay d m 1) s fun t : State => m ∈ t.pkg.modulesOff := by
  have hexec : exec (.ucieReplay d m 1) s = .next (disableModule m (afterUcie d s m (s.pkg.replayFails.getD (4 * d + m) 0 + 1))) :=
    (if_neg (by omega)).trans (congrArg Host.Outcome.next (if_pos (congrArg (· + 1) h)))
  exact ⟨_, hexec, disableModule_off _ _⟩

theorem ucieReplay_retrains {m : Nat} (hm : m < 4) : exec (.ucieReplay d m 2) s = .next (disableModule m s) := if_neg (by omega)

theorem ucieReplay_undelivered {m : Nat} (hm : m < 4) : exec (.ucieReplay d m 3) s = .next (fatalError 3 s) := if_neg (by omega)

/-- A module that fails to retrain is off; the others that are up go on. -/
theorem ucieReplay_off {m : Nat} (hm : m < 4) (hup : ∃ j, j < 4 ∧ j ≠ m ∧ j ∉ s.pkg.modulesOff) (hon : m ∉ s.pkg.modulesOff) :
    Ends (.ucieReplay d m 2) s fun t : State => t.pkg.modulesOff = s.pkg.modulesOff ++ [m] ∧ t.pkg.dumps = s.pkg.dumps := by
  obtain ⟨j, hj, hjm, hjup⟩ := hup
  refine ⟨_, ucieReplay_retrains d s hm, ?_⟩
  dsimp only
  rw [disableModule_up hj hjm hjup, moduleOff_fresh hon, State.modPkg_pkg]
  exact ⟨rfl, rfl⟩

/-- The last module that fails is fatal for both dies. -/
theorem ucieReplay_last {m : Nat} (hm : m < 4) (hoff : ∀ j, j < 4 → j ≠ m → j ∈ s.pkg.modulesOff) :
    Ends (.ucieReplay d m 2) s fun t : State => Claims.Fatal s t 3 := by
  refine ⟨_, ucieReplay_retrains d s hm, ?_⟩
  dsimp only
  rw [disableModule_last hoff]
  exact fatalError_fatal 3 (moduleOff_pkg (p := Package.dumps) (fun _ _ => rfl) m s) (moduleOff_pkg (p := Package.resets) (fun _ _ => rfl) m s)
    (moduleOff_pkg (p := Package.time) (fun _ _ => rfl) m s)

end

section
variable (p : Nat) (s : State)

/-- The state after a frame of a peer port that was replayed, with its count of failures. -/
def afterFrame (n : Nat) : State := (linkError 1 1 0x0A 13 p s).modPkg fun k => { k with peerFails := k.peerFails.putD p 0 n }

theorem peerFrameReplay_fails (hp : p < 2) (h : s.pkg.peerFails.getD p 0 < 15) : Ends (.peerFrameReplay p false) s fun t : State =>
    t.pkg.peerFails.getD p 0 = s.pkg.peerFails.getD p 0 + 1 ∧ (t.die 1).lnk0 = (s.die 1).lnk0 ∧ (t.die 1).lnk1 = (s.die 1).lnk1 := by
  have hexec : exec (.peerFrameReplay p false) s = .next (afterFrame p s (s.pkg.peerFails.getD p 0 + 1)) :=
    (if_neg (by omega)).trans (congrArg Host.Outcome.next (if_neg (Nat.ne_of_lt (Nat.succ_lt_succ h))))
  refine ⟨_, hexec, ?_, postEdge_die (p := Die.lnk0) _ _ _ _ _ _ _ _ _ _ (fun _ _ => rfl) 1,
    postEdge_die (p := Die.lnk1) _ _ _ _ _ _ _ _ _ _ (fun _ _ => rfl) 1⟩
  rw [afterFrame, State.modPkg_pkg, SMap.getD_putD, if_pos rfl]

theorem setPeerLink_link (hp : p < 2) (up : Bool) :
    (if p = 0 then ((setPeerLink p up s).die 1).lnk0 else ((setPeerLink p up s).die 1).lnk1) = up := by
  obtain rfl | rfl : p = 0 ∨ p = 1 := by omega
  · exact congrArg Die.lnk0 (State.modDie_die_same s 1 _)
  · exact congrArg Die.lnk1 (State.modDie_die_same s 1 _)

/-- The 16th failure in a row takes the port down. -/
theorem peerFrameReplay_down (hp : p < 2) (h : s.pkg.peerFails.getD p 0 = 15) : Ends (.peerFrameReplay p false) s fun t : State =>
    (if p = 0 then (t.die 1).lnk0 else (t.die 1).lnk1) = false := by
  have hexec : exec (.peerFrameReplay p false) s = .next (setPeerLink p false (afterFrame p s (s.pkg.peerFails.getD p 0 + 1))) :=
    (if_neg (by omega)).trans (congrArg Host.Outcome.next (if_pos (congrArg (· + 1) h)))
  exact ⟨_, hexec, setPeerLink_link p _ hp false⟩

theorem peerPortLinkUp_up (hp : p < 2) : Ends (.peerPortLinkUp p) s fun t : State =>
    (if p = 0 then (t.die 1).lnk0 else (t.die 1).lnk1) = true ∧ t.pkg.peerFails.getD p 0 = 0 := by
  refine ⟨_, rfl, setPeerLink_link p _ hp true, ?_⟩
  rw [setPeerLink, State.modDie_pkg, State.modPkg_pkg, SMap.getD_erase, if_pos rfl]

end

theorem linkReplays : Claims.LinkReplays := by
  intro d link m p s
  refine ⟨flitReplay_passes d s link, flitReplay_fails d s, flitReplay_fatal d s, fun hm => ?_, fun hm => if_pos hm, fun hp => ?_, fun hp => if_pos hp⟩
  · exact ⟨ucieReplay_passes d s hm, ucieReplay_disables d s hm, ucieReplay_off d s hm, ucieReplay_last d s hm,
      _, ucieReplay_undelivered d s hm, fatalError_fatal 3 rfl rfl rfl⟩
  · exact ⟨peerFrameReplay_fails p s hp, peerFrameReplay_down p s hp, peerPortLinkUp_up p s hp⟩

end Sys2Proof.Proofs
end

section
/-! PROOFS. Error records that reach a bank, scrubbing, and errors found in the state of a unit (R160, R361, R420, R435; O39). -/

namespace Sys2Proof.Proofs

open Sys2Proof Sys2Proof.Machine Sys2Proof.Claims

/-! ### Records of a mesh cycle (R361) -/

/-- The record that words 0, 1, 2, 3 and 5 of a bank give. -/
def recordOf (v w1 w2 w3 w5 : Word) : ErrRec :=
  ⟨v.toNat / 2 ^ 60 % 4, v.toNat / 2 ^ 48 % 256, bitAt v 59, bitAt v 58, bitAt v 57, bitAt v 56, w1, w2, w3, w5⟩

section
variable {v w1 w2 w3 w5 : Word}

theorem unitRecord_some (hrank : v.toNat / 2 ^ 60 % 4 ≠ 0) (htyp : v.toNat / 2 ^ 48 % 256 < 0x13) :
    unitRecord [v, w1, w2, w3, w5] = some (recordOf v w1 w2 w3 w5) := by
  have h60 : fld v 60 2 = v.toNat / 2 ^ 60 % 4 := fld_eq v 60 2
  have h48 : fld v 48 8 = v.toNat / 2 ^ 48 % 256 := fld_eq v 48 8
  simp only [unitRecord, List.getD_cons_zero, List.getD_cons_succ, h60, h48]
  rw [if_neg (by omega)]
  rfl

theorem unitRecord_none (hrank : v.toNat / 2 ^ 60 % 4 = 0) : unitRecord [v, w1, w2, w3, w5] = none :=
  if_pos (Or.inl ((fld_eq v 60 2).trans hrank))

end

/-- A cycle of its own starts from the bank as it is. -/
theorem bankCycle_own (d b : Nat) (clear : Bool) (e : Option ErrRec) (s : State) :
    let q := (s.die d).banks.getD b Bank.reset
    bankCycle d b false clear e s = ⟨s.pkg.time, if clear then q.clear else q, e.toList,
      e.toList.foldl (fun k r => k.apply r s.pkg.time) (if clear then q.clear else q)⟩ := by
  cases e <;> rfl

/-- A record in the cycle of the records before it takes its place among them. -/
theorem bankCycle_joins (r : ErrRec) {d b : Nat} {s : State} {c : BankCycle} (hcycle : ∀ e, (s.die d).bankCycles.getD b e = c)
    (htime : c.time = s.pkg.time) (hout : c.out = (s.die d).banks.getD b Bank.reset) :
    bankCycle d b true false (some r) s =
      ⟨s.pkg.time, c.base, insertRecord r c.recs, (insertRecord r c.recs).foldl (fun k r => k.apply r s.pkg.time) c.base⟩ := by
  have hsame : (true && c.time == s.pkg.time && c.out == (s.die d).banks.getD b Bank.reset) = true := by simp [htime, hout]
  unfold bankCycle
  dsimp only
  rw [hcycle, if_pos hsame]
  rfl

/-- The state after a cycle of a bank. -/
def afterCycle (d b : Nat) (c : BankCycle) (s : State) : State :=
  s.modDie d fun dd => { dd with banks := dd.banks.put b c.out, bankCycles := dd.bankCycles.put b c }

theorem afterCycle_bank (d b : Nat) (c : BankCycle) (s : State) : ((afterCycle d b c s).die d).banks.getD b Bank.reset = c.out := by
  rw [afterCycle, State.modDie_die_same, SMap.getD_put_same]

theorem afterCycle_holds {d b : Nat} {c : BankCycle} {s : State} {e : ErrRec} {ovf : Bool} (h : c.out.w0 = e.status ovf) (hrank : e.rank < 4)
    (htyp : e.typ < 256) : Claims.BankHolds (afterCycle d b c s) d b e.rank e.typ :=
  holds_of_status ((congrArg Bank.w0 (afterCycle_bank d b c s)).trans h) hrank htyp

theorem afterCycle_cycle (d b : Nat) (c e : BankCycle) (s : State) : ((afterCycle d b c s).die d).bankCycles.getD b e = c := by
  rw [afterCycle, State.modDie_die_same, SMap.getD_put_same]

section
variable {d b : Nat} {v w1 w2 w3 w5 : Word} {s : State}

/-- ERROR_RECORD_APPLY of a record. -/
theorem errorRecordApply_some (hb : b < 64) (hd : d < 2) (hrank : v.toNat / 2 ^ 60 % 4 ≠ 0) (htyp : v.toNat / 2 ^ 48 % 256 < 0x13) :
    exec (.errorRecordApply d b v w1 w2 w3 w5) s = .next (machineCheck d (b % 16) (recordOf v w1 w2 w3 w5)
      (afterCycle d (b % 16) (bankCycle d (b % 16) (b.testBit 4) (b.testBit 5) (some (recordOf v w1 w2 w3 w5)) s) s)) := by
  have h := unitRecord_some (w1 := w1) (w2 := w2) (w3 := w3) (w5 := w5) hrank htyp
  change execErrorRecordApply d b v w1 w2 w3 w5 s = _
  rw [execErrorRecordApply, if_neg (by omega), h]
  rfl

theorem testBit_four_five (hb : b < 16) : b.testBit 4 = false ∧ b.testBit 5 = false ∧ (b + 16).testBit 4 = true ∧ (b + 16).testBit 5 = false ∧
    (b + 32).testBit 4 = false ∧ (b + 32).testBit 5 = true := by
  simp only [Nat.testBit_eq_decide_div_mod_eq, decide_eq_true_eq, decide_eq_false_iff_not]
  omega

/-- A record of a mesh cycle of its own reaches a free bank. -/
theorem errorRecordApply_loads (hb : b < 16) (hd : d < 2) (hrank : v.toNat / 2 ^ 60 % 4 ≠ 0) (htyp : v.toNat / 2 ^ 48 % 256 < 0x13)
    (hfree : Claims.BankFree s d b) : Ends (.errorRecordApply d b v w1 w2 w3 w5) s fun t : State =>
      let q := (t.die d).banks.getD b Bank.reset
      Claims.BankHolds t d b (v.toNat / 2 ^ 60 % 4) (v.toNat / 2 ^ 48 % 256) ∧ q.w1 = w1 ∧ q.w2 = w2 ∧ q.w3 = w3 ∧ q.w5 = w5 ∧
        q.w4 = BitVec.ofNat 64 s.pkg.time := by
  obtain ⟨h4, h5, -⟩ := testBit_four_five hb
  have hexec := errorRecordApply_some (w1 := w1) (w2 := w2) (w3 := w3) (w5 := w5) (s := s) (by omega : b < 64) hd hrank htyp
  rw [h4, h5, Nat.mod_eq_of_lt hb, bankCycle_own] at hexec
  refine ⟨_, hexec, ?_⟩
  generalize ht : machineCheck d b (recordOf v w1 w2 w3 w5) (afterCycle d b _ s) = t
  have hbank : (t.die d).banks.getD b Bank.reset = ((s.die d).banks.getD b Bank.reset).apply (recordOf v w1 w2 w3 w5) s.pkg.time := by
    rw [← ht, machineCheck_die, afterCycle_bank]
    rfl
  obtain ⟨hw0, hwords⟩ := apply_free hfree (recordOf v w1 w2 w3 w5) s.pkg.time
  refine ⟨holds_of_status ((congrArg Bank.w0 hbank).trans hw0) (Nat.mod_lt _ (by decide)) (Nat.mod_lt _ (by decide)), ?_⟩
  rw [hbank]
  exact hwords

/-- A write that clears a bank, with no record in its cycle, leaves it free. -/
theorem errorRecordApply_clears (hb : b < 16) (hd : d < 2) (hrank : v.toNat / 2 ^ 60 % 4 = 0) :
    Ends (.errorRecordApply d (b + 32) v w1 w2 w3 w5) s fun t : State => Claims.BankFree t d b := by
  obtain ⟨-, -, -, -, h4, h5⟩ := testBit_four_five hb
  have hexec : exec (.errorRecordApply d (b + 32) v w1 w2 w3 w5) s =
      .next (afterCycle d b ⟨s.pkg.time, ((s.die d).banks.getD b Bank.reset).clear, [], ((s.die d).banks.getD b Bank.reset).clear⟩ s) := by
    change execErrorRecordApply d (b + 32) v w1 w2 w3 w5 s = _
    rw [execErrorRecordApply, if_neg (by omega), unitRecord_none hrank, h4, h5, show (b + 32) % 16 = b by omega]
    rfl
  refine ⟨_, hexec, ?_⟩
  dsimp only [Claims.BankFree]
  rw [afterCycle_bank]
  exact (by decide : Bank.reset.w0.getLsbD 63 = false)

/-- A record that is no uncorrected one leaves its bank and its cycle. -/
theorem errorRecordApply_cycle (hb : b < 64) (hd : d < 2) (hrank : v.toNat / 2 ^ 60 % 4 = 1 ∨ v.toNat / 2 ^ 60 % 4 = 2)
    (htyp : v.toNat / 2 ^ 48 % 256 < 0x13) : exec (.errorRecordApply d b v w1 w2 w3 w5) s =
      .next (afterCycle d (b % 16) (bankCycle d (b % 16) (b.testBit 4) (b.testBit 5) (some (recordOf v w1 w2 w3 w5)) s) s) := by
  rw [errorRecordApply_some hb hd (by omega) htyp, machineCheck_of_rank]
  change v.toNat / 2 ^ 60 % 4 ≠ 3
  omega

/-- A record of rank 2 stands before one of rank 1. -/
theorem insertRecord_rank {r e : ErrRec} (hr : r.rank = 2) (he : e.rank = 1) : insertRecord r [e] = [r, e] := by
  simp [insertRecord, ErrRec.place, placeBefore, hr, he]

/-- A bank keeps its record when one of a lower rank follows. -/
theorem apply_lower {q : Bank} {e : ErrRec} (now : Nat) (hv : bitAt q.w0 63 = true) (hrank : e.rank < fld q.w0 60 2) :
    (q.apply e now).w0 = q.w0 ∧ (q.apply e now).w1 = q.w1 := by
  unfold Bank.apply
  rw [hv, if_neg (by decide), if_neg (by omega), if_neg (by omega)]
  split <;> exact ⟨rfl, rfl⟩

/-- A free bank that a record of rank 2 and then one of rank 1 reach holds the first. -/
theorem apply_two {q : Bank} {r e : ErrRec} (now : Nat) (hfree : q.w0.getLsbD 63 = false) (hr : r.rank = 2) (htyp : r.typ < 256)
    (he : e.rank = 1) : ((q.apply r now).apply e now).w0 = r.status false ∧ ((q.apply r now).apply e now).w1 = r.addr := by
  obtain ⟨hw0, hw1, -⟩ := apply_free hfree r now
  obtain ⟨h63, h60, -⟩ := status_fields r false (by omega) htyp
  have hv : bitAt (q.apply r now).w0 63 = true := by rw [hw0, bitAt_eq, decide_eq_true_iff]; omega
  have hrank : fld (q.apply r now).w0 60 2 = 2 := by rw [hw0]; exact (fld_eq _ _ _).trans (h60.trans hr)
  obtain ⟨hw0', hw1'⟩ := apply_lower (e := e) now hv (by omega)
  exact ⟨hw0'.trans hw0, hw1'.trans hw1⟩

/-- Two records of one mesh cycle: the one of the higher rank stands, with its own word 1. -/
theorem errorRecordApply_two (hb : b < 16) (hd : d < 2) (hfree : Claims.BankFree s d b) {v1 v2 : Word} (a1 a2 s2 : Word)
    (hr1 : v1.toNat / 2 ^ 60 % 4 = 1) (hr2 : v2.toNat / 2 ^ 60 % 4 = 2) (ht1 : v1.toNat / 2 ^ 48 % 256 < 0x13) (ht2 : v2.toNat / 2 ^ 48 % 256 < 0x13) :
    Ends (.errorRecordApply d b v1 a1 w2 w3 w5) s fun u : State => Ends (.errorRecordApply d (b + 16) v2 a2 s2 w3 w5) u fun t : State =>
      Claims.BankHolds t d b 2 (v2.toNat / 2 ^ 48 % 256) ∧ ((t.die d).banks.getD b Bank.reset).w0.getLsbD 62 = false ∧
        ((t.die d).banks.getD b Bank.reset).w1 = a2 := by
  obtain ⟨h4, h5, h4', h5', -⟩ := testBit_four_five hb
  generalize hq : (s.die d).banks.getD b Bank.reset = q at *
  generalize he : recordOf v1 a1 w2 w3 w5 = e
  generalize hr : recordOf v2 a2 s2 w3 w5 = r
  have hfree' : q.w0.getLsbD 63 = false := hq ▸ hfree
  have herank : e.rank = 1 := by rw [← he]; exact hr1
  have hrrank : r.rank = 2 := by rw [← hr]; exact hr2
  have hrtyp : r.typ < 256 := by rw [← hr]; exact Nat.mod_lt _ (by decide)
  obtain ⟨u, hu⟩ : ∃ u, u = afterCycle d b ⟨s.pkg.time, q, [e], q.apply e s.pkg.time⟩ s := ⟨_, rfl⟩
  have hfirst : exec (.errorRecordApply d b v1 a1 w2 w3 w5) s = .next u := by
    rw [errorRecordApply_cycle (by omega) hd (Or.inl hr1) ht1, h4, h5, Nat.mod_eq_of_lt hb, bankCycle_own, he, hq, hu]
    rfl
  have hcycle : bankCycle d b true false (some r) u = ⟨s.pkg.time, q, [r, e], (q.apply r s.pkg.time).apply e s.pkg.time⟩ := by
    have htime : u.pkg.time = s.pkg.time := by rw [hu]; rfl
    have hjoins := bankCycle_joins r (d := d) (b := b) (s := u) (c := ⟨s.pkg.time, q, [e], q.apply e s.pkg.time⟩)
      (fun e => by rw [hu, afterCycle_cycle]) htime.symm (by rw [hu, afterCycle_bank])
    rw [hjoins, htime, insertRecord_rank hrrank herank]
    rfl
  have hsecond : exec (.errorRecordApply d (b + 16) v2 a2 s2 w3 w5) u =
      .next (afterCycle d b ⟨s.pkg.time, q, [r, e], (q.apply r s.pkg.time).apply e s.pkg.time⟩ u) := by
    rw [errorRecordApply_cycle (by omega) hd (Or.inr hr2) ht2, h4', h5', show (b + 16) % 16 = b by omega, hr, hcycle]
  obtain ⟨hw0, hw1⟩ := apply_two s.pkg.time hfree' hrrank hrtyp herank
  refine ⟨u, hfirst, _, hsecond, ?_, ?_, ?_⟩
  · have h := afterCycle_holds (d := d) (b := b) (s := u) (c := ⟨s.pkg.time, q, [r, e], (q.apply r s.pkg.time).apply e s.pkg.time⟩) hw0
      (by omega) hrtyp
    have htyp : r.typ = v2.toNat / 2 ^ 48 % 256 := by rw [← hr]; rfl
    rwa [hrrank, htyp] at h
  · rw [afterCycle_bank, hw0, status_ovf]
  · have haddr : r.addr = a2 := by rw [← hr]; rfl
    rw [afterCycle_bank, hw1, haddr]

end

/-! ### Scrubbing (R435) -/

theorem mem_insertLine (l : List Nat) (n : Nat) : n ∈ insertLine l n := by simp [insertLine]

/-- A line that is marked is one of the poisoned ones. -/
theorem mem_poisonLine (s : State) (ln : Nat) : ln ∈ (poisonLine s (128 * ln)).poison := by
  rw [poisonLine, lineOf, Nat.mul_div_cancel_left _ (by decide)]
  exact mem_insertLine _ _

/-- The record of a line that a scrub finds with an error. -/
def scrubRecord (rank : Nat) (pois : Bool) (ln : Nat) (s : State) : State :=
  postEdge (homeDie (128 * ln)) (homeStation (128 * ln)) rank 0x01 pois false (some (128 * ln)) 11 (homeStation (128 * ln)) s

section
variable {ln : Nat} {s : State} (hbad : ln ∉ s.poison) (hin : 128 * ln < s.usable)

theorem patrolScrub_poisoned (h : ln ∈ s.poison) (found : Nat) : exec (.patrolScrub ln found) s = .next s :=
  if_pos (Or.inl (List.contains_iff_mem.2 h))

include hbad hin

theorem patrolScrub_reads (found : Nat) : exec (.patrolScrub ln found) s =
    (if found = 1 then .next (scrubRecord 1 false ln s)
    else if found = 2 then .next (scrubRecord 3 true ln (poisonLine s (128 * ln)))
    else .next s) :=
  if_neg (by simpa [hbad] using hin)

theorem patrolScrub_corrected : Ends (.patrolScrub ln 1) s fun t : State => t.poison = s.poison ∧ t.mem = s.mem ∧
    (Claims.BankFree s (homeDie (128 * ln)) (homeStation (128 * ln)) → Claims.BankHolds t (homeDie (128 * ln)) (homeStation (128 * ln)) 1 0x01) := by
  have hexec : exec (.patrolScrub ln 1) s = .next (scrubRecord 1 false ln s) := patrolScrub_reads hbad hin 1
  exact ⟨_, hexec, postEdge_poison _ _ _ _ _ _ _ _ _ _, postEdge_mem _ _ _ _ _ _ _ _ _ _,
    postEdge_holds _ _ _ _ _ _ _ _ _ _ (by decide) (by decide)⟩

theorem patrolScrub_marks : Ends (.patrolScrub ln 2) s fun t : State => ln ∈ t.poison ∧ t.mem = s.mem ∧
    (Claims.BankFree s (homeDie (128 * ln)) (homeStation (128 * ln)) → Claims.BankHolds t (homeDie (128 * ln)) (homeStation (128 * ln)) 3 0x01) := by
  have hexec : exec (.patrolScrub ln 2) s = .next (scrubRecord 3 true ln (poisonLine s (128 * ln))) := patrolScrub_reads hbad hin 2
  have hpoison : (scrubRecord 3 true ln (poisonLine s (128 * ln))).poison = (poisonLine s (128 * ln)).poison := postEdge_poison _ _ _ _ _ _ _ _ _ _
  refine ⟨_, hexec, hpoison ▸ mem_poisonLine s ln, postEdge_mem _ _ _ _ _ _ _ _ _ _, fun hfree => ?_⟩
  exact postEdge_holds (s := poisonLine s (128 * ln)) _ _ _ _ _ _ _ _ _ (by decide) (by decide) hfree

end

/-! ### Errors in the state of a unit (R160, R291, R315, R420) -/

section
variable (n k b : Nat) (s : State)

theorem unitError_slot : Ends (.uncorrectableUnitStateError 0 n b) s fun t : State => (t.cluster n).mxe.badRows.get? b = some false ∧ t.mem = s.mem := by
  refine ⟨_, rfl, ?_, rfl⟩
  rw [State.modMxe, State.modCluster_cluster_same, get?_put_same]

theorem unitError_accumulator : Ends (.uncorrectableUnitStateError 1 n b) s fun t : State => (t.cluster n).mxe.badAcc.get? b = some false := by
  refine ⟨_, rfl, ?_⟩
  dsimp only
  rw [State.modMxe, State.modCluster_cluster_same, get?_put_same]

theorem unitError_q : Ends (.uncorrectableUnitStateError 3 n b) s fun t : State => (t.cluster n).spe.badQ.get? b = some false := by
  refine ⟨_, rfl, ?_⟩
  dsimp only
  rw [State.modSpe, State.modCluster_cluster_same, get?_put_same]

theorem unitError_shape : Ends (.uncorrectableUnitStateError 4 n b) s fun t : State => (t.cluster n).spe.badShape.get? b = some false := by
  refine ⟨_, rfl, ?_⟩
  dsimp only
  rw [State.modSpe, State.modCluster_cluster_same, get?_put_same]

theorem unitError_word : Ends (.uncorrectableUnitStateError 12 k n) s fun t : State => spadBad t k (8 * n) = true ∧ (t.core k).spad = (s.core k).spad := by
  refine ⟨_, rfl, ?_⟩
  dsimp only
  rw [spadBad, spadPoison, State.modCore_core_same, List.contains_iff_mem]
  exact ⟨mem_insertLine _ _, rfl⟩

theorem unitError_isq (h : (isqOf s n b).state = 0 ∨ 4 < (isqOf s n b).state) :
    Ends (.uncorrectableUnitStateError 11 n b) s fun t : State => isqOf t n b = isqOf s n b := by
  have hexec : exec (.uncorrectableUnitStateError 11 n b) s = .next (edgeError n b s) :=
    congrArg (fun u => Host.Outcome.next (edgeError n b u)) (if_neg (by omega))
  exact ⟨_, hexec, postEdge_die (p := fun c : Die => c.isqs.getD b Isq.reset) _ _ _ _ _ _ _ _ _ _ (fun _ _ => rfl) n⟩

end

end Sys2Proof.Proofs
end

section
/-! PROOFS. The cluster map: its writes, and the application of its pending entries (R367, R368; O39). -/

namespace Sys2Proof.Proofs

open Sys2Proof Sys2Proof.Machine Sys2Proof.Claims

/-! ### Writes of the map -/

section
variable (d n : Nat) (v : Word) (s : State)

theorem cmapWrite_writes (h : n < 96) : Ends (.cmapWrite d n v) s fun t : State => t.mem = s.mem ∧ t.ctxs = s.ctxs ∧
    cmapOf t d n = ⟨(cmapOf s d n).err && !v.getLsbD 16, true, v.toNat / 2 ^ 8 % 128, (cmapOf s d n).phy⟩ ∧
      ∀ m, m ≠ n → cmapOf t d m = cmapOf s d m := by
  have hput : putCmap d n v s = s.modDie d _ := if_neg (by omega)
  refine ⟨_, congrArg Host.Outcome.next hput, rfl, rfl, ?_, fun m hm => ?_⟩
  · rw [cmapOf, State.modDie_die_same, SMap.getD_put_same, fld_eq]
    rfl
  · rw [cmapOf, State.modDie_die_same, SMap.getD_put_ne _ _ _ _ _ hm, cmapOf]

theorem cmapWrite_outside (h : 96 ≤ n) : exec (.cmapWrite d n v) s = .next s := congrArg Host.Outcome.next (if_pos h)

end

/-! ### Tables that are rebuilt -/

/-- A table in which some keys of a list are written. -/
theorem getD_foldl_put_if {α : Type} (c : Nat → Bool) (g : Nat → α) (l : List Nat) (j : Nat) (d : α) (m : SMap α) :
    (l.foldl (fun m n => if c n then m.put n (g n) else m) m).getD j d = if j ∈ l ∧ c j = true then g j else m.getD j d := by
  induction l generalizing m with
  | nil => simp
  | cons n l ih =>
    rw [List.foldl_cons, ih]
    by_cases hj : j = n
    · subst hj
      cases hc : c j <;> simp [SMap.getD_put_same]
    · have hhead : (if c n then m.put n (g n) else m).getD j d = m.getD j d := by
        split
        · exact SMap.getD_put_ne _ _ _ _ _ hj
        · rfl
      rw [hhead]
      simp [hj]

/-- Take what one table lists under the second key of a pair into another, under the first. -/
def takeEntry {α : Type} (m : SMap α) (a : SMap α) (e : Nat × Nat) : SMap α :=
  match m.get? e.2 with
  | some v => a.put e.1 v
  | none => a

theorem get?_takeEntry_ne {α : Type} (m a : SMap α) {e : Nat × Nat} {k : Nat} (h : k ≠ e.1) : (takeEntry m a e).get? k = a.get? k := by
  unfold takeEntry
  split
  · exact get?_put_ne _ _ h
  · rfl

theorem get?_takeEntry_same {α : Type} (m a : SMap α) {e : Nat × Nat} (h : a.get? e.1 = none ∨ a.get? e.1 = m.get? e.2) :
    (takeEntry m a e).get? e.1 = m.get? e.2 := by
  unfold takeEntry
  split
  case h_1 v hv => rw [get?_put_same, hv]
  case h_2 hv => rw [hv] at h ⊢; exact h.elim id id

/-- What has been taken under a key stays, where every pair of the key names the same source. -/
theorem get?_foldl_kept {α : Type} (m : SMap α) {k j : Nat} (l : List (Nat × Nat)) (hfun : ∀ e ∈ l, e.1 = k → e.2 = j) (a : SMap α)
    (h : a.get? k = m.get? j) : (l.foldl (takeEntry m) a).get? k = m.get? j := by
  induction l generalizing a with
  | nil => exact h
  | cons e l ih =>
    refine ih (fun q hq => hfun q (List.mem_cons_of_mem _ hq)) _ ?_
    by_cases hk : k = e.1
    · have hj := hfun e List.mem_cons_self hk.symm
      subst hk hj
      exact get?_takeEntry_same m a (Or.inr h)
    · rw [get?_takeEntry_ne m a hk, h]

/-- A key that a list of pairs names, always with the same source, has what the source had. -/
theorem get?_foldl_taken {α : Type} (m : SMap α) {k j : Nat} (l : List (Nat × Nat)) (hfun : ∀ e ∈ l, e.1 = k → e.2 = j) (hmem : (k, j) ∈ l)
    (a : SMap α) (h : a.get? k = none) : (l.foldl (takeEntry m) a).get? k = m.get? j := by
  induction l generalizing a with
  | nil => cases hmem
  | cons e l ih =>
    have htail : ∀ q ∈ l, q.1 = k → q.2 = j := fun q hq => hfun q (List.mem_cons_of_mem _ hq)
    by_cases hk : k = e.1
    · have hj := hfun e List.mem_cons_self hk.symm
      subst hk hj
      exact get?_foldl_kept m l htail _ (get?_takeEntry_same m a (Or.inl h))
    · refine ih htail ((List.mem_cons.1 hmem).resolve_left fun heq => hk (congrArg Prod.fst heq)) _ ?_
      rw [get?_takeEntry_ne m a hk, h]

/-- A key that a filter drops is not listed. -/
theorem get?_filter_none {α : Type} (m : SMap α) (keep : Nat → Bool) {k : Nat} (h : keep k = false) : SMap.get? (m.filter fun e => keep e.1) k = none := by
  induction m with
  | nil => rfl
  | cons e m ih =>
    obtain ⟨i, x⟩ := e
    rw [List.filter_cons]
    split
    case isTrue hi =>
      have hne : i ≠ k := fun hik => by rw [hik, h] at hi; cases hi
      rw [SMap.get?, if_neg hne, ih]
    case isFalse => exact ih

/-- The pairs by which a permutation of the clusters moves what is listed by core. -/
def movedPairs (keys : Nat → List Nat) (src : Nat → Nat) : List (Nat × Nat) := (List.range 96).flatMap fun n => (keys n).zip (keys (src n))

theorem permuteKeys_eq {α : Type} (m : SMap α) (keys : Nat → List Nat) (src : Nat → Nat) : permuteKeys m keys src =
    (movedPairs keys src).foldl (takeEntry m) (m.filter fun e => !(((List.range 96).flatMap keys).contains e.1)) := by
  rw [movedPairs, List.foldl_flatMap]
  rfl

/-- What a permutation of the clusters lists under a key is what was listed under the key it is paired with. -/
theorem get?_permuteKeys {α : Type} (m : SMap α) (keys : Nat → List Nat) (src : Nat → Nat) {k j : Nat} (hkey : k ∈ (List.range 96).flatMap keys)
    (hmem : (k, j) ∈ movedPairs keys src) (hfun : ∀ e ∈ movedPairs keys src, e.1 = k → e.2 = j) : (permuteKeys m keys src).get? k = m.get? j := by
  rw [permuteKeys_eq]
  refine get?_foldl_taken m _ hfun hmem _ (get?_filter_none m (fun i => !(((List.range 96).flatMap keys).contains i)) ?_)
  simpa using hkey

/-! ### The cores of a cluster (R235) -/

/-- The cores of a logical cluster of a die. -/
def coreKeys (d n : Nat) : List Nat := (List.range 8).map fun j => clusterCore (96 * d + n) j

theorem clusterCore_inj {d m n i j : Nat} (hm : m < 96) (hn : n < 96) (hi : i < 8) (hj : j < 8)
    (h : clusterCore (96 * d + m) i = clusterCore (96 * d + n) j) : m = n ∧ i = j := by
  simp only [clusterCore, coreAt] at h
  omega

theorem mem_movedPairs {d : Nat} {src : Nat → Nat} {e : Nat × Nat} : e ∈ movedPairs (coreKeys d) src ↔
    ∃ n, n < 96 ∧ ∃ i, i < 8 ∧ e = (clusterCore (96 * d + n) i, clusterCore (96 * d + src n) i) := by
  simp only [movedPairs, coreKeys, List.zip_map', List.mem_flatMap, List.mem_map, List.mem_range, eq_comm]

/-- A core takes what the core at its place in the cluster that it replaces had. -/
theorem permuteKeys_core {α : Type} (m : SMap α) (dflt : α) (d : Nat) (src : Nat → Nat) {n i : Nat} (hn : n < 96) (hi : i < 8) :
    (permuteKeys m (coreKeys d) src).getD (clusterCore (96 * d + n) i) dflt = m.getD (clusterCore (96 * d + src n) i) dflt := by
  rw [getD_eq_get?, getD_eq_get?, get?_permuteKeys m (coreKeys d) src (j := clusterCore (96 * d + src n) i)]
  · exact List.mem_flatMap.2 ⟨n, List.mem_range.2 hn, List.mem_map.2 ⟨i, List.mem_range.2 hi, rfl⟩⟩
  · exact mem_movedPairs.2 ⟨n, hn, i, hi, rfl⟩
  · intro e he hkey
    obtain ⟨m', hm', i', hi', rfl⟩ := mem_movedPairs.1 he
    obtain ⟨rfl, rfl⟩ := clusterCore_inj hm' hn hi' hi hkey
    rfl

/-! ### The application of the map -/

/-- The physical cluster of a logical one once the pending entries are applied. -/
def placeOf (s : State) (d m : Nat) : Nat := if (cmapOf s d m).pnd then (cmapOf s d m).new else (cmapOf s d m).phy

/-- The map with every pending entry rewritten. -/
def rewriteMap (d : Nat) (g : CmapEntry → CmapEntry) (s : State) : State :=
  s.modDie d fun dd => { dd with cmap := (List.range 96).foldl (fun m n =>
    if (cmapOf s d n).pnd then m.put n (g (cmapOf s d n)) else m) dd.cmap }

theorem cmapOf_rewriteMap (d : Nat) (g : CmapEntry → CmapEntry) (s : State) {m : Nat} (hm : m < 96) :
    cmapOf (rewriteMap d g s) d m = if (cmapOf s d m).pnd then g (cmapOf s d m) else cmapOf s d m := by
  rw [cmapOf, rewriteMap, State.modDie_die_same]
  dsimp only
  rw [getD_foldl_put_if (fun n => (cmapOf s d n).pnd) (fun n => g (cmapOf s d n))]
  simp only [List.mem_range, hm, true_and]
  rfl

section
variable {d : Nat} {s : State}

theorem mapApply_idle (h : ∀ m, m < 96 → (cmapOf s d m).pnd = false) : exec (.mapApply d) s = .next s := by
  have hpend : ((List.range 96).filter fun n => (cmapOf s d n).pnd) = [] :=
    List.filter_eq_nil_iff.2 fun m hm => by rw [h m (List.mem_range.1 hm)]; decide
  change execMapApply d s = _
  unfold execMapApply
  dsimp only
  rw [hpend]
  rfl

variable (hlaunch : s.pkg.launches = []) (hpend : ∃ m, m < 96 ∧ (cmapOf s d m).pnd = true)
include hlaunch

theorem frozenCluster_none (n : Nat) : frozenCluster s d n = false := by rw [frozenCluster, hlaunch]; rfl

include hpend

/-- With pending entries and no launch the map is applied where it is a permutation. -/
theorem mapApply_pending : exec (.mapApply d) s =
    if (List.range 96).all fun p => ((List.range 96).map (placeOf s d)).contains p then .next (applyMap d s)
    else .next (rewriteMap d (fun e => { e with err := true }) s) := by
  obtain ⟨m, hm, hmp⟩ := hpend
  have hne : ((List.range 96).filter fun n => (cmapOf s d n).pnd).isEmpty = false := by
    rw [List.isEmpty_eq_false_iff]
    exact List.ne_nil_of_mem (List.mem_filter.2 ⟨List.mem_range.2 hm, hmp⟩)
  have hfrozen : (((List.range 96).filter fun n => (cmapOf s d n).pnd).any fun n => frozenCluster s d n ||
      ((List.range 96).any fun m => frozenCluster s d m && (cmapOf s d m).phy == (cmapOf s d n).new) ||
      ((List.range 96).any fun m => frozenCluster s d m && (cmapOf s d m).phy == (cmapOf s d n).phy)) = false := by
    simp [frozenCluster_none hlaunch]
  change execMapApply d s = _
  unfold execMapApply
  dsimp only
  rw [hne, hfrozen]
  simp only [List.foldl_filter]
  rfl

theorem mapApply_refused {p : Nat} (hp : p < 96) (hfree : ∀ m, m < 96 → placeOf s d m ≠ p) : Ends (.mapApply d) s fun t : State =>
    t.cores = s.cores ∧ t.ctxs = s.ctxs ∧ ∀ m, m < 96 → (cmapOf s d m).pnd = true → (cmapOf t d m).err = true ∧ (cmapOf t d m).pnd = true ∧
      (cmapOf t d m).phy = (cmapOf s d m).phy := by
  have hall : ¬((List.range 96).all fun p => ((List.range 96).map (placeOf s d)).contains p) = true := by
    simp only [List.all_eq_true, List.contains_iff_mem, List.mem_map, List.mem_range, not_forall]
    exact ⟨p, hp, fun ⟨m, hm, hmp⟩ => hfree m hm hmp⟩
  refine ⟨_, (mapApply_pending hlaunch hpend).trans (if_neg hall), rfl, rfl, fun m hm hmp => ?_⟩
  rw [cmapOf_rewriteMap d _ s hm, if_pos hmp]
  exact ⟨rfl, hmp, rfl⟩

theorem mapApply_applies (hcover : ∀ p, p < 96 → ∃ m, m < 96 ∧ placeOf s d m = p) : exec (.mapApply d) s = .next (applyMap d s) := by
  refine (mapApply_pending hlaunch hpend).trans (if_pos ?_)
  simpa only [List.all_eq_true, List.contains_iff_mem, List.mem_map, List.mem_range] using hcover

omit hlaunch hpend

theorem applyMap_cmap {m : Nat} (hm : m < 96) : (cmapOf (applyMap d s) d m).pnd = false ∧ (cmapOf (applyMap d s) d m).phy = placeOf s d m := by
  have h : cmapOf (applyMap d s) d m = cmapOf (rewriteMap d (fun e => { e with phy := e.new, pnd := false }) s) d m := by
    rw [cmapOf, applyMap, cmapOf, rewriteMap, State.modDie_die_same, State.modDie_die_same]
    rfl
  rw [h, cmapOf_rewriteMap d _ s hm, placeOf]
  split
  case isTrue => exact ⟨rfl, rfl⟩
  case isFalse hpnd => exact ⟨Bool.eq_false_iff.2 hpnd, rfl⟩

/-- The logical cluster that a physical one stands for, where it is the only one. -/
theorem logicalOf_eq {j : Nat} (hj : j < 96) (honly : ∀ a, a < 96 → (cmapOf s d a).phy = (cmapOf s d j).phy → a = j) :
    logicalOf s d (cmapOf s d j).phy = j := by
  unfold logicalOf
  cases hfind : (List.range 96).find? fun n => (cmapOf s d n).phy == (cmapOf s d j).phy with
  | none => exact absurd (List.find?_eq_none.1 hfind j (List.mem_range.2 hj)) (by simp)
  | some a =>
    have ha := List.mem_range.1 (List.mem_of_find?_eq_some hfind)
    exact honly a ha (by simpa using List.find?_some hfind)

theorem applyMap_core {m j i : Nat} (hm : m < 96) (hj : j < 96) (hi : i < 8) (hplace : placeOf s d m = (cmapOf s d j).phy)
    (honly : ∀ a, a < 96 → (cmapOf s d a).phy = (cmapOf s d j).phy → a = j) :
    (applyMap d s).core (clusterCore (96 * d + m) i) = s.core (clusterCore (96 * d + j) i) := by
  have h := permuteKeys_core s.cores Core.reset d (fun n => logicalOf s d (placeOf s d n)) hm hi
  rw [hplace, logicalOf_eq hj honly] at h
  exact h

end

end Sys2Proof.Proofs
end

section
/-! PROOFS. What accesses of device memory, the flush of lines and a page migration leave of the dies: all but the copies of the LLCs, the cached
leaves, the waiters and the banks (R164, R165, R348, R353 to R357, R437; O39). -/

namespace Sys2Proof.Proofs

open Sys2Proof Sys2Proof.Machine Sys2Proof.Claims

/-- What is read of a state depends on its dies alone, and not on their copies, cached leaves, waiters and banks. -/
structure Tended {α : Type} (q : State → α) : Prop where
  beyond : ∀ s t : State, t.dies = s.dies → q t = q s
  llc : ∀ (s : State) (d : Nat) (g : SMap LlcLine → SMap LlcLine), q (s.modDie d fun c => { c with llc := g c.llc }) = q s
  tlb : ∀ (s : State) (d : Nat) (g : List TlbEntry → List TlbEntry), q (s.modDie d fun c => { c with tlb := g c.tlb }) = q s
  waiters : ∀ (s : State) (d : Nat) (g : List Req → List Req), q (s.modDie d fun c => { c with waiters := g c.waiters }) = q s
  banks : ∀ (s : State) (d : Nat) (g : SMap Bank → SMap Bank), q (s.modDie d fun c => { c with banks := g c.banks }) = q s
  everyone : ∀ (s t : State) (g : List Req → List Req), t.dies = s.dies.map (fun e => (e.1, { e.2 with waiters := g e.2.waiters })) → q t = q s

/-- A change of a die that keeps what is read of it. -/
theorem modDie_keeps {α : Type} (p : Die → α) {g : Die → Die} (hg : ∀ c, p (g c) = p c) (s : State) (d j : Nat) :
    p ((s.modDie d g).die j) = p (s.die j) := by
  rw [State.modDie_die]
  split
  case isTrue h => rw [hg, h]
  case isFalse => rfl

/-- ERR of a die's page migration (R436). -/
def pmigErrOf (j : Nat) (s : State) : Bool := (s.die j).pmigErr

/-- The migration's ERR of a die is none of what memory changes. -/
theorem tended_pmigErr (j : Nat) : Tended (pmigErrOf j) := by
  have hkeeps : ∀ (a : SMap LlcLine → SMap LlcLine) (b : List TlbEntry → List TlbEntry) (w : List Req → List Req)
      (k : SMap Bank → SMap Bank) (c : Die),
      Die.pmigErr { c with llc := a c.llc, tlb := b c.tlb, waiters := w c.waiters, banks := k c.banks } = c.pmigErr := fun _ _ _ _ _ => rfl
  constructor
  case beyond => exact fun s t h => by rw [pmigErrOf, State.die, h]; rfl
  case llc => exact fun s d g => modDie_keeps Die.pmigErr (hkeeps g id id id) s d j
  case tlb => exact fun s d g => modDie_keeps Die.pmigErr (hkeeps id g id id) s d j
  case waiters => exact fun s d g => modDie_keeps Die.pmigErr (hkeeps id id g id) s d j
  case banks => exact fun s d g => modDie_keeps Die.pmigErr (hkeeps id id id g) s d j
  case everyone =>
    intro s t g h
    rw [pmigErrOf, State.die, h]
    exact getD_map_keeps Die.pmigErr _ (hkeeps id id g id) s.dies j Die.reset

section
variable {α : Type} {q : State → α} (hq : Tended q)
include hq

/-! ### Home slices and the LLC (R165, R347, R348) -/

theorem serveAt_tended (e : Option Nat) (pa n : Nat) (s : State) : q (serveAt e pa n s) = q s := by
  have hreply : ∀ r v t, q (replyReq r v t) = q t := fun r v t => hq.beyond t _ (by rw [replyReq_frame])
  have hmark : ∀ hit t, q (markHeld hit t) = q t := fun hit t => hq.beyond t _ rfl
  unfold serveAt
  dsimp only
  rw [hmark]
  split
  · rfl
  · rw [foldl_keeps q _ fun _ _ => hreply _ _ _]
    exact hq.waiters s _ fun l => l.filter _

theorem serveMask_tended (e : Option Nat) (ln : Nat) (mask : BitVec 128) (s : State) : q (serveMask e ln mask s) = q s := by
  apply foldl_keeps q
  intro t i
  split
  · rfl
  · exact serveAt_tended hq _ _ _ _

theorem homeWrite_tended (s : State) (pa n v : Nat) : q (homeWrite s pa n v) = q s := (serveAt_tended hq _ _ _ _).trans (hq.beyond s _ rfl)

theorem homeMerge_tended (s : State) (ln : Nat) (bits : LineBits) (mask : BitVec 128) : q (homeMerge s ln bits mask) = q s :=
  (serveMask_tended hq _ _ _ _).trans (hq.beyond s _ rfl)

theorem poisonLine_tended (s : State) (pa : Nat) : q (poisonLine s pa) = q s := hq.beyond s _ rfl

theorem modMem_tended (s : State) (m : List Host.Cell) : q { s with mem := m } = q s := hq.beyond s _ rfl

theorem modCore_tended (s : State) (k : Nat) (g : Core → Core) : q (s.modCore k g) = q s := hq.beyond s _ rfl

theorem llcDrop_tended (s : State) (d ln : Nat) : q (llcDrop s d ln) = q s := by
  have herase := hq.llc s d fun m => m.erase ln
  unfold llcDrop
  split
  · rfl
  · dsimp only
    split
    · exact herase
    · split
      · rw [poisonLine_tended hq, homeMerge_tended hq]
        exact herase
      · rw [homeMerge_tended hq]
        exact herase

theorem llcInstall_tended (s : State) (d ln : Nat) (l : LlcLine) : q (llcInstall s d ln l) = q s := by
  unfold llcInstall
  refine (hq.llc _ d fun m => m.put ln l).trans ?_
  split
  · split
    · exact llcDrop_tended hq _ _ _
    · rfl
  · rfl

theorem llcFill_tended (s : State) (d ln : Nat) : q (llcFill s d ln).2 = q s := by
  unfold llcFill
  split
  · split
    · rfl
    · split
      · split
        · rfl
        · exact hq.llc s d fun m => m.put ln _
      · rfl
  · split
    · rfl
    · exact llcInstall_tended hq _ _ _ _

theorem dieMerge_tended (s : State) (d ln : Nat) (bits : LineBits) (mask : BitVec 128) : q (dieMerge s d ln bits mask).2 = q s := by
  unfold dieMerge
  split
  · exact homeMerge_tended hq _ _ _ _
  · have hfill : q (if (mask == BitVec.allOnes 128) = true then s else (llcFill s d ln).2) = q s := by
      split
      · rfl
      · exact llcFill_tended hq _ _ _
    dsimp only
    split
    · rw [serveMask_tended hq]
      exact (hq.llc _ d fun m => m.put ln _).trans hfill
    · split
      · rfl
      · rw [serveMask_tended hq, llcInstall_tended hq]
        exact hfill

/-! ### Translation (R350 to R354) -/

theorem walkRead_tended (s : State) (d pa : Nat) : q (walkRead s d pa).2 = q s := by
  have hf : q (streamRead s d pa false 8).2 = q s := llcDrop_tended hq s d (lineOf pa)
  unfold walkRead
  split
  · rfl
  · split <;> (next he => exact keeps_of_answer he hf)

theorem walkWords_tended (s : State) (d pa n : Nat) : q (walkWords s d pa n).2 = q s := by
  induction n generalizing s pa with
  | zero => rfl
  | succ n ih =>
    unfold walkWords
    split
    · next he => exact keeps_of_answer he (walkRead_tended hq s d pa)
    · next v s1 he =>
      have hw := (ih s1 (pa + 8)).trans (keeps_of_answer he (walkRead_tended hq s d pa))
      split <;> (next hg => exact keeps_of_answer hg hw)

theorem walkFrom_tended (s : State) (d va level table : Nat) : q (walkFrom s d va level table).2 = q s := by
  induction level generalizing s table with
  | zero =>
    unfold walkFrom
    split
    · next he => exact keeps_of_answer he (walkRead_tended hq _ _ _)
    · next he => split <;> exact keeps_of_answer he (walkRead_tended hq _ _ _)
  | succ n ih =>
    unfold walkFrom
    split
    · next he => exact keeps_of_answer he (walkRead_tended hq _ _ _)
    · next he =>
      have hf := keeps_of_answer he (walkRead_tended hq _ _ _)
      split
      · exact hf
      · exact (ih _ _).trans hf
      · exact hf

theorem walk_tended (s : State) (d pid va : Nat) : q (walk s d pid va).2 = q s := by
  have hdesc : q (readDesc s d pid).2 = q s := by
    unfold readDesc
    split
    · next he => split <;> exact keeps_of_answer he (walkWords_tended hq _ _ _ _)
    · next he => exact keeps_of_answer he (walkWords_tended hq _ _ _ _)
  unfold walk
  split
  · next he => exact keeps_of_answer he hdesc
  · next he => exact (walkFrom_tended hq _ _ _ _ _).trans (keeps_of_answer he hdesc)

theorem translate_tended (s : State) (d pid va : Nat) (acc : Acc) : q (Machine.translate s d pid va acc).2 = q s := by
  unfold Machine.translate
  split
  · rfl
  · split
    · next he => exact keeps_of_answer he (walk_tended hq _ _ _ _)
    · next he =>
      have hf := keeps_of_answer he (walk_tended hq _ _ _ _)
      split
      · exact hf
      · dsimp only
        split
        · exact (hq.tlb _ d fun l => l ++ [_]).trans hf
        · exact hf

/-! ### Error records and the lines of the L1s (R355, R361, R363) -/

theorem postErrorOpen_tended (d b : Nat) (e : ErrRec) (s : State) : q (postErrorOpen d b e s) = q s := by
  unfold postErrorOpen postError
  refine (hq.beyond _ _ (machineCheck_dies _ _ _ _)).trans ((hq.banks _ d fun m => m.put b _).trans (hq.beyond s _ rfl))

theorem l1Poisoned_tended (s : State) (m : Nat) (l : L1Line) (pa : Nat) : q (l1Poisoned s m l pa) = q s := by
  have hdrop : ∀ mem, q (poisonLine { llcDrop s (coreDie m) (lineOf pa) with mem := mem } pa) = q s := fun mem => by
    rw [poisonLine_tended hq, modMem_tended hq, llcDrop_tended hq]
  unfold l1Poisoned
  dsimp only
  split
  · exact (modCore_tended hq _ _ _).trans ((postErrorOpen_tended hq _ _ _ _).trans (hdrop _))
  · exact (postErrorOpen_tended hq _ _ _ _).trans (hdrop _)

theorem l1WriteBack_tended (s : State) (m : Nat) (l : L1Line) : q (l1WriteBack s m l) = q s := by
  unfold l1WriteBack
  split
  · rfl
  · split
    · next he => exact (postErrorOpen_tended hq _ _ _ _).trans (keeps_of_answer he (translate_tended hq _ _ _ _ _))
    · next he =>
      have ht := keeps_of_answer he (translate_tended hq _ _ _ _ _)
      split
      · exact (l1Poisoned_tended hq _ _ _ _).trans ht
      · exact (dieMerge_tended hq _ _ _ _ _).trans ht

theorem l1Flush_tended (s : State) (m pid vln : Nat) : q (l1Flush s m pid vln) = q s := by
  unfold l1Flush
  split
  · rfl
  · exact (modCore_tended hq _ _ _).trans (l1WriteBack_tended hq _ _ _)

/-! ### Shootdowns and the move of a page (R356, R437) -/

theorem shootCore_tended (w : Shoot) (s : State) (k : Nat) : q (shootCore w s k) = q s := by
  unfold shootCore
  split
  · refine (modCore_tended hq _ _ _).trans (foldl_keeps q _ (fun u m => ?_) _ _)
    exact foldl_keeps q _ (fun v l => l1Flush_tended hq _ _ _ _) _ _
  · rfl

theorem shootDown_tended (w : Shoot) (s : State) : q (shootDown w s) = q s := by
  unfold shootDown
  refine (foldl_keeps q _ (fun u d => hq.tlb u d fun l => l.filter _) _ _).trans ?_
  exact foldl_keeps q _ (fun u k => shootCore_tended hq w u k) _ _

theorem moveWaiters_tended (src dst n : Nat) (s : State) : q (moveWaiters src dst n s) = q s :=
  hq.everyone s _ (fun l => l.filter fun r => !(r.home.inPage src n)) rfl

theorem copyPage_tended (src dst n : Nat) (s : State) : q (copyPage src dst n s) = q s := (serveAt_tended hq _ _ _ _).trans (hq.beyond s _ rfl)

end

end Sys2Proof.Proofs
end

section
/-! PROOFS. Lines that leave a cache by replacement (R164, R348, R357, R363; O39). A translation reads no core, so that the poison of a line that
is found uncorrectable does not change where the line is written. -/

namespace Sys2Proof.Proofs

open Sys2Proof Sys2Proof.Machine Sys2Proof.Claims

/-! ### What a translation reads -/

/-- What a walk reads of a die: its copies, its descriptor table, its fence and its cached leaves. -/
def dieMem (c : Die) : SMap LlcLine × Word × Bool × List TlbEntry := (c.llc, c.ptab, c.fenced, c.tlb)

/-- Two states with the same memory, copies and leaves. -/
structure SameMem (s t : State) : Prop where
  mem : t.mem = s.mem
  poison : t.poison = s.poison
  pkg : t.pkg = s.pkg
  dies : ∀ j, dieMem (t.die j) = dieMem (s.die j)

/-- The same answer, from states that then have the same memory. -/
def SameAnswer {β : Type} (a b : β × State) : Prop := b.1 = a.1 ∧ SameMem a.2 b.2

theorem serveAt_dieMem (j : Nat) (e : Option Nat) (pa n : Nat) (s : State) : dieMem ((serveAt e pa n s).die j) = dieMem (s.die j) := by
  unfold serveAt
  dsimp only
  change dieMem (State.die (if _ then _ else _) j) = _
  split
  · rfl
  · refine (foldl_keeps (fun t : State => dieMem (t.die j)) _ (fun t r => by rw [replyReq_frame]; rfl) _ _).trans ?_
    refine modDie_keeps dieMem ?_ _ _ _
    exact fun _ => rfl

theorem serveAt_pkg (e : Option Nat) (pa n : Nat) (s : State) : (serveAt e pa n s).pkg = s.pkg := by
  unfold serveAt
  dsimp only
  change State.pkg (if _ then _ else _) = _
  split
  · rfl
  · exact foldl_keeps State.pkg _ (fun t r => replyReq_pkg _ _ _) _ _

section
variable {s t : State} (h : SameMem s t)
include h

theorem SameMem.serveAt (e : Option Nat) (pa n : Nat) : SameMem s (Machine.serveAt e pa n t) where
  mem := (serveAt_mem e pa n t).trans h.mem
  poison := (serveAt_poison e pa n t).trans h.poison
  pkg := (serveAt_pkg e pa n t).trans h.pkg
  dies j := (serveAt_dieMem j e pa n t).trans (h.dies j)

theorem SameMem.symm : SameMem t s := ⟨h.mem.symm, h.poison.symm, h.pkg.symm, fun j => (h.dies j).symm⟩

theorem SameMem.serveMask (e : Option Nat) (ln : Nat) (mask : BitVec 128) : SameMem s (Machine.serveMask e ln mask t) := by
  apply foldl_inv (SameMem s)
  · intro u i hu
    split
    · exact hu
    · exact hu.serveAt _ _ _
  · exact h

theorem SameMem.homeMerge (ln : Nat) (bits : LineBits) (mask : BitVec 128) : SameMem (Machine.homeMerge s ln bits mask) (Machine.homeMerge t ln bits mask) := by
  refine SameMem.serveMask (SameMem.symm (SameMem.serveMask (SameMem.symm ?_) _ _ _)) _ _ _
  exact ⟨by rw [h.mem], by rw [h.poison], h.pkg, h.dies⟩

theorem SameMem.poisonLine (pa : Nat) : SameMem (Machine.poisonLine s pa) (Machine.poisonLine t pa) :=
  ⟨h.mem, congrArg (insertLine · (lineOf pa)) h.poison, h.pkg, h.dies⟩

theorem SameMem.llcCopy (d ln : Nat) : Machine.llcCopy t d ln = Machine.llcCopy s d ln :=
  congrArg (fun v : SMap LlcLine × Word × Bool × List TlbEntry => v.1.get? ln) (h.dies d)

theorem SameMem.fencedFrom (d e : Nat) : Machine.fencedFrom t d e = Machine.fencedFrom s d e :=
  congrArg (fun v : SMap LlcLine × Word × Bool × List TlbEntry => d != e && v.2.2.1) (h.dies d)

theorem SameMem.ptab (d : Nat) : (t.die d).ptab = (s.die d).ptab :=
  congrArg (fun v : SMap LlcLine × Word × Bool × List TlbEntry => v.2.1) (h.dies d)

theorem SameMem.tlb (d : Nat) : (t.die d).tlb = (s.die d).tlb :=
  congrArg (fun v : SMap LlcLine × Word × Bool × List TlbEntry => v.2.2.2) (h.dies d)

theorem SameMem.usable : t.usable = s.usable := by rw [State.usable, h.pkg, State.usable]

theorem SameMem.modDie (d : Nat) (g : Die → Die) (hg : ∀ a b, dieMem a = dieMem b → dieMem (g a) = dieMem (g b)) :
    SameMem (s.modDie d g) (t.modDie d g) := by
  refine ⟨h.mem, h.poison, h.pkg, fun j => ?_⟩
  rw [State.modDie_die, State.modDie_die]
  split
  · exact hg _ _ (h.dies d)
  · exact h.dies j

theorem SameMem.eraseCopy (d ln : Nat) :
    SameMem (s.modDie d fun c => { c with llc := c.llc.erase ln }) (t.modDie d fun c => { c with llc := c.llc.erase ln }) :=
  h.modDie d _ fun _ _ hab => congrArg (fun v : SMap LlcLine × Word × Bool × List TlbEntry => (v.1.erase ln, v.2)) hab

theorem SameMem.llcDrop (d ln : Nat) : SameMem (Machine.llcDrop s d ln) (Machine.llcDrop t d ln) := by
  unfold Machine.llcDrop
  rw [h.llcCopy, h.fencedFrom]
  split
  · exact h
  · dsimp only
    split
    · exact h.eraseCopy d ln
    · split
      · exact ((h.eraseCopy d ln).homeMerge _ _ _).poisonLine _
      · exact (h.eraseCopy d ln).homeMerge _ _ _

/-! ### Walks and translations -/

theorem SameMem.homeRead (d pa n : Nat) : Machine.homeRead t d pa n = Machine.homeRead s d pa n := by
  unfold Machine.homeRead
  rw [h.fencedFrom, h.poison, h.mem]

theorem SameMem.walkRead (d pa : Nat) : SameAnswer (Machine.walkRead s d pa) (Machine.walkRead t d pa) := by
  have hdrop := h.llcDrop d (lineOf pa)
  have hread : ∀ u : State, streamRead u d pa false 8 = (Machine.homeRead (Machine.llcDrop u d (lineOf pa)) d pa 8, Machine.llcDrop u d (lineOf pa)) :=
    fun _ => rfl
  unfold Machine.walkRead
  rw [h.usable, hread, hread, hdrop.homeRead]
  split
  · exact ⟨rfl, h⟩
  · cases Machine.homeRead (Machine.llcDrop s d (lineOf pa)) d pa 8 with
    | error e => exact ⟨rfl, hdrop⟩
    | ok v => exact ⟨rfl, hdrop⟩

end

/-- An answer taken apart, with the answer of the other state. -/
theorem SameAnswer.of_eq {β : Type} {a b : β × State} {r : β} {u : State} (h : SameAnswer a b) (ha : a = (r, u)) : ∃ w, b = (r, w) ∧ SameMem u w := by
  subst ha
  obtain ⟨r', w⟩ := b
  obtain ⟨rfl, hw⟩ := h
  exact ⟨w, rfl, hw⟩

theorem SameMem.walkWords {s t : State} (h : SameMem s t) (d pa n : Nat) : SameAnswer (Machine.walkWords s d pa n) (Machine.walkWords t d pa n) := by
  induction n generalizing s t pa with
  | zero => exact ⟨rfl, h⟩
  | succ n ih =>
    unfold Machine.walkWords
    cases hread : Machine.walkRead s d pa with
    | mk r u =>
      obtain ⟨w, ht, hu⟩ := (h.walkRead d pa).of_eq hread
      rw [ht]
      cases r with
      | error e => exact ⟨rfl, hu⟩
      | ok v =>
        dsimp only
        cases hrest : Machine.walkWords u d (pa + 8) n with
        | mk r' u' =>
          obtain ⟨w', ht', hu'⟩ := (ih hu (pa + 8)).of_eq hrest
          rw [ht']
          cases r' <;> exact ⟨rfl, hu'⟩

theorem SameMem.walkFrom {s t : State} (h : SameMem s t) (d va level table : Nat) :
    SameAnswer (Machine.walkFrom s d va level table) (Machine.walkFrom t d va level table) := by
  induction level generalizing s t table with
  | zero =>
    unfold Machine.walkFrom
    cases hread : Machine.walkRead s d (entryAddr table 0 va) with
    | mk r u =>
      obtain ⟨w, ht, hu⟩ := (h.walkRead d _).of_eq hread
      rw [ht]
      cases r with
      | error e => exact ⟨rfl, hu⟩
      | ok v =>
        dsimp only
        cases readEntry 0 v <;> exact ⟨rfl, hu⟩
  | succ n ih =>
    unfold Machine.walkFrom
    cases hread : Machine.walkRead s d (entryAddr table (n + 1) va) with
    | mk r u =>
      obtain ⟨w, ht, hu⟩ := (h.walkRead d _).of_eq hread
      rw [ht]
      cases r with
      | error e => exact ⟨rfl, hu⟩
      | ok v =>
        dsimp only
        cases readEntry (n + 1) v with
        | leaf e => exact ⟨rfl, hu⟩
        | table pa => exact ih hu pa
        | fail c => exact ⟨rfl, hu⟩

theorem SameMem.walk {s t : State} (h : SameMem s t) (d pid va : Nat) : SameAnswer (Machine.walk s d pid va) (Machine.walk t d pid va) := by
  have hdesc : SameAnswer (readDesc s d pid) (readDesc t d pid) := by
    have haddr : descAddr t d pid = descAddr s d pid := by rw [descAddr, h.ptab, descAddr]
    unfold readDesc
    rw [haddr]
    cases hwords : Machine.walkWords s d (descAddr s d pid) 8 with
    | mk r u =>
      obtain ⟨w, ht, hu⟩ := (h.walkWords d _ _).of_eq hwords
      rw [ht]
      match r with
      | .error _ => exact ⟨rfl, hu⟩
      | .ok [] => exact ⟨rfl, hu⟩
      | .ok [_] => exact ⟨rfl, hu⟩
      | .ok (w0 :: w1 :: rest) =>
        dsimp only
        split <;> exact ⟨rfl, hu⟩
  unfold Machine.walk
  cases hread : readDesc s d pid with
  | mk r u =>
    obtain ⟨w, ht, hu⟩ := hdesc.of_eq hread
    rw [ht]
    cases r with
    | error e => exact ⟨rfl, hu⟩
    | ok a => exact hu.walkFrom d va 3 a.1

/-- A translation answers the same from states of the same memory. -/
theorem SameMem.translate {s t : State} (h : SameMem s t) (d pid va : Nat) (acc : Acc) :
    (Machine.translate t d pid va acc).1 = (Machine.translate s d pid va acc).1 := by
  unfold Machine.translate
  rw [h.tlb, h.usable]
  split
  · rfl
  · cases hwalk : Machine.walk s d pid va with
    | mk r u =>
      obtain ⟨w, ht, hu⟩ := (h.walk d pid va).of_eq hwalk
      rw [ht]
      cases r with
      | error e => rfl
      | ok a =>
        dsimp only
        rw [hu.tlb]
        split
        · rfl
        · split <;> rfl

end Sys2Proof.Proofs
end

section
/-! PROOFS. The replacement of lines (R164, R348, R357, R363; O39). -/

namespace Sys2Proof.Proofs

open Sys2Proof Sys2Proof.Machine Sys2Proof.Claims

/-! ### Lines of an L1 (R164, R363) -/

/-- The state of a line before its replacement: found uncorrectable, or as it is. -/
def foundBad (k : Nat) (l : L1Line) (bad : Bool) (s : State) : State := if bad then l1Put s k { l with poison := true } else s

theorem l1Find_foundBad {s : State} {k pid vln : Nat} {l : L1Line} (h : l1Find s k pid vln = some l) (bad : Bool) :
    ∃ e, l1Find (foundBad k l bad s) k pid vln = some e ∧ e.dirty = l.dirty := by
  cases bad with
  | false => exact ⟨l, h, rfl⟩
  | true =>
    obtain ⟨rfl, rfl⟩ := l1Find_name h
    exact ⟨{ l with poison := true }, l1Find_l1Put s k { l with poison := true }, rfl⟩

/-- The flush of a line that has no dirty byte writes nothing. -/
theorem l1Flush_clean {s : State} {k pid vln : Nat} {l : L1Line} (h : l1Find s k pid vln = some l) (hdirty : l.dirty = 0) :
    (l1Flush s k pid vln).mem = s.mem := by
  unfold l1Flush l1WriteBack
  rw [h]
  dsimp only
  rw [if_pos hdirty]
  rfl

theorem postErrorOpen_poison (d b : Nat) (e : ErrRec) (s : State) : (postErrorOpen d b e s).poison = s.poison := machineCheck_poison _ _ _ _

/-- A dirty line that is found uncorrectable leaves its mark in memory. -/
theorem l1Poisoned_marks (s : State) (m : Nat) (l : L1Line) (pa : Nat) : pa / 128 ∈ (l1Poisoned s m l pa).poison := by
  unfold l1Poisoned
  dsimp only
  split
  · change _ ∈ (postErrorOpen _ _ _ _).poison
    rw [postErrorOpen_poison]
    exact mem_insertLine _ _
  · rw [postErrorOpen_poison]
    exact mem_insertLine _ _

/-- The flush of a poisoned dirty line marks the line of memory that its address translates to. -/
theorem l1Flush_marks {s : State} {k pid vln : Nat} {l : L1Line} {p : Page} (h : l1Find s k pid vln = some l) (hdirty : l.dirty ≠ 0)
    (hpoison : l.poison = true) (htranslate : (translate s (coreDie k) pid (128 * vln) .read).1 = .ok p) :
    p.pa / 128 ∈ (l1Flush s k pid vln).poison := by
  obtain ⟨rfl, rfl⟩ := l1Find_name h
  unfold l1Flush l1WriteBack
  rw [h]
  dsimp only
  rw [if_neg hdirty]
  cases hanswer : translate s (coreDie k) l.pid (128 * l.vln) .read with
  | mk r u =>
    rw [hanswer] at htranslate
    cases htranslate
    dsimp only
    rw [if_pos hpoison]
    exact l1Poisoned_marks u k l p.pa

theorem l1Replacement_absent {s : State} {k pid vln : Nat} (h : l1Find s k pid vln = none) (bad : Bool) :
    exec (.l1Replacement k pid vln bad) s = .next s := by
  change execL1Replacement k pid vln bad s = _
  rw [execL1Replacement, h]

theorem l1Replacement_leaves {s : State} {k pid vln : Nat} {l : L1Line} (h : l1Find s k pid vln = some l) (bad : Bool) :
    Ends (.l1Replacement k pid vln bad) s fun t : State => (∀ e ∈ (t.core k).l1, ¬(e.pid = pid ∧ e.vln = vln)) ∧ (l.dirty = 0 → t.mem = s.mem) ∧
      ∀ p u, l.dirty ≠ 0 → bad = true → translate s (coreDie k) pid (128 * vln) .read = (.ok p, u) → p.pa / 128 ∈ t.poison := by
  have hexec : exec (.l1Replacement k pid vln bad) s = .next (l1Flush (foundBad k l bad s) k pid vln) := by
    change execL1Replacement k pid vln bad s = _
    rw [execL1Replacement, h]
    rfl
  refine ⟨_, hexec, l1Flush_gone _ k pid vln, fun hdirty => ?_, fun p u hdirty hbad htranslate => ?_⟩
  · obtain ⟨e, he, hsame⟩ := l1Find_foundBad h bad
    rw [l1Flush_clean he (hsame.trans hdirty), foundBad]
    split <;> rfl
  · subst hbad
    obtain ⟨rfl, rfl⟩ := l1Find_name h
    have hsame : SameMem s (foundBad k l true s) := ⟨rfl, rfl, rfl, fun _ => rfl⟩
    refine l1Flush_marks (l1Find_l1Put s k { l with poison := true }) hdirty rfl ?_
    exact (hsame.translate _ _ _ _).trans (congrArg Prod.fst htranslate)

/-! ### Copies of an LLC (R348, R357, R363) -/

theorem get?_erase_same {α : Type} (m : SMap α) (k : Nat) : (m.erase k).get? k = none := by
  have hmap : (m.erase k).map (fun e => (e.1, some e.2)) = SMap.erase (m.map fun e => (e.1, some e.2)) k := by
    simp [SMap.erase, List.filter_map, Function.comp_def]
  rw [get?_eq_getD, hmap, SMap.getD_erase, if_pos rfl]

theorem homeMerge_llcCopy (s : State) (d ln m : Nat) (bits : LineBits) (mask : BitVec 128) :
    llcCopy (homeMerge s ln bits mask) d m = llcCopy s d m :=
  congrArg (SMap.get? · m) (homeMerge_llcCopies d s ln bits mask)

/-- A copy that is dropped is gone. -/
theorem llcCopy_llcDrop (s : State) (d ln : Nat) : llcCopy (llcDrop s d ln) d ln = none := by
  have herase : llcCopy (s.modDie d fun c => { c with llc := c.llc.erase ln }) d ln = none := by
    rw [llcCopy, State.modDie_die_same]
    exact get?_erase_same _ _
  unfold llcDrop
  split
  · assumption
  · dsimp only
    split
    · exact herase
    · split
      · exact (homeMerge_llcCopy _ _ _ _ _ _).trans herase
      · exact (homeMerge_llcCopy _ _ _ _ _ _).trans herase

/-- A poisoned dirty copy that is dropped leaves its mark in memory. -/
theorem llcDrop_marks {s : State} {d ln : Nat} {l : LlcLine} (hcopy : llcCopy s d ln = some l)
    (hfence : fencedFrom s d (homeDie (128 * ln)) = false) (hpoison : l.poison = true) (hdirty : l.dirty ≠ 0) : ln ∈ (llcDrop s d ln).poison := by
  have hboth : (l.poison && l.dirty != 0) = true := by rw [hpoison, Bool.true_and, bne_iff_ne]; exact hdirty
  unfold llcDrop
  rw [hcopy]
  dsimp only
  rw [hfence, if_neg Bool.noConfusion, if_pos hboth]
  exact mem_poisonLine _ _

section
variable {d ln : Nat} {s : State}

theorem llcReplacement_absent (h : llcCopy s d ln = none) : exec (.llcReplacement d ln false) s = .next s := by
  change execLlcReplacement d ln false s = _
  rw [execLlcReplacement, h]
  rfl

variable {l : LlcLine} (hcopy : llcCopy s d ln = some l)
include hcopy

theorem llcReplacement_drops : Ends (.llcReplacement d ln false) s fun t : State => llcCopy t d ln = none ∧
    (fencedFrom s d (homeDie (128 * ln)) = false → t.mem = writeMasked s.mem (128 * ln) l.bits l.dirty 128) := by
  have hexec : exec (.llcReplacement d ln false) s = .next (llcDrop s d ln) := by
    change execLlcReplacement d ln false s = _
    rw [execLlcReplacement, hcopy]
    rfl
  refine ⟨_, hexec, llcCopy_llcDrop s d ln, fun hfence => ?_⟩
  obtain ⟨u, hmem, hu⟩ := llcDrop_mem hcopy hfence
  rw [hmem, homeMerge_mem, hu]

theorem llcReplacement_marks (hdirty : l.dirty ≠ 0) (hfence : fencedFrom s d (homeDie (128 * ln)) = false) :
    Ends (.llcReplacement d ln true) s fun t : State => llcCopy t d ln = none ∧ ln ∈ t.poison := by
  generalize hu : (s.modDie d fun c => { c with llc := c.llc.put ln { l with poison := true } }) = u
  have hexec : exec (.llcReplacement d ln true) s = .next (postEdge d (homeStation (128 * ln)) 3 0x0F true true (some (128 * ln)) 10
      (homeStation (128 * ln)) (llcDrop u d ln)) := by
    have hboth : (true && l.dirty != 0) = true := by rw [Bool.true_and, bne_iff_ne]; exact hdirty
    change execLlcReplacement d ln true s = _
    rw [execLlcReplacement, hcopy, ← hu]
    dsimp only
    rw [if_pos hboth]
  have hcopy' : llcCopy u d ln = some { l with poison := true } := by
    rw [← hu, llcCopy, State.modDie_die_same]
    exact get?_put_same _ _ _
  have hfence' : fencedFrom u d (homeDie (128 * ln)) = false := by
    rw [← hu, fencedFrom, State.modDie_die_same]
    exact hfence
  refine ⟨_, hexec, ?_, ?_⟩
  · exact (postEdge_die (p := fun c : Die => c.llc.get? ln) _ _ _ _ _ _ _ _ _ _ (fun _ _ => rfl) d).trans (llcCopy_llcDrop u d ln)
  · rw [postEdge_poison]
    exact llcDrop_marks hcopy' hfence' rfl hdirty

end

end Sys2Proof.Proofs
end

section
/-! PROOFS. Walks, shootdowns and page migrations, and the settlement of O39 (R353 to R356, R436, R437). -/

namespace Sys2Proof.Proofs

open Sys2Proof Sys2Proof.Machine Sys2Proof.Claims

/-! ### Walks (R353, R354) -/

section
variable {d pid va : Nat} {s u : State} (hcold : ∀ e ∈ (s.die d).tlb, e.covers pid va = false)
include hcold

theorem tlb_cold : (s.die d).tlb.find? (fun e => e.covers pid va) = none :=
  List.find?_eq_none.2 fun e he => by rw [hcold e he]; exact Bool.noConfusion

/-- A walk caches its leaf where the station has room. -/
theorem translationWalk_caches {leaf level slot : Nat} {p : Page} (hwalk : walk s d pid va = (.ok (leaf, level, slot), u))
    (hleaf : leafAccess s.usable leaf level va .read = .ok p) (hroom : ((u.die d).tlb.filter fun e => e.station == stationOf va).length < 4096) :
    Ends (.translationWalk d pid va 0) s fun t : State =>
      (t.die d).tlb = (u.die d).tlb ++ [tlbEntry pid va leaf level] ∧ t.mem = u.mem ∧ t.ctxs = u.ctxs := by
  have htranslate : Machine.translate s d pid va .read =
      (.ok p, u.modDie d fun dd => { dd with tlb := dd.tlb ++ [tlbEntry pid va leaf level] }) := by
    unfold Machine.translate
    rw [tlb_cold hcold, hwalk]
    dsimp only
    rw [hleaf]
    dsimp only
    rw [if_pos hroom]
  refine ⟨_, congrArg (fun a : Except Nat Page × State => Host.Outcome.next a.2) htranslate, ?_, rfl, rfl⟩
  rw [State.modDie_die_same]

theorem translationWalk_fails {e acc : Nat} (hwalk : walk s d pid va = (.error e, u)) : exec (.translationWalk d pid va acc) s = .next u := by
  have htranslate : ∀ a, Machine.translate s d pid va a = (.error e, u) := fun a => by
    unfold Machine.translate
    rw [tlb_cold hcold, hwalk]
  exact congrArg (fun a : Except Nat Page × State => Host.Outcome.next a.2) (htranslate _)

end

/-! ### Shootdowns (R356) -/

/-- What is done to each of the two dies is done to one of them. -/
theorem bothDies_die (s : State) (g : Die → Die) {j : Nat} (hj : j < 2) :
    (([0, 1].foldl (fun u e => u.modDie e g) s).die j) = g (s.die j) := by
  obtain rfl | rfl : j = 0 ∨ j = 1 := by omega
  · exact (State.modDie_die_ne _ _ _ _ (by decide)).trans (State.modDie_die_same _ _ _)
  · exact (State.modDie_die_same _ _ _).trans (congrArg g (State.modDie_die_ne _ _ _ _ (by decide)))

/-- A shootdown leaves no cached leaf that it names. -/
theorem shootDown_tlb (w : Shoot) (s : State) {j : Nat} (hj : j < 2) :
    ∀ e ∈ ((shootDown w s).die j).tlb, ((e.glob || w.hasPid e.pid) && w.hasPages e.vpn e.pages) = false := by
  intro e he
  unfold shootDown at he
  rw [bothDies_die _ (fun dd => { dd with tlb := dd.tlb.filter fun e => !((e.glob || w.hasPid e.pid) && w.hasPages e.vpn e.pages) }) hj] at he
  simpa only [Bool.not_eq_true'] using (List.mem_filter.1 he).2

/-- The shootdown that a write of TINV asks for. -/
def shootOf (v : Word) (run : Nat) : Shoot :=
  ⟨if bitAt v 62 then none else some (fld v 49 12), if bitAt v 61 then none else some (fld v 0 40, run)⟩

theorem shootOf_hasPid (v : Word) (run pid : Nat) : (shootOf v run).hasPid pid = (bitAt v 62 || fld v 49 12 == pid) := by
  unfold shootOf Shoot.hasPid
  cases bitAt v 62 <;> rfl

theorem shootOf_hasPages (v : Word) (run p n : Nat) :
    (shootOf v run).hasPages p n = (bitAt v 61 || (decide (p < fld v 0 40 + run) && decide (fld v 0 40 < p + n))) := by
  unfold shootOf Shoot.hasPages
  cases bitAt v 61 <;> rfl

/-- The cached leaves that it names. -/
theorem shootOf_names {v : Word} {run : Nat} {e : TlbEntry}
    (h : ((e.glob || (shootOf v run).hasPid e.pid) && (shootOf v run).hasPages e.vpn e.pages) = false) :
    ¬((v.getLsbD 62 = true ∨ e.glob = true ∨ e.pid = v.toNat / 2 ^ 49 % 4096) ∧
      (v.getLsbD 61 = true ∨ (e.vpn < v.toNat % 2 ^ 40 + run ∧ v.toNat % 2 ^ 40 < e.vpn + e.pages))) := by
  have h49 : fld v 49 12 = v.toNat / 2 ^ 49 % 4096 := fld_eq v 49 12
  have h0 : fld v 0 40 = v.toNat % 2 ^ 40 := (fld_eq v 0 40).trans (by rw [Nat.pow_zero, Nat.div_one])
  intro ⟨hpid, hpages⟩
  have hhasPid : (e.glob || (shootOf v run).hasPid e.pid) = true := by
    rw [shootOf_hasPid, h49, Bool.or_eq_true, Bool.or_eq_true, beq_iff_eq]
    obtain hall | hglob | hp := hpid
    · exact .inr (.inl hall)
    · exact .inl hglob
    · exact .inr (.inr hp.symm)
  have hhasPages : (shootOf v run).hasPages e.vpn e.pages = true := by
    rw [shootOf_hasPages, h0, Bool.or_eq_true, Bool.and_eq_true, decide_eq_true_iff, decide_eq_true_iff]
    exact hpages
  rw [hhasPid, hhasPages] at h
  cases h

/-- A write of TINV, where no shootdown is in progress, is carried out at once. -/
theorem tinvWrite_shoots {d : Nat} {v : Word} {s : State} (h0 : (s.die 0).tinvBsy = false) (h1 : (s.die 1).tinvBsy = false) (hd : d < 2) :
    Ends (.tinvWrite d v) s fun t : State => (t.die d).tinvBsy = false ∧ ∀ j e, j < 2 → e ∈ (t.die j).tlb →
      ¬((v.getLsbD 62 = true ∨ e.glob = true ∨ e.pid = v.toNat / 2 ^ 49 % 4096) ∧
        (v.getLsbD 61 = true ∨ (e.vpn < v.toNat % 2 ^ 40 + ((s.die d).tinvLen + 1) ∧ v.toNat % 2 ^ 40 < e.vpn + e.pages))) := by
  generalize hu : startTinv d v s = u
  have hdie : u.die d = { s.die d with tinvBsy := true, tinvReq := v, tinvRun := (s.die d).tinvLen + 1 } := by
    rw [← hu, startTinv, h0, h1, if_neg (by decide)]
    exact bothDies_die s (fun dd => { dd with tinvBsy := true, tinvReq := v, tinvRun := (s.die d).tinvLen + 1 }) hd
  have hrun : runTinv d u = [0, 1].foldl (fun u e => u.modDie e fun dd => { dd with tinvBsy := false })
      (shootDown (shootOf v ((s.die d).tinvLen + 1)) u) := by
    unfold runTinv
    rw [hdie]
    rfl
  refine ⟨runTinv d u, by rw [← hu]; rfl, ?_, fun j e hj he => ?_⟩
  · rw [hrun, bothDies_die _ (fun dd => { dd with tinvBsy := false }) hd]
  · rw [hrun, bothDies_die _ (fun dd => { dd with tinvBsy := false }) hj] at he
    exact shootOf_names (shootDown_tlb _ u hj e he)

/-! ### Page migrations (R436, R437) -/

section
variable {d : Nat} {v : Word} {s : State} (hbusy : (s.die d).pmigBsy = false)
include hbusy

/-- The die of a write of PMIG that names no size. -/
theorem startPmig_none (hsz : v.toNat / 2 ^ 60 % 4 = 3) :
    (startPmig d v s).die d = { s.die d with pmigErr := (s.die d).pmigErr && !v.getLsbD 62 } := by
  have h60 : fld v 60 2 = 3 := (fld_eq v 60 2).trans hsz
  rw [startPmig, State.modDie_die_same]
  exact (if_neg (by rw [hbusy]; decide)).trans (if_pos h60)

/-- The die of a write of PMIG that starts a migration. -/
theorem startPmig_some (hsz : v.toNat / 2 ^ 60 % 4 ≠ 3) : (startPmig d v s).die d = { s.die d with
    pmigErr := (s.die d).pmigErr && !v.getLsbD 62, pmigBsy := true,
    pmig := some ⟨v.toNat / 2 ^ 60 % 4, v.toNat / 2 ^ 48 % 4096, v.toNat % 2 ^ 40⟩ } := by
  have h60 : fld v 60 2 = v.toNat / 2 ^ 60 % 4 := fld_eq v 60 2
  have h48 : fld v 48 12 = v.toNat / 2 ^ 48 % 4096 := fld_eq v 48 12
  have h0 : fld v 0 40 = v.toNat % 2 ^ 40 := (fld_eq v 0 40).trans (by rw [Nat.pow_zero, Nat.div_one])
  rw [startPmig, State.modDie_die_same]
  refine (if_neg (by rw [hbusy]; decide)).trans ((if_neg (by rw [h60]; exact hsz)).trans ?_)
  rw [h60, h48, h0]
  rfl

theorem pageMigration_none (hidle : (s.die d).pmig = none) (hsz : v.toNat / 2 ^ 60 % 4 = 3) : Ends (.pageMigration d v) s fun t : State =>
    t.mem = s.mem ∧ (t.die d).pmigErr = ((s.die d).pmigErr && !v.getLsbD 62) ∧ (t.die d).pmig = none := by
  have hdie := startPmig_none hbusy hsz
  have hrun : runPmig d (startPmig d v s) = startPmig d v s := by
    unfold runPmig
    rw [hdie]
    dsimp only
    rw [hidle]
  refine ⟨_, congrArg Host.Outcome.next hrun, rfl, ?_, ?_⟩
  · rw [hdie]
  · rw [hdie]
    exact hidle

end

/-- A migration that fails sets ERR and is over. -/
theorem endPmig_err (d : Nat) (s : State) : ((endPmig d true s).die d).pmigErr = true ∧ ((endPmig d true s).die d).pmigBsy = false := by
  rw [endPmig, State.modDie_die_same]
  exact ⟨Bool.or_true _, rfl⟩

section
variable {d : Nat} {s : State} {m : Pmig} (hm : (s.die d).pmig = some m)
include hm

/-- A migration whose walk fails, or finds a leaf of another level. -/
theorem runPmig_fails {r : Except Nat (Nat × Nat × Nat)} {u : State} (hwalk : walk s d m.pid (8192 * m.vpn / pageBytes m.sz * pageBytes m.sz) = (r, u))
    (hr : ∀ leaf level slot, r = .ok (leaf, level, slot) → level ≠ m.sz) : ∃ t, runPmig d s = endPmig d true t := by
  unfold runPmig
  rw [hm]
  dsimp only
  rw [hwalk]
  match r with
  | .error _ => exact ⟨_, rfl⟩
  | .ok (leaf, level, slot) =>
    cases (walkRead u d (s.die d).pmigSlot.toNat).1 with
    | error _ => exact ⟨_, rfl⟩
    | ok new => exact ⟨_, if_pos (Or.inl (hr leaf level slot rfl))⟩

/-- A migration that succeeds: the new leaf is written, and all before leaves the die's ERR. -/
theorem runPmig_done {leaf slot new : Nat} {u w : State}
    (hwalk : walk s d m.pid (8192 * m.vpn / pageBytes m.sz * pageBytes m.sz) = (.ok (leaf, m.sz, slot), u))
    (hslot : walkRead u d (s.die d).pmigSlot.toNat = (.ok new, w))
    (hdst : (s.die d).pmigDst.toNat / pageBytes m.sz * pageBytes m.sz + pageBytes m.sz ≤ s.usable)
    (hsrc : natBits leaf 11 27 * 2048 + pageBytes m.sz ≤ s.usable) (hf0 : fencedFrom s d 0 = false) (hf1 : fencedFrom s d 1 = false) :
    ∃ t : State, runPmig d s = endPmig d false (homeWrite t slot 8 new) ∧ pmigErrOf d t = pmigErrOf d s := by
  have hgoes : ¬(m.sz ≠ m.sz ∨ s.usable < (s.die d).pmigDst.toNat / pageBytes m.sz * pageBytes m.sz + pageBytes m.sz ∨
      s.usable < natBits leaf 11 27 * 2048 + pageBytes m.sz ∨ fencedFrom s d 0 = true ∨ fencedFrom s d 1 = true) := by
    rw [hf0, hf1]
    simp only [ne_eq, not_true_eq_false, Bool.false_eq_true, or_false, false_or]
    omega
  have hw : pmigErrOf d w = pmigErrOf d s :=
    (keeps_of_answer hslot (walkRead_tended (tended_pmigErr d) u d _)).trans (keeps_of_answer hwalk (walk_tended (tended_pmigErr d) s d _ _))
  unfold runPmig
  rw [hm]
  dsimp only
  rw [hwalk, hslot]
  dsimp only
  rw [if_neg hgoes]
  refine ⟨_, rfl, ?_⟩
  refine (moveWaiters_tended (tended_pmigErr d) _ _ _ _).trans ?_
  have hdropped : ∀ (v : State) (keep : Nat → Bool), pmigErrOf d ([0, 1].foldl (fun t e =>
      ((llcLines t e).filter keep).foldl (fun u l => llcDrop u e l) t) v) = pmigErrOf d v := fun v keep =>
    foldl_keeps (pmigErrOf d) _ (fun t e => foldl_keeps (pmigErrOf d) _ (fun t l => llcDrop_tended (tended_pmigErr d) t e l) _ _) _ _
  split
  · exact (hdropped _ _).trans ((shootDown_tended (tended_pmigErr d) _ _).trans hw)
  · exact (copyPage_tended (tended_pmigErr d) _ _ _ _).trans ((hdropped _ _).trans ((shootDown_tended (tended_pmigErr d) _ _).trans hw))

end

section
variable {d : Nat} {v : Word} {s : State} (hbusy : (s.die d).pmigBsy = false) (hsz : v.toNat / 2 ^ 60 % 4 ≠ 3)
include hbusy hsz

theorem startPmig_asked : ((startPmig d v s).die d).pmig = some ⟨v.toNat / 2 ^ 60 % 4, v.toNat / 2 ^ 48 % 4096, v.toNat % 2 ^ 40⟩ := by
  rw [startPmig_some hbusy hsz]

/-- A migration whose page has no leaf, or one of another level, sets ERR. -/
theorem pageMigration_fails {r : Except Nat (Nat × Nat × Nat)} {u : State}
    (hwalk : walk (startPmig d v s) d (v.toNat / 2 ^ 48 % 4096) (8192 * (v.toNat % 2 ^ 40) / 2 ^ levelShift (v.toNat / 2 ^ 60 % 4) *
      2 ^ levelShift (v.toNat / 2 ^ 60 % 4)) = (r, u)) (hr : ∀ leaf level slot, r = .ok (leaf, level, slot) → level ≠ v.toNat / 2 ^ 60 % 4) :
    Ends (.pageMigration d v) s fun t : State => (t.die d).pmigErr = true ∧ (t.die d).pmigBsy = false := by
  obtain ⟨t, ht⟩ := runPmig_fails (startPmig_asked hbusy hsz) hwalk hr
  exact ⟨_, congrArg Host.Outcome.next ht, endPmig_err d t⟩

/-- A migration of a page to where there is memory for it writes the new leaf. -/
theorem pageMigration_done {slot leaf new : Nat} {u w : State}
    (hwalk : walk (startPmig d v s) d (v.toNat / 2 ^ 48 % 4096) (8192 * (v.toNat % 2 ^ 40) / 2 ^ levelShift (v.toNat / 2 ^ 60 % 4) *
      2 ^ levelShift (v.toNat / 2 ^ 60 % 4)) = (.ok (leaf, v.toNat / 2 ^ 60 % 4, slot), u))
    (hslot : walkRead u d (s.die d).pmigSlot.toNat = (.ok new, w))
    (hdst : (s.die d).pmigDst.toNat / 2 ^ levelShift (v.toNat / 2 ^ 60 % 4) * 2 ^ levelShift (v.toNat / 2 ^ 60 % 4) +
      2 ^ levelShift (v.toNat / 2 ^ 60 % 4) ≤ s.usable)
    (hsrc : leaf / 2 ^ 11 % 2 ^ 27 * 2048 + 2 ^ levelShift (v.toNat / 2 ^ 60 % 4) ≤ s.usable)
    (hf0 : fencedFrom s d 0 = false) (hf1 : fencedFrom s d 1 = false) : Ends (.pageMigration d v) s fun t : State =>
      memRead t.mem slot 8 = new % 2 ^ 64 ∧ (t.die d).pmigErr = ((s.die d).pmigErr && !v.getLsbD 62) ∧ (t.die d).pmigBsy = false := by
  have hdie := startPmig_some hbusy hsz
  have hfence : ∀ e, fencedFrom (startPmig d v s) d e = fencedFrom s d e := fun e => by rw [fencedFrom, hdie, fencedFrom]
  have hsrc' : natBits leaf 11 27 * 2048 + 2 ^ levelShift (v.toNat / 2 ^ 60 % 4) ≤ s.usable := by
    rw [natBits, Nat.shiftRight_eq_div_pow]
    exact hsrc
  obtain ⟨t, ht, herr⟩ := runPmig_done (startPmig_asked hbusy hsz) hwalk (by rw [hdie]; exact hslot) (by rw [hdie]; exact hdst) hsrc'
    ((hfence 0).trans hf0) ((hfence 1).trans hf1)
  refine ⟨_, congrArg Host.Outcome.next ht, memRead_homeWrite t slot 8 new, ?_, ?_⟩
  · rw [endPmig, State.modDie_die_same]
    dsimp only
    rw [Bool.or_false]
    refine ((homeWrite_tended (tended_pmigErr d) t slot 8 new).trans herr).trans ?_
    rw [pmigErrOf, hdie]
  · rw [endPmig, State.modDie_die_same]

end

/-! ### The statement -/

theorem memoryAndTranslationUpkeep : Claims.MemoryAndTranslationUpkeep := by
  intro k pid vln d ln va n b v w1 w2 w3 w5 s
  refine ⟨fun h bad => l1Replacement_absent h bad, fun l bad h => l1Replacement_leaves h bad,
    fun l h => ⟨llcReplacement_drops h, llcReplacement_marks h⟩, llcReplacement_absent,
    fun leaf level slot p u hcold hwalk hleaf hroom => translationWalk_caches hcold hwalk hleaf hroom,
    fun e acc u hwalk hcold => translationWalk_fails hcold hwalk, fun h0 h1 hd => tinvWrite_shoots h0 h1 hd,
    fun hbusy hidle => ⟨pageMigration_none hbusy hidle, fun e u hsz hwalk => ?_, fun leaf level slot u hsz hwalk hlevel => ?_,
      fun slot leaf new u w hsz hwalk hslot hdst hsrc hf0 hf1 => ?_⟩,
    cmapWrite_writes d n v s, cmapWrite_outside d n v s, mapApply_idle, fun hlaunch hpend => ⟨fun p hp hfree => ?_, fun hcover hd => ?_⟩,
    fun hbad hin => ⟨patrolScrub_reads hbad hin 0, patrolScrub_corrected hbad hin, patrolScrub_marks hbad hin⟩,
    patrolScrub_poisoned, errorRecordApply_loads, errorRecordApply_clears,
    fun hb hd hfree v1 v2 a1 a2 s2 hr1 hr2 ht1 ht2 => errorRecordApply_two hb hd hfree a1 a2 s2 hr1 hr2 ht1 ht2,
    fun hb => if_pos (Or.inl hb), unitError_slot n b s, unitError_accumulator n b s, unitError_q n b s, unitError_shape n b s,
    unitError_word n k s, unitError_isq n b s, fun hva => ?_⟩
  · exact pageMigration_fails hbusy hsz hwalk fun _ _ _ h => by cases h
  · exact pageMigration_fails hbusy hsz hwalk fun _ _ _ h => by cases h; exact hlevel
  · exact pageMigration_done hbusy hsz hwalk hslot hdst hsrc hf0 hf1
  · exact mapApply_refused hlaunch hpend hp hfree
  · exact ⟨_, mapApply_applies hlaunch hpend hcover, fun m hm => applyMap_cmap hm,
      fun m j i hm hj hi hplace honly => applyMap_core hm hj hi hplace honly⟩
  · obtain ⟨c, rfl⟩ : ∃ c, va = c + 13 := ⟨va - 13, by omega⟩
    rfl

/-- Settles O39: the replays of links, and the upkeep of lines, leaves, pages, the cluster map and the banks, each through its own step. -/
theorem linksMemoryAndTranslationUpkeep : Obligations.LinksMemoryAndTranslationUpkeep := ⟨linkReplays, memoryAndTranslationUpkeep⟩

end Sys2Proof.Proofs
end
